-- ==== Sys2Proof/Word.lean ====
section
/-! DEFINITION. The word types, bit fields, and the sparse map that holds register files and tables. -/

namespace Sys2Proof

abbrev Byte := BitVec 8
/-- A scalar register's contents (R54). -/
abbrev Word := BitVec 64

/-- Bits `hi..lo` of `w` as a number (R4: `x<h:l>`). -/
def fld {n : Nat} (w : BitVec n) (hi lo : Nat) : Nat := (w.toNat >>> lo) % 2 ^ (hi - lo + 1)

/-- One bit of `w` (R4). -/
def bitAt {n : Nat} (w : BitVec n) (i : Nat) : Bool := w.toNat.testBit i

/-- `w` with bits `hi..lo` replaced by the low bits of `v` (R5: a write of one field). -/
def setFld {n : Nat} (w : BitVec n) (hi lo v : Nat) : BitVec n :=
  let k := hi - lo + 1
  let m := BitVec.ofNat n ((2 ^ k - 1) <<< lo)
  (w &&& ~~~m) ||| BitVec.ofNat n ((v % 2 ^ k) <<< lo)

def setBit {n : Nat} (w : BitVec n) (i : Nat) (b : Bool) : BitVec n := setFld w i i b.toNat

/-- The low `k` bits of `v` read as a two's-complement number. -/
def sextNat (k v : Nat) : Int :=
  let m := v % 2 ^ k
  if k = 0 then 0 else if m < 2 ^ (k - 1) then (m : Int) else (m : Int) - 2 ^ k

/-- A number reduced modulo 2^64. -/
def wordOfInt (i : Int) : Word := BitVec.ofInt 64 i

/-- The sign extension of the low `k` bits of `v` to a word. -/
def sextWord (k v : Nat) : Word := wordOfInt (sextNat k v)

/-- The byte `i` of a little-endian value (R4). -/
def byteOf (v i : Nat) : Byte := BitVec.ofNat 8 (v >>> (8 * i))

/-- The little-endian value of a list of bytes, lowest address first (R4). -/
def leValue : List Byte → Nat
  | [] => 0
  | b :: bs => b.toNat + 256 * leValue bs

/-- The `n` bytes of a value, lowest address first (R4). -/
def leBytes : Nat → Nat → List Byte
  | 0, _ => []
  | n + 1, v => BitVec.ofNat 8 v :: leBytes n (v >>> 8)

def ceilDiv (a b : Nat) : Nat := (a + b - 1) / b

/-- A sparse table by number: sorted by key, each key once. An absent key reads as the default its
reader names. -/
abbrev SMap (α : Type) := List (Nat × α)

namespace SMap
variable {α : Type}

def get (m : SMap α) (d : α) (n : Nat) : α :=
  match m with
  | [] => d
  | (k, v) :: r => if k = n then v else SMap.get r d n

def get? (m : SMap α) (n : Nat) : Option α :=
  match m with
  | [] => none
  | (k, v) :: r => if k = n then some v else SMap.get? r n

def set (m : SMap α) (n : Nat) (a : α) : SMap α :=
  match m with
  | [] => [(n, a)]
  | (k, v) :: r =>
    if n < k then (n, a) :: (k, v) :: r
    else if n = k then (n, a) :: r
    else (k, v) :: SMap.set r n a

def del (m : SMap α) (n : Nat) : SMap α := List.filter (fun p => decide (p.1 ≠ n)) m

def upd (m : SMap α) (d : α) (n : Nat) (f : α → α) : SMap α := SMap.set m n (f (SMap.get m d n))

def mapVals (m : SMap α) (f : Nat → α → α) : SMap α := List.map (fun p => (p.1, f p.1 p.2)) m

def keys (m : SMap α) : List Nat := List.map Prod.fst m

end SMap

/-- The first element that satisfies `p` and is best under `better` (the earlier one on a tie). -/
def bestBy {α : Type} (better : α → α → Bool) : List α → Option α
  | [] => none
  | a :: r =>
    match bestBy better r with
    | none => some a
    | some b => if better b a then some b else some a

/-- Insertion into a sorted list, behind equal elements. -/
def insertBy {α : Type} (lt : α → α → Bool) (a : α) : List α → List α
  | [] => [a]
  | b :: r => if lt a b then a :: b :: r else b :: insertBy lt a r

/-- A stable sort by structural recursion. -/
def sortBy {α : Type} (lt : α → α → Bool) : List α → List α
  | [] => []
  | a :: r => insertBy (fun x y => !(lt y x)) a (sortBy lt r)

end Sys2Proof
end

