-- ==== Sys2Proof/Config.lean ====
section
/-! DEFINITION. What the spec leaves to what is attached to the package or to keys it does not give:
opaque constants, of which no value can be proved. -/

namespace Sys2Proof.Config

/-- Words the spec leaves open, one for each value of the state's counter `stamp`. -/
opaque openWord : Nat → BitVec 64

/-- Vector registers the spec leaves open, one for each value of the state's counter. -/
opaque openReg : Nat → BitVec 4096

/-- Doubleword `j` of a ring head with a first and last slot and a count, whose places in its 16 bytes the spec does not give (R279). -/
opaque ringHead (first last count j : Nat) : BitVec 64

/-- Doubleword `i` of the line at QBASE + 0x4000, of which the spec names the contents only: NEXTID, free pool slots, running
strands, reserved slots (R279). -/
opaque queueLine (nextId free running reserved i : Nat) : BitVec 64

/-- The next slot or cell that the last link of a chain holds (R279, R303), and the bits 63:20 of a link's doubleword. -/
opaque lastLink : BitVec 20
opaque linkRest : BitVec 44

/-- Doubleword `i` of the parts of a spill area whose inner layout the spec does not give (R288). -/
opaque openSpill (k i : Nat) : BitVec 64

/-- The capacity in 4 KiB pages (R20) of the expander behind a CXL port (R25, R30). -/
opaque cxlPages : Nat → Nat

/-- Whether the host completes a request at a host physical address, rather than answering Unsupported
Request or Completer Abort (R25). -/
opaque hostAnswers : Nat → Bool

/-- Whether the host completes an AtomicOp at a host physical address: 0 add, 1 swap, 2 CAS (R393, R394). -/
opaque hostAtomic : Nat → Nat → Bool

/-- The vendor key fused into the package, X above Y (R427). -/
opaque vendorKey : BitVec 768

/-- The device's identity key, and the nonces of its signatures, one for each value of the state's counter (R428). -/
opaque identitySecret : BitVec 384
opaque signNonce : Nat → BitVec 384

/-- The digests and the floors of the firmware a package leaves the factory with (R427, R428). -/
opaque factoryDigest : Nat → BitVec 384
opaque factoryFloor : Nat → BitVec 32

end Sys2Proof.Config
end

