-- ==== Sys2Proof/Syntax.lean ====
section
/-! DEFINITION. The instruction set and the events of the J4: `Instr`, one constructor per row of
the opcode table. Instructions carry their operand fields (R50, R55, the entries); events carry
what the outside world supplies. -/

namespace Sys2Proof

/-- A 6-bit register field (R50). -/
abbrev Reg := BitVec 6
/-- A 3-bit predicate field (R54). -/
abbrev QReg := BitVec 3
/-- A 5-bit vector register field of the vector form (R166). -/
abbrev VReg := BitVec 5

/-- Integer element types, codes 0 to 7 (R55). -/
inductive IType | s8 | s16 | s32 | s64 | n8 | n16 | n32 | n64
  deriving DecidableEq, Repr

/-- Scalar float formats (R56). -/
inductive FFmt | f64 | f32 | f16 | bf16
  deriving DecidableEq, Repr

/-- Vector float types, codes 9 to 11 (R167). -/
inductive VFmt | f32 | f16 | bf16
  deriving DecidableEq, Repr

/-- All element types, codes 0 to 15 (R55). -/
inductive EType
  | int (t : IType) | f64 | f32 | f16 | bf16 | e4m3 | e5m2 | e2m1 | tbl8
  deriving DecidableEq, Repr

/-- Types of vector arithmetic: 0 to 7 and 9 to 11 (R167). -/
inductive VType | int (t : IType) | flt (f : VFmt)
  deriving DecidableEq, Repr

/-- Matrix operand types, codes 10 to 15 (R199). -/
inductive MType | f16 | bf16 | e4m3 | e5m2 | e2m1 | tbl8
  deriving DecidableEq, Repr

/-- Rounding codes 000 to 100 (R55). -/
inductive Rnd | rne | rtz | rup | rdn | sr
  deriving DecidableEq, Repr

/-- Compare conditions (R105, R111). -/
inductive Cond | eq | ne | lt | le | gt | ge | un
  deriving DecidableEq, Repr

inductive Size | b | h | w | d
  deriving DecidableEq, Repr

/-- Orderings a memory access may carry (R55). -/
inductive MemOrd | none | acq | rel | ar
  deriving DecidableEq, Repr

inductive FenceOrd | acq | rel | ar | sc | eng
  deriving DecidableEq, Repr

inductive Scope | core | quad | die | pkg | sys
  deriving DecidableEq, Repr

/-- Load kinds (R52). -/
inductive LdKind | b | h | w | d | bsx | hsx | wsx
  deriving DecidableEq, Repr

/-- A C-MEM operand: disp7, or the extended memory literal in displacement or index form (R52). -/
inductive MemOp
  | short (base : Reg) (disp : BitVec 7)
  | ext (base : Reg) (ord : MemOrd) (scope : Scope) (disp : BitVec 25)
  | idx (base : Reg) (ord : MemOrd) (scope : Scope) (index : Reg) (sc : BitVec 2) (disp : BitVec 17)
  deriving DecidableEq, Repr

/-- A branch offset in bundles: offset18 or the literal (R53). -/
inductive BrOff | near (o : BitVec 18) | far (o : BitVec 32)
  deriving DecidableEq, Repr

/-- JMP's displacement in bytes: imm10 or the literal (R101). -/
inductive JDisp | near (o : BitVec 10) | far (o : BitVec 32)
  deriving DecidableEq, Repr

/-- MACRO's entry number: mod, or literal bits 5:0 (R104). -/
inductive MacroSel | near (e : BitVec 4) | far (e : BitVec 6)
  deriving DecidableEq, Repr

inductive FlushLevel | core | stash | slice
  deriving DecidableEq, Repr

inductive AmoOp | add | and | or | xor | min | max | swap
  deriving DecidableEq, Repr

/-- The ordering, token and displacement of the atomic control word (R147's chapter). -/
structure AtomCtl where
  ord : MemOrd
  scope : Scope
  tok : Option Reg
  disp : BitVec 10
  deriving DecidableEq, Repr

inductive RecvCh | rq | mb (m : BitVec 3)
  deriving DecidableEq, Repr

/-- Level bindings (R354). -/
inductive Bind | l0 | l1 | l2 | l3 | crown | unbound
  deriving DecidableEq, Repr

/-- SPAWN's entry: a register, or a label's offset in bundles (R212's entry). -/
inductive SpawnTo | reg (b : Reg) | label (o : BitVec 32)
  deriving DecidableEq, Repr

inductive PercSel | y | w | cnt
  deriving DecidableEq, Repr

inductive XlatKind | read | write | fetch | atomic | engine
  deriving DecidableEq, Repr

inductive BitOp | popc | clz | ctz | rev
  deriving DecidableEq, Repr

inductive LogOp | and | or | xor | andn | not
  deriving DecidableEq, Repr

inductive RedOp | add | min | max
  deriving DecidableEq, Repr

inductive SfuFn | exp2 | log2 | rcp | rsq | sqrt | sin | cos | tanh
  deriving DecidableEq, Repr

/-- VADD, VSUB, VMUL: an integer type with its saturation bit, or a float type with its rounding (R167). -/
inductive VArith | int (t : IType) (sat : Bool) | flt (f : VFmt) (r : Rnd)
  deriving DecidableEq, Repr

/-- VSH's amount: a vector register or an immediate (R167). -/
inductive ShAmt | reg (b : VReg) | imm (k : BitVec 4)
  deriving DecidableEq, Repr

/-- VDOT's type; only float types take a rounding (R167). -/
inductive VDotT | int (t : IType) | flt (f : VFmt) (r : Rnd)
  deriving DecidableEq, Repr

inductive MewOp | add | mul | max | relu
  deriving DecidableEq, Repr

/-- MCVT's overflow field: the context's OVR, .sat or .inf (R199). -/
inductive McvtOvf | ctx | sat | inf
  deriving DecidableEq, Repr

/-! Arguments of the events. -/

/-- The unit an uncontained error is in (R418). -/
inductive FailUnit
  | mxu (cluster : Nat)
  | slice (ctx : Nat) (blocks : List Nat) (pa : Nat)
  | router (ctxs : List Nat)
  | bridge
  | hostPort
  deriving DecidableEq, Repr

/-- Which store moves: a core's oldest store-buffer entry passes its die's order point, or entry
`i` of those that passed it is performed at its home (R232, R233). -/
inductive StoreSrc | orderPoint (g : Nat) | home (die i : Nat)
  deriving DecidableEq, Repr

/-- A spill queue that drains (R305): a core's for a context, or a mailbox's. -/
inductive SpillRef | core (g ctx : Nat) | mailbox (ctx m : Nat)
  deriving DecidableEq, Repr

/-- Why a core is contained (R413, R416). -/
inductive FailReason | uncorrectable | doubleTrap | pairPartner | selfTest
  deriving DecidableEq, Repr

/-- What the sensors give a budget division (R395): energy per die and rail in nJ over the interval,
rail energy per region, and region temperatures in 1/64 °C, regions numbered as R401. -/
structure DivInput where
  energy : List (List Nat)
  regionEnergy : List (List Nat)
  temp : List (List Int)
  deriving DecidableEq, Repr

/-- A token of a fabric graph (R386). A fault token carries its cause. -/
structure Token where
  seq : Nat
  elems : List Nat
  scale : Nat
  fault : Option Nat
  deriving DecidableEq, Repr

inductive Instr
  -- the C slot (R58)
  | nop
  | litx (d a : Reg) (lit : BitVec 32)
  | bra (q : QReg) (sense : Bool) (off : BrOff)
  | jmp (d a : Reg) (disp : JDisp)
  | call (q : QReg) (sense : Bool) (off : BrOff)
  | ret (a : Reg)
  | loop (a : Reg) (n : BitVec 10)
  | runMacro (d a b : Reg) (e : MacroSel)
  | ld (d : Reg) (k : LdKind) (m : MemOp)
  | st (d : Reg) (z : Size) (m : MemOp)
  | ldp (d : Reg) (dbl : Bool) (m : MemOp)
  | stp (d : Reg) (dbl : Bool) (m : MemOp)
  | pref (k : BitVec 2) (m : MemOp)
  | cflush (k : FlushLevel) (m : MemOp)
  | vld (d : Reg) (row : Bool) (m : MemOp)
  | vst (d : Reg) (m : MemOp)
  | vgath (d a b : Reg) (sc : BitVec 2)
  | vscat (d a b : Reg) (sc : BitVec 2)
  | tld (d : Reg) (sc : Bool) (m : MemOp)
  | tst (d : Reg) (m : MemOp)
  | amo (d a b : Reg) (t : IType) (op : AmoOp) (c : AtomCtl)
  | cas (d a b : Reg) (t : IType) (c : Option AtomCtl)
  | fence (o : FenceOrd) (sc : Scope)
  | sbind (d : Reg) (m : MemOp)
  | sdrop (d : Reg)
  | acopy (d a b : Reg) (c : BitVec 2)
  | chwait (d : Reg) (c : BitVec 2)
  | bar (q : QReg) (dom : BitVec 5)
  | sstep (q : QReg) (dom : BitVec 5)
  | send (d a : Reg) (n : BitVec 3)
  | recv (d a : Reg) (q : QReg) (ch : RecvCh)
  | recvAcc (d a : Reg) (q : QReg) (t : VType)
  | xchg (d a : Reg) (q : QReg) (mask : BitVec 4)
  | restrUp (lv a : Reg)
  | restrTake (lv a : Reg) (q : QReg) (mask : BitVec 4)
  | prolgDown (lv a : Reg) (mask : BitVec 4)
  | prolgTake (lv a : Reg) (q : QReg)
  | wload (lv : Reg) (rep : Bool) (m : MemOp)
  | cyc (lv : Reg) (b : Bind)
  | spawn (d a : Reg) (e : SpawnTo) (mask : BitVec 4)
  | susp (a : Reg)
  | exit
  | waitc (d a : Reg)
  | cancel (a : Reg) (force : Bool)
  | pairOn
  | pairOff
  | ppatch (m : MemOp)
  | pstep (d a b : Reg) (lanes : Bool)
  | psave (m : MemOp)
  | prest (m : MemOp)
  | pset (a b : Reg) (w : Bool)
  | pget (d b : Reg) (sel : PercSel)
  | snap (q : QReg) (a : Reg)
  | genq (d : Reg) (item : BitVec 2)
  | bias (d a : Reg) (dev : Bool)
  | tlbiVa (a : Reg)
  | tlbiAll
  | fmtld (m : MemOp)
  | trap (imm : BitVec 10)
  | rft
  | csrr (d : Reg) (n : BitVec 10)
  | csrw (d a : Reg) (n : BitVec 10)
  | dbrk (imm : BitVec 10)
  | acctCtx (d : Reg) (layer : BitVec 2) (cause : BitVec 4)
  | acctCore (d : Reg) (cause : BitVec 4)
  | acctMark (a : Reg)
  | telem (d : Reg) (item : BitVec 3)
  | mode (m : BitVec 2)
  | modeMe (e : Bool)
  | xlat (d a : Reg) (k : XlatKind)
  | icsync
  | prio (d a : Reg) (imm : BitVec 7)
  -- the A slot (R59)
  | anop
  | movi (d : Reg) (imm : BitVec 16) (half : Bool)
  | add (d a b : Reg) (sat : Bool) (t : IType)
  | sub (d a b : Reg) (sat : Bool) (t : IType)
  | mul (d a b : Reg) (sat : Bool) (t : IType)
  | mulh (d a b : Reg) (t : IType)
  | div (d a b : Reg) (t : IType)
  | and (d a b : Reg)
  | or (d a b : Reg)
  | xor (d a b : Reg)
  | shl (d a b : Reg) (k : BitVec 5)
  | shr (d a b : Reg) (t : IType)
  | min (d a b : Reg) (t : IType)
  | max (d a b : Reg) (t : IType)
  | cmp (c : Cond) (q : QReg) (a b : Reg) (t : IType)
  | sel (d a b : Reg) (sense : Bool) (q : QReg)
  | bits (d a : Reg) (op : BitOp)
  | bfx (d a b : Reg)
  | pred (q : QReg) (a b : Reg) (inv : Bool)
  | lea (d a : Reg) (imm : BitVec 11)
  | fadd (d a b : Reg) (f : FFmt) (r : Rnd)
  | fmul (d a b : Reg) (f : FFmt) (r : Rnd)
  | ffma (d a b : Reg) (f : FFmt) (r : Rnd)
  | fdiv (d a b : Reg) (f : FFmt) (r : Rnd)
  | fcmp (c : Cond) (q : QReg) (a b : Reg) (f : FFmt)
  | fcvt (d a : Reg) (ovf : Bool) (sf df : FFmt) (r : Rnd)
  | fmnx (d a b : Reg) (f : FFmt) (mx : Bool)
  | vadd (d a b : VReg) (t : VArith)
  | vsub (d a b : VReg) (t : VArith)
  | vmul (d a b : VReg) (t : VArith)
  | vfma (d a b : VReg) (f : VFmt) (r : Rnd)
  | vmin (d a b : VReg) (t : VType)
  | vmax (d a b : VReg) (t : VType)
  | vlog (d a b : VReg) (op : LogOp)
  | vsh (d a : VReg) (amt : ShAmt) (right : Bool)
  | vcmp (d a b : VReg) (t : VType) (c : Cond)
  | vsel (d a b : VReg)
  | vred (d a : VReg) (op : RedOp) (col : Bool) (t : VType) (r : Rnd)
  | vscan (d a : VReg) (op : RedOp) (col : Bool) (t : VType) (r : Rnd)
  | vperm (d a b : VReg)
  | vcvt (d a : VReg) (dt st : EType) (scaled : Bool) (r : Rnd) (ovf : Bool)
  | vsfu (d a : VReg) (fn : SfuFn) (f : VFmt)
  | vmov (d a b : Reg) (mode : BitVec 2)
  | venc (d a : VReg) (ovf : Bool)
  | vdec (d a : VReg)
  | viota (d a b : Reg) (t : IType)
  | vrep (nb : BitVec 4) (a : Reg) (imm : BitVec 11)
  | mfmt (ta tb : MType) (sa sb ovr : Bool)
  | mma (d a b : Reg) (r : Rnd)
  | mmas (d a b : Reg) (r : Rnd)
  | mdist (d a b : Reg) (r : Rnd)
  | mtopk (d a b : Reg) (largest : Bool)
  | mzero (d : Reg) (tile : Bool)
  | mopen (d : Reg)
  | mclose (d : Reg)
  | mtran (d a : Reg)
  | mcvt (d a : Reg) (t : EType) (scaled : Bool) (ovf : McvtOvf) (r : Rnd)
  | mew (d a : Reg) (op : MewOp) (bcast : Bool) (r : Rnd)
  | mwait (d : Reg) (named : Bool)
  | vclmp (d a b : Reg) (t : VType)
  | vabs (d a : VReg) (t : VType)
  | vbits (d a : VReg) (op : BitOp)
  | vdot (d a b : VReg) (t : VDotT)
  | hash (d a b : Reg)
  -- contexts, strands and the dispenser (11, 12)
  | ctxCreate (n : BitVec 12)
  | ctxStart (n : BitVec 12)
  | ctxStop (n : BitVec 12)
  | ctxDestroy (n : BitVec 12)
  | addressSpaceTeardown (u : FailUnit)
  | teardownComplete (n : BitVec 12)
  | dispatch (die layer : Nat)
  | affinityWindowExpiry (rid : Nat)
  | agingPromotion (rid : Nat)
  | sleepWake (rid : Nat)
  | preemption (g : Nat)
  | armg (d : Reg)
  | armp (d : Reg)
  | asyncTrapTake (g : Nat)
  | strandWatchdogExpiry (g : Nat)
  -- barriers, queues, pairs (13, 14)
  | barrierWatchdogExpiry (die dom : Nat)
  | barrierArrival (g : Nat)
  | barrierRelease (die dom : Nat)
  | spilltoExpiry (g : Nat)
  | diversionCellGrant (g : Nat)
  | recvTimeout (g : Nat)
  | packetArrival (g i : Nat)
  | interlayerEntryArrival (g i : Nat)
  | spillQueueDrain (q : SpillRef)
  | hostDoorbell (ctx : BitVec 12) (mb : BitVec 3) (msg : BitVec 512)
  | pairClaimComplete (g : Nat)
  | pairExchange (g : Nat) (odd : Word)
  -- memory, engines, queues of the units (06, 07, 08, 10)
  | storePerform (src : StoreSrc)
  | loadComplete (g i : Nat)
  | atomicResponse (g i : Nat)
  | copyEngineGrant (g : Nat)
  | vectorBeatGrant (quad group : Nat)
  | streamPortGrant (quad : Nat)
  | sfuService (quad : Nat)
  | mxuGranuleGrant (cluster : Nat)
  | tilePortTransfer (cluster : Nat)
  -- pages, generations, slices, quad SRAM (16)
  | biasFlipComplete (page : Nat)
  | carafeDrainBlock (die : Nat)
  | drainFail
  | genctlWrite (v : Word)
  | scrubStart (die : Nat) (v : Word)
  | scrubComplete (die : Nat) (good : Bool)
  | waypartWrite (die slice : Nat) (v : Word)
  | surrenderComplete (die slice : Nat)
  | reclaimComplete (die slice : Nat)
  | stashcfgWrite (d a : Reg)
  | stashcfgImageWrite (quad : Nat) (v : Word)
  | percBaseStep (g : Nat)
  -- power (24)
  | budgetDivision (inp : DivInput)
  | slewStep (dom : Nat)
  | pwrctlWrite (v : Word)
  | tctlWrite (die : Nat) (v : Word)
  | ramptblWrite (die : Nat) (v : Word)
  -- accounts and CSR writes with rows of their own (11, 05)
  | acctFlush (g : Nat)
  | acctOverflowRecord (g : Nat)
  | acctctlWrite (d a : Reg) (base : Bool)
  | slottblWrite (d a : Reg)
  | rafWrite (n : BitVec 4) (d a : Reg)
  | vshapeWrite (d a : Reg)
  | tshapeWrite (n : BitVec 3) (d a : Reg)
  | srseedWrite (d a : Reg)
  | injArm (d a : Reg)
  -- faults, service, firmware (26)
  | coreContainment (g : Nat) (why : FailReason) (pa : Nat)
  | selfTestComplete (g : Nat) (pass : Bool)
  | domainArm (die dom : Nat) (v : Word)
  | domainDisarm (die dom : Nat) (v : Word)
  | qmaskWrite (die dom i : Nat) (v : Word)
  | quadRetire (quad : Nat)
  | retirementComplete (quad : Nat)
  | debugHalt (quad : Nat)
  | debugResume (quad : Nat)
  | fwLoadArbiter (pa : Word)
  | fwLoadDispensers (pa : Word)
  | fwLoadLink (pa : Word)
  | fwVerifyComplete
  | fwTakeover
  | attestNonce (nonce : BitVec 384)
  | attestReportComplete
  -- links, host, peers (22)
  | linkEnable (die port : Nat)
  | linkDisable (die port : Nat)
  | linkRetireLanes (die port : Nat)
  | linkRestoreLanes (die port pass : Nat)
  | linkTrainingDone (die port pass : Nat)
  | linkTrainingTimeout (die port : Nat)
  | laneErrorLimit (die port lane : Nat)
  | linkLost (die port : Nat)
  | remoteResponseTimeout (g i : Nat)
  | graphHeaderWrite (die port slot : Nat) (v : Word)
  | graphNodeWrite (die port slot node : Nat) (v : Word)
  | collectiveStart (die port slot : Nat) (a : Reg)
  | graphTokenArrival (die port slot : Nat) (t : Token)
  | collectiveEnd (die port slot : Nat)
  | peerLaunchPacket (die port : Nat) (pkt : BitVec 640)
  -- the package (05, 00, 11, 10)
  | packageReset
  | powerRemoval
  | registerWrite (pa : BitVec 52) (v : Word)
  | ctxdescWrite (n : BitVec 12) (v : Word)
  | hostMemoryAccess (write : Bool) (pa : BitVec 52) (bytes : List Byte)
  | graphTokenCommit (die port slot : Nat)
  deriving DecidableEq, Repr

namespace Instr

/-- The event rows of the opcode table: not words of a bundle. Everything after `hash` above. -/
def isEvent : Instr → Bool
  | ctxCreate .. | ctxStart .. | ctxStop .. | ctxDestroy .. | addressSpaceTeardown .. | teardownComplete ..
  | dispatch .. | affinityWindowExpiry .. | agingPromotion .. | sleepWake .. | preemption .. | armg .. | armp ..
  | asyncTrapTake .. | strandWatchdogExpiry .. | barrierWatchdogExpiry .. | barrierArrival .. | barrierRelease ..
  | spilltoExpiry .. | diversionCellGrant .. | recvTimeout .. | packetArrival .. | interlayerEntryArrival ..
  | spillQueueDrain .. | hostDoorbell .. | pairClaimComplete .. | pairExchange .. | storePerform ..
  | loadComplete .. | atomicResponse .. | copyEngineGrant .. | vectorBeatGrant .. | streamPortGrant ..
  | sfuService .. | mxuGranuleGrant .. | tilePortTransfer .. | biasFlipComplete .. | carafeDrainBlock ..
  | drainFail | genctlWrite .. | scrubStart .. | scrubComplete .. | waypartWrite .. | surrenderComplete ..
  | reclaimComplete .. | stashcfgWrite .. | stashcfgImageWrite .. | percBaseStep .. | budgetDivision ..
  | slewStep .. | pwrctlWrite .. | tctlWrite .. | ramptblWrite .. | acctFlush .. | acctOverflowRecord ..
  | acctctlWrite .. | slottblWrite .. | rafWrite .. | vshapeWrite .. | tshapeWrite .. | srseedWrite ..
  | injArm .. | coreContainment .. | selfTestComplete .. | domainArm .. | domainDisarm .. | qmaskWrite ..
  | quadRetire .. | retirementComplete .. | debugHalt .. | debugResume .. | fwLoadArbiter ..
  | fwLoadDispensers .. | fwLoadLink .. | fwVerifyComplete | fwTakeover | attestNonce ..
  | attestReportComplete | linkEnable .. | linkDisable .. | linkRetireLanes .. | linkRestoreLanes ..
  | linkTrainingDone .. | linkTrainingTimeout .. | laneErrorLimit .. | linkLost .. | remoteResponseTimeout ..
  | graphHeaderWrite .. | graphNodeWrite .. | collectiveStart .. | graphTokenArrival .. | collectiveEnd ..
  | peerLaunchPacket .. | packageReset | powerRemoval | registerWrite .. | ctxdescWrite ..
  | hostMemoryAccess .. | graphTokenCommit .. => true
  | _ => false

end Instr

/-- A decoded bundle (R39 to R45): the two stall fields, the C instruction, and the A instruction,
absent in a lone bundle. -/
structure Bundle where
  cs : BitVec 3
  c : Instr
  as : BitVec 3
  a : Option Instr
  deriving DecidableEq, Repr

end Sys2Proof
end

