-- ==== Sys2Proof/WellFormed.lean ====
section
/-! DEFINITION. Which instructions are well formed: the register classes of R54 and the limits the
instructions' entries put on their fields. A bundle holding an instruction that is not well formed
traps ILLEGAL (R45 step 2). -/

namespace Sys2Proof

/-- The CSR numbers the map of R123 lists. -/
def csrListed (n : Nat) : Bool :=
  decide (n ≤ 0x009) || (decide (0x010 ≤ n) && decide (n ≤ 0x014)) || decide (n = 0x020)
  || (decide (0x028 ≤ n) && decide (n ≤ 0x02F)) || decide (n = 0x030)
  || (decide (0x038 ≤ n) && decide (n ≤ 0x03B)) || (decide (0x040 ≤ n) && decide (n ≤ 0x04F))
  || decide (n = 0x050) || decide (n = 0x051) || (decide (0x058 ≤ n) && decide (n ≤ 0x05A))
  || decide (n = 0x060) || decide (n = 0x061) || (decide (0x068 ≤ n) && decide (n ≤ 0x06A))
  || (decide (0x070 ≤ n) && decide (n ≤ 0x072)) || (decide (0x078 ≤ n) && decide (n ≤ 0x07A))
  || (decide (0x080 ≤ n) && decide (n ≤ 0x083))

def IType.width : IType → Nat
  | .s8 | .n8 => 8 | .s16 | .n16 => 16 | .s32 | .n32 => 32 | .s64 | .n64 => 64

def IType.signed : IType → Bool
  | .s8 | .s16 | .s32 | .s64 => true
  | _ => false

def FFmt.width : FFmt → Nat
  | .f64 => 64 | .f32 => 32 | .f16 => 16 | .bf16 => 16

/-- `df` holds every value of `sf` exactly: a widening conversion (R114). -/
def FFmt.widens (sf df : FFmt) : Bool :=
  match sf, df with
  | .f32, .f64 | .f16, .f64 | .bf16, .f64 | .f16, .f32 | .bf16, .f32 => true
  | _, _ => false

/-- The narrow set of VCVT (R180's limits). -/
def EType.narrow : EType → Bool
  | .e4m3 | .e5m2 | .e2m1 | .tbl8 => true
  | _ => false

def EType.isInt : EType → Bool
  | .int _ => true
  | _ => false

/-- A v register field of a plain form (R54). -/
def vOk (r : Reg) : Bool := decide (r.toNat < 32)
/-- A tile field: 0 to 7, and 0 to 1 in trap mode (R54). -/
def tileOk (tm : Bool) (r : Reg) : Bool := decide (r.toNat < (if tm then 2 else 8))
/-- An accumulator field: 0 to 1, and 0 in trap mode (R54). -/
def accOk (tm : Bool) (r : Reg) : Bool := decide (r.toNat < (if tm then 1 else 2))
def levelOk (r : Reg) : Bool := decide (r.toNat < 16)
def streamReg (r : Reg) : Bool := decide (24 ≤ r.toNat) && decide (r.toNat < 32)
def evenReg (r : Reg) : Bool := decide (r.toNat % 2 = 0)

/-- The ordering of a memory literal: none with scope 000, or one of the allowed (R52). -/
def MemOp.ordOk (allowed : List MemOrd) : MemOp → Bool
  | .short _ _ => true
  | .ext _ o sc _ | .idx _ o sc _ _ _ =>
    match o with
    | .none => decide (sc = .core)
    | o => allowed.contains o

def AtomCtl.ok (c : AtomCtl) : Bool := decide (c.ord ≠ .none) || decide (c.scope = .core)

/-- VCVT's static limits (R180's chapter). -/
def vcvtOk (d a : VReg) (dt st : EType) (scaled : Bool) (r : Rnd) : Bool :=
  !(dt.narrow && st.narrow && decide (dt ≠ st))
  && !(scaled && !dt.narrow && !st.narrow)
  && !(!scaled && (decide (dt = .e2m1) || decide (st = .e2m1)))
  && !(decide (r ≠ .rne) && (decide (dt = .tbl8) || decide (st = .tbl8) || (dt.isInt && st.isInt)))
  && !(scaled && st.narrow && decide (31 ≤ a.toNat))
  && !(scaled && dt.narrow && decide (31 ≤ d.toNat))

/-- The instruction's fields are ones its entry allows; `tm` is STATUS.TM, which narrows the tile and
accumulator classes (R54). Events carry no register class and are well formed. -/
def Instr.wf (tm : Bool) : Instr → Bool
  | .loop _ n => decide (n ≠ 0#10)
  | .ld _ _ m => m.ordOk [.acq]
  | .st _ _ m => m.ordOk [.rel]
  | .ldp d _ m => evenReg d && m.ordOk [.acq]
  | .stp d _ m => evenReg d && m.ordOk [.rel]
  | .pref k m => decide (k.toNat < 4) && m.ordOk []
  | .cflush _ m => m.ordOk []
  | .vld d _ m => vOk d && m.ordOk []
  | .vst d m => vOk d && m.ordOk []
  | .vgath d _ b _ => vOk d && vOk b
  | .vscat d _ b _ => vOk d && vOk b
  | .tld d _ m => tileOk tm d && m.ordOk []
  | .tst d m => tileOk tm d && m.ordOk []
  | .amo _ _ _ _ _ c => c.ok
  | .cas _ _ _ _ c => match c with | some c => c.ok | none => true
  | .sbind d m => streamReg d && m.ordOk []
  | .sdrop d => streamReg d
  | .send _ a _ => vOk a
  | .recv d _ _ _ => vOk d
  | .recvAcc d _ _ _ => vOk d
  | .xchg d a _ _ => vOk d && vOk a
  | .restrUp lv a => levelOk lv && vOk a
  | .restrTake lv a _ _ => levelOk lv && vOk a
  | .prolgDown lv a _ => levelOk lv && vOk a
  | .prolgTake lv a _ => levelOk lv && vOk a
  | .wload lv _ m => levelOk lv && m.ordOk []
  | .cyc lv _ => levelOk lv
  | .waitc d _ => decide (d.toNat ≤ 5)
  | .ppatch m | .psave m | .prest m | .fmtld m => m.ordOk []
  | .pstep _ _ b lanes => if lanes then vOk b else decide (b = 0#6)
  | .pset a _ _ => vOk a
  | .pget d _ _ => vOk d
  | .genq _ i => decide (i.toNat < 3)
  | .csrr _ n => csrListed n.toNat
  | .csrw _ _ n => csrListed n.toNat
  | .prio _ a i => decide (a = 0#6) || decide (i = 0#7)
  | .cmp c _ _ _ _ => decide (c ≠ .un)
  | .fcvt _ _ ovf sf df _ => !(ovf && (decide (sf = df) || sf.widens df))
  | .vlog _ _ b op => decide (op ≠ .not) || decide (b = 0#5)
  | .vcmp _ _ _ t c => match t with | .int _ => decide (c ≠ .un) | .flt _ => true
  | .vcvt d a dt sty s r _ => vcvtOk d a dt sty s r
  | .vmov d a b md =>
    match md.toNat with
    | 0 => vOk d && vOk a && decide (b = 0#6)
    | 1 => vOk d && decide (b = 0#6)
    | 2 => vOk a
    | _ => vOk d
  | .viota d _ _ _ => vOk d
  | .vrep _ a imm => decide (a = 0#6) || decide (imm = 0#11)
  | .mma d a b _ => accOk tm d && tileOk tm a && tileOk tm b
  | .mmas d a b _ => accOk tm d && tileOk tm a && tileOk tm b
  | .mdist d a b _ => accOk tm d && tileOk tm a && tileOk tm b
  | .mtopk d a _ _ => tileOk tm d && accOk tm a
  | .mzero d tile => if tile then tileOk tm d else accOk tm d
  | .mopen d => accOk tm d
  | .mclose d => accOk tm d
  | .mtran d a => tileOk tm d && tileOk tm a
  | .mcvt d a t _ _ r => tileOk tm d && accOk tm a
      && decide (t ≠ .int .s64) && decide (t ≠ .int .n64) && decide (t ≠ .f64)
      && !(decide (t = .tbl8) && decide (r ≠ .rne))
  | .mew d a op bc r =>
    accOk tm d && (match op with
      | .relu => decide (a = 0#6) && !bc && decide (r = .rne)
      | _ => tileOk tm a)
  | .mwait d named => if named then accOk tm d else decide (d = 0#6)
  | .vclmp d a b _ => vOk d && vOk a && evenReg b
  | _ => true

/-- A register named by an instruction, for R33, R47, R48 and R68. -/
inductive RegName | x (n : Nat) | q (n : Nat) | v (n : Nat) | t (n : Nat) | a (n : Nat)
  deriving DecidableEq, Repr

def MemOp.reads : MemOp → List RegName
  | .short b _ | .ext b _ _ _ => [.x b.toNat]
  | .idx b _ _ i _ _ => [.x b.toNat, .x i.toNat]

def AtomCtl.reads (c : AtomCtl) : List RegName :=
  match c.tok with | some t => [.x t.toNat] | none => []

/-- The registers an instruction writes, as its entry gives them. -/
def Instr.writes : Instr → List RegName
  | .litx d _ _ | .jmp d _ _ | .waitc d _ | .ld d _ _ | .amo d _ _ _ _ _ | .cas d _ _ _ _ | .chwait d _
  | .spawn d _ _ _ | .pstep d _ _ _ | .genq d _ | .bias d _ _ | .csrr d _ | .csrw d _ _
  | .acctCtx d _ _ | .acctCore d _ | .telem d _ | .xlat d _ _ | .prio d _ _ | .movi d _ _
  | .add d _ _ _ _ | .sub d _ _ _ _ | .mul d _ _ _ _ | .mulh d _ _ _ | .div d _ _ _ | .and d _ _
  | .or d _ _ | .xor d _ _ | .shl d _ _ _ | .shr d _ _ _ | .min d _ _ _ | .max d _ _ _
  | .sel d _ _ _ _ | .bits d _ _ | .bfx d _ _ | .lea d _ _ | .fadd d _ _ _ _ | .fmul d _ _ _ _
  | .ffma d _ _ _ _ | .fdiv d _ _ _ _ | .fcvt d _ _ _ _ _ | .fmnx d _ _ _ _ | .hash d _ _ => [.x d.toNat]
  | .call .. => [.x 63]
  | .ldp d _ _ => [.x d.toNat, .x (d.toNat + 1)]
  | .bar q _ | .sstep q _ | .snap q _ | .cmp _ q _ _ _ | .fcmp _ q _ _ _ | .pred q _ _ _ => [.q q.toNat]
  | .recv d _ q _ | .recvAcc d _ q _ | .xchg d _ q _ => [.v d.toNat, .q q.toNat]
  | .restrTake _ a q _ | .prolgTake _ a q => [.v a.toNat, .q q.toNat]
  | .vld d _ _ | .vgath d _ _ _ | .pget d _ _ | .viota d _ _ _ | .vclmp d _ _ _ => [.v d.toNat]
  | .vmov d _ _ md => if md.toNat = 2 then [.x d.toNat] else [.v d.toNat]
  | .vadd d _ _ _ | .vsub d _ _ _ | .vmul d _ _ _ | .vfma d _ _ _ _ | .vmin d _ _ _ | .vmax d _ _ _
  | .vlog d _ _ _ | .vsh d _ _ _ | .vcmp d _ _ _ _ | .vsel d _ _ | .vred d _ _ _ _ _ | .vscan d _ _ _ _ _
  | .vperm d _ _ | .vsfu d _ _ _ | .venc d _ _ | .vdec d _ | .vabs d _ _ | .vbits d _ _
  | .vdot d _ _ _ => [.v d.toNat]
  | .vcvt d _ dt _ s _ _ => if s && dt.narrow then [.v d.toNat, .v (d.toNat + 1)] else [.v d.toNat]
  | .tld d _ _ | .mtopk d _ _ _ | .mtran d _ | .mcvt d _ _ _ _ _ => [.t d.toNat]
  | .mzero d tile => if tile then [.t d.toNat] else [.a d.toNat]
  | .mma d _ _ _ | .mmas d _ _ _ | .mdist d _ _ _ | .mopen d | .mclose d | .mew d _ _ _ _ => [.a d.toNat]
  | _ => []

/-- The registers an instruction reads, as its entry gives them. -/
def Instr.reads : Instr → List RegName
  | .litx _ a _ | .jmp _ a _ | .ret a | .loop a _ | .susp a | .waitc _ a | .cancel a _ | .snap _ a
  | .bias _ a _ | .tlbiVa a | .csrw _ a _ | .acctMark a | .xlat _ a _ | .prio _ a _ | .bits _ a _
  | .lea _ a _ | .fcvt _ a _ _ _ _ | .vrep _ a _ => [.x a.toNat]
  | .bra q _ _ | .call q _ _ => [.q q.toNat]
  | .ld _ _ m | .ldp _ _ m | .pref _ m | .cflush _ m | .vld _ _ m | .sbind _ m | .wload _ _ m
  | .ppatch m | .psave m | .prest m | .fmtld m | .tld _ _ m => m.reads
  | .st d _ m => .x d.toNat :: m.reads
  | .stp d _ m => .x d.toNat :: .x (d.toNat + 1) :: m.reads
  | .vst d m => .v d.toNat :: m.reads
  | .tst d m => .t d.toNat :: m.reads
  | .vgath _ a b _ => [.x a.toNat, .v b.toNat]
  | .vscat d a b _ => [.x a.toNat, .v b.toNat, .v d.toNat]
  | .amo _ a b _ _ c => .x a.toNat :: .x b.toNat :: c.reads
  | .cas d a b _ c => .x d.toNat :: .x a.toNat :: .x b.toNat :: (match c with | some c => c.reads | none => [])
  | .acopy d a b _ => [.x d.toNat, .x a.toNat, .x b.toNat]
  | .send d a _ => [.x d.toNat, .v a.toNat]
  | .recv _ a _ _ => [.x a.toNat]
  | .recvAcc d a _ _ => [.x a.toNat, .v d.toNat]
  | .xchg _ a _ _ => [.v a.toNat]
  | .restrUp _ a | .prolgDown _ a _ => [.v a.toNat]
  | .spawn _ a e _ => .x a.toNat :: (match e with | .reg b => [.x b.toNat] | .label _ => [])
      ++ [.x 2, .x 3, .x 4, .x 5]
  | .pstep _ a b lanes => if lanes then [.x a.toNat, .v b.toNat] else [.x a.toNat]
  | .pset a b _ => [.v a.toNat, .x b.toNat]
  | .pget _ b _ => [.x b.toNat]
  | .add _ a b _ _ | .sub _ a b _ _ | .mul _ a b _ _ | .mulh _ a b _ | .div _ a b _ | .and _ a b
  | .or _ a b | .xor _ a b | .shl _ a b _ | .shr _ a b _ | .min _ a b _ | .max _ a b _ | .bfx _ a b
  | .fadd _ a b _ _ | .fmul _ a b _ _ | .fdiv _ a b _ _ | .fmnx _ a b _ _ | .hash _ a b
  | .viota _ a b _ | .cmp _ _ a b _ | .fcmp _ _ a b _ | .pred _ a b _ => [.x a.toNat, .x b.toNat]
  | .ffma d a b _ _ => [.x d.toNat, .x a.toNat, .x b.toNat]
  | .sel _ a b _ q => [.x a.toNat, .x b.toNat, .q q.toNat]
  | .vmov d a b md =>
    match md.toNat with
    | 0 => [.v a.toNat]
    | 1 => [.x a.toNat]
    | 2 => [.v a.toNat, .x b.toNat]
    | _ => [.x a.toNat, .x b.toNat, .v d.toNat]
  | .vclmp _ a b _ => [.v a.toNat, .x b.toNat, .x (b.toNat + 1)]
  | .vadd _ a b _ | .vsub _ a b _ | .vmul _ a b _ | .vmin _ a b _ | .vmax _ a b _ | .vcmp _ a b _ _
  | .vperm _ a b => [.v a.toNat, .v b.toNat]
  | .vlog _ a b op => if op = .not then [.v a.toNat] else [.v a.toNat, .v b.toNat]
  | .vfma d a b _ _ | .vsel d a b | .vdot d a b _ => [.v d.toNat, .v a.toNat, .v b.toNat]
  | .vsh _ a amt _ => match amt with | .reg b => [.v a.toNat, .v b.toNat] | .imm _ => [.v a.toNat]
  | .vred _ a _ _ _ _ | .vscan _ a _ _ _ _ | .vsfu _ a _ _ | .venc _ a _ | .vdec _ a | .vabs _ a _
  | .vbits _ a _ => [.v a.toNat]
  | .vcvt _ a _ sty s _ _ => if s && sty.narrow then [.v a.toNat, .v (a.toNat + 1)] else [.v a.toNat]
  | .mma d a b _ | .mmas d a b _ | .mdist d a b _ => [.t a.toNat, .t b.toNat, .a d.toNat]
  | .mtopk _ a b _ => [.a a.toNat, .x b.toNat]
  | .mtran _ a => [.t a.toNat]
  | .mcvt _ a _ _ _ _ => [.a a.toNat]
  | .mew d a op _ _ => if op = .relu then [.a d.toNat] else [.a d.toNat, .t a.toNat]
  | _ => []

/-- The registers an instruction writes with a fixed latency, and that latency (R34, R96). -/
def Instr.latency : Instr → Option Nat
  | .litx .. | .jmp .. | .call .. => some 1
  | .movi .. | .add .. | .sub .. | .and .. | .or .. | .xor .. | .shl .. | .shr .. | .min .. | .max ..
  | .cmp .. | .sel .. | .bits .. | .bfx .. | .pred .. | .lea .. => some 1
  | .fcmp .. | .fcvt .. | .fmnx .. | .hash .. => some 2
  | .mul .. | .mulh .. => some 3
  | .fadd .. | .fmul .. | .ffma .. => some 4
  | .fdiv _ _ _ f _ => some (if f = .f64 then 24 else 12)
  | .div _ _ _ t => some (if t.width = 64 then 34 else 18)
  | _ => none

/-- Opcodes that trap ILLEGAL inside a microprogram (R68). -/
def Instr.noMicro : Instr → Bool
  | .bra .. | .jmp .. | .call .. | .ret .. | .loop .. | .runMacro .. | .susp .. | .waitc .. | .exit
  | .recv .. | .recvAcc .. | .pairOn | .pairOff | .trap .. | .rft | .icsync => true
  | _ => false

/-- The A word of this bundle must be ANOP (R120, R224's entry). -/
def Instr.needsAnop : Instr → Bool
  | .trap .. | .dbrk .. | .recvAcc .. => true
  | _ => false

/-- Both slots name one destination, other than x0 (R33). -/
def destConflict (c a : Instr) : Bool :=
  c.writes.any (fun r => decide (r ≠ .x 0) && a.writes.contains r)

/-- The encoding checks of R45 step 2 on a decoded bundle. -/
def Bundle.wf (tm : Bool) (b : Bundle) : Bool :=
  b.c.wf tm && (match b.a with
    | none => true
    | some a => a.wf tm && !destConflict b.c a && (!b.c.needsAnop || decide (a = .anop)))

end Sys2Proof
end

