-- ==== Sys2Proof/Decode.lean ====
section
/-! DEFINITION. Decoding of bundles (R39 to R59 and the encodings of the entries), total on any
bits, and the encoder written from the same tables. Register classes are not checked here but in
`Instr.wf`, because R54 checks the value after a microprogram's substitution (R67). -/

namespace Sys2Proof

/-! ## Codes (R55 and the entries) -/

def IType.ofCode : Nat → Option IType
  | 0 => some .s8 | 1 => some .s16 | 2 => some .s32 | 3 => some .s64
  | 4 => some .n8 | 5 => some .n16 | 6 => some .n32 | 7 => some .n64
  | _ => none
def IType.code : IType → BitVec 4
  | .s8 => 0 | .s16 => 1 | .s32 => 2 | .s64 => 3 | .n8 => 4 | .n16 => 5 | .n32 => 6 | .n64 => 7

def FFmt.ofCode : Nat → FFmt
  | 0 => .f64 | 1 => .f32 | 2 => .f16 | _ => .bf16
def FFmt.code : FFmt → BitVec 2
  | .f64 => 0 | .f32 => 1 | .f16 => 2 | .bf16 => 3

def VFmt.ofCode : Nat → Option VFmt
  | 9 => some .f32 | 10 => some .f16 | 11 => some .bf16
  | _ => none
def VFmt.code : VFmt → BitVec 4
  | .f32 => 9 | .f16 => 10 | .bf16 => 11

def VType.ofCode (n : Nat) : Option VType :=
  match IType.ofCode n with
  | some t => some (.int t)
  | none => (VFmt.ofCode n).map .flt
def VType.code : VType → BitVec 4
  | .int t => t.code | .flt f => f.code

def EType.ofCode : Nat → EType
  | 0 => .int .s8 | 1 => .int .s16 | 2 => .int .s32 | 3 => .int .s64
  | 4 => .int .n8 | 5 => .int .n16 | 6 => .int .n32 | 7 => .int .n64
  | 8 => .f64 | 9 => .f32 | 10 => .f16 | 11 => .bf16
  | 12 => .e4m3 | 13 => .e5m2 | 14 => .e2m1 | _ => .tbl8
def EType.code : EType → BitVec 4
  | .int t => t.code | .f64 => 8 | .f32 => 9 | .f16 => 10 | .bf16 => 11
  | .e4m3 => 12 | .e5m2 => 13 | .e2m1 => 14 | .tbl8 => 15

def MType.ofCode : Nat → Option MType
  | 10 => some .f16 | 11 => some .bf16 | 12 => some .e4m3 | 13 => some .e5m2 | 14 => some .e2m1
  | 15 => some .tbl8
  | _ => none
def MType.code : MType → BitVec 4
  | .f16 => 10 | .bf16 => 11 | .e4m3 => 12 | .e5m2 => 13 | .e2m1 => 14 | .tbl8 => 15

def Rnd.ofCode : Nat → Option Rnd
  | 0 => some .rne | 1 => some .rtz | 2 => some .rup | 3 => some .rdn | 4 => some .sr
  | _ => none
def Rnd.code : Rnd → BitVec 3
  | .rne => 0 | .rtz => 1 | .rup => 2 | .rdn => 3 | .sr => 4

def Cond.ofCode : Nat → Option Cond
  | 0 => some .eq | 1 => some .ne | 2 => some .lt | 3 => some .le | 4 => some .gt | 5 => some .ge
  | 6 => some .un
  | _ => none
def Cond.code : Cond → BitVec 3
  | .eq => 0 | .ne => 1 | .lt => 2 | .le => 3 | .gt => 4 | .ge => 5 | .un => 6

def Size.ofCode : Nat → Size
  | 0 => .b | 1 => .h | 2 => .w | _ => .d
def Size.code : Size → BitVec 2
  | .b => 0 | .h => 1 | .w => 2 | .d => 3

def MemOrd.ofCode : Nat → Option MemOrd
  | 0 => some .none | 1 => some .acq | 2 => some .rel | 3 => some .ar
  | _ => Option.none
def MemOrd.code : MemOrd → BitVec 3
  | .none => 0 | .acq => 1 | .rel => 2 | .ar => 3

def FenceOrd.ofCode : Nat → Option FenceOrd
  | 1 => some .acq | 2 => some .rel | 3 => some .ar | 4 => some .sc | 5 => some .eng
  | _ => none
def FenceOrd.code : FenceOrd → BitVec 3
  | .acq => 1 | .rel => 2 | .ar => 3 | .sc => 4 | .eng => 5

def Scope.ofCode : Nat → Option Scope
  | 0 => some .core | 1 => some .quad | 2 => some .die | 3 => some .pkg | 4 => some .sys
  | _ => none
def Scope.code : Scope → BitVec 3
  | .core => 0 | .quad => 1 | .die => 2 | .pkg => 3 | .sys => 4

def LdKind.ofCode : Nat → Option LdKind
  | 0 => some .b | 1 => some .h | 2 => some .w | 3 => some .d | 4 => some .bsx | 5 => some .hsx
  | 6 => some .wsx
  | _ => none
def LdKind.code : LdKind → BitVec 3
  | .b => 0 | .h => 1 | .w => 2 | .d => 3 | .bsx => 4 | .hsx => 5 | .wsx => 6

def FlushLevel.ofCode : Nat → Option FlushLevel
  | 0 => some .core | 1 => some .stash | 2 => some .slice
  | _ => none
def FlushLevel.code : FlushLevel → BitVec 3
  | .core => 0 | .stash => 1 | .slice => 2

def AmoOp.ofCode : Nat → Option AmoOp
  | 0 => some .add | 1 => some .and | 2 => some .or | 3 => some .xor | 4 => some .min | 5 => some .max
  | 6 => some .swap
  | _ => none
def AmoOp.code : AmoOp → BitVec 3
  | .add => 0 | .and => 1 | .or => 2 | .xor => 3 | .min => 4 | .max => 5 | .swap => 6

def RecvCh.ofCode (n : Nat) : Option RecvCh :=
  if n = 0 then some .rq else if n ≤ 8 then some (.mb (BitVec.ofNat 3 (n - 1))) else none
def RecvCh.code : RecvCh → BitVec 4
  | .rq => 0 | .mb m => BitVec.ofNat 4 (m.toNat + 1)

def Bind.ofCode : Nat → Option Bind
  | 0 => some .l0 | 1 => some .l1 | 2 => some .l2 | 3 => some .l3 | 4 => some .crown | 7 => some .unbound
  | _ => none
def Bind.code : Bind → BitVec 3
  | .l0 => 0 | .l1 => 1 | .l2 => 2 | .l3 => 3 | .crown => 4 | .unbound => 7

def PercSel.ofCode : Nat → Option PercSel
  | 0 => some .y | 1 => some .w | 2 => some .cnt
  | _ => none
def PercSel.code : PercSel → BitVec 2
  | .y => 0 | .w => 1 | .cnt => 2

def XlatKind.ofCode : Nat → Option XlatKind
  | 0 => some .read | 1 => some .write | 2 => some .fetch | 3 => some .atomic | 4 => some .engine
  | _ => none
def XlatKind.code : XlatKind → BitVec 3
  | .read => 0 | .write => 1 | .fetch => 2 | .atomic => 3 | .engine => 4

def BitOp.ofCode : Nat → BitOp
  | 0 => .popc | 1 => .clz | 2 => .ctz | _ => .rev
def BitOp.code : BitOp → BitVec 2
  | .popc => 0 | .clz => 1 | .ctz => 2 | .rev => 3

def LogOp.ofCode : Nat → Option LogOp
  | 0 => some .and | 1 => some .or | 2 => some .xor | 3 => some .andn | 4 => some .not
  | _ => none
def LogOp.code : LogOp → BitVec 3
  | .and => 0 | .or => 1 | .xor => 2 | .andn => 3 | .not => 4

def RedOp.ofCode : Nat → Option RedOp
  | 0 => some .add | 1 => some .min | 2 => some .max
  | _ => none
def RedOp.code : RedOp → BitVec 2
  | .add => 0 | .min => 1 | .max => 2

def SfuFn.ofCode : Nat → SfuFn
  | 0 => .exp2 | 1 => .log2 | 2 => .rcp | 3 => .rsq | 4 => .sqrt | 5 => .sin | 6 => .cos | _ => .tanh
def SfuFn.code : SfuFn → BitVec 3
  | .exp2 => 0 | .log2 => 1 | .rcp => 2 | .rsq => 3 | .sqrt => 4 | .sin => 5 | .cos => 6 | .tanh => 7

def MewOp.ofCode : Nat → MewOp
  | 0 => .add | 1 => .mul | 2 => .max | _ => .relu
def MewOp.code : MewOp → BitVec 2
  | .add => 0 | .mul => 1 | .max => 2 | .relu => 3

def McvtOvf.ofCode : Nat → Option McvtOvf
  | 0 => some .ctx | 1 => some .sat | 2 => some .inf
  | _ => none
def McvtOvf.code : McvtOvf → BitVec 2
  | .ctx => 0 | .sat => 1 | .inf => 2

/-- A one-bit field as a truth value. -/
def isSet (b : BitVec 1) : Bool := decide (b = 1#1)

/-! ## Words (R40, R41, R50) -/

def cRRR (l : BitVec 1) (s : BitVec 3) (op d a b : BitVec 6) (m : BitVec 4) : BitVec 32 :=
  l ++ s ++ op ++ d ++ a ++ b ++ m
def cRRI (l : BitVec 1) (s : BitVec 3) (op d a : BitVec 6) (i : BitVec 10) : BitVec 32 :=
  l ++ s ++ op ++ d ++ a ++ i
def cMEM (l : BitVec 1) (s : BitVec 3) (op d a : BitVec 6) (k : BitVec 3) (p : BitVec 7) : BitVec 32 :=
  l ++ s ++ op ++ d ++ a ++ k ++ p
def cBR (l : BitVec 1) (s : BitVec 3) (op : BitVec 6) (q : BitVec 3) (n : BitVec 1) (o : BitVec 18) :
    BitVec 32 :=
  l ++ s ++ op ++ q ++ n ++ o
def aRRR (s : BitVec 3) (op d a b : BitVec 6) (m : BitVec 5) : BitVec 32 :=
  s ++ op ++ d ++ a ++ b ++ m
def aRRI (s : BitVec 3) (op d a : BitVec 6) (i : BitVec 11) : BitVec 32 :=
  s ++ op ++ d ++ a ++ i
def aI16 (s : BitVec 3) (op d : BitVec 6) (i : BitVec 16) (h : BitVec 1) : BitVec 32 :=
  s ++ op ++ d ++ i ++ h

/-- The vector form (R166): 5-bit fields, their top bits gathered as X. -/
def aVEC (s : BitVec 3) (op : BitVec 6) (d a b : BitVec 5) (x : BitVec 3) (m : BitVec 5) : BitVec 32 :=
  aRRR s op (x.extractLsb' 2 1 ++ d) (x.extractLsb' 1 1 ++ a) (x.extractLsb' 0 1 ++ b) m

/-! ## Literals (R52, R147's chapter) -/

def memLitDisp (o sc : BitVec 3) (disp : BitVec 25) : BitVec 32 := o ++ sc ++ 0#1 ++ disp
def memLitIdx (o sc : BitVec 3) (i : BitVec 6) (z : BitVec 2) (disp : BitVec 17) : BitVec 32 :=
  o ++ sc ++ 1#1 ++ i ++ z ++ disp
def atomLit (o sc : BitVec 3) (tk : BitVec 1) (ty : BitVec 4) (op : BitVec 3) (tr : BitVec 6)
    (disp : BitVec 10) : BitVec 32 :=
  o ++ sc ++ tk ++ ty ++ op ++ 0#2 ++ tr ++ disp

/-- A C-MEM operand (R52). -/
def decodeMem (l : BitVec 1) (base : Reg) (p : BitVec 7) (lit : BitVec 32) : Option MemOp :=
  if l = 0#1 then some (.short base p)
  else if p ≠ 0#7 then none
  else
    match MemOrd.ofCode (lit.extractLsb' 29 3).toNat, Scope.ofCode (lit.extractLsb' 26 3).toNat with
    | some o, some sc =>
      if lit.extractLsb' 25 1 = 0#1 then some (.ext base o sc (lit.extractLsb' 0 25))
      else some (.idx base o sc (lit.extractLsb' 19 6) (lit.extractLsb' 17 2) (lit.extractLsb' 0 17))
    | _, _ => none

def MemOp.lBit : MemOp → BitVec 1
  | .short _ _ => 0
  | _ => 1
def MemOp.base : MemOp → Reg
  | .short b _ | .ext b _ _ _ | .idx b _ _ _ _ _ => b
def MemOp.disp7 : MemOp → BitVec 7
  | .short _ p => p
  | _ => 0
def MemOp.lit : MemOp → Option (BitVec 32)
  | .short _ _ => none
  | .ext _ o sc d => some (memLitDisp o.code sc.code d)
  | .idx _ o sc i z d => some (memLitIdx o.code sc.code i z d)

/-- The ordering, token and displacement of an atomic control word. -/
def decodeAtom (lit : BitVec 32) : Option AtomCtl :=
  match MemOrd.ofCode (lit.extractLsb' 29 3).toNat, Scope.ofCode (lit.extractLsb' 26 3).toNat with
  | some o, some sc =>
    if lit.extractLsb' 16 2 ≠ 0#2 then none
    else if lit.extractLsb' 25 1 = 1#1 then
      some ⟨o, sc, some (lit.extractLsb' 10 6), lit.extractLsb' 0 10⟩
    else if lit.extractLsb' 10 6 = 0#6 then some ⟨o, sc, none, lit.extractLsb' 0 10⟩
    else none
  | _, _ => none

def AtomCtl.lit (c : AtomCtl) (ty : BitVec 4) (op : BitVec 3) : BitVec 32 :=
  match c.tok with
  | some t => atomLit c.ord.code c.scope.code 1 ty op t c.disp
  | none => atomLit c.ord.code c.scope.code 0 ty op 0 c.disp

/-- `x` where `b` holds, a refusal otherwise. -/
def onlyIf (b : Bool) (x : Option Instr) : Option Instr := if b then x else none

/-- The C instruction of a word; `lit` is word 1, read only where L = 1 (R42, R43, R58). -/
def decodeC (w lit : BitVec 32) : Option Instr :=
  let l := w.extractLsb' 31 1
  let d := w.extractLsb' 16 6
  let a := w.extractLsb' 10 6
  let b := w.extractLsb' 4 6
  let m := w.extractLsb' 0 4
  let i := w.extractLsb' 0 10
  let k := w.extractLsb' 7 3
  let mem (f : MemOp → Option Instr) : Option Instr :=
    match decodeMem l a (w.extractLsb' 0 7) lit with
    | some x => f x
    | none => none
  let short (c : Bool) (x : Option Instr) : Option Instr := onlyIf (decide (l = 0#1) && c) x
  let br (f : BrOff → Instr) : Option Instr :=
    if l = 0#1 then some (f (.near (w.extractLsb' 0 18)))
    else onlyIf (decide (w.extractLsb' 0 18 = 0#18)) (some (f (.far lit)))
  match (w.extractLsb' 22 6).toNat with
  | 0x00 => short (decide (w.extractLsb' 0 22 = 0#22)) (some .nop)
  | 0x01 => onlyIf (decide (l = 1#1) && decide (i = 0#10)) (some (.litx d a lit))
  | 0x02 => br (.bra (w.extractLsb' 19 3) (isSet (w.extractLsb' 18 1)))
  | 0x03 => if l = 0#1 then some (.jmp d a (.near i)) else onlyIf (decide (i = 0#10)) (some (.jmp d a (.far lit)))
  | 0x04 => br (.call (w.extractLsb' 19 3) (isSet (w.extractLsb' 18 1)))
  | 0x05 => short (decide (d = 0#6) && decide (i = 0#10)) (some (.ret a))
  | 0x06 => short (decide (d = 0#6)) (some (.loop a i))
  | 0x07 =>
    if l = 0#1 then some (.runMacro d a b (.near m))
    else onlyIf (decide (m = 0#4) && decide (lit.extractLsb' 6 26 = 0#26))
      (some (.runMacro d a b (.far (lit.extractLsb' 0 6))))
  | 0x08 => mem fun x => (LdKind.ofCode k.toNat).map fun z => .ld d z x
  | 0x09 => mem fun x => onlyIf (decide (k.toNat < 4)) (some (.st d (Size.ofCode k.toNat) x))
  | 0x0A => mem fun x => onlyIf (decide (k.toNat / 2 = 1)) (some (.ldp d (decide (k = 3#3)) x))
  | 0x0B => mem fun x => onlyIf (decide (k.toNat / 2 = 1)) (some (.stp d (decide (k = 3#3)) x))
  | 0x0C => mem fun x => onlyIf (decide (d = 0#6) && decide (k.toNat < 4)) (some (.pref (k.extractLsb' 0 2) x))
  | 0x0D => mem fun x => onlyIf (decide (d = 0#6)) ((FlushLevel.ofCode k.toNat).map fun f => .cflush f x)
  | 0x0E => mem fun x => onlyIf (decide (k.toNat < 2)) (some (.vld d (decide (k = 1#3)) x))
  | 0x0F => mem fun x => onlyIf (decide (k = 0#3)) (some (.vst d x))
  | 0x10 => short (decide (m.extractLsb' 2 2 = 0#2)) (some (.vgath d a b (m.extractLsb' 0 2)))
  | 0x11 => short (decide (m.extractLsb' 2 2 = 0#2)) (some (.vscat d a b (m.extractLsb' 0 2)))
  | 0x12 => mem fun x => onlyIf (decide (k.toNat < 2)) (some (.tld d (decide (k = 1#3)) x))
  | 0x13 => mem fun x => onlyIf (decide (k = 0#3)) (some (.tst d x))
  | 0x14 =>
    onlyIf (decide (l = 1#1) && decide (m = 0#4))
      (match decodeAtom lit, IType.ofCode (lit.extractLsb' 21 4).toNat,
          AmoOp.ofCode (lit.extractLsb' 18 3).toNat with
      | some c, some t, some o => some (.amo d a b t o c)
      | _, _, _ => none)
  | 0x15 =>
    match IType.ofCode m.toNat with
    | none => none
    | some t =>
      if l = 0#1 then some (.cas d a b t none)
      else onlyIf (decide (lit.extractLsb' 18 7 = 0#7)) ((decodeAtom lit).map fun c => .cas d a b t (some c))
  | 0x16 =>
    short (decide (d = 0#6) && decide (a = 0#6) && decide (i.extractLsb' 6 4 = 0#4))
      (match FenceOrd.ofCode (i.extractLsb' 3 3).toNat, Scope.ofCode (i.extractLsb' 0 3).toNat with
      | some o, some sc => some (.fence o sc)
      | _, _ => none)
  | 0x17 => mem fun x => onlyIf (decide (k = 0#3)) (some (.sbind d x))
  | 0x18 => short (decide (a = 0#6) && decide (i = 0#10)) (some (.sdrop d))
  | 0x19 => short (decide (m.extractLsb' 2 2 = 0#2)) (some (.acopy d a b (m.extractLsb' 0 2)))
  | 0x1A => short (decide (a = 0#6) && decide (i.extractLsb' 2 8 = 0#8)) (some (.chwait d (i.extractLsb' 0 2)))
  | 0x1B =>
    short (decide (d.extractLsb' 3 3 = 0#3) && decide (a = 0#6) && decide (i.extractLsb' 5 5 = 0#5))
      (some (.bar (d.extractLsb' 0 3) (i.extractLsb' 0 5)))
  | 0x1C =>
    short (decide (d.extractLsb' 3 3 = 0#3) && decide (a = 0#6) && decide (i.extractLsb' 5 5 = 0#5))
      (some (.sstep (d.extractLsb' 0 3) (i.extractLsb' 0 5)))
  | 0x1D => short (decide (b = 0#6) && decide (m.extractLsb' 3 1 = 0#1)) (some (.send d a (m.extractLsb' 0 3)))
  | 0x1E =>
    short (decide (b.extractLsb' 4 2 = 0#2))
      (if b.extractLsb' 3 1 = 0#1 then (RecvCh.ofCode m.toNat).map fun c => .recv d a (b.extractLsb' 0 3) c
       else (VType.ofCode m.toNat).map fun t => .recvAcc d a (b.extractLsb' 0 3) t)
  | 0x1F => short (decide (b.extractLsb' 3 3 = 0#3)) (some (.xchg d a (b.extractLsb' 0 3) m))
  | 0x20 =>
    short (decide (b.extractLsb' 4 2 = 0#2))
      (if b.extractLsb' 0 1 = 1#1 then some (.restrTake d a (b.extractLsb' 1 3) m)
       else onlyIf (decide (b = 0#6) && decide (m = 0#4)) (some (.restrUp d a)))
  | 0x21 =>
    short (decide (b.extractLsb' 4 2 = 0#2))
      (if b.extractLsb' 0 1 = 1#1 then onlyIf (decide (m = 0#4)) (some (.prolgTake d a (b.extractLsb' 1 3)))
       else onlyIf (decide (b = 0#6)) (some (.prolgDown d a m)))
  | 0x22 => mem fun x => onlyIf (decide (k.toNat < 2)) (some (.wload d (decide (k = 1#3)) x))
  | 0x23 =>
    short (decide (a = 0#6) && decide (i.extractLsb' 3 7 = 0#7))
      ((Bind.ofCode (i.extractLsb' 0 3).toNat).map fun v => .cyc d v)
  | 0x24 =>
    if l = 0#1 then some (.spawn d a (.reg b) m)
    else onlyIf (decide (b = 0#6)) (some (.spawn d a (.label lit) m))
  | 0x25 => short (decide (d = 0#6) && decide (i = 0#10)) (some (.susp a))
  | 0x26 => short (decide (w.extractLsb' 0 22 = 0#22)) (some .exit)
  | 0x27 => short (decide (i = 0#10)) (some (.waitc d a))
  | 0x28 =>
    short (decide (d = 0#6) && decide (b = 0#6) && decide (m.extractLsb' 1 3 = 0#3))
      (some (.cancel a (isSet (m.extractLsb' 0 1))))
  | 0x29 =>
    short (decide (d = 0#6) && decide (a = 0#6) && decide (i.extractLsb' 1 9 = 0#9))
      (some (if isSet (i.extractLsb' 0 1) then .pairOn else .pairOff))
  | 0x2A => mem fun x => onlyIf (decide (d = 0#6) && decide (k = 0#3)) (some (.ppatch x))
  | 0x2B => short (decide (m.extractLsb' 1 3 = 0#3)) (some (.pstep d a b (isSet (m.extractLsb' 0 1))))
  | 0x2C => mem fun x => onlyIf (decide (d = 0#6) && decide (k = 0#3)) (some (.psave x))
  | 0x2D => mem fun x => onlyIf (decide (d = 0#6) && decide (k = 0#3)) (some (.prest x))
  | 0x2E =>
    short (decide (d = 0#6) && decide (m.extractLsb' 1 3 = 0#3)) (some (.pset a b (isSet (m.extractLsb' 0 1))))
  | 0x2F =>
    short (decide (a = 0#6) && decide (m.extractLsb' 2 2 = 0#2))
      ((PercSel.ofCode (m.extractLsb' 0 2).toNat).map fun s => .pget d b s)
  | 0x30 => short (decide (d.extractLsb' 3 3 = 0#3) && decide (i = 0#10)) (some (.snap (d.extractLsb' 0 3) a))
  | 0x31 =>
    short (decide (a = 0#6) && decide (b = 0#6) && decide (m.extractLsb' 2 2 = 0#2))
      (some (.genq d (m.extractLsb' 0 2)))
  | 0x32 =>
    short (decide (b = 0#6) && decide (m.extractLsb' 1 3 = 0#3)) (some (.bias d a (isSet (m.extractLsb' 0 1))))
  | 0x33 =>
    short (decide (d = 0#6) && decide (b = 0#6) && decide (m.extractLsb' 1 3 = 0#3))
      (if m.extractLsb' 0 1 = 0#1 then some (.tlbiVa a) else onlyIf (decide (a = 0#6)) (some .tlbiAll))
  | 0x34 => mem fun x => onlyIf (decide (d = 0#6) && decide (k = 0#3)) (some (.fmtld x))
  | 0x35 => short (decide (d = 0#6) && decide (a = 0#6)) (some (.trap i))
  | 0x36 => short (decide (w.extractLsb' 0 22 = 0#22)) (some .rft)
  | 0x37 => short (decide (a = 0#6)) (some (.csrr d i))
  | 0x38 => short true (some (.csrw d a i))
  | 0x39 => short (decide (d = 0#6) && decide (a = 0#6)) (some (.dbrk i))
  | 0x3A =>
    short (decide (i.extractLsb' 6 2 = 0#2))
      (match (i.extractLsb' 8 2).toNat with
      | 0 => onlyIf (decide (a = 0#6)) (some (.acctCtx d (i.extractLsb' 4 2) (i.extractLsb' 0 4)))
      | 1 => onlyIf (decide (a = 0#6) && decide (i.extractLsb' 4 2 = 0#2)) (some (.acctCore d (i.extractLsb' 0 4)))
      | 2 => onlyIf (decide (d = 0#6) && decide (i.extractLsb' 0 6 = 0#6)) (some (.acctMark a))
      | _ => none)
  | 0x3B => short (decide (a = 0#6) && decide (i.extractLsb' 3 7 = 0#7)) (some (.telem d (i.extractLsb' 0 3)))
  | 0x3C =>
    short (decide (d = 0#6) && decide (a = 0#6))
      (match (i.extractLsb' 8 2).toNat with
      | 0 => onlyIf (decide (i.extractLsb' 2 6 = 0#6)) (some (.mode (i.extractLsb' 0 2)))
      | 1 => onlyIf (decide (i.extractLsb' 1 7 = 0#7)) (some (.modeMe (isSet (i.extractLsb' 0 1))))
      | _ => none)
  | 0x3D =>
    short (decide (b = 0#6) && decide (m.extractLsb' 3 1 = 0#1))
      ((XlatKind.ofCode (m.extractLsb' 0 3).toNat).map fun z => .xlat d a z)
  | 0x3E => short (decide (w.extractLsb' 0 22 = 0#22)) (some .icsync)
  | 0x3F => short (decide (i.extractLsb' 7 3 = 0#3)) (some (.prio d a (i.extractLsb' 0 7)))
  | _ => none

/-- VADD, VSUB and VMUL's type, saturation and rounding (R167). -/
def decodeVArith (x : BitVec 3) (m : BitVec 5) : Option VArith :=
  match VType.ofCode (m.extractLsb' 0 4).toNat with
  | some (.int t) => if x = 0#3 then some (.int t (isSet (m.extractLsb' 4 1))) else none
  | some (.flt f) =>
    if m.extractLsb' 4 1 = 0#1 then (Rnd.ofCode x.toNat).map fun r => .flt f r else none
  | none => none
def VArith.x : VArith → BitVec 3
  | .int _ _ => 0 | .flt _ r => r.code
def VArith.m : VArith → BitVec 5
  | .int t s => BitVec.ofBool s ++ t.code | .flt f _ => 0#1 ++ f.code

def decodeVDotT (x : BitVec 3) (m : BitVec 5) : Option VDotT :=
  if m.extractLsb' 4 1 ≠ 0#1 then none
  else
    match VType.ofCode (m.extractLsb' 0 4).toNat with
    | some (.int t) => if x = 0#3 then some (.int t) else none
    | some (.flt f) => (Rnd.ofCode x.toNat).map fun r => .flt f r
    | none => none
def VDotT.x : VDotT → BitVec 3
  | .int _ => 0 | .flt _ r => r.code
def VDotT.m : VDotT → BitVec 5
  | .int t => 0#1 ++ t.code | .flt f _ => 0#1 ++ f.code

/-- The A instruction of a word (R41, R59, R105, R111, R167, R199). -/
def decodeA (w : BitVec 32) : Option Instr :=
  let d := w.extractLsb' 17 6
  let a := w.extractLsb' 11 6
  let b := w.extractLsb' 5 6
  let m := w.extractLsb' 0 5
  let vd := w.extractLsb' 17 5
  let va := w.extractLsb' 11 5
  let vb := w.extractLsb' 5 5
  let x : BitVec 3 := w.extractLsb' 22 1 ++ w.extractLsb' 16 1 ++ w.extractLsb' 10 1
  let ity (f : IType → Instr) : Option Instr :=
    onlyIf (decide (m.extractLsb' 4 1 = 0#1)) ((IType.ofCode (m.extractLsb' 0 4).toNat).map f)
  let ityS (f : Bool → IType → Instr) : Option Instr :=
    (IType.ofCode (m.extractLsb' 0 4).toNat).map (f (isSet (m.extractLsb' 4 1)))
  let flt (f : FFmt → Rnd → Instr) : Option Instr :=
    (Rnd.ofCode (m.extractLsb' 0 3).toNat).map (f (FFmt.ofCode (m.extractLsb' 3 2).toNat))
  let m0 (i : Instr) : Option Instr := onlyIf (decide (m = 0#5)) (some i)
  let vty (c : Bool) (f : VType → Instr) : Option Instr :=
    onlyIf (c && decide (m.extractLsb' 4 1 = 0#1)) ((VType.ofCode (m.extractLsb' 0 4).toNat).map f)
  let rnd (f : Rnd → Instr) : Option Instr :=
    onlyIf (decide (m.extractLsb' 3 2 = 0#2)) ((Rnd.ofCode (m.extractLsb' 0 3).toNat).map f)
  match (w.extractLsb' 23 6).toNat with
  | 0x00 => onlyIf (decide (w.extractLsb' 0 23 = 0#23)) (some .anop)
  | 0x01 => some (.movi d (w.extractLsb' 1 16) (isSet (w.extractLsb' 0 1)))
  | 0x02 => ityS (.add d a b)
  | 0x03 => ityS (.sub d a b)
  | 0x04 => ityS (.mul d a b)
  | 0x05 => ity (.mulh d a b)
  | 0x06 => ity (.div d a b)
  | 0x07 => m0 (.and d a b)
  | 0x08 => m0 (.or d a b)
  | 0x09 => m0 (.xor d a b)
  | 0x0A => some (.shl d a b m)
  | 0x0B => ity (.shr d a b)
  | 0x0C => ity (.min d a b)
  | 0x0D => ity (.max d a b)
  | 0x0E =>
    match Cond.ofCode (d.extractLsb' 3 3).toNat with
    | some c => ity (.cmp c (d.extractLsb' 0 3) a b)
    | none => none
  | 0x0F =>
    onlyIf (decide (m.extractLsb' 4 1 = 0#1)) (some (.sel d a b (isSet (m.extractLsb' 3 1)) (m.extractLsb' 0 3)))
  | 0x10 =>
    onlyIf (decide (b = 0#6) && decide (m.extractLsb' 2 3 = 0#3))
      (some (.bits d a (BitOp.ofCode (m.extractLsb' 0 2).toNat)))
  | 0x11 => m0 (.bfx d a b)
  | 0x12 =>
    onlyIf (decide (d.extractLsb' 3 3 = 0#3) && decide (m.extractLsb' 1 4 = 0#4))
      (some (.pred (d.extractLsb' 0 3) a b (isSet (m.extractLsb' 0 1))))
  | 0x13 => some (.lea d a (w.extractLsb' 0 11))
  | 0x14 => flt (.fadd d a b)
  | 0x15 => flt (.fmul d a b)
  | 0x16 => flt (.ffma d a b)
  | 0x17 => flt (.fdiv d a b)
  | 0x18 =>
    onlyIf (decide (m.extractLsb' 0 3 = 0#3))
      ((Cond.ofCode (d.extractLsb' 3 3).toNat).map fun c =>
        .fcmp c (d.extractLsb' 0 3) a b (FFmt.ofCode (m.extractLsb' 3 2).toNat))
  | 0x19 =>
    onlyIf (decide (b.extractLsb' 3 3 = 0#3))
      ((Rnd.ofCode (m.extractLsb' 0 3).toNat).map fun r =>
        .fcvt d a (isSet (b.extractLsb' 2 1)) (FFmt.ofCode (b.extractLsb' 0 2).toNat)
          (FFmt.ofCode (m.extractLsb' 3 2).toNat) r)
  | 0x1A =>
    onlyIf (decide (m.extractLsb' 1 2 = 0#2))
      (some (.fmnx d a b (FFmt.ofCode (m.extractLsb' 3 2).toNat) (isSet (m.extractLsb' 0 1))))
  | 0x1B => (decodeVArith x m).map (.vadd vd va vb)
  | 0x1C => (decodeVArith x m).map (.vsub vd va vb)
  | 0x1D => (decodeVArith x m).map (.vmul vd va vb)
  | 0x1E =>
    onlyIf (decide (m.extractLsb' 4 1 = 0#1))
      (match VFmt.ofCode (m.extractLsb' 0 4).toNat, Rnd.ofCode x.toNat with
      | some f, some r => some (.vfma vd va vb f r)
      | _, _ => none)
  | 0x1F => vty (decide (x = 0#3)) (.vmin vd va vb)
  | 0x20 => vty (decide (x = 0#3)) (.vmax vd va vb)
  | 0x21 => onlyIf (decide (m = 0#5)) ((LogOp.ofCode x.toNat).map (.vlog vd va vb))
  | 0x22 =>
    onlyIf (decide (x.extractLsb' 1 2 = 0#2))
      (if m.extractLsb' 4 1 = 1#1 then
        onlyIf (decide (vb = 0#5)) (some (.vsh vd va (.imm (m.extractLsb' 0 4)) (isSet (x.extractLsb' 0 1))))
       else onlyIf (decide (m = 0#5)) (some (.vsh vd va (.reg vb) (isSet (x.extractLsb' 0 1)))))
  | 0x23 =>
    match Cond.ofCode x.toNat with
    | some c => vty true fun t => .vcmp vd va vb t c
    | none => none
  | 0x24 => onlyIf (decide (x = 0#3)) (m0 (.vsel vd va vb))
  | 0x25 =>
    match RedOp.ofCode (x.extractLsb' 0 2).toNat, Rnd.ofCode (vb.extractLsb' 2 3).toNat with
    | some o, some r => vty (decide (vb.extractLsb' 0 2 = 0#2)) fun t => .vred vd va o (isSet (x.extractLsb' 2 1)) t r
    | _, _ => none
  | 0x26 =>
    match RedOp.ofCode (x.extractLsb' 0 2).toNat, Rnd.ofCode (vb.extractLsb' 2 3).toNat with
    | some o, some r => vty (decide (vb.extractLsb' 0 2 = 0#2)) fun t => .vscan vd va o (isSet (x.extractLsb' 2 1)) t r
    | _, _ => none
  | 0x27 => onlyIf (decide (x = 0#3)) (m0 (.vperm vd va vb))
  | 0x28 =>
    (Rnd.ofCode x.toNat).map fun r =>
      .vcvt vd va (EType.ofCode (m.extractLsb' 0 4).toNat) (EType.ofCode (vb.extractLsb' 0 4).toNat)
        (isSet (vb.extractLsb' 4 1)) r (isSet (m.extractLsb' 4 1))
  | 0x29 =>
    onlyIf (decide (vb = 0#5) && decide (m.extractLsb' 4 1 = 0#1))
      ((VFmt.ofCode (m.extractLsb' 0 4).toNat).map fun f => .vsfu vd va (SfuFn.ofCode x.toNat) f)
  | 0x2A => onlyIf (decide (m.extractLsb' 2 3 = 0#3)) (some (.vmov d a b (m.extractLsb' 0 2)))
  | 0x2B =>
    onlyIf (decide (x = 0#3) && decide (vb = 0#5) && decide (m.extractLsb' 0 4 = 15#4))
      (some (.venc vd va (isSet (m.extractLsb' 4 1))))
  | 0x2C => onlyIf (decide (x = 0#3) && decide (vb = 0#5) && decide (m = 15#5)) (some (.vdec vd va))
  | 0x2D => ity (.viota d a b)
  | 0x2E => onlyIf (decide (d.extractLsb' 4 2 = 0#2)) (some (.vrep (d.extractLsb' 0 4) a (w.extractLsb' 0 11)))
  | 0x2F =>
    onlyIf (decide (d.extractLsb' 4 2 = 0#2) && decide (b = 0#6) && decide (m.extractLsb' 0 4 = 0#4))
      (match MType.ofCode (d.extractLsb' 0 4).toNat, MType.ofCode (a.extractLsb' 0 4).toNat with
      | some ta, some tb =>
        some (.mfmt ta tb (isSet (a.extractLsb' 4 1)) (isSet (a.extractLsb' 5 1)) (isSet (m.extractLsb' 4 1)))
      | _, _ => none)
  | 0x30 => rnd (.mma d a b)
  | 0x31 => rnd (.mmas d a b)
  | 0x32 => rnd (.mdist d a b)
  | 0x33 => onlyIf (decide (m.extractLsb' 0 4 = 0#4)) (some (.mtopk d a b (isSet (m.extractLsb' 4 1))))
  | 0x34 =>
    onlyIf (decide (a = 0#6) && decide (b = 0#6) && decide (m.extractLsb' 1 4 = 0#4))
      (some (.mzero d (isSet (m.extractLsb' 0 1))))
  | 0x35 => onlyIf (decide (a = 0#6) && decide (b = 0#6)) (m0 (.mopen d))
  | 0x36 => onlyIf (decide (a = 0#6) && decide (b = 0#6)) (m0 (.mclose d))
  | 0x37 => onlyIf (decide (b = 0#6)) (m0 (.mtran d a))
  | 0x38 =>
    onlyIf (decide (m.extractLsb' 4 1 = 0#1))
      (match McvtOvf.ofCode (b.extractLsb' 3 2).toNat, Rnd.ofCode (b.extractLsb' 0 3).toNat with
      | some o, some r =>
        some (.mcvt d a (EType.ofCode (m.extractLsb' 0 4).toNat) (isSet (b.extractLsb' 5 1)) o r)
      | _, _ => none)
  | 0x39 =>
    onlyIf (decide (b.extractLsb' 2 4 = 0#4) && decide (m.extractLsb' 3 1 = 0#1))
      ((Rnd.ofCode (m.extractLsb' 0 3).toNat).map fun r =>
        .mew d a (MewOp.ofCode (b.extractLsb' 0 2).toNat) (isSet (m.extractLsb' 4 1)) r)
  | 0x3A =>
    onlyIf (decide (a = 0#6) && decide (b = 0#6) && decide (m.extractLsb' 1 4 = 0#4))
      (some (.mwait d (isSet (m.extractLsb' 0 1))))
  | 0x3B =>
    onlyIf (decide (m.extractLsb' 4 1 = 0#1)) ((VType.ofCode (m.extractLsb' 0 4).toNat).map (.vclmp d a b))
  | 0x3C => vty (decide (x = 0#3) && decide (vb = 0#5)) (.vabs vd va)
  | 0x3D =>
    onlyIf (decide (x = 0#3) && decide (vb = 0#5) && decide (m.extractLsb' 2 3 = 0#3))
      (some (.vbits vd va (BitOp.ofCode (m.extractLsb' 0 2).toNat)))
  | 0x3E => (decodeVDotT x m).map (.vdot vd va vb)
  | 0x3F => m0 (.hash d a b)
  | _ => none

/-- The two ways a bundle is not an instruction (R45 step 2): its first or its second word. -/
inductive Reject | cWord (cop : Nat) | aWord (aop : Nat)
  deriving DecidableEq, Repr

/-- A bundle's two words (R39 to R44). -/
def decodeWords (w0 w1 : BitVec 32) : Except Reject Bundle :=
  match decodeC w0 w1 with
  | none => .error (.cWord (w0.extractLsb' 22 6).toNat)
  | some c =>
    if w0.extractLsb' 31 1 = 1#1 then .ok ⟨w0.extractLsb' 28 3, c, 0, none⟩
    else
      match decodeA w1 with
      | none => .error (.aWord (w1.extractLsb' 23 6).toNat)
      | some a => .ok ⟨w0.extractLsb' 28 3, c, w1.extractLsb' 29 3, some a⟩

/-- A bundle as the doubleword at its address: word 0 in the low half (R39). -/
def decodeBundle (v : Word) : Except Reject Bundle :=
  decodeWords (v.extractLsb' 0 32) (v.extractLsb' 32 32)

/-- A bundle from the front of a list of bytes, lowest address first (R39), and what follows. -/
def decodeBytes (bs : List Byte) : Option (Bundle × List Byte) :=
  if bs.length < 8 then none
  else
    match decodeBundle (BitVec.ofNat 64 (leValue (bs.take 8))) with
    | .ok b => some (b, bs.drop 8)
    | .error _ => none

/-- The bundle of an opcode-table word, in which the bits above `nbits` are zero: read as a C word beside what
follows it, and where that is no bundle as the A word beside NOP. -/
def tableBundle (nbits w : Nat) : Nat :=
  let v := w % 2 ^ nbits
  match decodeWords (BitVec.ofNat 32 v) (BitVec.ofNat 32 (v >>> 32)) with
  | .ok _ => v
  | .error _ => (v % 2 ^ 32) <<< 32

/-- The instruction of an opcode-table word. -/
def decodeTableWord (nbits w : Nat) : Option Instr :=
  let v := w % 2 ^ nbits
  match decodeWords (BitVec.ofNat 32 v) (BitVec.ofNat 32 (v >>> 32)) with
  | .ok b => some b.c
  | .error _ => decodeA (BitVec.ofNat 32 v)

/-! ## The encoder -/

def b1 (b : Bool) : BitVec 1 := BitVec.ofBool b

/-- The C word of an instruction with stall field `s`, and its literal where it has one. -/
def encC (s : BitVec 3) : Instr → Option (BitVec 32 × Option (BitVec 32))
  | .nop => some (cRRR 0 s 0x00 0 0 0 0, none)
  | .litx d a lit => some (cRRI 1 s 0x01 d a 0, some lit)
  | .bra q n (.near o) => some (cBR 0 s 0x02 q (b1 n) o, none)
  | .bra q n (.far o) => some (cBR 1 s 0x02 q (b1 n) 0, some o)
  | .jmp d a (.near o) => some (cRRI 0 s 0x03 d a o, none)
  | .jmp d a (.far o) => some (cRRI 1 s 0x03 d a 0, some o)
  | .call q n (.near o) => some (cBR 0 s 0x04 q (b1 n) o, none)
  | .call q n (.far o) => some (cBR 1 s 0x04 q (b1 n) 0, some o)
  | .ret a => some (cRRI 0 s 0x05 0 a 0, none)
  | .loop a n => some (cRRI 0 s 0x06 0 a n, none)
  | .runMacro d a b (.near e) => some (cRRR 0 s 0x07 d a b e, none)
  | .runMacro d a b (.far e) => some (cRRR 1 s 0x07 d a b 0, some (0#26 ++ e))
  | .ld d k m => some (cMEM m.lBit s 0x08 d m.base k.code m.disp7, m.lit)
  | .st d z m => some (cMEM m.lBit s 0x09 d m.base (0#1 ++ z.code) m.disp7, m.lit)
  | .ldp d z m => some (cMEM m.lBit s 0x0A d m.base (1#2 ++ b1 z) m.disp7, m.lit)
  | .stp d z m => some (cMEM m.lBit s 0x0B d m.base (1#2 ++ b1 z) m.disp7, m.lit)
  | .pref k m => some (cMEM m.lBit s 0x0C 0 m.base (0#1 ++ k) m.disp7, m.lit)
  | .cflush k m => some (cMEM m.lBit s 0x0D 0 m.base k.code m.disp7, m.lit)
  | .vld d r m => some (cMEM m.lBit s 0x0E d m.base (0#2 ++ b1 r) m.disp7, m.lit)
  | .vst d m => some (cMEM m.lBit s 0x0F d m.base 0 m.disp7, m.lit)
  | .vgath d a b c => some (cRRR 0 s 0x10 d a b (0#2 ++ c), none)
  | .vscat d a b c => some (cRRR 0 s 0x11 d a b (0#2 ++ c), none)
  | .tld d r m => some (cMEM m.lBit s 0x12 d m.base (0#2 ++ b1 r) m.disp7, m.lit)
  | .tst d m => some (cMEM m.lBit s 0x13 d m.base 0 m.disp7, m.lit)
  | .amo d a b t o c => some (cRRR 1 s 0x14 d a b 0, some (c.lit t.code o.code))
  | .cas d a b t none => some (cRRR 0 s 0x15 d a b t.code, none)
  | .cas d a b t (some c) => some (cRRR 1 s 0x15 d a b t.code, some (c.lit 0 0))
  | .fence o c => some (cRRI 0 s 0x16 0 0 (0#4 ++ o.code ++ c.code), none)
  | .sbind d m => some (cMEM m.lBit s 0x17 d m.base 0 m.disp7, m.lit)
  | .sdrop d => some (cRRR 0 s 0x18 d 0 0 0, none)
  | .acopy d a b c => some (cRRR 0 s 0x19 d a b (0#2 ++ c), none)
  | .chwait d c => some (cRRI 0 s 0x1A d 0 (0#8 ++ c), none)
  | .bar q n => some (cRRI 0 s 0x1B (0#3 ++ q) 0 (0#5 ++ n), none)
  | .sstep q n => some (cRRI 0 s 0x1C (0#3 ++ q) 0 (0#5 ++ n), none)
  | .send d a n => some (cRRR 0 s 0x1D d a 0 (0#1 ++ n), none)
  | .recv d a q c => some (cRRR 0 s 0x1E d a (0#3 ++ q) c.code, none)
  | .recvAcc d a q t => some (cRRR 0 s 0x1E d a (1#3 ++ q) t.code, none)
  | .xchg d a q m => some (cRRR 0 s 0x1F d a (0#3 ++ q) m, none)
  | .restrUp d a => some (cRRR 0 s 0x20 d a 0 0, none)
  | .restrTake d a q m => some (cRRR 0 s 0x20 d a (0#2 ++ q ++ 1#1) m, none)
  | .prolgDown d a m => some (cRRR 0 s 0x21 d a 0 m, none)
  | .prolgTake d a q => some (cRRR 0 s 0x21 d a (0#2 ++ q ++ 1#1) 0, none)
  | .wload d r m => some (cMEM m.lBit s 0x22 d m.base (0#2 ++ b1 r) m.disp7, m.lit)
  | .cyc d v => some (cRRI 0 s 0x23 d 0 (0#7 ++ v.code), none)
  | .spawn d a (.reg b) m => some (cRRR 0 s 0x24 d a b m, none)
  | .spawn d a (.label o) m => some (cRRR 1 s 0x24 d a 0 m, some o)
  | .susp a => some (cRRI 0 s 0x25 0 a 0, none)
  | .exit => some (cRRR 0 s 0x26 0 0 0 0, none)
  | .waitc d a => some (cRRR 0 s 0x27 d a 0 0, none)
  | .cancel a f => some (cRRR 0 s 0x28 0 a 0 (0#3 ++ b1 f), none)
  | .pairOn => some (cRRI 0 s 0x29 0 0 1, none)
  | .pairOff => some (cRRI 0 s 0x29 0 0 0, none)
  | .ppatch m => some (cMEM m.lBit s 0x2A 0 m.base 0 m.disp7, m.lit)
  | .pstep d a b f => some (cRRR 0 s 0x2B d a b (0#3 ++ b1 f), none)
  | .psave m => some (cMEM m.lBit s 0x2C 0 m.base 0 m.disp7, m.lit)
  | .prest m => some (cMEM m.lBit s 0x2D 0 m.base 0 m.disp7, m.lit)
  | .pset a b f => some (cRRR 0 s 0x2E 0 a b (0#3 ++ b1 f), none)
  | .pget d b z => some (cRRR 0 s 0x2F d 0 b (0#2 ++ z.code), none)
  | .snap q a => some (cRRR 0 s 0x30 (0#3 ++ q) a 0 0, none)
  | .genq d n => some (cRRR 0 s 0x31 d 0 0 (0#2 ++ n), none)
  | .bias d a f => some (cRRR 0 s 0x32 d a 0 (0#3 ++ b1 f), none)
  | .tlbiVa a => some (cRRR 0 s 0x33 0 a 0 0, none)
  | .tlbiAll => some (cRRR 0 s 0x33 0 0 0 1, none)
  | .fmtld m => some (cMEM m.lBit s 0x34 0 m.base 0 m.disp7, m.lit)
  | .trap n => some (cRRI 0 s 0x35 0 0 n, none)
  | .rft => some (cRRR 0 s 0x36 0 0 0 0, none)
  | .csrr d n => some (cRRI 0 s 0x37 d 0 n, none)
  | .csrw d a n => some (cRRI 0 s 0x38 d a n, none)
  | .dbrk n => some (cRRI 0 s 0x39 0 0 n, none)
  | .acctCtx d y c => some (cRRI 0 s 0x3A d 0 (0#4 ++ y ++ c), none)
  | .acctCore d c => some (cRRI 0 s 0x3A d 0 (1#2 ++ 0#4 ++ c), none)
  | .acctMark a => some (cRRI 0 s 0x3A 0 a (2#2 ++ 0#8), none)
  | .telem d n => some (cRRI 0 s 0x3B d 0 (0#7 ++ n), none)
  | .mode n => some (cRRI 0 s 0x3C 0 0 (0#8 ++ n), none)
  | .modeMe f => some (cRRI 0 s 0x3C 0 0 (1#2 ++ 0#7 ++ b1 f), none)
  | .xlat d a z => some (cRRR 0 s 0x3D d a 0 (0#1 ++ z.code), none)
  | .icsync => some (cRRR 0 s 0x3E 0 0 0 0, none)
  | .prio d a n => some (cRRI 0 s 0x3F d a (0#3 ++ n), none)
  | _ => none

/-- The A word of an instruction with stall field `s`. -/
def encA (s : BitVec 3) : Instr → Option (BitVec 32)
  | .anop => some (aRRR s 0x00 0 0 0 0)
  | .movi d i h => some (aI16 s 0x01 d i (b1 h))
  | .add d a b z t => some (aRRR s 0x02 d a b (b1 z ++ t.code))
  | .sub d a b z t => some (aRRR s 0x03 d a b (b1 z ++ t.code))
  | .mul d a b z t => some (aRRR s 0x04 d a b (b1 z ++ t.code))
  | .mulh d a b t => some (aRRR s 0x05 d a b (0#1 ++ t.code))
  | .div d a b t => some (aRRR s 0x06 d a b (0#1 ++ t.code))
  | .and d a b => some (aRRR s 0x07 d a b 0)
  | .or d a b => some (aRRR s 0x08 d a b 0)
  | .xor d a b => some (aRRR s 0x09 d a b 0)
  | .shl d a b k => some (aRRR s 0x0A d a b k)
  | .shr d a b t => some (aRRR s 0x0B d a b (0#1 ++ t.code))
  | .min d a b t => some (aRRR s 0x0C d a b (0#1 ++ t.code))
  | .max d a b t => some (aRRR s 0x0D d a b (0#1 ++ t.code))
  | .cmp c q a b t => some (aRRR s 0x0E (c.code ++ q) a b (0#1 ++ t.code))
  | .sel d a b z q => some (aRRR s 0x0F d a b (0#1 ++ b1 z ++ q))
  | .bits d a o => some (aRRR s 0x10 d a 0 (0#3 ++ o.code))
  | .bfx d a b => some (aRRR s 0x11 d a b 0)
  | .pred q a b z => some (aRRR s 0x12 (0#3 ++ q) a b (0#4 ++ b1 z))
  | .lea d a i => some (aRRI s 0x13 d a i)
  | .fadd d a b f r => some (aRRR s 0x14 d a b (f.code ++ r.code))
  | .fmul d a b f r => some (aRRR s 0x15 d a b (f.code ++ r.code))
  | .ffma d a b f r => some (aRRR s 0x16 d a b (f.code ++ r.code))
  | .fdiv d a b f r => some (aRRR s 0x17 d a b (f.code ++ r.code))
  | .fcmp c q a b f => some (aRRR s 0x18 (c.code ++ q) a b (f.code ++ 0#3))
  | .fcvt d a o sf df r => some (aRRR s 0x19 d a (0#3 ++ b1 o ++ sf.code) (df.code ++ r.code))
  | .fmnx d a b f z => some (aRRR s 0x1A d a b (f.code ++ 0#2 ++ b1 z))
  | .vadd d a b t => some (aVEC s 0x1B d a b t.x t.m)
  | .vsub d a b t => some (aVEC s 0x1C d a b t.x t.m)
  | .vmul d a b t => some (aVEC s 0x1D d a b t.x t.m)
  | .vfma d a b f r => some (aVEC s 0x1E d a b r.code (0#1 ++ f.code))
  | .vmin d a b t => some (aVEC s 0x1F d a b 0 (0#1 ++ t.code))
  | .vmax d a b t => some (aVEC s 0x20 d a b 0 (0#1 ++ t.code))
  | .vlog d a b o => some (aVEC s 0x21 d a b o.code 0)
  | .vsh d a (.reg b) r => some (aVEC s 0x22 d a b (0#2 ++ b1 r) 0)
  | .vsh d a (.imm k) r => some (aVEC s 0x22 d a 0 (0#2 ++ b1 r) (1#1 ++ k))
  | .vcmp d a b t c => some (aVEC s 0x23 d a b c.code (0#1 ++ t.code))
  | .vsel d a b => some (aVEC s 0x24 d a b 0 0)
  | .vred d a o col t r => some (aVEC s 0x25 d a (r.code ++ 0#2) (b1 col ++ o.code) (0#1 ++ t.code))
  | .vscan d a o col t r => some (aVEC s 0x26 d a (r.code ++ 0#2) (b1 col ++ o.code) (0#1 ++ t.code))
  | .vperm d a b => some (aVEC s 0x27 d a b 0 0)
  | .vcvt d a dt sty z r o => some (aVEC s 0x28 d a (b1 z ++ sty.code) r.code (b1 o ++ dt.code))
  | .vsfu d a fn f => some (aVEC s 0x29 d a 0 fn.code (0#1 ++ f.code))
  | .vmov d a b md => some (aRRR s 0x2A d a b (0#3 ++ md))
  | .venc d a o => some (aVEC s 0x2B d a 0 0 (b1 o ++ 15#4))
  | .vdec d a => some (aVEC s 0x2C d a 0 0 15)
  | .viota d a b t => some (aRRR s 0x2D d a b (0#1 ++ t.code))
  | .vrep n a i => some (aRRI s 0x2E (0#2 ++ n) a i)
  | .mfmt ta tb sa sb o => some (aRRR s 0x2F (0#2 ++ ta.code) (b1 sb ++ b1 sa ++ tb.code) 0 (b1 o ++ 0#4))
  | .mma d a b r => some (aRRR s 0x30 d a b (0#2 ++ r.code))
  | .mmas d a b r => some (aRRR s 0x31 d a b (0#2 ++ r.code))
  | .mdist d a b r => some (aRRR s 0x32 d a b (0#2 ++ r.code))
  | .mtopk d a b z => some (aRRR s 0x33 d a b (b1 z ++ 0#4))
  | .mzero d z => some (aRRR s 0x34 d 0 0 (0#4 ++ b1 z))
  | .mopen d => some (aRRR s 0x35 d 0 0 0)
  | .mclose d => some (aRRR s 0x36 d 0 0 0)
  | .mtran d a => some (aRRR s 0x37 d a 0 0)
  | .mcvt d a t z o r => some (aRRR s 0x38 d a (b1 z ++ o.code ++ r.code) (0#1 ++ t.code))
  | .mew d a o z r => some (aRRR s 0x39 d a (0#4 ++ o.code) (b1 z ++ 0#1 ++ r.code))
  | .mwait d z => some (aRRR s 0x3A d 0 0 (0#4 ++ b1 z))
  | .vclmp d a b t => some (aRRR s 0x3B d a b (0#1 ++ t.code))
  | .vabs d a t => some (aVEC s 0x3C d a 0 0 (0#1 ++ t.code))
  | .vbits d a o => some (aVEC s 0x3D d a 0 0 (0#3 ++ o.code))
  | .vdot d a b t => some (aVEC s 0x3E d a b t.x t.m)
  | .hash d a b => some (aRRR s 0x3F d a b 0)
  | _ => none

/-- The two words of a bundle (R39): none where it holds an event, or an A instruction beside a literal. -/
def encode (b : Bundle) : Option Word :=
  match encC b.cs b.c, b.a with
  | some (w, some lit), none => if b.as = 0#3 then some (lit ++ w) else none
  | some (w, none), some a => (encA b.as a).map fun w1 => w1 ++ w
  | _, _ => none

end Sys2Proof
end

