-- ==== Sys2Proof/Machine/Flags.lean ====
section
/-! DEFINITION. The number formats and exact arithmetic of R73 to R94: decoding to exact values, the one
rounding of every operation, narrowing, block scales, the decode table, integers, and the FPST flags each
of them raises. -/

namespace Sys2Proof.Machine

/-- The flags an operation raises, in FPST's bit order: NV DZ OVF UF NX (R78). -/
abbrev FpFlags := BitVec 5
def fNV : FpFlags := 0b10000#5
def fDZ : FpFlags := 0b01000#5
def fOVF : FpFlags := 0b00100#5
def fUF : FpFlags := 0b00010#5
def fNX : FpFlags := 0b00001#5

/-- The formats of R73 but UE8M0. -/
inductive FK | f64 | f32 | f16 | bf16 | e4m3 | e5m2 | e2m1 | w19
  deriving DecidableEq, Repr

def fkOfScalar : FFmt → FK
  | .f64 => .f64 | .f32 => .f32 | .f16 => .f16 | .bf16 => .bf16
def fkOfVec : VFmt → FK
  | .f32 => .f32 | .f16 => .f16 | .bf16 => .bf16

def FK.ebits : FK → Nat
  | .f64 => 11 | .f32 => 8 | .f16 => 5 | .bf16 => 8 | .e4m3 => 4 | .e5m2 => 5 | .e2m1 => 2 | .w19 => 8
def FK.fbits : FK → Nat
  | .f64 => 52 | .f32 => 23 | .f16 => 10 | .bf16 => 7 | .e4m3 => 3 | .e5m2 => 2 | .e2m1 => 1 | .w19 => 10
def FK.bias : FK → Nat
  | .f64 => 1023 | .f32 => 127 | .f16 => 15 | .bf16 => 127 | .e4m3 => 7 | .e5m2 => 15 | .e2m1 => 1 | .w19 => 127
def FK.width (f : FK) : Nat := 1 + f.ebits + f.fbits
def FK.hasInf : FK → Bool
  | .e4m3 | .e2m1 => false
  | _ => true
def FK.hasNaN : FK → Bool
  | .e2m1 => false
  | _ => true
/-- The canonical NaN of R74; code 0 where the format has none. -/
def FK.canonNaN : FK → Nat
  | .f64 => 0x7FF8000000000000 | .f32 => 0x7FC00000 | .f16 => 0x7E00 | .bf16 => 0x7FC0 | .e4m3 => 0x7F
  | .e5m2 => 0x7E | .e2m1 => 0 | .w19 => 0x3FE00
/-- The code of the largest finite magnitude (R74). -/
def FK.maxCode : FK → Nat
  | .e4m3 => 0x7E
  | .e2m1 => 0x7
  | f => (2 ^ f.ebits - 1) <<< f.fbits - 1
def FK.infCode (f : FK) : Nat := (2 ^ f.ebits - 1) <<< f.fbits
/-- The exponent of the last place of a subnormal. -/
def FK.qmin (f : FK) : Int := 1 - (f.bias : Int) - (f.fbits : Int)
def FK.signed (f : FK) (neg : Bool) (code : Nat) : Nat :=
  if neg then code + 2 ^ (f.width - 1) else code

/-- An exact value: a NaN (signalling or quiet), an infinity, or ± m × 2^e. -/
inductive FV
  | nan (sig : Bool)
  | inf (neg : Bool)
  | fin (neg : Bool) (m : Nat) (e : Int)
  deriving DecidableEq, Repr

/-- The value of a code (R73, R74). -/
def decodeF (f : FK) (code : Nat) : FV :=
  let neg := code.testBit (f.width - 1)
  let ex := (code >>> f.fbits) % 2 ^ f.ebits
  let fr := code % 2 ^ f.fbits
  let top := 2 ^ f.ebits - 1
  if ex = top ∧ f.hasInf = true then
    if fr = 0 then .inf neg else .nan (!(fr.testBit (f.fbits - 1)))
  else if f = .e4m3 ∧ ex = top ∧ fr = 7 then .nan false
  else if ex = 0 then .fin neg fr f.qmin
  else .fin neg (fr + 2 ^ f.fbits) ((ex : Int) - 1 + f.qmin)

/-- The exponent of the leading bit of num/den, both positive. -/
def log2Quot (num den : Nat) : Int :=
  let l : Int := (Nat.log2 num : Int) - (Nat.log2 den : Int)
  let ge := if 0 ≤ l then decide (den <<< l.toNat ≤ num) else decide (den ≤ num <<< (-l).toNat)
  if ge then l else l - 1

/-- One rounding (R81, R82): the magnitude n × 2^q, whether it differs from the exact one, and whether
the neighbour farther from zero was taken. -/
structure RMag where
  n : Nat
  q : Int
  inexact : Bool
  hi : Bool
  deriving DecidableEq, Repr

/-- Round the positive magnitude num/den × 2^e to `p` bits with last places no finer than 2^qmin. -/
def roundMag (p : Nat) (qmin : Int) (mode : Rnd) (rnd : Nat) (neg : Bool) (num den : Nat) (e : Int) : RMag :=
  let ex := log2Quot num den + e
  let q := max (ex - ((p : Int) - 1)) qmin
  let s := e - q
  let nn := if 0 ≤ s then num <<< s.toNat else num
  let dd := if 0 ≤ s then den else den <<< (-s).toNat
  let lo := nn / dd
  let rem := nn % dd
  let up : Bool :=
    if rem = 0 then false
    else
      match mode with
      | .rne => decide (dd < 2 * rem) || (decide (dd = 2 * rem) && decide (lo % 2 = 1))
      | .rtz => false
      | .rup => !neg
      | .rdn => neg
      | .sr => decide (rnd < rem * 2 ^ 32 / dd)
  ⟨if up then lo + 1 else lo, q, decide (rem ≠ 0), up⟩

/-- n × 2^q as a code of `f`, for a magnitude `f` holds. -/
def encodeMag (f : FK) (neg : Bool) (n : Nat) (q : Int) : Nat :=
  let n' := if 2 ^ (f.fbits + 1) ≤ n then n / 2 else n
  let q' := if 2 ^ (f.fbits + 1) ≤ n then q + 1 else q
  if n' < 2 ^ f.fbits then f.signed neg n'
  else f.signed neg ((n' - 2 ^ f.fbits) + ((q' - f.qmin + 1).toNat <<< f.fbits))

/-- m1 × 2^e1 < m2 × 2^e2. -/
def magLt (m1 : Nat) (e1 : Int) (m2 : Nat) (e2 : Int) : Bool :=
  if e1 ≤ e2 then decide (m1 < m2 <<< (e2 - e1).toNat) else decide (m1 <<< (e1 - e2).toNat < m2)

/-- Whether n × 2^q is beyond the largest finite value of `f`. -/
def beyondMax (f : FK) (n : Nat) (q : Int) : Bool :=
  match decodeF f f.maxCode with
  | .fin _ m e => magLt m e n q
  | _ => false

/-- Whether n × 2^q is below the smallest normal value of `f`. -/
def belowNormal (f : FK) (n : Nat) (q : Int) : Bool := magLt n q (2 ^ f.fbits) f.qmin

/-- The overflow result of R84. -/
def overflowCode (f : FK) (mode : Rnd) (neg : Bool) (r : RMag) : Nat :=
  let toInf : Bool :=
    match mode with
    | .rne => true
    | .rtz => false
    | .rup => !neg
    | .rdn => neg
    | .sr => r.hi || !r.inexact
  f.signed neg (if toInf then f.infCode else f.maxCode)

/-- The flags of an inexact result that did not overflow (R78). -/
def tinyFlags (f : FK) (r : RMag) : FpFlags :=
  if r.inexact then (if belowNormal f r.n r.q then fNX ||| fUF else fNX) else 0

/-- The one rounding of arithmetic in its own format: a non-zero magnitude num/den × 2^e (R81, R84). -/
def roundArith (f : FK) (mode : Rnd) (rnd : Nat) (neg : Bool) (num den : Nat) (e : Int) : Nat × FpFlags :=
  let r := roundMag (f.fbits + 1) f.qmin mode rnd neg num den e
  if beyondMax f r.n r.q then (overflowCode f mode neg r, fOVF ||| fNX)
  else (encodeMag f neg r.n r.q, tinyFlags f r)

def nanFlags (sig : Bool) : FpFlags := if sig then fNV else 0

/-- An exact value rounded into its own arithmetic format. -/
def roundFV (f : FK) (mode : Rnd) (rnd : Nat) : FV → Nat × FpFlags
  | .nan sig => (f.canonNaN, nanFlags sig)
  | .inf neg => (f.signed neg f.infCode, 0)
  | .fin neg m e => if m = 0 then (f.signed neg 0, 0) else roundArith f mode rnd neg m 1 e

/-- Narrow(v, fmt, ovf) of R85; `infOvf` is .inf. -/
def narrow (f : FK) (infOvf : Bool) (mode : Rnd) (rnd : Nat) : FV → Nat × FpFlags
  | .nan sig => if f.hasNaN then (f.canonNaN, nanFlags sig) else (0, fOVF ||| nanFlags sig)
  | .inf neg =>
    if f.hasInf then (f.signed neg f.infCode, 0)
    else if infOvf && f.hasNaN then (f.canonNaN, fOVF)
    else (f.signed neg f.maxCode, fOVF)
  | .fin neg m e =>
    if m = 0 then (f.signed neg 0, 0)
    else
      let r := roundMag (f.fbits + 1) f.qmin mode rnd neg m 1 e
      if beyondMax f r.n r.q then
        if !infOvf || (!f.hasInf && !f.hasNaN) then (f.signed neg f.maxCode, fOVF ||| fNX)
        else if !f.hasInf then (f.canonNaN, fOVF ||| fNX)
        else (overflowCode f mode neg r, fOVF ||| fNX)
      else (encodeMag f neg r.n r.q, tinyFlags f r)

/-! ## Exact sums and products -/

def FV.isNaN : FV → Bool
  | .nan _ => true
  | _ => false
def FV.isSig : FV → Bool
  | .nan s => s
  | _ => false
def FV.isNeg : FV → Bool
  | .nan _ => false
  | .inf n => n
  | .fin n _ _ => n
def FV.negate : FV → FV
  | .nan s => .nan s
  | .inf n => .inf (!n)
  | .fin n m e => .fin (!n) m e

/-- The exact product; Inf × 0 is a NaN and raises NV (R112). -/
def FV.mul (a b : FV) : FV × FpFlags :=
  match a, b with
  | .nan s, .nan t => (.nan false, nanFlags (s || t))
  | .nan s, _ => (.nan false, nanFlags s)
  | _, .nan t => (.nan false, nanFlags t)
  | .inf n, .inf k => (.inf (n != k), 0)
  | .inf n, .fin k m _ => if m = 0 then (.nan false, fNV) else (.inf (n != k), 0)
  | .fin k m _, .inf n => if m = 0 then (.nan false, fNV) else (.inf (n != k), 0)
  | .fin n m e, .fin k m' e' => (.fin (n != k) (m * m') (e + e'), 0)

def orFlags (l : List FpFlags) : FpFlags := l.foldl (· ||| ·) 0

def termInt (q : Int) : FV → Int
  | .fin neg m e => let v : Int := ((m <<< (e - q).toNat : Nat) : Int); if neg then -v else v
  | _ => 0

/-- The exact sum of finite terms, as an integer times 2 to the least exponent. -/
def sumInt (ts : List FV) : Int × Int :=
  let q := (ts.map fun t => match t with | .fin _ m e => if m = 0 then (0 : Int) else e | _ => 0).foldl min 0
  ((ts.map (termInt q)).foldl (· + ·) 0, q)

def FV.isZero : FV → Bool
  | .fin _ m _ => decide (m = 0)
  | _ => false

/-- The sign of a zero sum (R178): −0 when every term is −0, +0 when every term is +0, else +0, or −0
under .rdn. -/
def zeroSumNeg (mode : Rnd) (ts : List FV) : Bool :=
  if ts.all FV.isZero && ts.all FV.isNeg then true
  else if ts.all FV.isZero && ts.all (fun t => !t.isNeg) then false
  else decide (mode = .rdn)

/-- The sum of exact terms, rounded once (R112, R178, R179); `fl` are the flags the terms raised. -/
def sumRound (f : FK) (mode : Rnd) (rnd : Nat) (ts : List FV) (fl : FpFlags) : Nat × FpFlags :=
  if ts.any FV.isNaN then (f.canonNaN, fl ||| nanFlags (ts.any FV.isSig))
  else
    let pinf := ts.any fun t => decide (t = .inf false)
    let ninf := ts.any fun t => decide (t = .inf true)
    if pinf && ninf then (f.canonNaN, fl ||| fNV)
    else if pinf || ninf then (f.signed ninf f.infCode, fl)
    else
      let s := sumInt ts
      if s.1 = 0 then (f.signed (zeroSumNeg mode ts) 0, fl)
      else
        let r := roundArith f mode rnd (decide (s.1 < 0)) s.1.natAbs 1 s.2
        (r.1, fl ||| r.2)

def fAdd (f : FK) (mode : Rnd) (rnd a b : Nat) : Nat × FpFlags :=
  sumRound f mode rnd [decodeF f a, decodeF f b] 0
def fSub (f : FK) (mode : Rnd) (rnd a b : Nat) : Nat × FpFlags :=
  sumRound f mode rnd [decodeF f a, (decodeF f b).negate] 0
def fMul (f : FK) (mode : Rnd) (rnd a b : Nat) : Nat × FpFlags :=
  let p := (decodeF f a).mul (decodeF f b)
  let r := roundFV f mode rnd p.1
  (r.1, r.2 ||| p.2)
/-- a × b + d with one rounding (R112): Inf × 0 is NaN with NV even beside a quiet NaN. -/
def fFma (f : FK) (mode : Rnd) (rnd a b d : Nat) : Nat × FpFlags :=
  let p := (decodeF f a).mul (decodeF f b)
  sumRound f mode rnd [p.1, decodeF f d] p.2
def fDiv (f : FK) (mode : Rnd) (rnd a b : Nat) : Nat × FpFlags :=
  match decodeF f a, decodeF f b with
  | .nan s, .nan t => (f.canonNaN, nanFlags (s || t))
  | .nan s, _ => (f.canonNaN, nanFlags s)
  | _, .nan t => (f.canonNaN, nanFlags t)
  | .inf _, .inf _ => (f.canonNaN, fNV)
  | .inf n, .fin k _ _ => (f.signed (n != k) f.infCode, 0)
  | .fin n _ _, .inf k => (f.signed (n != k) 0, 0)
  | .fin n m e, .fin k m' e' =>
    if m' = 0 then
      if m = 0 then (f.canonNaN, fNV) else (f.signed (n != k) f.infCode, fDZ)
    else if m = 0 then (f.signed (n != k) 0, 0)
    else roundArith f mode rnd (n != k) m m' (e - e')

/-- a < b on non-NaN values, −0 equal to +0. -/
def FV.lt (a b : FV) : Bool :=
  match a, b with
  | .nan _, _ | _, .nan _ => false
  | .inf n, .inf k => n && !k
  | .inf n, .fin .. => n
  | .fin .., .inf k => !k
  | .fin n m e, .fin k m' e' =>
    if m = 0 ∧ m' = 0 then false
    else if m = 0 then !k
    else if m' = 0 then n
    else if n then (if k then magLt m' e' m e else true)
    else (if k then false else magLt m e m' e')
def FV.eqv (a b : FV) : Bool := !a.isNaN && !b.isNaN && !a.lt b && !b.lt a

/-- A float comparison and its flag (R113). -/
def fCmp (c : Cond) (a b : FV) : Bool × FpFlags :=
  let nan := a.isNaN || b.isNaN
  let sig := nanFlags (a.isSig || b.isSig)
  match c with
  | .eq => (a.eqv b, sig)
  | .ne => (!(a.eqv b), sig)
  | .un => (nan, sig)
  | .lt => (a.lt b, if nan then fNV else 0)
  | .gt => (b.lt a, if nan then fNV else 0)
  | .le => (!nan && !(b.lt a), if nan then fNV else 0)
  | .ge => (!nan && !(a.lt b), if nan then fNV else 0)

/-- IEEE minimum and maximum (R77): a NaN gives the canonical NaN and −0 is below +0. -/
def fMinMax (f : FK) (mx : Bool) (a b : Nat) : Nat × FpFlags :=
  let x := decodeF f a
  let y := decodeF f b
  if x.isNaN || y.isNaN then (f.canonNaN, nanFlags (x.isSig || y.isSig))
  else
    let aLess := x.lt y || (x.eqv y && x.isNeg && !y.isNeg)
    let bits := fun (n : Nat) => n % 2 ^ f.width
    (if aLess != mx then bits a else bits b, 0)

/-- A code of one format as a code of a format that holds every value of it (R114). -/
def widen (src dst : FK) (a : Nat) : Nat × FpFlags := roundFV dst .rne 0 (decodeF src a)

/-! ## Stochastic states (R82, R83) -/

/-- One xorshift step. -/
def xs (s : BitVec 32) : BitVec 32 :=
  let s := s ^^^ (s <<< 13)
  let s := s ^^^ (s >>> 17)
  s ^^^ (s <<< 5)

def xsN : Nat → BitVec 32 → BitVec 32
  | 0, s => s
  | n + 1, s => xsN n (xs s)

/-! ## Integers (R91 to R93) -/

/-- The `w`-bit operand of a type as a number. -/
def intVal (signed : Bool) (w v : Nat) : Int := if signed then sextNat w v else ((v % 2 ^ w : Nat) : Int)

def intMin (signed : Bool) (w : Nat) : Int := if signed then -(2 ^ (w - 1) : Int) else 0
def intMax (signed : Bool) (w : Nat) : Int := if signed then 2 ^ (w - 1) - 1 else 2 ^ w - 1
def clampInt (lo hi i : Int) : Int := if i < lo then lo else if hi < i then hi else i

/-- The `w` bits of an exact result, wrapped or clamped (R91). -/
def intBits (sat signed : Bool) (w : Nat) (i : Int) : Nat :=
  ((if sat then clampInt (intMin signed w) (intMax signed w) i else i) % (2 ^ w : Int)).toNat

/-- The truncated quotient, and the two corners of R92. -/
def intDiv (signed : Bool) (w : Nat) (a b : Int) : Nat :=
  if b = 0 then 2 ^ w - 1 else intBits false signed w (Int.tdiv a b)

/-- Float to integer (R93). -/
def fToInt (signed : Bool) (w : Nat) (mode : Rnd) (rnd : Nat) : FV → Nat × FpFlags
  | .nan _ => (0, fNV)
  | .inf neg => (intBits false signed w (if neg then intMin signed w else intMax signed w), fNV)
  | .fin neg m e =>
    if m = 0 then (0, 0)
    else
      let r := roundMag 4096 0 mode rnd neg m 1 e
      let v : Int := ((r.n <<< r.q.toNat : Nat) : Int)
      let i := if neg then -v else v
      if i < intMin signed w ∨ intMax signed w < i then
        (intBits true signed w i, fNV)
      else (intBits false signed w i, if r.inexact then fNX else 0)

def fvOfInt (i : Int) : FV := .fin (decide (i < 0)) i.natAbs 0

/-! ## Block scales (R86, R87) -/

/-- The value of an element under a UE8M0 scale code: under 0xFF a NaN, which still signals where the element does (R75). -/
def scaled (scale : Nat) (v : FV) : FV :=
  if scale = 255 then .nan v.isSig
  else
    match v with
    | .fin n m e => .fin n m (e + (scale : Int) - 127)
    | x => x

/-- The exponent of an element format's largest value (R87). -/
def FK.emaxel : FK → Int
  | .e2m1 => 2 | .e4m3 => 8 | _ => 15

/-- floor(log2) of a finite non-zero magnitude. -/
def FV.log2 : FV → Int
  | .fin _ m e => (Nat.log2 m : Int) + e
  | _ => 0

/-- The exponent of a block's largest magnitude; none where every element is zero. -/
def blockLog (l : List FV) : Option Int :=
  l.foldl (fun acc v =>
    if v.isZero then acc
    else match acc with
      | none => some v.log2
      | some x => some (max x v.log2)) none

/-- The scale code a block takes, and NV where it holds a NaN or an infinity (R87). -/
def blockScale (emaxel : Int) (l : List FV) : Nat × FpFlags :=
  if l.any (fun v => match v with | .fin .. => false | _ => true) then (255, fNV)
  else
    match blockLog l with
    | none => (127, 0)
    | some x => ((clampInt 0 254 (x - emaxel + 127)).toNat, 0)

/-- v / 2^(E − 127). -/
def unscaled (scale : Nat) (v : FV) : FV :=
  match v with
  | .fin n m e => .fin n m (e - ((scale : Int) - 127))
  | x => x

/-! ## The decode table (R88 to R90) -/

/-- A table entry: V in bit 31 and the W19 code in bits 18:0 (R88). -/
abbrev TabEntry := BitVec 32

/-- A decoded tbl8 code as a binary32 code, and NV for an invalid entry (R89). -/
def tblDecode (e : TabEntry) : Nat × FpFlags :=
  if !bitAt e 31 then (FK.f32.canonNaN, fNV)
  else
    match decodeF .w19 (fld e 18 0) with
    | .nan _ => (FK.f32.canonNaN, 0)
    | _ => ((fld e 18 10) <<< 23 + (fld e 9 0) <<< 13, 0)

/-- The codes of a table with their entries. -/
def tblCodes (tab : SMap TabEntry) : List (Nat × FV) :=
  tab.filterMap fun p =>
    if bitAt p.2 31 && decide (p.1 < 256) then some (p.1, decodeF .w19 (fld p.2 18 0)) else none

/-- The ordered list L of R90: by value, the lowest code of equal values. -/
def tblOrder (cs : List (Nat × FV)) : List (Nat × FV) :=
  let sorted := sortBy (fun a b => a.2.lt b.2) (cs.filter fun p => !p.2.isNaN)
  sorted.foldr (fun p acc =>
    match acc with
    | [] => [p]
    | q :: r => if p.2.eqv q.2 then p :: r else p :: q :: r) []

def fvIsFin : FV → Bool
  | .fin .. => true
  | _ => false

/-- b nearer to x than a, compared exactly: −1, 0 or 1 as x is nearer a, the middle, or b. -/
def nearerTo (x a b : FV) : Int :=
  let s := sumInt [x, x, a.negate, b.negate]
  if s.1 = 0 then 0 else if s.1 < 0 then -1 else 1

/-- Step 4 of R90 over L with positions from `i`. -/
def tblNearest (x : FV) : Nat → List (Nat × FV) → Nat × FpFlags
  | _, [] => (0, fOVF)
  | _, [p] => (p.1, if p.2.eqv x then 0 else fNX)
  | i, p :: q :: r =>
    if p.2.eqv x then (p.1, 0)
    else if x.lt q.2 then
      let c := match p.2, q.2 with
        | .fin .., .fin .. =>
          let n := nearerTo x p.2 q.2
          if n < 0 then p.1 else if 0 < n then q.1 else if i % 2 = 0 then p.1 else q.1
        | .fin .., _ => p.1
        | _, _ => q.1
      (c, fNX)
    else tblNearest x (i + 1) (q :: r)

/-- The code of a real value under the table (R90). Under .inf a zero in a table with no finite entry matches the infinity of its
own sign (DESIGN CHOICE, log entry 76). -/
def tblEncode (tab : SMap TabEntry) (infOvf : Bool) (x : FV) : Nat × FpFlags :=
  let cs := tblCodes tab
  let l := tblOrder cs
  let fin := l.filter fun p => fvIsFin p.2
  match x with
  | .nan sig =>
    match cs.filter (fun p => p.2.isNaN) with
    | p :: _ => (p.1, nanFlags sig)
    | [] => (0, fOVF ||| nanFlags sig)
  | x =>
    match fin.head?, fin.getLast? with
    | some lo, some hi =>
      if hi.2.lt x then
        match infOvf, l.getLast? with
        | true, some (c, .inf _) => (c, fOVF)
        | _, _ => (hi.1, fOVF)
      else if x.lt lo.2 then
        match infOvf, l.head? with
        | true, some (c, .inf _) => (c, fOVF)
        | _, _ => (lo.1, fOVF)
      else tblNearest x 0 l
    | _, _ =>
      match infOvf, l.find? (fun p => decide (p.2 = .inf x.isNeg)) with
      | true, some p => (p.1, fOVF)
      | _, _ => (0, fOVF)

/-! ## Matrix accumulation (R94) -/

/-- One chunk: the accumulator and the exact terms, with the flags the products raised. It is inexact where a truncation has cut a
part off, whatever the sum. -/
def accChunk (acc : FV) (terms : List FV) (fl : FpFlags) (mode : Rnd) (rnd : Nat) : Nat × FpFlags :=
  let ts := acc :: terms
  let pinf := ts.any fun t => decide (t = .inf false)
  let ninf := ts.any fun t => decide (t = .inf true)
  if ts.any FV.isNaN then (FK.f32.canonNaN, fl ||| nanFlags (ts.any FV.isSig || (pinf && ninf)))
  else
    if pinf && ninf then (FK.f32.canonNaN, fl ||| fNV)
    else if pinf || ninf then (FK.f32.signed ninf FK.f32.infCode, fl)
    else
      let nz := ts.filter fun t => !t.isZero
      match nz with
      | [] => (FK.f32.signed (zeroSumNeg mode ts) 0, fl)
      | t0 :: _ =>
        let emax := nz.foldl (fun a t => max a t.log2) t0.log2
        let q := emax - 47
        let trunc : FV → Int := fun t =>
          match t with
          | .fin n m e =>
            let v : Int := ((if q ≤ e then m <<< (e - q).toNat else m >>> (q - e).toNat : Nat) : Int)
            if n then -v else v
          | _ => 0
        let cut := nz.any fun t => match t with | .fin _ m e => decide (e < q) && decide (m % 2 ^ (q - e).toNat ≠ 0) | _ => false
        let s := (nz.map trunc).foldl (· + ·) 0
        let x := sumInt nz
        if s = 0 then
          (FK.f32.signed (decide (mode = .rdn)) 0, fl ||| (if x.1 = 0 then (if cut then fNX else 0) else fNX ||| fUF))
        else
          let r := roundMag 24 FK.f32.qmin mode rnd (decide (s < 0)) s.natAbs 1 q
          if beyondMax .f32 r.n r.q then
            (overflowCode .f32 mode (decide (s < 0)) r, fl ||| fOVF ||| fNX)
          else
            let back : FV := .fin (decide (s < 0)) r.n r.q
            let differs := cut || decide ((sumInt (back.negate :: nz)).1 ≠ 0)
            (encodeMag .f32 (decide (s < 0)) r.n r.q,
              fl ||| (if differs then (if belowNormal .f32 r.n r.q then fNX ||| fUF else fNX) else 0))

/-! ## The special functions (R182) -/

/-- The number of fraction bits the series below carry. Every inexact result of VSFU is farther from a
rounding boundary of its format than these series err. -/
def sfuP : Nat := 640

/-- The integer square root by bits, from bit `k` − 1 down. -/
def isqrt : Nat → Nat → Nat → Nat
  | 0, _, r => r
  | k + 1, n, r => if (r + 2 ^ k) * (r + 2 ^ k) ≤ n then isqrt k n (r + 2 ^ k) else isqrt k n r

/-- ln 2 in fixed point: the sum of 1 / (k 2^k). -/
def ln2Fix : Nat → Nat → Nat → Nat
  | 0, _, acc => acc
  | n + 1, k, acc => ln2Fix n (k + 1) (acc + 2 ^ sfuP / (k * 2 ^ k))
def ln2 : Nat := ln2Fix sfuP 1 0

/-- exp(z) for a fixed-point z below 1: the sum of z^k / k!. -/
def expFix (z : Nat) : Nat → Nat → Nat → Nat → Nat
  | 0, _, _, acc => acc
  | n + 1, k, t, acc => expFix z n (k + 1) (t * z / 2 ^ sfuP / k) (acc + t)
/-- 2^f for a fixed-point f below 1. -/
def exp2Fix (fx : Nat) : Nat :=
  expFix (fx * ln2 / 2 ^ sfuP) 140 1 (2 ^ sfuP) 0

/-- atanh(z) for a fixed-point z at most 1/3. -/
def atanhFix (z2 : Nat) : Nat → Nat → Nat → Nat → Nat
  | 0, _, _, acc => acc
  | n + 1, k, t, acc => atanhFix z2 n (k + 2) (t * z2 / 2 ^ sfuP) (acc + t / k)
/-- log2 of m / 2^j in [1, 2), in fixed point. -/
def log2Fix (m j : Nat) : Nat :=
  let z := (m - 2 ^ j) * 2 ^ sfuP / (m + 2 ^ j)
  2 * atanhFix (z * z / 2 ^ sfuP) 210 1 z 0 * 2 ^ sfuP / ln2

/-- arctan(1/d) in fixed point, alternating. -/
def atanInv (d2 : Nat) : Nat → Nat → Nat → Bool → Int → Int
  | 0, _, _, _, acc => acc
  | n + 1, k, t, pos, acc =>
    atanInv d2 n (k + 2) (t / d2) (!pos) (if pos then acc + (t / k : Nat) else acc - (t / k : Nat))
/-- π in fixed point, by 16 arctan(1/5) − 4 arctan(1/239). -/
def piFix : Nat :=
  (16 * atanInv 25 150 1 (2 ^ sfuP / 5) true 0 - 4 * atanInv (239 * 239) 50 1 (2 ^ sfuP / 239) true 0).toNat

/-- sin(z) for a fixed-point z up to π/2. -/
def sinFix (z2 : Nat) : Nat → Nat → Nat → Bool → Int → Int
  | 0, _, _, _, acc => acc
  | n + 1, k, t, pos, acc =>
    sinFix z2 n (k + 2) (t * z2 / 2 ^ sfuP / ((k + 1) * (k + 2))) (!pos) (if pos then acc + (t : Int) else acc - (t : Int))
/-- sin(π y) for a fixed-point y in (0, 1/2). -/
def sinPiFix (y : Nat) : Nat :=
  let z := y * piFix / 2 ^ sfuP
  (sinFix (z * z / 2 ^ sfuP) 80 1 z true 0).toNat

/-- A fixed-point approximation of an irrational value, with a sticky last bit. -/
def sticky (neg : Bool) (v : Nat) : FV := .fin neg (2 * v + 1) (-(sfuP : Int) - 1)

/-- m × 2^e as fixed point, for a value with no bits below 2^-P. -/
def toFix (m : Nat) (e : Int) : Nat :=
  let s := e + (sfuP : Int)
  if 0 ≤ s then m <<< s.toNat else m >>> (-s).toNat

/-- 2^x of a finite x. -/
def sfuExp2 (neg : Bool) (m : Nat) (e : Int) : FV :=
  if m = 0 then .fin false 1 0
  else if 11 ≤ (Nat.log2 m : Int) + e then .fin false 3 (if neg then -4096 else 4096)
  else
    let x : Int := if neg then -(toFix m e : Int) else (toFix m e : Int)
    let i := x / (2 ^ sfuP : Int)
    let f := (x % (2 ^ sfuP : Int)).toNat
    if f = 0 then .fin false 1 i
    else .fin false (2 * exp2Fix f + 1) (i - (sfuP : Int) - 1)

/-- log2 of a positive finite x. -/
def sfuLog2 (m : Nat) (e : Int) : FV :=
  let j := Nat.log2 m
  let k := (j : Int) + e
  if m = 2 ^ j then .fin (decide (k < 0)) k.natAbs 0
  else
    let v : Int := k * (2 ^ sfuP : Int) + (log2Fix m j : Int)
    sticky (decide (v < 0)) (if v < 0 then (-v - 1).toNat else v.toNat)

/-- √x of a positive finite x. -/
def sfuSqrt (m : Nat) (e : Int) : FV :=
  let m1 := if e % 2 = 0 then m else 2 * m
  let e1 := if e % 2 = 0 then e else e - 1
  let n := m1 <<< 256
  let r := isqrt 160 n 0
  if r * r = n then .fin false r (e1 / 2 - 128) else .fin false (2 * r + 1) (e1 / 2 - 129)

/-- The fraction of |x| modulo 2, in fixed point. -/
def mod2Fix (m : Nat) (e : Int) : Nat :=
  if 1 ≤ e then 0 else toFix (m % 2 ^ ((-e).toNat + 1)) e

/-- sin(πx) of a finite x. -/
def sfuSin (neg : Bool) (m : Nat) (e : Int) : FV :=
  let one := 2 ^ sfuP
  let y := mod2Fix m e
  let flip := decide (one ≤ y)
  let z := if flip then y - one else y
  if z = 0 then .fin neg 0 0
  else if 2 * z = one then .fin (neg != flip) 1 0
  else sticky (neg != flip) (sinPiFix (if 2 * z < one then z else one - z))

/-- cos(πx) of a finite x. -/
def sfuCos (m : Nat) (e : Int) : FV :=
  let one := 2 ^ sfuP
  let y := mod2Fix m e
  let z := if one < y then 2 * one - y else y
  if z = 0 then .fin false 1 0
  else if z = one then .fin true 1 0
  else if 2 * z = one then .fin false 0 0
  else if 2 * z < one then sticky false (sinPiFix (one / 2 - z))
  else sticky true (sinPiFix (z - one / 2))

/-- tanh x of a finite non-zero x, by (2^u − 1) / (2^u + 1) with u = 2|x| / ln 2. -/
def sfuTanh (neg : Bool) (m : Nat) (e : Int) : FV :=
  if 6 ≤ (Nat.log2 m : Int) + e then sticky neg (2 ^ sfuP - 2 ^ (sfuP - 90))
  else
    let u := 2 * toFix m e * 2 ^ sfuP / ln2
    let i := u / 2 ^ sfuP
    let p := exp2Fix (u % 2 ^ sfuP) <<< i
    sticky neg ((p - 2 ^ sfuP) * 2 ^ sfuP / (p + 2 ^ sfuP))

/-- One element of VSFU (R182). -/
def sfu (fn : SfuFn) (f : FK) (code : Nat) : Nat × FpFlags :=
  let nan : Nat × FpFlags := (f.canonNaN, fNV)
  let rne (v : FV) : Nat × FpFlags := roundFV f .rne 0 v
  match decodeF f code with
  | .nan sig => (f.canonNaN, nanFlags sig)
  | .inf neg =>
    match fn with
    | .exp2 => (if neg then 0 else f.infCode, 0)
    | .log2 => if neg then nan else (f.infCode, 0)
    | .rcp => (f.signed neg 0, 0)
    | .rsq => if neg then nan else (0, 0)
    | .sqrt => if neg then nan else (f.infCode, 0)
    | .sin | .cos => nan
    | .tanh => rne (.fin neg 1 0)
  | .fin neg m e =>
    match fn with
    | .exp2 => rne (sfuExp2 neg m e)
    | .log2 => if m = 0 then (f.signed true f.infCode, fDZ) else if neg then nan else rne (sfuLog2 m e)
    | .rcp => if m = 0 then (f.signed neg f.infCode, fDZ) else roundArith f .rne 0 neg 1 m (-e)
    | .rsq =>
      if m = 0 then (f.signed neg f.infCode, fDZ)
      else if neg then nan
      else
        match sfuSqrt m e with
        | .fin _ r q => roundArith f .rne 0 false 1 r (-q)
        | _ => nan
    | .sqrt => if m = 0 then (f.signed neg 0, 0) else if neg then nan else rne (sfuSqrt m e)
    | .sin => if m = 0 then (f.signed neg 0, 0) else rne (sfuSin neg m e)
    | .cos => rne (sfuCos m e)
    | .tanh => if m = 0 then (f.signed neg 0, 0) else rne (sfuTanh neg m e)

end Sys2Proof.Machine
end

