-- ==== Sys2Proof/Machine/Geometry.lean ====
section
/-! DEFINITION. How cores, quads, clusters, slew domains and slices are numbered and nested (R10 to
R24), and the clocks' periods (R19, R27). Quad, cluster and slew-domain numbers are package-wide. -/

namespace Sys2Proof.Machine

/-- Cores of a die (R19). -/
def coresPerDie : Nat := 1360
def numCores : Nat := 2720

/-- The first core of layer k on a die (R19). -/
def layerBase : Nat → Nat
  | 0 => 0 | 1 => 1024 | 2 => 1280 | _ => 1344

/-- The mesh side n_k (R11). -/
def meshSide (k : Nat) : Nat := 2 ^ (4 - k)

def dieOf (g : Nat) : Nat := g / coresPerDie
def layerOf (g : Nat) : Nat :=
  let o := g % coresPerDie
  if o < 1024 then 0 else if o < 1280 then 1 else if o < 1344 then 2 else 3
/-- A core's number in its quad (R19). -/
def coreIn (g : Nat) : Nat := g % 4
/-- The package-wide quad number of a core. -/
def quadOf (g : Nat) : Nat := g / 4
def quadDie (q : Nat) : Nat := q / 340
def quadLayer (q : Nat) : Nat := layerOf (4 * q)
/-- A quad's linear index in its layer (R11). -/
def quadIdx (q : Nat) : Nat := q % 340 - layerBase (quadLayer q) / 4
def quadRow (q : Nat) : Nat := quadIdx q / meshSide (quadLayer q)
def quadCol (q : Nat) : Nat := quadIdx q % meshSide (quadLayer q)
/-- The quad at (i, j) of a layer. -/
def quadAt (die k i j : Nat) : Nat := die * 340 + layerBase k / 4 + i * meshSide k + j
/-- A core by die, layer, linear quad index and number in the quad. -/
def gcore (die k idx c : Nat) : Nat := die * coresPerDie + layerBase k + 4 * idx + c

/-- The package-wide cluster number (R16): quads (i, 2h) and (i, 2h + 1). -/
def clusterOf (g : Nat) : Nat := g / 8
def clusterLayer (m : Nat) : Nat := layerOf (8 * m)
/-- The cluster's index in its layer (R16). -/
def clusterIdx (m : Nat) : Nat := m % 170 - layerBase (clusterLayer m) / 8
/-- The MXU queue of a core (R16). -/
def mxuQueue (g : Nat) : Nat := g % 8

/-- The package-wide slew domain of a cluster (R17): 22 on each die. -/
def domBase : Nat → Nat
  | 0 => 0 | 1 => 16 | 2 => 20 | _ => 21
def slewDomOf (m : Nat) : Nat := (m / 170) * 22 + domBase (clusterLayer m) + clusterIdx m / 8

/-- The power region of a quad, numbered on its die as L0's 16, L1's 4, L2's and L3's one (R17). -/
def regionBase : Nat → Nat
  | 0 => 0 | 1 => 16 | 2 => 20 | _ => 21
def regionOf (q : Nat) : Nat :=
  let k := quadLayer q
  regionBase k + (quadRow q / 4) * (meshSide k / 4) + quadCol q / 4

/-- The parent core, on layers 0 to 2 (R12). -/
def parentOf (g : Nat) : Option Nat :=
  let q := quadOf g
  let k := quadLayer q
  if k < 3 then some (4 * quadAt (quadDie q) (k + 1) (quadRow q / 2) (quadCol q / 2) + coreIn g) else none
/-- The child core at child position p, on layers 1 to 3 (R12). -/
def childOf (g p : Nat) : Option Nat :=
  let q := quadOf g
  let k := quadLayer q
  if 0 < k then
    some (4 * quadAt (quadDie q) (k - 1) (2 * quadRow q + p / 2) (2 * quadCol q + p % 2) + coreIn g)
  else none
/-- A quad's child position (R12). -/
def childPos (q : Nat) : Nat := 2 * (quadRow q % 2) + quadCol q % 2

/-- The array side of a layer (08's opening). -/
def side (k : Nat) : Nat := if k = 0 then 64 else 32

/-- The nominal clock of a layer in MHz (R19). -/
def fnom : Nat → Nat
  | 0 => 3600 | 1 => 4000 | 2 => 4400 | _ => 4800

/-- The unit of the model's clock is 1/11088 ns, in which every layer cycle at a multiple of 400 MHz is whole. -/
def unitsPerNs : Nat := 11088
/-- The period of a clock of `mhz` in clock units. -/
def period (mhz : Nat) : Nat := if mhz = 0 then unitsPerNs else unitsPerNs * 1000 / mhz

/-- Physical spares (R18): the number of logical quads and spares of a layer. -/
def quadsIn (k : Nat) : Nat := meshSide k * meshSide k
def sparesIn (k : Nat) : Nat := if k = 0 then 4 else 1

/-- The quad beside slice s in layer k (R22). -/
def quadBeside (die k s : Nat) : Nat := quadAt die k (4 * (s / 8) / 2 ^ k) (2 * (s % 8) / 2 ^ k)

/-! ## Physical addresses (R21, R23, R24) -/

def dramSize : Nat := 2 ^ 36
/-- An alias address as the die address it names; other addresses are themselves (R24). -/
def unalias (pa : Nat) : Nat :=
  if 2 ^ 37 ≤ pa ∧ pa < 2 ^ 38 then
    let g := pa - 2 ^ 37
    ((g >>> 12) % 2) * dramSize + (g >>> 13) * 0x1000 + g % 0x1000
  else pa

/-- The ranges of the physical map (R23). -/
inductive Range
  | dram (die : Nat) | hole | cxl (port : Nat) | host | control
  deriving DecidableEq, Repr

/-- The range of an address with the alias resolved. -/
def rangeOf (pa : Nat) : Range :=
  if pa < 2 ^ 36 then .dram 0
  else if pa < 2 ^ 37 then .dram 1
  else if pa < 2 ^ 40 then .hole
  else if pa < 5 * 2 ^ 40 then .cxl (pa / 2 ^ 40 - 1)
  else if pa < 2 ^ 51 then .hole
  else if pa < 0xF000000000000 then .host
  else .control

/-- The home die (R21). -/
def homeDie (pa : Nat) : Nat :=
  match rangeOf pa with
  | .dram d => d
  | .cxl p => p / 2
  | _ => 0

/-- The offset of an address in its home range (R21). -/
def homeOffset (pa : Nat) : Nat :=
  match rangeOf pa with
  | .dram d => pa - d * dramSize
  | .cxl p => pa - (p + 1) * 2 ^ 40
  | .host => pa - 2 ^ 51
  | _ => pa
/-- The home slice (R21). -/
def homeSlice (pa : Nat) : Nat :=
  let o := homeOffset pa
  let f (lo : Nat) : Nat := (o >>> lo) % 32
  f 8 ^^^ f 13 ^^^ f 18 ^^^ f 23 ^^^ f 28 ^^^ ((o >>> 33) % 8)

/-- Scratchpad bytes are kept above the physical addresses: quad and offset. -/
def spadKey (quad off : Nat) : Nat := 2 ^ 52 + quad * 2 ^ 32 + off
def isSpad (pa : Nat) : Bool := decide (2 ^ 52 ≤ pa)
def spadQuad (pa : Nat) : Nat := (pa - 2 ^ 52) / 2 ^ 32

/-- The die that performs an access to a key: a control address and a slice aperture name theirs in bit 44 (R26, R351). -/
def siteDie (k : Nat) : Nat :=
  if isSpad k then quadDie (spadQuad k)
  else if rangeOf k = .control then (k - 0xF000000000000) / 2 ^ 44 % 2
  else homeDie k

end Sys2Proof.Machine
end

