-- ==== Sys2Proof/Machine/State.lean ====
section
/-! DEFINITION. The whole state of a J4 package as plain data, its reset values, and the reasons a step
can stop. Every register has one home; the operations that read and write it are in Ops.lean. -/

namespace Sys2Proof.Machine

/-- Why the machine stops. -/
inductive Fault
  /-- Package power has been removed and nothing keeps state (R9): raised by every step after POWER_REMOVAL.
  Safe: no claim about a running package is made. -/
  | powerRemoved
  deriving DecidableEq, Repr

/-- Why a step has no meaning. -/
inductive Refusal
  /-- An instruction that this model has not reached. Safe: it only leaves claims unprovable. -/
  | notModelled (mnemonic : String)
  /-- The agenda asks for an instruction word as an event of its own: no unit of the package does that.
  Raised by `step` alone. Safe: a word is performed only by a core's turn. -/
  | turnNotEvent
  deriving DecidableEq, Repr

/-! ## Memory -/

/-- Bytes by key: physical addresses with the alias resolved, and scratchpad keys (`spadKey`). Canonical:
keys strictly rising and no byte equal to what an unlisted one reads as. -/
abbrev Memory := List Host.Cell

/-- What a byte that nothing has written reads as (R334: a block in state ZERO reads zero; elsewhere the
model's choice, log entry 3). -/
def unwritten : Byte := 0#8

def sortedFrom : Option Nat → Memory → Bool
  | _, [] => true
  | none, (k, b) :: r => decide (b ≠ unwritten) && sortedFrom (some k) r
  | some p, (k, b) :: r => decide (p < k) && decide (b ≠ unwritten) && sortedFrom (some k) r

/-- The canonical form. -/
def Memory.wf (m : Memory) : Bool := sortedFrom none m

/-- The poison of a 32-byte sector: the words written in full since it was set (R138). -/
abbrev PoisonMask := BitVec 4

/-! ## Registers that fixed latency and the interlocks leave in flight -/

/-- A destination of a result in flight. -/
inductive PDst | x (n : Nat) | q (n : Nat)
  deriving DecidableEq, Repr

/-- A result in flight (R34, R46, R96): its value, the core cycle at which it lands, and whether
readers are interlocked. -/
structure PendW where
  dst : PDst
  val : Word
  land : Nat
  inter : Bool
  /-- The flags an instruction that can set some raises as its result is written (R79). -/
  flags : Option FpFlags
  deriving DecidableEq, Repr

/-- A load or atomic whose result is still to be written (R48, R142, R147). -/
structure LoadP where
  dsts : List (Nat × Word)
  atomic : Bool
  /-- An atomic across a link: the key of its request in the strand's waits. -/
  held : Option Nat
  since : Nat
  pa : Nat
  deriving DecidableEq, Repr

/-- Who owns lines for an engine (R135): a queue entry of a core or a copy of one of its channels, by their stamps, or a
graph slot. -/
inductive Eng
  | entry (g stamp : Nat)
  | chan (g c stamp : Nat)
  | graph (die port slot : Nat)
  deriving DecidableEq, Repr

/-- What one store-buffer entry holds (R142, R144, R429). -/
structure SbEntry where
  bytes : List Host.Cell
  /-- Aligned 8-byte words written in full, by key (R138). -/
  words : List Nat
  rel : Option Scope
  /-- The stamp of a VST that has not delivered its data yet. -/
  awaits : Option Nat
  flush : Bool
  /-- Translated through a region outside the cut (R336). -/
  exempt : Bool
  deriving DecidableEq, Repr

/-- A store past its die's order point and not yet at its home (R233). -/
structure PastStore where
  core : Nat
  ent : SbEntry
  deriving DecidableEq, Repr

/-! ## The vector and matrix state of a core -/

/-- A sequencer entry (R168): the instruction, what it captured at issue, and its progress. -/
structure VEntry where
  stamp : Nat
  ins : Instr
  shape : Word
  xs : List Word
  seed : BitVec 32
  /-- Element addresses of the memory transfers: (virtual, key) in element order. -/
  addrs : List (Nat × Nat)
  beats : Nat
  /-- What v registers that the C instruction of its bundle wrote held before the bundle (R33). -/
  olds : SMap (BitVec 4096)
  /-- An entry of a VREP body. -/
  body : Bool
  /-- Issued in trap mode: its handler waits for it also while the head of the sequencer is held (R137). -/
  hand : Bool
  /-- The clock at which it entered the sequencer: it leaves in a later cycle (R298). -/
  born : Nat
  /-- The bytes of a VLD, once a later load of its core has fixed them (R234, R429). -/
  seen : Option (List Host.Cell)
  deriving DecidableEq, Repr

/-- A register result of a performed entry that is still to be written (R169): the registers, whether the entry can set
FPST flags, and the clock at which it is written. -/
structure VFly where
  regs : List RegName
  flags : Bool
  land : Nat
  deriving DecidableEq, Repr

/-- A VREP body (R184): entries still to come, entries it holds, repetitions left, the entry at work, and the
stochastic state that the draws of its next repetition start from. -/
structure VRep where
  missing : Nat
  size : Nat
  left : Word
  idx : Nat
  base : BitVec 32
  deriving DecidableEq, Repr

/-- The return slot of a core, with the results of its VSFU (R172, R183): the register, the flags, and the clock from which the
sequencer can write them. -/
structure SfuRet where
  val : BitVec 4096
  fl : FpFlags
  land : Nat
  deriving DecidableEq, Repr

/-- A VSFU request in a quad's SFU (R183): its core, its elements, the cycles it has been served, and whether its result will be
dropped (R172). -/
structure SfuReq where
  core : Nat
  elems : Nat
  cycles : Nat
  drop : Bool
  deriving DecidableEq, Repr

/-- A stream register's binding (R151 to R153). -/
structure Stream where
  bound : Bool
  base : Word
  strides : List (BitVec 32)
  counts : List Nat
  shape : Word
  /-- The next strip to fetch, the sectors of it that have moved with what they hold and its first fault, and the
  next strip to pop. -/
  fetch : Nat
  moved : Nat
  part : BitVec 4096 × Option (Nat × Nat)
  pop : Nat
  /-- Strips fetched and not popped, oldest first: bytes, and the first fault (cause, address). -/
  strips : List (BitVec 4096 × Option (Nat × Nat))
  last : BitVec 4096
  /-- Queue entries with a lower stamp were issued before its SBIND. -/
  after : Nat
  /-- The clock at which its SBIND entered the command queue. -/
  born : Nat
  deriving DecidableEq, Repr

def Stream.unbound : Stream :=
  { bound := false, base := 0, strides := [], counts := [], shape := 0, fetch := 0, moved := 0, part := (0, none), pop := 0,
    strips := [], last := 0, after := 0, born := 0 }

/-- A tile (R186, R197): element storage, scale bytes, and per poisoned 32-byte sector the address it
came from. -/
structure Tile where
  data : BitVec 65536
  scales : BitVec 1024
  poison : SMap Nat
  deriving DecidableEq, Repr

def Tile.zero : Tile := { data := 0, scales := 0, poison := [] }

/-- An accumulator (R188): its elements, and the chain while it is open. -/
structure Accum where
  val : SMap (BitVec 32)
  chain : Option (SMap (BitVec 32))
  deriving DecidableEq, Repr

def Accum.zero : Accum := { val := [], chain := none }

/-- A format context (R192). -/
structure Fmt where
  ta : MType
  tb : MType
  sa : Bool
  sb : Bool
  ovr : Bool
  deriving DecidableEq, Repr

def Fmt.reset : Fmt := { ta := .bf16, tb := .bf16, sa := false, sb := false, ovr := false }

/-- What the core's issue side knows of one bank (R189). -/
structure Bank where
  tshape : SMap Word
  tiles : SMap Tile
  accs : SMap Accum
  fmt : Fmt
  /-- Issue-side copies: shapes and format context as last issued, and which accumulators are open. -/
  ishape : SMap Word
  ifmt : Fmt
  iopen : List Nat
  deriving DecidableEq, Repr

def Bank.reset : Bank :=
  { tshape := [], tiles := [], accs := [], fmt := Fmt.reset, ishape := [], ifmt := Fmt.reset, iopen := [] }

/-- An MXU queue entry (R189): an instruction with what it captured, or a write of TSHAPEn. -/
structure MEntry where
  stamp : Nat
  ins : Instr
  trap : Bool
  xs : List Word
  seed : BitVec 32
  /-- Page translations of TLD and TST: (virtual page, key of its first byte). -/
  pages : List (Nat × Nat)
  /-- Granules or transfer cycles done. -/
  done : Nat
  deriving DecidableEq, Repr

/-! ## The Percolator (20) -/

/-- A cell: integrand, residue, output count, and the edge counters ECX, EC0–EC3 (R365). -/
structure Cell where
  y : Int
  w : Nat
  cnt : Nat
  ec : List Int
  deriving DecidableEq, Repr

def Cell.zero : Cell := { y := 0, w := 0, cnt := 0, ec := [0, 0, 0, 0, 0] }

/-- The Percolator (R365): cells and patch words by number, K0–K3, PSC, PREM, the lane schedule and its
position, and the pending OVERRUN. -/
structure Perc where
  cells : SMap Cell
  patch : SMap Word
  k : BitVec 16
  psc : Word
  prem : Word
  lanes : BitVec 4096
  lpos : Nat
  flt : Bool
  fltVal : Nat
  /-- The clock of the overrun: a cause of one cycle waits for the boundary after another that is taken in it (R377, R430). -/
  fltAt : Nat
  running : Bool
  deriving DecidableEq, Repr

def Perc.idle : Perc :=
  { cells := [], patch := [], k := 0, psc := 0, prem := 0, lanes := 0, lpos := 0, flt := false, fltVal := 0,
    fltAt := 0, running := false }

/-! ## Queues -/

/-- A packet: its sender, whether it is a host message or an error token, and its 64-byte entries (R221, R227). -/
structure Packet where
  src : Nat
  host : Bool
  tok : Bool
  ents : List (BitVec 512)
  deriving DecidableEq, Repr

/-- A packet that has claimed entries of a receive queue (R433). -/
structure RqPacket where
  pkt : Packet
  present : Bool
  /-- The clock at which it became present: pops of later cycles see it (R298). -/
  since : Nat
  /-- Its sender's count of outstanding packets includes it until it is present (R315). -/
  counted : Bool
  /-- The context it is for and the strand that was resident when it claimed. -/
  ctx : Nat
  strand : Nat
  /-- The clock at which it claimed its entries, and its rank among the pushes of that cycle (R299). -/
  born : Nat
  rank : Nat
  deriving DecidableEq, Repr

/-- An entry of an interlayer queue (R356 to R358). -/
structure IlEntry where
  /-- The source it is filed under: 0 to 3 UP0–UP3, 4 UPL, 5 UPX, 6 DNP, 7 DNL. -/
  port : Nat
  tag : Nat
  shape : Word
  data : BitVec 4096
  src : Nat
  tok : Bool
  present : Bool
  since : Nat
  ctx : Nat
  strand : Nat
  deriving DecidableEq, Repr

/-- What a spill queue holds (R302, R304): a packet or an interlayer entry, the core whose diversion took
its cells, whether they are reserve cells, how many, and which, and the clock at which they were written. -/
structure SpillEntry where
  pkt : Option Packet
  il : Option IlEntry
  holder : Nat
  reserve : Bool
  cells : Nat
  idx : List Nat
  since : Nat
  /-- It belongs to the resident strand's own spill queue (R290). -/
  mine : Bool
  deriving DecidableEq, Repr

/-- Where a SEND goes (R220): a core, or a mailbox of a context. -/
inductive Dest | core (g : Nat) | mbox (ctx m : Nat)
  deriving DecidableEq, Repr

/-- An error token or a notice of context `ctx` that has found no room yet, or a packet that has not crossed the bridge when its
receiver leaves: it stays on its path (R299, R433). The core it comes from, the clock of its first attempt, and whether its
sender's count of outstanding packets includes it (R315). -/
structure Post where
  ctx : Nat
  dst : Dest
  pkt : Option Packet
  il : Option IlEntry
  holder : Nat
  since : Nat
  counted : Bool
  deriving DecidableEq, Repr

/-! ## A strand's state on a core: all of it travels in a spill (R288) -/

/-- An atomic's request: its address, place and type, its operation (none for CAS), its operands x[b] and
x[d], and its token (R147, R389). -/
structure AmoReq where
  ea : Word
  pa : Nat
  t : IType
  op : Option AmoOp
  b : Nat
  d : Nat
  tok : Option Nat
  deriving DecidableEq, Repr

/-- An atomic that crosses a link (R149, R389): its request is under way, or its response is back, or the target
refused it, or it was lost. -/
inductive AmoSt
  | sent (r : AmoReq)
  | got (old : Nat)
  | refused
  | lost
  deriving DecidableEq, Repr

/-- An entry of a replay cache (R389): token, address, type, operation, operands, result, and TIME of recording. -/
structure Replay where
  tok : Nat
  pa : Nat
  t : IType
  op : Option AmoOp
  b : Nat
  d : Nat
  old : Nat
  time : Nat
  deriving DecidableEq, Repr

/-- What the bundle that a trap interrupted has done and keeps while its handler runs (R208): the die, domain and kind of
an arrival made and what a release gave it and when, the number of an exchange's contribution and its result, and the destinations
that PROLG.down has served. -/
structure Outer where
  bar : Option (Nat × Nat × Bool)
  barDone : Option Bool
  xchg : Option Nat
  xchgDone : Option (BitVec 4096 × Bool)
  barAt : Nat
  told : Nat
  deriving DecidableEq, Repr

def Outer.empty : Outer := { bar := none, barDone := none, xchg := none, xchgDone := none, barAt := 0, told := 0 }

/-- Whatever a waiting bundle has already done (R208, R218, R226, R228). -/
structure WaitSt where
  /-- BAR or SSTEP: die, domain and whether it is SSTEP; whether its arrival is made; what a release gave. -/
  bar : Option (Nat × Nat × Bool)
  barArrived : Bool
  barDone : Option Bool
  /-- The barrier's watchdog has expired: TVAL of the pending WATCHDOG (R314). -/
  barWd : Option Word
  /-- A watchdog has expired while STATUS.TM was 1: TVAL of the double trap (R117). -/
  wdTm : Option Word
  /-- XCHG: the number of a contribution made, and the result the meeting gave. -/
  xchg : Option Nat
  xchgDone : Option (BitVec 4096 × Bool)
  /-- The clock at which the waiting bundle began to wait, and whether its bound has expired. -/
  since : Option Nat
  expired : Bool
  /-- The waiting bundle's own traps have been checked (R208). -/
  checked : Bool
  /-- Cells granted to a waiting diversion, and whether they are reserve cells (R304). -/
  cells : Option (Nat × Bool)
  /-- BIAS: the page of a flip that the bundle waits for, and whether its bias was device (R160). -/
  bias : Option (Nat × Bool)
  /-- That flip is complete; and the page for which a BIAS waits, with its place among those that wait (R160, R329). -/
  biasDone : Bool
  biasAt : Option (Nat × Nat)
  /-- AMO and CAS across links, by the address of their bundles and STATUS.MOP. -/
  amo : SMap AmoSt
  /-- Bundles, with STATUS.TM, whose A instruction has issued while the C instruction has not completed: a suspension
  point that waits for what its A instruction put into a queue, with the x registers it read as it issued (R33, R36, log entry 57). -/
  aDone : List (Bool × Word × List (Nat × Word))
  /-- LD across a line: the bytes of the first part, which has been performed (R139). -/
  part : Option (List Byte)
  /-- PSAVE: doublewords that have entered the store buffer (R376). -/
  sent : Nat
  /-- The clock at which a barrier was released or broken. -/
  barAt : Nat
  /-- RESTR.up, PROLG.down: the destinations whose entry has claimed its place or been diverted, by bit (R359). -/
  told : Nat
  /-- RESTR, PROLG: the words of the level table read at issue, by entry · 256 + offset (R355). -/
  table : Option (SMap Nat)
  outer : Outer
  deriving DecidableEq, Repr

def WaitSt.empty : WaitSt :=
  { bar := none, barArrived := false, barDone := none, barWd := none, wdTm := none, xchg := none, xchgDone := none, biasDone := false, biasAt := none,
    since := none, expired := false, checked := false, cells := none, bias := none, amo := [], aDone := [], part := none, sent := 0, barAt := 0, told := 0, table := none, outer := Outer.empty }

/-- A pending asynchronous fault of a queued entry (R137). -/
structure QFault where
  cause : Nat
  val : Word
  deriving DecidableEq, Repr

/-- The memory-side copies of a context that a core works with (R251). -/
structure Copies where
  raf : SMap Word
  thbase : Word
  thlimit : Word
  thoff : Word
  thperm : Word
  acctbase : Word
  acctctl : Word
  telbase : Word
  spillbase : Word
  tvec : Word
  deriving DecidableEq, Repr

def Copies.reset : Copies :=
  { raf := [], thbase := 0, thlimit := 0, thoff := 0, thperm := 0, acctbase := 0, acctctl := 0, telbase := 0,
    spillbase := 0, tvec := 0 }

/-- The state of a strand on its core. -/
structure Arch where
  x : SMap Word
  q : BitVec 8
  v : SMap (BitVec 4096)
  pc : Word
  status : Word
  tcause : Word
  tpc : Word
  tval : Word
  tstat : Word
  tsave : SMap Word
  fpst : FpFlags
  srseed : BitVec 32
  lcnt : Word
  lbeg : Word
  lend : Word
  rcnt : BitVec 32
  vshape : Word
  chstat : SMap Word
  debt : Nat
  arming : Word
  copies : Copies
  bpad0 : Word
  bpad1 : Word
  bpctl : BitVec 4
  slottbl : Word
  /-- The windows read from the table (R317): OFF, LEN, BASE, DMASK. -/
  windows : List (Nat × Nat × Nat × Word)
  tab : SMap TabEntry
  bank : Bank
  vseq : List VEntry
  /-- Results of performed entries that no reader may see yet; their values stand in the registers (log entry 25). -/
  vfly : List VFly
  /-- Bodies in the sequencer, oldest first. -/
  vreps : List VRep
  sfu : Option SfuRet
  /-- A fault of the sequencer's head not yet taken, and whether the head is held until RFT (R137). -/
  vfault : Option QFault
  vheld : Bool
  mxq : List MEntry
  mfault : Option QFault
  mheld : Bool
  streams : SMap Stream
  perc : Perc
  wait : WaitSt
  deriving DecidableEq, Repr

def srseedReset : BitVec 32 := 0x2545F491#32
def vshapeReset : Word := 0x40202#64

/-- The state of R37 with every register at the value a strand starts with. -/
def Arch.reset : Arch :=
  { x := [], q := 1, v := [], pc := 0, status := 0, tcause := 0, tpc := 0, tval := 0, tstat := 0, tsave := [],
    fpst := 0, srseed := srseedReset, lcnt := 0, lbeg := 0, lend := 0, rcnt := 0, vshape := vshapeReset, chstat := [],
    debt := 0, arming := 0, copies := Copies.reset, bpad0 := 0, bpad1 := 0, bpctl := 0, slottbl := 0, windows := [],
    tab := [], bank := Bank.reset, vseq := [], vfly := [], vreps := [], sfu := none, vfault := none, vheld := false,
    mxq := [], mfault := none, mheld := false,
    streams := [], perc := Perc.idle, wait := WaitSt.empty }

/-! ## Strand records and what the dispenser holds -/

/-- A strand record's fields (R273). -/
structure Rec where
  pc : Word
  me : Bool
  pl : Bool
  launch : Nat
  index : Nat
  afq : Nat
  afv : Bool
  age : Nat
  cx : Bool
  spl : Bool
  kind : Nat
  pr : Bool
  lmask : BitVec 4
  pri : Nat
  spix : Nat
  xs : List Word
  /-- A reserved bit is set: the record fails the check of R274. -/
  bad : Bool
  deriving DecidableEq, Repr

/-- Where an item of a context's queue memory is (R275, R279). -/
inductive Place
  | ring
  | sleeping (wake : Nat)
  | waiting (obj : Nat) (dst : Nat)
  | parked (mb : Nat)
  /-- The reference of a launch template (R280). -/
  | ref
  deriving DecidableEq, Repr

/-- A record, or a launch reference, that the dispensers hold. -/
structure Item where
  rid : Nat
  ctx : Nat
  die : Nat
  layer : Nat
  place : Place
  since : Nat
  /-- The clock at which it was enqueued (R281). -/
  born : Nat
  /-- Its place among those of one level and time: a later one is further back. -/
  seq : Nat
  /-- The clock of its last promotion, and AGE, time of entry and place before it (R282). -/
  was : Option (Nat × Nat × Nat × Nat)
  /-- Its slot of the record pool (R279, R280). -/
  slot : Nat
  r : Rec
  /-- The destination of a WAITC and the outcome it reads at resumption (R216). -/
  out : Option (Nat × Word)
  deriving DecidableEq, Repr

/-- A launch template (R280): what its fresh strands start with (R212). -/
structure Template where
  ctx : Nat
  r : Rec
  count : Nat
  slot : Nat
  deriving DecidableEq, Repr

/-- An object (R276, R278). -/
structure Obj where
  lvl : Nat
  parent : Nat
  out : Bool
  canc : Bool
  armed : Bool
  count : Nat
  done : Bool
  deriving DecidableEq, Repr

/-- A spill area in use (R287, R288): the state as it was spilled, the strand's own spill queue, the core it
left and the layer whose layout its image has. -/
structure Spilled where
  /-- Its area: the SPILLBASE it was allocated at, and its number (R287); and which spill it was. -/
  base : Nat
  idx : Nat
  num : Nat
  arch : Arch
  spill : List SpillEntry
  core : Nat
  layer : Nat
  /-- The strand's last record, for a restart (R416). -/
  last : Rec
  /-- TLBI.all since the spill: the copies are loaded anew (R251). -/
  reload : Bool
  deriving DecidableEq, Repr

/-- A mailbox (R303): counters of slots written and consumed, its packets in the order they claimed slots. -/
structure Mailbox where
  head : BitVec 32
  tail : BitVec 32
  drops : BitVec 32
  sealed : Bool
  ring : List RqPacket
  spill : List SpillEntry
  deriving DecidableEq, Repr

def Mailbox.empty : Mailbox := { head := 0, tail := 0, drops := 0, sealed := false, ring := [], spill := [] }

/-- A context descriptor as read (R250). -/
structure Desc where
  copies : Copies
  qbase : Word
  mbase : Word
  cap : Word
  res : Rec
  ncell : Nat
  deriving DecidableEq, Repr

/-- Contexts' states (R248). -/
inductive CtxState | free | ready | live | stopping | tearing | dead
  deriving DecidableEq, Repr

structure Ctx where
  desc : Word
  err : Nat
  st : CtxState
  d : Option Desc
  nextId : Nat
  objs : SMap Obj
  templates : SMap Template
  mboxes : SMap Mailbox
  spillQ : SMap (List SpillEntry)
  spilled : SMap Spilled
  /-- The host has been interrupted with the vector of CAP after a teardown (R262). -/
  msi : Bool
  deriving DecidableEq, Repr

def Ctx.reset : Ctx :=
  { desc := 0, err := 0, st := .free, d := none, nextId := 1, objs := [], templates := [], mboxes := [], spillQ := [],
    spilled := [], msi := false }

/-! ## A core -/

/-- The strand a core runs (R273, R281). -/
structure Strand where
  /-- A number no other residence has. -/
  sid : Nat
  ctx : Nat
  r : Rec
  /-- The last record, for a restart, and the strand's reserved pool slot, which holds it (R280, R416). -/
  last : Rec
  slot : Nat
  pri : Nat
  since : Nat
  die : Nat
  layer : Nat
  /-- A forced cancel is pending with this handle. -/
  cancel : Option Word
  /-- A pre-emption interrupt has been sent, and it is the dispenser's own (R284). -/
  preempt : Bool
  pend : Bool
  /-- The interrupt has been taken, and the core waits until it can spill (R286, R377). -/
  spilling : Bool
  /-- The clock from which the strand watchdog counts: that of the last retired bundle (R422). -/
  retired : Nat
  /-- The watchdog or the barrier's has expired: TVAL of the pending WATCHDOG. -/
  watchdog : Option Word
  deriving DecidableEq, Repr

/-- A translation held by a TLB (R258). -/
structure TlbEntry where
  ctx : Nat
  vpage : Nat
  p : Nat
  frame : Nat
  perm : BitVec 8
  mig : Bool
  deriving DecidableEq, Repr

/-- A run of equal charges (R270). -/
structure Run where
  ctx : Nat
  pc : Word
  cause : Nat
  count : Nat
  deriving DecidableEq, Repr

/-- A core's accounts (R128, R268 to R271): its counts by cause, those not yet flushed by context · 16 + cause, the open
runs, the overflow counts by context · 32 + slot · 16 + cause, the cycles of its layer it has charged, and how many of
them had gone by at the last flush. -/
structure Acct where
  counts : SMap Nat
  unflushed : SMap Nat
  runC : Option Run
  runA : Option Run
  overflow : SMap Nat
  cycles : Nat
  lastFlush : Nat
  deriving DecidableEq, Repr

def Acct.zero : Acct :=
  { counts := [], unflushed := [], runC := none, runA := none, overflow := [], cycles := 0, lastFlush := 0 }

/-- A copy channel at work, or a command waiting in the queue (R154). -/
structure Copy where
  dst : Word
  src : Word
  len : Nat
  pos : Nat
  flt : Bool
  cause : Nat
  first : Nat
  stamp : Nat
  /-- The clock at which it entered the command queue. -/
  born : Nat
  deriving DecidableEq, Repr

/-- A command of the copy and stream engine's queue (R296). -/
inductive Cmd
  | copy (c : Nat) (k : Copy)
  | bind (r : Nat) (st : Stream)
  deriving DecidableEq, Repr

/-- A microprogram at work (R67, R69). -/
structure Micro where
  entry : Nat
  pc : Word
  d : Reg
  a : Reg
  b : Reg
  image : List Word
  deriving DecidableEq, Repr

inductive PairState | single | claiming | paired | exchanging
  deriving DecidableEq, Repr

/-- The Equinox state of a core (R322 to R326), kept by the even core of its pair. -/
structure Pair where
  st : PairState
  fails : Nat
  print : Word
  bundles : Nat
  ckpt : Option Arch
  journal : List SbEntry
  /-- Words of entries that finished in the interval: they follow the bundles' in the fingerprint (R325). -/
  late : List Word
  /-- The interval is one non-idempotent operation's own (R323). -/
  solo : Bool
  /-- The exchange that the bundle at the issue point, or a pre-emption, asks for has been made (R229, R322). -/
  asked : Bool
  /-- While CLAIMING: the odd core is the issuer. -/
  odd : Bool
  deriving DecidableEq, Repr

def Pair.single : Pair := { st := .single, fails := 0, print := 0, bundles := 0, ckpt := none, journal := [], late := [], solo := false, asked := false, odd := false }

/-- What the bundle at the issue point did (the model's own). -/
inductive Flow
  | run
  /-- The bundle waits this cycle, charged the cause (R264). -/
  | held (cause : Nat)
  | trapped (cause : Nat) (val : Word)
  /-- The strand has left the core. -/
  | left
  deriving DecidableEq, Repr

structure Core where
  arch : Arch
  /-- The trap bank's two tiles, a0, shapes and context belong to the core (R195). -/
  tbank : Bank
  mxfmt : Bool
  /-- The clock at which an entry of the MXU queue has last finished (R190). -/
  mxLast : Option Nat
  strand : Option Strand
  /-- Where control goes after the bundle, and whether it was a taken transfer. -/
  npc : Word
  taken : Bool
  flow : Flow
  micro : Option Micro
  /-- The instruction's slot and the bundle, for TVAL and traps. -/
  bundle : Word
  now : Nat
  cycle : Nat
  pend : List PendW
  loads : List LoadP
  sb : List SbEntry
  tlb : List TlbEntry
  /-- The fetch buffer, of up to 4 bundles by address, and the loop buffer (R14, R133). -/
  fetchBuf : SMap Word
  loopBuf : SMap Word
  /-- Cycles that the translations of the bundle at work have taken (R259). -/
  xl : Nat
  cmds : List Cmd
  chans : SMap Copy
  grant : Nat
  acct : Acct
  rq : List RqPacket
  rqSealed : Bool
  ilq : List IlEntry
  idleSince : Nat
  outstanding : Nat
  /-- The step clock of R316: the base clock unit at which it started. -/
  stepClock : Option Nat
  /-- The bundle whose tokened atomic took LINK (R390). -/
  linkPc : Option Word
  pair : Pair
  injaddr : Word
  injctl : Word
  contained : Bool
  /-- The record that the freed core of a pre-emption is kept for (R285). -/
  kept : Option Nat
  /-- Clocks of the core's containments, latest first (R417). -/
  failures : List Nat
  deriving DecidableEq, Repr

def Core.reset : Core :=
  { arch := Arch.reset, tbank := Bank.reset, mxfmt := false, mxLast := none, strand := none, npc := 0, taken := false,
    flow := .run, micro := none, bundle := 0, now := 0, cycle := 0, pend := [], loads := [], sb := [], tlb := [],
    fetchBuf := [], loopBuf := [], xl := 0, cmds := [], chans := [], grant := 11, acct := Acct.zero, rq := [], rqSealed := false,
    ilq := [], idleSince := 0, outstanding := 0, stepClock := none, linkPc := none, pair := Pair.single, injaddr := 0, injctl := 0,
    contained := false, kept := none, failures := [] }

/-! ## Quads and clusters -/

/-- A control-store entry (R66). -/
structure CsEntry where
  image : List Word
  desc : Word
  deriving DecidableEq, Repr

structure Quad where
  store : SMap CsEntry
  tlb : List TlbEntry
  vshare : Word
  mxshare : Word
  credits : SMap Int
  portCredits : SMap Int
  /-- VSFU requests in order of arrival (R183). -/
  sfuQ : List SfuReq
  spad : Nat
  stash : Nat
  stashErr : Nat
  wd : Nat
  dbg : Bool
  retSt : Nat
  phys : Option Nat
  /-- Physical quads that had this identity and have been retired (R426). -/
  oldPhys : List Nat
  /-- The clock at which the quad was halted for debugging. -/
  dbgSince : Nat
  /-- The clock until which the quad's walker is at work (R259). -/
  walker : Nat
  /-- XCHG contributions by mask: the core in the quad, the contribution's number, its register, and whether it is an
  error token. -/
  xchg : SMap (List (Nat × Nat × BitVec 4096 × Bool))
  deriving DecidableEq, Repr

/-- A cluster's MXU: the arbiter's credits, the queue whose granule holds the array, the progress units it still
needs and the excess carried (R404), and the cores whose transfer waits at the tile port (R190). -/
structure Cluster where
  credits : SMap Int
  work : Option Nat
  left : Nat
  carry : Nat
  port : List Nat
  deriving DecidableEq, Repr

def Cluster.reset : Cluster := { credits := [], work := none, left := 0, carry := 0, port := [] }

/-! ## A die -/

inductive DomState | free | armed | broken
  deriving DecidableEq, Repr

/-- One half of a barrier domain (R311 to R321). -/
structure Domain where
  qmask : BitVec 512
  dctl : Word
  err : Nat
  st : DomState
  round : Nat
  /-- Members that have arrived in the round, and whether one arrived with SSTEP. -/
  arrived : List Nat
  sstep : Bool
  /-- The watchdog: ns counted before the last freeze, and the clock from which it counts now (R320, R321). -/
  counted : Nat
  started : Option Nat
  deriving DecidableEq, Repr

def Domain.reset : Domain :=
  { qmask := 0, dctl := 0, err := 0, st := .free, round := 0, arrived := [], sstep := false, counted := 0,
    started := none }

structure Slice where
  st : Nat
  err : Nat
  cur : Nat
  sw : Nat
  deriving DecidableEq, Repr

inductive LinkState | down | training | up | degraded | lost
  deriving DecidableEq, Repr

structure Link where
  st : LinkState
  lact : BitVec 32
  lsel : BitVec 32
  peer : BitVec 16
  epoch : BitVec 16
  retry : BitVec 32
  /-- The clock at which its training began (R381). -/
  since : Nat
  deriving DecidableEq, Repr

/-- A collective at work (R386 to R388): the graph as it stood at its start, SRC, DST, NTOK and the block's
address, the issuer's core, copies, privilege and decode table, the next SEQ, the flags of committed tokens,
the sinks that have stopped with their first faulting SEQ and its cause, and a loss of the link with the SEQ from which the
tokens handed to it were lost. -/
structure GraphRun where
  header : Word
  nodes : SMap Word
  src : Word
  dst : Word
  ntok : Nat
  block : Word
  core : Nat
  copies : Copies
  pl : Bool
  tab : SMap TabEntry
  next : Nat
  flg : FpFlags
  stopped : SMap (Nat × Nat)
  lost : Option Nat
  deriving DecidableEq, Repr

/-- A graph slot (R384): its words, its collective, tokens held on arrival with the PEER their port stamped, and tokens handed to
the link with the peer's slot, oldest first. -/
structure Graph where
  header : Word
  nodes : SMap Word
  run : Option GraphRun
  held : List (Nat × Token)
  sent : List (Nat × Token)
  deriving DecidableEq, Repr

/-- A power region (R401, R402): thermal state 0 NORMAL, 1 HOT, 2 CRIT, the count of samples towards an
exit, the clock of the last transition, the restriction level, and the last temperature in 1/64 °C. -/
structure Region where
  thermal : Nat
  exitCount : Nat
  since : Option Nat
  level : Nat
  temp : Int
  deriving DecidableEq, Repr

/-- A telemetry sample (R406). -/
structure Sample where
  rails : List Nat
  temps : List Int
  time : Nat
  package : Nat
  deriving DecidableEq, Repr

structure Die where
  past : List PastStore
  dispctl : SMap Word
  access : SMap Word
  qctl : Word
  doms : SMap Domain
  slices : SMap Slice
  scrubBusy : Bool
  scrubRes : Nat
  scrubPa : Word
  links : SMap Link
  graphs : SMap Graph
  linkcfg : Word
  /-- Replay caches by port · 4096 + source core, latest entry first. -/
  replay : SMap (List Replay)
  /-- SEQ and status of a peer's last launch packets, by port · 65536 + peer, latest first (R392). -/
  launchLog : SMap (List (Nat × Nat))
  /-- Launch completions sent to peers, oldest first: port, peer, SEQ, status (R392). -/
  completions : List (Nat × Nat × Nat × Nat)
  tctl : Word
  regmax : Word
  ramptbl : Word
  ladder : Nat
  regions : SMap Region
  sample : Sample
  errcntUe : Nat
  errcntCe : Nat
  erraddr : Word
  deriving DecidableEq, Repr

/-! ## The package -/

/-- States of a 4 KiB block (R334). An absent block is ZERO where nothing has been written. -/
inductive BlockState | zero | current | frozen | split | quarantined
  deriving DecidableEq, Repr

structure Block where
  st : BlockState
  /-- The frozen media of a SPLIT block, and its poisoned sectors. -/
  old : List Byte
  bad : List Nat
  exempt : Bool
  deriving DecidableEq, Repr

/-- Generations and Carafe (R332 to R342). -/
structure Gen where
  gen : Nat
  draining : Bool
  image : Nat
  ctx : Nat
  err : Nat
  last : Nat
  rsv : Nat
  /-- Media blocks of each die that scrubbing has retired (R345). -/
  retired : SMap Nat
  blocks : SMap Block
  pres : Nat
  psec : Nat
  deriving DecidableEq, Repr

inductive Bias | host | device | toDevice | toHost
  deriving DecidableEq, Repr

/-- The budget arbiter (R395 to R399): PWRCTL's ERR, MODE and PLIM as written, the mode in force, and
whether MODE was written since the last division. -/
structure Power where
  err : Nat
  mode : Nat
  plim : Nat
  nextMode : Nat
  moded : Bool
  divisions : Nat
  deriving DecidableEq, Repr

/-- A slew domain (R403): working and filler columns by domain-local index, the pointer last, the clock of
its last step, and the SLEN read at that step. -/
structure Slew where
  g : SMap Nat
  f : SMap Nat
  last : Nat
  since : Option Nat
  slen : Nat
  /-- The QPS that the last step read (R397). -/
  qps : Nat
  deriving DecidableEq, Repr

/-- Firmware, identity and attestation (R427, R428). -/
structure Firm where
  res : Nat
  pa : Word
  unit : Nat
  /-- Verified images that have not taken over: unit, version, digest. -/
  pending : List (Nat × Nat × BitVec 384)
  digests : SMap (BitVec 384)
  versions : SMap Nat
  nonce : BitVec 384
  /-- A report is in progress. -/
  asked : Bool
  complete : Bool
  report : List Byte
  deriving DecidableEq, Repr

/-- What the agenda asks for next: a core's turn, an event, time passing, or an error that a sector's media develops. -/
inductive Turn
  | core (g : Nat)
  | event (i : Instr)
  | pass (ns : Nat)
  | media (sector kind : Nat)
  deriving DecidableEq, Repr

/-- The package. -/
structure State where
  powered : Bool
  clock : Nat
  /-- The core whose bundle is at work. -/
  cur : Nat
  agenda : List Turn
  /-- A counter that names queue entries, records and residences. -/
  stamp : Nat
  mem : Memory
  poison : SMap PoisonMask
  /-- The media errors a sector's next read meets, by sector: their kind as an injected error's (R411, R383; log entry 83). -/
  latent : SMap Nat
  own : List (Nat × Eng)
  cores : SMap Core
  quads : SMap Quad
  clusters : SMap Cluster
  dies : SMap Die
  ctxs : SMap Ctx
  items : List Item
  /-- By die · 4 + layer: since which clock a record of the layer has waited or none has, latest first (R264, R283). -/
  waitLog : SMap (List (Nat × Bool))
  posts : List Post
  acct0 : SMap Nat
  gen : Gen
  bias : SMap Bias
  power : Power
  slews : SMap Slew
  firm : Firm
  deriving DecidableEq, Repr

/-! ## Reset -/

/-- The quad SRAM of a layer in 4 KiB units (R1, R346). -/
def sramUnits : Nat → Nat
  | 0 => 64 | 1 => 128 | 2 => 256 | _ => 512

/-- A quad after package reset. The spec gives the reset of a control-store entry's descriptor only: its bundle image holds 0
(DESIGN CHOICE, log entry 74). -/
def Quad.reset (q : Nat) : Quad :=
  { store := [], tlb := [], vshare := 0x4444, mxshare := 0x44444444, credits := [], portCredits := [], sfuQ := [],
    spad := sramUnits (quadLayer q), stash := 0, stashErr := 0, wd := 1000, dbg := false, retSt := 0, phys := none,
    oldPhys := [], dbgSince := 0, walker := 0, xchg := [] }

def Slice.reset : Slice := { st := 0, err := 0, cur := 0, sw := 0 }
def Link.reset : Link := { st := .down, lact := 0, lsel := 0, peer := 0, epoch := 0, retry := 0, since := 0 }
def Graph.reset : Graph := { header := 0, nodes := [], run := none, held := [], sent := [] }
def Region.reset : Region := { thermal := 0, exitCount := 0, since := none, level := 0, temp := 0 }
def Sample.reset : Sample := { rails := [], temps := [], time := 0, package := 0 }

/-- A dispenser control word at reset: AGEQ 100, PTHR 8 (R284). -/
def dispctlReset : Word := 0x00640800#64

def Die.reset : Die :=
  { past := [], dispctl := [], access := [], qctl := 4096, doms := [], slices := [], scrubBusy := false, scrubRes := 0,
    scrubPa := 0, links := [], graphs := [], linkcfg := 100, replay := [], launchLog := [], completions := [], tctl := 6720 * 65536 + 6080, regmax := 0,
    ramptbl := 0x0404040404040404,
    ladder := 0, regions := [], sample := Sample.reset, errcntUe := 0, errcntCe := 0, erraddr := 0 }

def Gen.reset : Gen :=
  { gen := 0, draining := false, image := 0, ctx := 0, err := 0, last := 0, rsv := 4, retired := [], blocks := [],
    pres := 0, psec := 0 }
def Power.reset : Power :=
  { err := 0, mode := 1, plim := 2400, nextMode := 1, moded := false, divisions := 0 }
def Slew.reset : Slew := { g := [], f := [], last := 7, since := none, slen := 0, qps := 0 }
def Firm.reset : Firm :=
  { res := 0, pa := 0, unit := 0, pending := [], digests := [], versions := [], nonce := 0, asked := false, complete := false, report := [] }

/-- The package right after package reset. -/
def State.reset : State :=
  { powered := true, clock := 0, cur := 0, agenda := [], stamp := 1, mem := [], poison := [], latent := [], own := [], cores := [],
    quads := [], clusters := [], dies := [], ctxs := [], items := [], waitLog := [], posts := [], acct0 := [], gen := Gen.reset, bias := [],
    power := Power.reset, slews := [], firm := Firm.reset }

end Sys2Proof.Machine
end

