-- ==== Sys2Proof/Machine/Base.lean ====
section
/-! DEFINITION. Reading and writing the parts of the package: cores and their registers, memory and
poison, translation (R252 to R259), and the accounts (R263 to R271). -/

namespace Sys2Proof.Machine

abbrev Step := Host.Outcome State Fault Refusal

/-! ## Parts of the package -/

def State.core (s : State) (g : Nat) : Core := SMap.get s.cores Core.reset g
def State.setCore (s : State) (g : Nat) (c : Core) : State := { s with cores := SMap.set s.cores g c }
def State.updCore (s : State) (g : Nat) (f : Core → Core) : State := s.setCore g (f (s.core g))
/-- The core whose bundle is at work. -/
def State.me (s : State) : Core := s.core s.cur
def State.updMe (s : State) (f : Core → Core) : State := s.updCore s.cur f
def State.quad (s : State) (q : Nat) : Quad := SMap.get s.quads (Quad.reset q) q
def State.updQuad (s : State) (q : Nat) (f : Quad → Quad) : State := { s with quads := SMap.set s.quads q (f (s.quad q)) }
def State.cluster (s : State) (m : Nat) : Cluster := SMap.get s.clusters Cluster.reset m
def State.updCluster (s : State) (m : Nat) (f : Cluster → Cluster) : State :=
  { s with clusters := SMap.set s.clusters m (f (s.cluster m)) }
def State.die (s : State) (d : Nat) : Die := SMap.get s.dies Die.reset d
def State.updDie (s : State) (d : Nat) (f : Die → Die) : State := { s with dies := SMap.set s.dies d (f (s.die d)) }
def State.ctx (s : State) (n : Nat) : Ctx := SMap.get s.ctxs Ctx.reset n
def State.updCtx (s : State) (n : Nat) (f : Ctx → Ctx) : State := { s with ctxs := SMap.set s.ctxs n (f (s.ctx n)) }
def Die.link (d : Die) (i : Nat) : Link := SMap.get d.links Link.reset i
def Die.slice (d : Die) (i : Nat) : Slice := SMap.get d.slices Slice.reset i
def Die.domain (d : Die) (i : Nat) : Domain := SMap.get d.doms Domain.reset i
def Die.region (d : Die) (i : Nat) : Region := SMap.get d.regions Region.reset i
def Die.graph (d : Die) (port slot : Nat) : Graph := SMap.get d.graphs Graph.reset (port * 8 + slot)

/-- g is the even core of a pair that runs one strand: the pair's own state, which a TSTAT that a handler has written and RFT copied
to STATUS.PR does not change (R119, R124, R229). -/
def State.dual (s : State) (g : Nat) : Bool :=
  decide (g % 2 = 0) && (decide ((s.core g).pair.st = .paired) || decide ((s.core g).pair.st = .exchanging))

/-- A number nothing else carries. -/
def State.fresh (s : State) : Nat × State := (s.stamp, { s with stamp := s.stamp + 1 })

/-- TIME: whole nanoseconds of a clock value (R125). -/
def nsOf (clock : Nat) : Nat := clock / unitsPerNs

/-! ## Registers -/

def Arch.rx (a : Arch) (n : Nat) : Word := if n = 0 then 0 else SMap.get a.x 0 n
/-- x0 discards writes (R54). -/
def Arch.wx (a : Arch) (n : Nat) (v : Word) : Arch := if n = 0 then a else { a with x := SMap.set a.x n v }
def Arch.rq (a : Arch) (n : Nat) : Bool := if n = 0 then true else bitAt a.q n
/-- q0 discards writes (R54). -/
def Arch.wq (a : Arch) (n : Nat) (b : Bool) : Arch := if n = 0 then a else { a with q := setBit a.q n b }
def Arch.rv (a : Arch) (n : Nat) : BitVec 4096 := SMap.get a.v 0 n
def Arch.wv (a : Arch) (n : Nat) (v : BitVec 4096) : Arch := { a with v := SMap.set a.v n v }

def Core.x (c : Core) (r : Reg) : Word := c.arch.rx r.toNat
def Core.q (c : Core) (r : QReg) : Bool := c.arch.rq r.toNat
def Core.updArch (c : Core) (f : Arch → Arch) : Core := { c with arch := f c.arch }

/-- The A instruction of the bundle at the issue point has issued before, with the x registers that its C instruction read then. -/
def Core.issuedA (c : Core) : Option (List (Nat × Word)) :=
  (c.arch.wait.aDone.find? fun p => decide (p.1 = bitAt c.arch.status 0) && decide (p.2.1 = c.arch.pc)).map (·.2.2)
def Core.aIssued (c : Core) : Bool := c.issuedA.isSome
/-- An x register as the bundle at the issue point read it when its A instruction issued (R33). -/
def Core.xAt (c : Core) (r : Reg) : Word :=
  match c.issuedA with
  | some l => ((l.find? fun p => decide (p.1 = r.toNat)).map Prod.snd).getD (c.x r)
  | none => c.x r

/-- STATUS (R124). -/
def Arch.tm (a : Arch) : Bool := bitAt a.status 0
def Arch.pl (a : Arch) : Bool := bitAt a.status 1
def Arch.bps (a : Arch) : Bool := bitAt a.status 2
def Arch.chk (a : Arch) : Bool := bitAt a.status 16
def Arch.meBit (a : Arch) : Bool := bitAt a.status 17
def Arch.pr (a : Arch) : Bool := bitAt a.status 18
def Arch.mop (a : Arch) : Nat := fld a.status 23 19
def Arch.setStatus (a : Arch) (f : Word → Word) : Arch := { a with status := f a.status }

/-- The bank a tile or accumulator name means (R118). -/
def Core.bank (c : Core) : Bank := if c.arch.tm then c.tbank else c.arch.bank
def Core.setBankOf (c : Core) (trap : Bool) (b : Bank) : Core :=
  if trap then { c with tbank := b } else { c with arch := { c.arch with bank := b } }
def Core.bankOf (c : Core) (trap : Bool) : Bank := if trap then c.tbank else c.arch.bank

/-! ## Results in flight (R34, R46, R49) -/

def writeDst (a : Arch) (p : PendW) : Arch :=
  let a := match p.flags with | some f => { a with fpst := a.fpst ||| f } | none => a
  match p.dst with
  | .x n => a.wx n p.val
  | .q n => a.wq n (bitAt p.val 0)

/-- Writes land in the order of their completion cycles (R46). Of two to one register in one cycle, which the rule does not
order, the later-issued one stands (DESIGN CHOICE, log entry 73). -/
def landAll (a : Arch) (ps : List PendW) : Arch :=
  (sortBy (fun p q => decide (p.land < q.land)) ps).foldl writeDst a

/-- Every write that has landed by a core cycle. -/
def Core.landBy (c : Core) (t : Nat) : Core :=
  { c with arch := landAll c.arch (c.pend.filter fun p => decide (p.land ≤ t)),
           pend := c.pend.filter fun p => !decide (p.land ≤ t) }

/-- Every result in flight lands (R49). -/
def Core.landEvery (c : Core) : Core := { c with arch := landAll c.arch c.pend, pend := [] }

def Core.push (c : Core) (dst : PDst) (v : Word) (lat : Nat) (inter : Bool) (fl : Option FpFlags) : Core :=
  { c with pend := c.pend ++ [{ dst := dst, val := v, land := c.cycle + lat, inter := inter, flags := fl }] }

/-- A fixed-latency result of the bundle at work (R34). -/
def State.pushX (s : State) (d : Reg) (v : Word) (lat : Nat) : State := s.updMe fun c => c.push (.x d.toNat) v lat false none
def State.pushQ (s : State) (d : QReg) (b : Bool) (lat : Nat) : State :=
  s.updMe fun c => c.push (.q d.toNat) (BitVec.ofNat 64 b.toNat) lat false none
/-- A fixed-latency result with the flags it raises (R79). -/
def State.pushXF (s : State) (d : Reg) (v : Word) (lat : Nat) (f : FpFlags) : State :=
  s.updMe fun c => c.push (.x d.toNat) v lat false (some f)
def State.pushQF (s : State) (d : QReg) (b : Bool) (lat : Nat) (f : FpFlags) : State :=
  s.updMe fun c => c.push (.q d.toNat) (BitVec.ofNat 64 b.toNat) lat false (some f)
/-- An interlocked result (R96). The spec gives no figure for it: one cycle (DESIGN CHOICE, log entry 77). -/
def State.pushXI (s : State) (d : Reg) (v : Word) : State := s.updMe fun c => c.push (.x d.toNat) v 1 true none
def State.pushQI (s : State) (d : QReg) (b : Bool) : State :=
  s.updMe fun c => c.push (.q d.toNat) (BitVec.ofNat 64 b.toNat) 1 true none

/-- The flags a result raises, at the moment it is written (R79). -/
def State.raise (s : State) (g : Nat) (f : FpFlags) : State :=
  s.updCore g fun c => c.updArch fun a => { a with fpst := a.fpst ||| f }

/-- The bundle at work waits this cycle (R265). -/
def State.hold (s : State) (cause : Nat) : Step := .next (s.updMe fun c => { c with flow := .held cause })

/-! ## Memory -/

def Memory.rd (m : Memory) (k : Nat) : Byte := SMap.get m unwritten k
/-- A write of one byte; one that equals what an unlisted byte reads as is not listed. -/
def Memory.wr (m : Memory) (k : Nat) (b : Byte) : Memory := if b = unwritten then SMap.del m k else SMap.set m k b
def Memory.wrs (m : Memory) (cs : List Host.Cell) : Memory := cs.foldl (fun m c => m.wr c.1 c.2) m
/-- n bytes from k as a little-endian value. -/
def Memory.le (m : Memory) (k n : Nat) : Nat := leValue ((List.range n).map fun i => m.rd (k + i))
/-- The cells of an n-byte value at k. -/
def cellsOf (k n v : Nat) : List Host.Cell := (List.range n).map fun i => (k + i, byteOf v i)

/-- A host window address (R23). -/
def isHost (k : Nat) : Bool := decide (2 ^ 51 ≤ k) && decide (k < 0xF000000000000)

/-- A byte as the agents of a die see it: the youngest store between the order point and its home, or
the home's (R232, R233). -/
def pastByte (ps : List PastStore) (k : Nat) : Option Byte :=
  ps.foldl (fun acc p => match SMap.get? p.ent.bytes k with | some b => some b | none => acc) none
/-- A host page in host bias, or that no device has touched: it lies outside the die's order (R233, R241). -/
def State.hostBias (s : State) (k : Nat) : Bool :=
  isHost k && (match SMap.get? s.bias (k / 4096) with | some .device => false | _ => true)
def State.dieByte (s : State) (die k : Nat) : Byte :=
  if s.hostBias k then s.mem.rd k else (pastByte (s.die die).past k).getD (s.mem.rd k)
def State.dieLe (s : State) (die k n : Nat) : Nat := leValue ((List.range n).map fun i => s.dieByte die (k + i))

/-- The DRAM block of a key (R339's k), when it is DRAM. -/
def blockOf (k : Nat) : Option Nat := if k < 2 ^ 37 then some (k / 4096) else none
def State.block (s : State) (b : Nat) : Option Block := SMap.get? s.gen.blocks b
def blockIs (s : State) (k : Nat) (st : BlockState) : Bool :=
  match blockOf k with
  | some b => (match s.block b with | some x => decide (x.st = st) | none => false)
  | none => false

def State.poisoned (s : State) (k : Nat) : Bool := (SMap.get? s.poison (k / 32)).isSome || blockIs s k .quarantined

/-- The aligned 8-byte words that a write of n bytes at k covers in full. -/
def wordsOf (k n : Nat) : List Nat :=
  (List.range (n / 8 + 2)).filterMap fun i =>
    let w := (k / 8 + i) * 8
    if k ≤ w ∧ w + 8 ≤ k + n then some w else none

/-- A store's effect on poison: mask bits set, and poison cleared when all four are (R138). -/
def poisonWrite (p : SMap PoisonMask) (words : List Nat) : SMap PoisonMask :=
  words.foldl (fun p w =>
    match SMap.get? p (w / 32) with
    | none => p
    | some m =>
      let m' := setBit m (w % 32 / 8) true
      if m' = 15 then SMap.del p (w / 32) else SMap.set p (w / 32) m') p

/-- Poison is set on a sector: its mask is cleared (R138). -/
def State.setPoison (s : State) (sector : Nat) : State := { s with poison := SMap.set s.poison sector 0 }

def onDie (die b : Nat) : Bool := decide (b / 2 ^ 24 = die)
/-- Media of a die's reserve pool that is gone: retired, or on loan to SPLIT blocks (R331, R334). -/
def Gen.gone (g : Gen) (die : Nat) : Nat :=
  SMap.get g.retired 0 die + (g.blocks.filter fun b => onDie die b.1 && decide (b.2.st = .split)).length
/-- Free blocks of a die's reserve pool. -/
def Gen.free (g : Gen) (die : Nat) : Nat := 2 ^ 18 * g.rsv - g.gone die
/-- Blocks that a lowered RSV returns to a die's range and that have not appeared yet, for want of media (R332). -/
def Gen.owed (g : Gen) (die : Nat) : Nat := g.gone die - 2 ^ 18 * g.rsv

/-- A write may reach its blocks now: each die's reserve has a block for the copy of each FROZEN block (R334, R337). -/
def State.canWrite (s : State) (exempt : Bool) (cs : List Host.Cell) : Bool :=
  exempt || (
    let frozen := (cs.filterMap fun c => blockOf c.1).eraseDups.filter fun b => blockIs s (b * 4096) .frozen
    [0, 1].all fun d => decide ((frozen.filter (onDie d)).length ≤ s.gen.free d))

/-- A block write's event (R334). -/
def touchBlock (exempt : Bool) (m : Memory) (p : SMap PoisonMask) (g : Gen) (b : Nat) : Gen :=
  match SMap.get? g.blocks b with
  | none => { g with blocks := SMap.set g.blocks b { st := .current, old := [], bad := [], exempt := false } }
  | some x =>
    match x.st with
    | .zero => { g with blocks := SMap.set g.blocks b { st := .current, old := [], bad := [], exempt := false } }
    | .frozen =>
      if exempt then { g with blocks := SMap.set g.blocks b { st := .current, old := [], bad := [], exempt := true } }
      else
        let x : Block :=
          { st := .split, old := (List.range 4096).map fun i => m.rd (b * 4096 + i),
            bad := (List.range 128).filter fun i => (SMap.get? p (b * 128 + i)).isSome, exempt := false }
        { g with blocks := SMap.set g.blocks b x }
    | _ => g

/-- Bytes written at their home, block events and poison included. -/
def State.homeWrite (s : State) (exempt : Bool) (cs : List Host.Cell) (words : List Nat) : State :=
  let blocks := (cs.filterMap fun c => blockOf c.1).eraseDups
  { s with mem := s.mem.wrs cs, gen := blocks.foldl (touchBlock exempt s.mem s.poison) s.gen, poison := poisonWrite s.poison words }

/-! ## Media (R334, R337, R338) -/

/-- Bytes written to memory that hold v, little-endian. -/
def State.putBytes (s : State) (k n v : Nat) : State := s.homeWrite false (cellsOf k n v) (wordsOf k n)

/-- The block map's code of a block. -/
def State.mapCode (s : State) (b : Nat) : Nat := ((s.mem.rd (s.gen.image + 0x1000 + b / 4)).toNat >>> (2 * (b % 4))) % 4
def State.putCode (s : State) (b code : Nat) : State :=
  let k := s.gen.image + 0x1000 + b / 4
  s.putBytes k 1 (setFld (s.mem.rd k) (2 * (b % 4) + 1) (2 * (b % 4)) code).toNat

/-- A block leaves its frozen state with the old media of a SPLIT block returned to the reserve. -/
def State.thaw (s : State) (b : Nat) : State :=
  match s.block b with
  | none => s
  | some x =>
    { s with gen := { s.gen with blocks := SMap.set s.gen.blocks b { st := .current, old := [], bad := [], exempt := x.exempt } } }

/-! ## Errors in media (R411, R421) -/

/-- Kinds of error that the first read of a sector meets: INJCTL.KIND of every core that armed it, and what its media has developed
of itself. -/
def State.armed (s : State) (sector : Nat) : List Nat :=
  (s.cores.filterMap fun p =>
    if bitAt p.2.injctl 0 && decide (unalias p.2.injaddr.toNat / 32 = sector) then some (fld p.2.injctl 2 1) else none)
  ++ (SMap.get? s.latent sector).toList

/-- The first read of a sector with an error, by an agent of a die, fires it: counters, poison, and whether the reader consumes an
uncorrectable error directly. A correctable one is counted where the sector is read, at its home, an uncorrectable one where it is
met. -/
def State.fireSector (s : State) (die : Nat) (direct : Bool) (sector : Nat) : State × Bool :=
  let ks := s.armed sector
  if ks.isEmpty then (s, false)
  else
    let fire (c : Core) : Core :=
      if bitAt c.injctl 0 && decide (unalias c.injaddr.toNat / 32 = sector) then
        { c with injctl := setBit (setBit c.injctl 0 false) 3 true }
      else c
    let s := { s with cores := SMap.mapVals s.cores fun _ c => fire c, latent := SMap.del s.latent sector }
    if ks.contains 3 then (s.setPoison sector, false)
    else if ks.contains 2 then
      let s := s.updDie die fun x =>
        { x with errcntUe := (x.errcntUe + 1) % 2 ^ 32, erraddr := BitVec.ofNat 64 (sector * 32) }
      (s.setPoison sector, direct)
    else (s.updDie (siteDie (sector * 32)) fun x => { x with errcntCe := (x.errcntCe + 1) % 2 ^ 32 }, false)

def State.fireKeys (s : State) (die : Nat) (direct : Bool) (keys : List Nat) : State × Bool :=
  (keys.map (· / 32)).eraseDups.foldl (fun r k => let t := r.1.fireSector die direct k; (t.1, r.2 || t.2)) (s, false)

/-- A block's frozen media goes to the image, sector by sector with its poison (R338). Its read meets the errors of its sectors
(R411, R421). -/
def State.drainBlock (s : State) (b : Nat) : State :=
  match s.block b with
  | none => s
  | some x =>
    let split := decide (x.st = .split)
    let s := if split then s else (s.fireKeys (b / 2 ^ 24) false ((List.range 128).map fun i => b * 4096 + 32 * i)).1
    let data := if split then x.old else (List.range 4096).map fun i => s.mem.rd (b * 4096 + i)
    let bad := if split then x.bad else (List.range 128).filter fun i => (SMap.get? s.poison (b * 128 + i)).isSome
    let at' := s.gen.image + 0x1000000 + 4096 * b
    let s := s.putBytes at' 4096 (leValue data)
    let s := bad.foldl (fun s i => s.setPoison (at' / 32 + i)) s
    let s := s.putCode b 1
    ({ s with gen := { s.gen with pres := s.gen.pres + 1, psec := s.gen.psec + bad.length } }).thaw b

/-- Bytes that the hardware writes of its own: a FROZEN block for which the reserve has no copy is drained first (R337). -/
def State.ownWrite (s : State) (cs : List Host.Cell) (words : List Nat) : State :=
  (cs.map fun c => c.1 / 4096).eraseDups.foldl (fun s b =>
    let s := if s.gen.free (b / 2 ^ 24) = 0 && blockIs s (b * 4096) .frozen then s.drainBlock b else s
    s.homeWrite false (cs.filter fun c => decide (c.1 / 4096 = b)) (words.filter fun w => decide (w / 4096 = b))) s

/-- A CXL port is up (R25, R381): ports 2 and 3 of each die's links (R379). -/
def State.cxlUp (s : State) (p : Nat) : Bool :=
  let l := (s.die (p / 2)).link (2 + p % 2)
  decide (l.st = .up) || decide (l.st = .degraded)
def State.hostUp (s : State) : Bool :=
  let l := (s.die 0).link 1
  decide (l.st = .up) || decide (l.st = .degraded)

/-- Bit positions of a slice aperture (R351): (die, slice, offset). -/
def apertureOf (pa : Nat) : Option (Nat × Nat × Nat) :=
  let o := pa - 0xF000000000000
  if 0xF000000000000 ≤ pa ∧ (o >>> 40) % 16 = 1 ∧ 0x8000000000 ≤ o % 2 ^ 40 ∧ o % 2 ^ 40 < 0x8010000000 then
    let a := o % 2 ^ 40 - 0x8000000000
    some (o / 2 ^ 44, a / 0x800000, a % 0x800000)
  else none

/-- The media of a sector develops an error of itself: a correctable (1) or uncorrectable one (2) in DRAM, a scratchpad or a slice
window (R411), poison (3) in what an expander will return (R383). -/
def State.develop (s : State) (sector kind : Nat) : State :=
  let k := sector * 32
  let here := match rangeOf k with
    | .dram _ => decide (kind = 1) || decide (kind = 2)
    | .cxl _ => decide (kind = 3)
    | .control => (isSpad k || (apertureOf k).isSome) && (decide (kind = 1) || decide (kind = 2))
    | _ => false
  if here then { s with latent := SMap.set s.latent sector kind } else s

def isControl (pa : Nat) : Bool := decide (rangeOf pa = .control) && (apertureOf pa).isNone && !isSpad pa

/-- Memory is behind an address with the alias resolved (R25, R331). Control space is no hole. -/
def State.hasMemory (s : State) (pa : Nat) : Bool :=
  if isSpad pa then true
  else
    match rangeOf pa with
    | .dram d => decide (homeOffset pa < dramSize - s.gen.rsv * 2 ^ 30 - s.gen.owed d * 4096)
    | .hole => false
    | .cxl p => s.cxlUp p && decide (homeOffset pa / 4096 < Config.cxlPages p)
    | .host => s.hostUp && Config.hostAnswers (homeOffset pa)
    | .control => true

/-- Memory that was there and is there no longer: withheld DRAM, and scratchpad that the stash has taken (R331, R347). -/
def State.gone (s : State) (k : Nat) : Bool :=
  if isSpad k then decide ((s.quad (spadQuad k)).spad * 4096 ≤ k - spadKey (spadQuad k) 0)
  else match rangeOf k with | .dram _ => !s.hasMemory k | _ => false

/-- The bridge carries no traffic: it is being trained or down, and what would cross waits (R10, R382). -/
def State.bridgeWaits (s : State) : Bool :=
  [0, 1].any fun d => let l := (s.die d).link 0; !(decide (l.st = .up) || decide (l.st = .degraded))
/-- Traffic from one die to the other waits for the bridge. -/
def State.crossWaits (s : State) (a b : Nat) : Bool := decide (a ≠ b) && s.bridgeWaits

/-! ## Translation (R252 to R258) -/

inductive XKind | read | write | fetch | atomic | eread | ewrite | eboth
  deriving DecidableEq, Repr

/-- What a translation yields. -/
structure Xlated where
  /-- The address with the alias resolved, or a scratchpad key. -/
  pa : Nat
  /-- The physical address as translated, before R24. -/
  raw : Nat
  mig : Bool
  stash : Bool
  biasd : Bool
  snapx : Bool
  /-- The entry a completed walk fills the TLBs with. -/
  fill : Option TlbEntry
  deriving DecidableEq, Repr

/-- Trap causes (R71). -/
def cILLEGAL : Nat := 0x01
def cPRIV : Nat := 0x02
def cALIGN : Nat := 0x03
def cFETCH : Nat := 0x04
def cXLATE : Nat := 0x05
def cPROT : Nat := 0x06
def cPOISON : Nat := 0x07
def cSTALL : Nat := 0x08
def cSLOT : Nat := 0x09
def cOVERRUN : Nat := 0x0A
def cMXFMT : Nat := 0x0B
def cSEALED : Nat := 0x0C
def cSPAD : Nat := 0x0D
def cATOM : Nat := 0x0E
def cLINK : Nat := 0x0F
def cBREAK : Nat := 0x10
def cSYSCALL : Nat := 0x11
def cPAIRFAIL : Nat := 0x12
def cCANCEL : Nat := 0x13
def cWATCHDOG : Nat := 0x14
def cSTREAM : Nat := 0x15
def cLEVEL : Nat := 0x16
def cENGINE : Nat := 0x17

/-- The permission bits of a leaf a kind needs: R 2, W 3, X 4 (R255). -/
def granted (k : XKind) (r w x : Bool) : Bool :=
  match k with
  | .read | .eread => r
  | .write | .ewrite => w
  | .fetch => x
  | .atomic | .eboth => r && w

/-- log2 of a region's page size; none for the codes that act as V = 0 (R253). -/
def pageBits (raf : Word) : Option Nat :=
  match fld raf 58 56 with
  | 0 => some 12 | 1 => some 16 | 2 => some 21 | 3 => some 25 | 4 => some 30
  | _ => none

/-- One level of the walk, from level `j` down to the leaf (R254, R255): the leaf entry or a cause. -/
def walk (s : State) (die p va : Nat) : Nat → Nat → Except Nat Word
  | 0, _ => .error cXLATE
  | j + 1, table =>
    let lo := p + 9 * j
    let idx := ((va % 2 ^ 52) >>> lo) % 512
    let ea := unalias (table + 8 * idx)
    if !s.hasMemory ea || isControl ea then .error cPROT
    else if s.poisoned ea then .error cPOISON
    else
      let e : Word := BitVec.ofNat 64 (s.dieLe die ea 8)
      if !bitAt e 0 then .error cXLATE
      else if fld e 63 52 ≠ 0 ∨ fld e 11 7 ≠ 0 ∨ bitAt e 5 ∨ bitAt e 1 then .error cPROT
      else if j = 0 then (if fld e 51 12 % 2 ^ (p - 12) ≠ 0 then .error cPROT else .ok e)
      else if fld e 6 1 ≠ 0 then .error cPROT
      else walk s die p va j (fld e 51 12 * 4096)

def tlbFind (l : List TlbEntry) (ctx va : Nat) : Option TlbEntry :=
  l.find? fun e => decide (e.ctx = ctx) && decide (va >>> e.p = e.vpage)

/-- The scratchpad bytes of a quad that accesses may reach: below its size and outside live journals (R256, R324). -/
def State.spadOk (s : State) (quad off : Nat) : Bool :=
  let size := (s.quad quad).spad * 4096
  let live (p : Nat) : Bool := s.dual (4 * quad + 2 * p)
  decide (off < size)
  && !(live 0 && decide (size - 65536 ≤ off))
  && !(live 1 && decide (size - 131072 ≤ off) && decide (off < size - 65536))

/-- Translation of one address for a core (R252); the cause where it fails. -/
def State.xlate (s : State) (g va : Nat) (k : XKind) : Except Nat Xlated :=
  let c := s.core g
  let a := c.arch
  let plain (pa : Nat) : Xlated := { pa := pa, raw := pa, mig := false, stash := false, biasd := false, snapx := false, fill := none }
  let r : Except Nat Xlated :=
    if va / 2 ^ 56 ≠ 0 then .error cXLATE
    else
      let n := va / 2 ^ 52
      let raf := SMap.get a.copies.raf 0 n
      if n = 15 then
        let off := va % 2 ^ 52
        if k = .fetch then .error cFETCH
        else if s.spadOk (quadOf g) off then .ok (plain (spadKey (quadOf g) off)) else .error cPROT
      else if n = 14 then
        let o := va % 2 ^ 52
        let ly := (o >>> 40) % 4
        let i := (o >>> 36) % 16
        let j := (o >>> 32) % 16
        if k = .fetch then .error cFETCH
        else if o / 2 ^ 43 ≠ 0 then .error cXLATE
        else if meshSide ly ≤ i ∨ meshSide ly ≤ j then .error cPROT
        else
          let q := quadAt ((o >>> 42) % 2) ly i j
          if s.spadOk q (o % 2 ^ 32) then .ok (plain (spadKey q (o % 2 ^ 32))) else .error cPROT
      else if k ≠ .fetch ∧ a.copies.thbase.toNat ≤ va ∧ va < a.copies.thlimit.toNat then
        let pm := a.copies.thperm
        let pa := (va + a.copies.thoff.toNat) % 2 ^ 52
        if granted k (bitAt pm 0) (bitAt pm 1) false && (decide (k ≠ .atomic) || bitAt pm 2) && (a.pl || bitAt pm 3) then
          let raw := pa
          .ok { pa := unalias pa, raw := raw, mig := false, stash := bitAt raf 61, biasd := bitAt raf 60, snapx := bitAt raf 59, fill := none }
        else .error cPROT
      else
        match pageBits raf with
        | none => .error cXLATE
        | some p =>
          if !bitAt raf 63 then .error cXLATE
          else
            let ctx := match c.strand with | some t => t.ctx | none => 0
            let finish (perm : BitVec 8) (frame : Nat) (p : Nat) (fill : Option TlbEntry) : Except Nat Xlated :=
              if granted k (bitAt perm 2) (bitAt perm 3) (bitAt perm 4) && (a.pl || bitAt perm 6) then
                let raw := frame + va % 2 ^ p
                .ok { pa := unalias raw, raw := raw, mig := bitAt raf 62, stash := bitAt raf 61, biasd := bitAt raf 60,
                      snapx := bitAt raf 59, fill := fill }
              else .error cPROT
            match tlbFind c.tlb ctx va with
            | some e => finish e.perm e.frame e.p none
            | none =>
              match tlbFind (s.quad (quadOf g)).tlb ctx va with
              | some e => finish e.perm e.frame e.p (some e)
              | none =>
                let d := fld raf 55 54 + 1
                if p + 9 * d ≤ 51 ∧ (va % 2 ^ 52) >>> (p + 9 * d) ≠ 0 then .error cXLATE
                else
                  match walk s (dieOf g) p va d (fld raf 51 12 * 4096) with
                  | .error e => .error e
                  | .ok e =>
                    let t : TlbEntry :=
                      { ctx := ctx, vpage := va >>> p, p := p, frame := fld e 51 12 * 4096, perm := e.setWidth 8, mig := bitAt raf 62 }
                    finish t.perm t.frame p (some t)
  match r with
  -- an atomic at the host meets the host's answer only after ATOM_TYPE is decided (R394)
  | .ok x => if s.hasMemory x.pa || (decide (k = .atomic) && isHost x.pa) then .ok x else .error (if k = .fetch then cFETCH else cPROT)
  | .error e => .error (if k = .fetch ∧ e ≠ cPOISON then cFETCH else e)

/-- A translation's fill of the core's and the quad's TLB, oldest entries leaving (R258). -/
def State.fillTlb (s : State) (g : Nat) (x : Xlated) : State :=
  match x.fill with
  | none => s
  | some e =>
    let add (n : Nat) (l : List TlbEntry) : List TlbEntry := if l.contains e then l else (e :: l).take n
    (s.updCore g fun c => { c with tlb := add 64 c.tlb }).updQuad (quadOf g) fun q => { q with tlb := add 2048 q.tlb }

/-- The 4 KiB pages of [va, va + n), each with its first address in the range. -/
def pagesOf (va n : Nat) : List Nat :=
  if n = 0 then []
  else va :: ((List.range ((va + n - 1) / 4096 - va / 4096)).map fun i => (va / 4096 + 1 + i) * 4096)

/-- Translate a range page by page (R136): the translations by page start, or the cause and the lowest
faulting address. -/
def State.xlateRange (s : State) (g va n : Nat) (k : XKind) : Except (Nat × Nat) (List (Nat × Xlated)) :=
  (pagesOf va n).foldr (fun p acc =>
    match s.xlate g (p % 2 ^ 64) k with
    | .error e => .error (e, p % 2 ^ 64)
    | .ok x => match acc with | .error e => .error e | .ok l => .ok ((p, x) :: l)) (.ok [])

/-- The key of a byte under translations of its range. -/
def keyAt (tr : List (Nat × Xlated)) (va : Nat) : Nat :=
  tr.foldl (fun acc p => if p.1 ≤ va then p.2.pa + (va - p.1) else acc) 0

def State.fillAll (s : State) (g : Nat) (tr : List (Nat × Xlated)) : State := tr.foldl (fun s p => s.fillTlb g p.2) s

/-! ## Accounts (R263 to R271) -/

def cISSUE : Nat := 0
def cEMPTY : Nat := 1
def cDEP : Nat := 2
def cMEM : Nat := 3
def cSTRM : Nat := 4
def cMXQ : Nat := 5
def cVSEQ : Nat := 6
def cMSG : Nat := 7
def cBAR : Nat := 8
def cTHROT : Nat := 9
def cFCH : Nat := 10
def cPAIR : Nat := 11
def cTRAPC : Nat := 12
def cSWITCH : Nat := 13
def cIDLE : Nat := 14
def cHALT : Nat := 15

/-- The ring of a core's working copies (R269): base, number of records, and whether it records. -/
def Core.ringBase (c : Core) : Nat := fld c.arch.copies.acctbase 51 12 * 4096
def Core.ringSize (c : Core) : Nat := 2 ^ (8 + fld c.arch.copies.acctctl 7 4)
def Core.pcrec (c : Core) : Bool := bitAt c.arch.copies.acctctl 0

/-- Bytes the hardware writes of its own at a physical address; none where no memory is. -/
def State.hwWrite (s : State) (pa n v : Nat) : State :=
  let k := unalias pa
  if s.hasMemory k && !isControl k then s.ownWrite (cellsOf k n v) (wordsOf k n) else s

/-- Bytes the hardware reads of its own at a physical address: a poisoned byte reads as zero (R138). -/
def State.hwByte (s : State) (pa : Nat) : Byte := if s.poisoned (unalias pa) then 0 else s.mem.rd (unalias pa)
def State.hwLe (s : State) (pa n : Nat) : Nat := leValue ((List.range n).map fun i => s.hwByte (pa + i))

def State.ringFull (s : State) (c : Core) : Bool :=
  decide (c.ringSize ≤ (s.hwLe (c.ringBase + 0x200) 8 + 2 ^ 64 - s.hwLe (c.ringBase + 0x208) 8) % 2 ^ 64)

/-- A record's 16 bytes and then HEAD (R269). -/
def State.ringPut (s : State) (c : Core) (r : Nat) : State :=
  let head := s.hwLe (c.ringBase + 0x200) 8
  (s.hwWrite (c.ringBase + 0x1000 + 16 * (head % c.ringSize)) 16 r).hwWrite (c.ringBase + 0x200) 8 (head + 1)

/-- A run or overflow record (R270). -/
def runRecord (g slot cause count : Nat) (o : Bool) (pc : Word) : Nat :=
  count <<< 96 + g <<< 84 + layerOf g <<< 82 + slot <<< 81 + o.toNat <<< 80 + cause <<< 76 + pc.toNat % 2 ^ 56

def Core.ctxNum (c : Core) : Nat := match c.strand with | some t => t.ctx | none => 0
/-- The context resident on a core: on the odd core of a pair, that of the pair's strand. -/
def State.ctxOn (s : State) (g : Nat) : Nat := (s.core (if s.dual (g / 2 * 2) then g / 2 * 2 else g)).ctxNum

/-- With space in the ring, the first non-zero overflow count of the resident context becomes a record (R270, R271). -/
def State.putOverflow (s : State) (g : Nat) : State :=
  let c := s.core g
  if s.ringFull c then s
  else
    match c.acct.overflow.find? fun p => decide (p.2 ≠ 0) && decide (p.1 / 32 = s.ctxOn g) with
    | none => s
    | some (k, n) =>
      let now := Nat.min n (2 ^ 32 - 1)
      let s := s.ringPut c (runRecord g (k / 16 % 2) (k % 16) now true 0)
      s.updCore g fun c => { c with acct := { c.acct with overflow := SMap.set c.acct.overflow k (n - now) } }

/-- A finished run goes to the ring after the overflow counts, or to those while the ring is full (R270, R271). -/
def State.endRun (s : State) (g slot : Nat) : State :=
  let c := s.core g
  match (if slot = 0 then c.acct.runC else c.acct.runA) with
  | none => s
  | some r =>
    let s1 :=
      if !c.pcrec || decide (r.ctx = 0) then s
      else
        let s := (List.range 32).foldl (fun s _ => s.putOverflow g) s
        if s.ringFull c then s.updCore g fun c => { c with acct := { c.acct with overflow := SMap.upd c.acct.overflow 0 (r.ctx * 32 + slot * 16 + r.cause) (· + r.count) } }
        else s.ringPut c (runRecord g slot r.cause r.count false r.pc)
    s1.updCore g fun c =>
      { c with acct := if slot = 0 then { c.acct with runC := none } else { c.acct with runA := none } }

/-- The longest run (R270). -/
def runMax : Nat := 2 ^ 32 - 1

/-- n cycles join a slot's open run, or end it and begin another; a run is cut at its longest (R270). -/
def State.extendRun : Nat → State → Nat → Nat → Nat → Nat → Nat → Word → State
  | 0, s, _, _, _, _, _, _ => s
  | f + 1, s, g, slot, ctx, cause, n, pc =>
    let run := if slot = 0 then (s.core g).acct.runC else (s.core g).acct.runA
    let s := match run with
      | some r => if r.ctx = ctx ∧ r.pc = pc ∧ r.cause = cause ∧ r.count < runMax then s else s.endRun g slot
      | none => s
    let old := match (if slot = 0 then (s.core g).acct.runC else (s.core g).acct.runA) with | some r => r.count | none => 0
    let k := Nat.min n (runMax - old)
    let r : Option Run := some { ctx := ctx, pc := pc, cause := cause, count := old + k }
    let s := s.updCore g fun c => { c with acct := if slot = 0 then { c.acct with runC := r } else { c.acct with runA := r } }
    if n ≤ k then s else State.extendRun f s g slot ctx cause (n - k) pc

/-- Charge one slot n cycles (R263). -/
def State.chargeSlot (s : State) (g slot ctx cause n : Nat) (pc : Word) : State :=
  (State.extendRun (n / runMax + 2) s g slot ctx cause n pc).updCore g fun c =>
    { c with acct := { c.acct with counts := SMap.upd c.acct.counts 0 cause (· + n),
                                   unflushed := SMap.upd c.acct.unflushed 0 (ctx * 16 + cause) (· + n) } }

/-- Charge both slots n cycles of one cause each (R265); the odd core of a pair is charged its own two slots
alike (R267). -/
def State.charge (s : State) (g causeC causeA n : Nat) (pc : Word) : State :=
  if n = 0 then s
  else
    let ctx := (s.core g).ctxNum
    let s := (s.chargeSlot g 0 ctx causeC n pc).chargeSlot g 1 ctx causeA n pc
    if s.dual g then (s.chargeSlot (g + 1) 0 ctx causeC n pc).chargeSlot (g + 1) 1 ctx causeA n pc else s

/-- A core's unflushed counts into the account blocks (R247, R268). -/
def State.flushAcct (s : State) (g : Nat) : State :=
  let c := s.core g
  let k := layerOf g
  let s1 := c.acct.unflushed.foldl (fun s p =>
    let ctx := p.1 / 16
    let cause := p.1 % 16
    if ctx = 0 then { s with acct0 := SMap.upd s.acct0 0 (16 * k + cause) (· + p.2) }
    else
      let pa := c.ringBase + 8 * (16 * k + cause)
      s.hwWrite pa 8 (s.hwLe pa 8 + p.2)) s
  s1.updCore g fun c => { c with acct := { c.acct with unflushed := [], lastFlush := c.acct.cycles } }

def State.endRuns (s : State) (g : Nat) : State := (s.endRun g 0).endRun g 1

/-! ## Clocks and widths -/

/-- What a ladder position sets (R398): the operating point of every rail, the half widths, the cap on L0. -/
structure LadderPos where
  op : Nat
  vhalf : Bool
  mhalf : Bool
  l0 : Nat
  deriving DecidableEq, Repr

/-- Position p of a mode's ladder: SUMMER, AUTUMN, WINTER, SPRING (R398). -/
def ladderPos (mode p : Nat) : LadderPos :=
  match mode with
  | 0 => { op := 7 - p, vhalf := decide (8 ≤ p), mhalf := decide (9 ≤ p), l0 := 4800 }
  | 1 => { op := 7 - (p - 2), vhalf := decide (1 ≤ p), mhalf := decide (2 ≤ p), l0 := 4800 }
  | 2 => { op := 5 - (p - 1), vhalf := decide (1 ≤ p), mhalf := true, l0 := 4800 }
  | _ => { op := 7 - (p - 5), vhalf := decide (4 ≤ p), mhalf := decide (5 ≤ p), l0 := 3200 - 400 * Nat.min p 3 }
def ladderBottom (mode : Nat) : Nat := match mode with | 0 => 9 | 1 => 9 | 2 => 6 | _ => 12

def State.ladder (s : State) (d : Nat) : LadderPos := ladderPos s.power.mode (s.die d).ladder

/-- The present clock FCUR of layer k on die d in MHz (R19, R396). -/
def State.fcur (s : State) (d k : Nat) : Nat :=
  let l := s.ladder d
  Nat.min (fnom k) (Nat.min (2000 + 400 * l.op) (if k = 0 then l.l0 else 4800))

/-- The period of a core's clock in clock units. -/
def State.periodOf (s : State) (g : Nat) : Nat := period (s.fcur (dieOf g) (layerOf g))

/-- A region has a restriction level, so that records are withheld from it (R283, R401). -/
def State.restricted (s : State) (q : Nat) : Bool := decide (1 ≤ ((s.die (quadDie q)).region (regionOf q)).level)

/-! ## Time (R126, R263) -/

/-- Between the two instructions of a microprogram's bundle (R69): a halt lets it finish. -/
def Core.midBundle (c : Core) : Bool := decide (c.arch.mop % 2 = 1) && c.micro.isSome

/-- n cycles of the layer go by on a core; its own clock stands still while it is halted for debugging (R126, R424). -/
def Core.pass (c : Core) (halted : Bool) (period n : Nat) : Core :=
  { c with cycle := if halted then c.cycle else c.cycle + n, now := c.now + n * period, acct := { c.acct with cycles := c.acct.cycles + n } }

/-- Cycles of the core's layer go by, on both cores of a pair. -/
def State.spend (s : State) (g n : Nat) : State :=
  let halted := (s.quad (quadOf g)).dbg && !(s.core g).midBundle
  let t := s.updCore g fun c => c.pass halted (s.periodOf g) n
  if s.dual g then t.updCore (g + 1) fun c => c.pass halted (s.periodOf g) n else t

/-- Cycles that go by and are charged to both slots (R263). -/
def State.pay (s : State) (g cause n : Nat) (pc : Word) : State := (s.charge g cause cause n pc).spend g n

/-- The cycles that translations have taken at core g's issue point go by, charged MEM (R259). -/
def State.payXl (s : State) (g : Nat) (pc : Word) : State :=
  if (s.core g).xl = 0 then s else (s.pay g cMEM (s.core g).xl pc).updCore g fun c => { c with xl := 0 }

end Sys2Proof.Machine
end

