-- ==== Sys2Proof/Machine/Spill.lean ====
section
/-! DEFINITION. Images of architectural state in memory: the Percolator's of R366 and R367, and the spill
area of R288, which the halted-core window of R424 shares. -/

namespace Sys2Proof.Machine

/-! ## Vector registers, tiles and accumulators by element -/

/-- Element `e` of `w` bits of a register or tile. -/
def elemAt {n : Nat} (v : BitVec n) (w e : Nat) : Nat := (v.toNat >>> (w * e)) % 2 ^ w
/-- A register made of elements of `w` bits, lowest first, zero above (R164). -/
def packElems (n w : Nat) (l : List Nat) : BitVec n :=
  BitVec.ofNat n (l.foldr (fun x acc => x % 2 ^ w + acc <<< w) 0)
/-- Doubleword `i` of a register or tile replaced. -/
def putDword {n : Nat} (v : BitVec n) (i : Nat) (x : Word) : BitVec n := setFld v (64 * i + 63) (64 * i) x.toNat

/-- TSHAPE at reset on layer k: side × side elements of 32 bits (R187). -/
def tshapeReset (k : Nat) : Word := BitVec.ofNat 64 (side k <<< 10 + side k <<< 3 + 2)
def Bank.shape (b : Bank) (k i : Nat) : Word := SMap.get b.tshape (tshapeReset k) i
def Bank.tile (b : Bank) (i : Nat) : Tile := SMap.get b.tiles Tile.zero i
def Bank.acc (b : Bank) (i : Nat) : Accum := SMap.get b.accs Accum.zero i
def Bank.setTile (b : Bank) (i : Nat) (t : Tile) : Bank := { b with tiles := SMap.set b.tiles i t }
def Bank.setAcc (b : Bank) (i : Nat) (x : Accum) : Bank := { b with accs := SMap.set b.accs i x }
/-- What an accumulator shows: the chain while it is open (R193, R288). -/
def Accum.cur (x : Accum) : SMap (BitVec 32) := x.chain.getD x.val
def Accum.setCur (x : Accum) (m : SMap (BitVec 32)) : Accum :=
  match x.chain with
  | none => { x with val := m }
  | some _ => { x with chain := some m }

/-! ## The Percolator's image (R366, R367) -/

def Perc.cell (p : Perc) (n : Nat) : Cell := SMap.get p.cells Cell.zero n
def Perc.setCell (p : Perc) (n : Nat) (c : Cell) : Perc := { p with cells := SMap.set p.cells n c }
def Perc.word (p : Perc) (n : Nat) : Word := SMap.get p.patch 0 n

/-- The five edge counters in bits 19:0 (R367's bits 99:80). -/
def packEc (ec : List Int) : Nat := ec.foldr (fun (x : Int) acc => (x % 16).toNat + acc <<< 4) 0
def unpackEc (v : Nat) : List Int := (List.range 5).map fun i => sextNat 4 (v >>> (4 * i))

/-- Doubleword i of the 8 KiB image (R367). -/
def Perc.imageWord (p : Perc) (i : Nat) : Word :=
  if i < 512 then
    let c := p.cell (i / 2)
    if i % 2 = 0 then BitVec.ofNat 64 (c.w <<< 32 + (c.y % 2 ^ 32).toNat)
    else BitVec.ofNat 64 (c.cnt + packEc c.ec <<< 16)
  else if i = 512 then p.k.setWidth 64
  else if i < 520 then 0
  else if i < 776 then p.word (i - 520)
  else if i = 776 then p.psc
  else if i = 777 then p.prem
  else if i = 778 then BitVec.ofNat 64 (p.lpos + p.flt.toNat <<< 8 + (if p.flt then p.fltVal else 0) <<< 9)
  else if 784 ≤ i ∧ i < 848 then BitVec.ofNat 64 (elemAt p.lanes 64 (i - 784))
  else 0

/-- Doubleword i of the image written into the state. A patch word's reserved bits are held as zero (R5, R366). -/
def Perc.putWord (p : Perc) (i : Nat) (v : Word) : Perc :=
  if i < 512 then
    let c := p.cell (i / 2)
    if i % 2 = 0 then p.setCell (i / 2) { c with w := fld v 63 32, y := sextNat 32 v.toNat }
    else p.setCell (i / 2) { c with cnt := fld v 15 0, ec := unpackEc (v.toNat >>> 16) }
  else if i = 512 then { p with k := v.setWidth 16 }
  else if i < 520 then p
  else if i < 776 then { p with patch := SMap.set p.patch (i - 520) (v &&& 0x1FFFFFFFFFFFFFFF#64) }
  else if i = 776 then { p with psc := v }
  else if i = 777 then { p with prem := v }
  else if i = 778 then { p with lpos := fld v 7 0, flt := bitAt v 8, fltVal := fld v 19 9 }
  else if 784 ≤ i ∧ i < 848 then { p with lanes := putDword p.lanes (i - 784) v }
  else p

/-! ## Fields that registers have: reserved bits are held as zero (R5) -/

/-- RAFn with its reserved fields zero (R253). -/
def rafKeep (v : Word) : Word := v &&& 0xFFCFFFFFFFFFF000#64
def thAddr (v : Word) : Word := v &&& 0x00FFFFFFFFFFF000#64
def pageField (v : Word) : Word := v &&& 0x000FFFFFFFFFF000#64
def telKeep (v : Word) : Word := v &&& 0x000FFFFFFFFFF0F1#64
def acctctlKeep (v : Word) : Word := v &&& 0xF1#64
def tvecKeep (v : Word) : Word := v &&& 0xFFFFFFFFFFFFFFF8#64

def vshapeKeep (v : Word) : Word := v &&& 0x3FF3FF3#64
def tshapeKeep (v : Word) : Word := v &&& 0x3FFFB#64
def slotKeep (v : Word) : Word := v &&& 0x00FFFFFFFFFFFFDF#64
def tcauseKeep (v : Word) : Word := v &&& 0x3F#64
def tstatKeep (v : Word) : Word := v &&& 0xFF0006#64
/-- A decode-table word (R88). -/
def tabKeep (v : TabEntry) : TabEntry := v &&& 0x8007FFFF#32

/-! ## The spill area (R288) -/

/-- Doubleword i of the first KiB. -/
def Arch.coreWord (k : Nat) (a : Arch) (i : Nat) : Word :=
  if i < 64 then a.rx i
  else if i = 64 then (a.q ||| 1).setWidth 64
  else if i = 65 then a.status
  else if i = 66 then a.fpst.setWidth 64
  else if i = 67 then a.srseed.setWidth 64
  else if i = 68 then a.lcnt
  else if i = 69 then a.lbeg
  else if i = 70 then a.lend
  else if i = 71 then a.rcnt.setWidth 64
  else if i < 76 then SMap.get a.chstat 0 (i - 72)
  else if i = 76 then BitVec.ofNat 64 a.debt
  else if i = 77 then a.arming
  else if i = 78 then a.vshape
  else if i < 87 then a.bank.shape k (i - 79)
  else if i < 103 then SMap.get a.copies.raf 0 (i - 87)
  else if i = 103 then a.copies.thbase
  else if i = 104 then a.copies.thlimit
  else if i = 105 then a.copies.thoff
  else if i = 106 then a.copies.thperm
  else if i = 107 then a.copies.acctbase
  else if i = 108 then a.copies.acctctl
  else if i = 109 then a.copies.telbase
  else if i = 110 then a.copies.spillbase
  else if i = 111 then a.copies.tvec
  else if i < 116 then SMap.get a.tsave 0 (i - 112)
  else if i = 116 then a.tpc
  else if i = 117 then a.tcause
  else if i = 118 then a.tval
  else if i = 119 then a.tstat
  else if i = 120 then a.bpad0
  else if i = 121 then a.bpad1
  else if i = 122 then a.bpctl.setWidth 64
  else if i = 126 then a.slottbl
  else 0

def Arch.putCoreWord (a : Arch) (i : Nat) (v : Word) : Arch :=
  if i < 64 then a.wx i v
  else if i = 64 then { a with q := v.setWidth 8 ||| 1 }
  else if i = 65 then { a with status := setBit (v &&& 0xFF0007) 18 a.pr }
  else if i = 66 then { a with fpst := v.setWidth 5 }
  else if i = 67 then { a with srseed := v.setWidth 32 }
  else if i = 68 then { a with lcnt := v }
  else if i = 69 then { a with lbeg := v }
  else if i = 70 then { a with lend := v }
  else if i = 71 then { a with rcnt := v.setWidth 32 }
  else if i < 76 then { a with chstat := SMap.set a.chstat (i - 72) v }
  else if i = 76 then { a with debt := v.toNat }
  else if i = 77 then { a with arming := v }
  else if i = 78 then { a with vshape := vshapeKeep v }
  else if i < 87 then
    { a with bank := { a.bank with tshape := SMap.set a.bank.tshape (i - 79) (tshapeKeep v), ishape := SMap.set a.bank.ishape (i - 79) (tshapeKeep v) } }
  else if i < 103 then { a with copies := { a.copies with raf := SMap.set a.copies.raf (i - 87) (rafKeep v) } }
  else if i = 103 then { a with copies := { a.copies with thbase := thAddr v } }
  else if i = 104 then { a with copies := { a.copies with thlimit := thAddr v } }
  else if i = 105 then { a with copies := { a.copies with thoff := pageField v } }
  else if i = 106 then { a with copies := { a.copies with thperm := v &&& 15 } }
  else if i = 107 then { a with copies := { a.copies with acctbase := pageField v } }
  else if i = 108 then { a with copies := { a.copies with acctctl := acctctlKeep v } }
  else if i = 109 then { a with copies := { a.copies with telbase := telKeep v } }
  else if i = 110 then { a with copies := { a.copies with spillbase := v } }
  else if i = 111 then { a with copies := { a.copies with tvec := tvecKeep v } }
  else if i < 116 then { a with tsave := SMap.set a.tsave (i - 112) v }
  else if i = 116 then { a with tpc := v }
  else if i = 117 then { a with tcause := tcauseKeep v }
  else if i = 118 then { a with tval := v }
  else if i = 119 then { a with tstat := tstatKeep v }
  else if i = 120 then { a with bpad0 := v }
  else if i = 121 then { a with bpad1 := v }
  else if i = 122 then { a with bpctl := v.setWidth 4 }
  else if i = 126 then { a with slottbl := slotKeep v }
  else a

/-- The parts of the area whose inner layout the spec gives: doubleword numbers of the core registers, the
decode table, the scale areas, v0–v31, the Percolator, the tiles and the accumulators. -/
def spillLaidOut (i : Nat) : Bool :=
  decide (i < 384) || (decide (0x400 ≤ i) && decide (i < 0x1000)) || decide (0x1000 ≤ i) && decide (i < 0x4000)

/-- Doubleword i of the area, for the parts `spillLaidOut` names. -/
def Arch.spillWord (k : Nat) (a : Arch) (i : Nat) : Word :=
  if i < 128 then a.coreWord k i
  else if i < 256 then
    BitVec.ofNat 64 ((SMap.get a.tab 0 (2 * (i - 128))).toNat + (SMap.get a.tab 0 (2 * (i - 128) + 1)).toNat <<< 32)
  else if i < 384 then BitVec.ofNat 64 (elemAt (a.bank.tile ((i - 256) / 16)).scales 64 ((i - 256) % 16))
  else if i < 0x400 then 0
  else if i < 0xC00 then BitVec.ofNat 64 (elemAt (a.rv ((i - 0x400) / 64)) 64 (i % 64))
  else if i < 0x1000 then a.perc.imageWord (i - 0xC00)
  else if i < 0x3000 then BitVec.ofNat 64 (elemAt (a.bank.tile ((i - 0x1000) / 1024)).data 64 (i % 1024))
  else
    let m := (a.bank.acc ((i - 0x3000) / 2048)).cur
    let e := 2 * (i % 2048)
    BitVec.ofNat 64 ((SMap.get m 0 e).toNat + (SMap.get m 0 (e + 1)).toNat <<< 32)

def Arch.putSpillWord (a : Arch) (i : Nat) (v : Word) : Arch :=
  if i < 128 then a.putCoreWord i v
  else if i < 256 then
    { a with tab := SMap.set (SMap.set a.tab (2 * (i - 128)) (tabKeep (v.setWidth 32))) (2 * (i - 128) + 1) (tabKeep (BitVec.ofNat 32 (fld v 63 32))) }
  else if i < 384 then
    let n := (i - 256) / 16
    { a with bank := a.bank.setTile n { a.bank.tile n with scales := putDword (a.bank.tile n).scales ((i - 256) % 16) v } }
  else if i < 0x400 then a
  else if i < 0xC00 then a.wv ((i - 0x400) / 64) (putDword (a.rv ((i - 0x400) / 64)) (i % 64) v)
  else if i < 0x1000 then { a with perc := a.perc.putWord (i - 0xC00) v }
  else if i < 0x3000 then
    let n := (i - 0x1000) / 1024
    { a with bank := a.bank.setTile n { a.bank.tile n with data := putDword (a.bank.tile n).data (i % 1024) v } }
  else
    let n := (i - 0x3000) / 2048
    let x := a.bank.acc n
    let e := 2 * (i % 2048)
    let m := SMap.set (SMap.set x.cur e (v.setWidth 32)) (e + 1) (BitVec.ofNat 32 (fld v 63 32))
    { a with bank := a.bank.setAcc n (x.setCur m) }

/-- The cells a spill writes at physical address pa: the laid-out parts, and open values in the others. -/
def Arch.spillCells (k : Nat) (a : Arch) (pa stamp : Nat) : List Host.Cell :=
  (List.range 0x4000).flatMap fun i =>
    cellsOf (unalias (pa + 8 * i)) 8 (if spillLaidOut i then a.spillWord k i else Config.openSpill stamp i).toNat

/-- The state a restore yields: the laid-out parts as memory holds them, the rest as it was spilled. -/
def Arch.unspill (k : Nat) (a : Arch) (m : Memory) (pa : Nat) : Arch :=
  (List.range 0x4000).foldl (fun a i =>
    if spillLaidOut i then
      let v : Word := BitVec.ofNat 64 (m.le (unalias (pa + 8 * i)) 8)
      if v = a.spillWord k i then a else a.putSpillWord i v
    else a) a

end Sys2Proof.Machine
end

