-- ==== Sys2Proof/Machine/Dispense.lean ====
section
/-! DEFINITION. Objects and handles (R210, R276 to R278), context descriptors (R249 to R251), strand records
and the dispensers' rings (R273 to R284), cancelling (R217) and the loading of a strand (R37, R281). -/

namespace Sys2Proof.Machine

/-! ## Handles and objects -/

/-- A handle (R210): level 1 launch, 2 graph, 3 phase, 4 job. -/
def handleWord (lvl ctx id : Nat) : Word := BitVec.ofNat 64 (lvl <<< 61 + ctx <<< 40 + id)

def State.setObj (s : State) (n id : Nat) (o : Obj) : State := s.updCtx n fun c => { c with objs := SMap.set c.objs id o }
def Ctx.obj? (c : Ctx) (id : Nat) : Option Obj := SMap.get? c.objs id
/-- The parent's ID, 0 where there is none. -/
def Ctx.parent (c : Ctx) (id : Nat) : Nat := match c.obj? id with | some o => o.parent | none => 0
/-- The object is `top` or lies below it (R276: at most four levels). -/
def Ctx.under (c : Ctx) (top id : Nat) : Bool :=
  decide (id = top) || decide (c.parent id = top) || decide (c.parent (c.parent id) = top)
  || decide (c.parent (c.parent (c.parent id)) = top)

/-- The entry of an ID is free (R278). -/
def Ctx.entryFree (c : Ctx) (id : Nat) : Bool := c.objs.all fun p => p.2.done || decide (p.1 % 65536 ≠ id % 65536)

/-- A new object with the next ID, when its entry is free; a completed object's entry is taken over. -/
def State.newObj (s : State) (n : Nat) (o : Obj) : Option (Nat × State) :=
  let c := s.ctx n
  if c.entryFree c.nextId then
    let kept := c.objs.filter fun p => decide (p.1 % 65536 ≠ c.nextId % 65536)
    some (c.nextId, s.updCtx n fun c => { c with objs := SMap.set kept c.nextId o, nextId := c.nextId + 1 })
  else none

def Obj.new (lvl parent count : Nat) : Obj :=
  { lvl := lvl, parent := parent, out := false, canc := false, armed := false, count := count, done := false }

/-- A record or launch reference that its dispenser could place (R281). -/
def Item.queued (it : Item) : Bool := match it.place with | .ring => true | .ref => true | _ => false

/-- A record waits at the dispenser of a layer. -/
def State.waits (s : State) (die layer : Nat) : Bool :=
  s.items.any fun it => decide (it.die = die) && decide (it.layer = layer) && it.queued && decide ((s.ctx it.ctx).st = .live)

/-- What the dispensers hold has changed: from now on a record of a layer waits, or none does (R264). -/
def State.noteWaits (s : State) : State :=
  { s with waitLog := (List.range 8).foldl (fun l i =>
      let w := s.waits (i / 4) (i % 4)
      let was := match SMap.get l [] i with | p :: _ => p.2 | [] => false
      if w = was then l else SMap.upd l [] i ((s.clock, w) :: ·)) s.waitLog }

/-- An item goes to the tail of its ring (R275). -/
def State.toRing (s : State) (it : Item) : State :=
  let (n, s) := s.fresh
  let it := { it with place := .ring, since := s.clock, born := s.clock, seq := n, was := none, r := { it.r with kind := 0, age := 0 } }
  let s : State := { s with items := s.items.filter (fun (x : Item) => decide (x.rid ≠ it.rid)) ++ [it] }
  s.noteWaits

/-- Every record waiting on an object is released with its outcome (R275, R276). -/
def State.release (s : State) (n id : Nat) (out : Bool) : State :=
  s.items.foldl (fun s it =>
    if it.ctx = n then
      match it.place with
      | .waiting o dst =>
        if o = id then s.toRing { it with out := if dst = 0 then none else some (dst, BitVec.ofNat 64 out.toNat) } else s
      | _ => s
    else s) s

/-- Completion of an object whose counter is zero and that is not armed, and of the objects above it (R276). -/
def State.completeObj : Nat → State → Nat → Nat → State
  | 0, s, _, _ => s
  | f + 1, s, n, id =>
    match (s.ctx n).obj? id with
    | none => s
    | some o =>
      if o.done || o.armed || decide (o.count ≠ 0) then s
      else
        let s := (s.setObj n id { o with done := true }).release n id o.out
        match (s.ctx n).obj? o.parent with
        | none => s
        | some p =>
          if p.done then s
          else State.completeObj f (s.setObj n o.parent { p with count := p.count - 1, out := p.out || o.out }) n o.parent

/-- A context with no strand left: nothing resident and nothing held by the dispensers. -/
def State.ctxEmpty (s : State) (n : Nat) : Bool :=
  s.cores.all (fun p => match p.2.strand with | some t => decide (t.ctx ≠ n) | none => true)
  && s.items.all fun it => decide (it.ctx ≠ n)

/-- Every spill queue of the context is emptied, and its cells are free (R363). -/
def Ctx.dropSpills (c : Ctx) : Ctx :=
  { c with mboxes := SMap.mapVals c.mboxes fun _ m => { m with spill := [] }, spillQ := [],
           spilled := SMap.mapVals c.spilled fun _ x => { x with spill := [] } }

/-- The last strand of a STOPPING context ends (R249, R363); the accounts were flushed as each strand left (R268). -/
def State.stopCheck (s : State) (n : Nat) : State :=
  if (s.ctx n).st = .stopping && s.ctxEmpty n then s.updCtx n fun c => { c.dropSpills with st := .ready } else s

/-- A strand of a launch ends (R214, R274). -/
def State.launchEnd (s : State) (n id : Nat) (cancelled : Bool) : State :=
  match (s.ctx n).obj? id with
  | none => s
  | some o =>
    if o.done then s
    else State.completeObj 4 (s.setObj n id { o with count := o.count - 1, out := o.out || cancelled }) n id

/-! ## Spill areas (R287) -/

def State.areaBit (s : State) (base i : Nat) : Bool :=
  bitAt (s.hwByte (base + 0x10000 + i / 8)) (i % 8)
def State.setAreaBit (s : State) (base i : Nat) (b : Bool) : State :=
  let a := base + 0x10000 + i / 8
  s.hwWrite a 1 (setBit (s.hwByte a) (i % 8) b).toNat
def lowestFree (s : State) (base : Nat) : Nat → Nat → Option Nat
  | 0, _ => none
  | f + 1, i => if s.areaBit base i then lowestFree s base f (i + 1) else some i
/-- The lowest free area of those the header's NSPILL provides. -/
def State.freeArea? (s : State) (base : Nat) : Option Nat :=
  lowestFree s base (Nat.min (s.hwLe base 8) (2 ^ 19) - 1) 1

def Ctx.spillBase (c : Ctx) : Nat := match c.d with | some d => d.copies.spillbase.toNat | none => 0
/-- The spilled state that a record of a pool slot names by its SPIX. -/
def Ctx.spilledAt (c : Ctx) (slot idx : Nat) : Option Spilled :=
  match SMap.get? c.spilled slot with | some x => if x.idx = idx then some x else none | none => none
/-- The spill area of a record of a pool slot is given back, where it was allocated. -/
def State.dropArea (s : State) (n slot idx : Nat) : State :=
  if idx = 0 then s
  else
    match (s.ctx n).spilledAt slot idx with
    | some x => (s.setAreaBit x.base idx false).updCtx n fun c => { c with spilled := SMap.del c.spilled slot }
    | none => s.setAreaBit (s.ctx n).spillBase idx false

/-- Stamps of a strand's queue entries. -/
def Arch.stamps (a : Arch) : List Nat := a.vseq.map (·.stamp) ++ a.mxq.map (·.stamp)
/-- Lines that some entries own are released (R135). -/
def State.releaseEntries (s : State) (l : List Nat) : State :=
  { s with own := s.own.filter fun p => match p.2 with | .entry _ n => !l.contains n | _ => true }
/-- A spilled strand is discarded with its entries, and its area given back. -/
def State.loseArea (s : State) (n slot idx : Nat) : State :=
  match (s.ctx n).spilledAt slot idx with
  | none => s.dropArea n slot idx
  | some x => (s.releaseEntries x.arch.stamps).dropArea n slot idx

/-! ## Descriptors and records in memory (R250, R273) -/

/-- The strand record of 64 bytes at pa (R273). -/
def recOf (w : Nat → Nat → Word) : Rec :=
  let a := w 0 8
  let b := w 8 8
  let c := w 16 4
  { pc := BitVec.ofNat 64 (fld a 55 3 * 8), me := bitAt a 57, pl := bitAt a 56, launch := fld b 63 24, index := fld b 23 0,
    afq := fld c 31 24, afv := bitAt c 23, age := fld c 22 18, cx := bitAt c 17, spl := bitAt c 16, kind := fld c 15 13,
    pr := bitAt c 12, lmask := BitVec.ofNat 4 (fld c 11 8), pri := fld c 6 0, spix := (w 20 4).toNat,
    xs := (List.range 5).map fun i => w (24 + 8 * i) 8,
    bad := decide (fld a 63 58 ≠ 0) || decide (fld a 2 0 ≠ 0) || bitAt c 7 }

/-- Doubleword i of a record's 64 bytes (R273). -/
def recWord (r : Rec) (i : Nat) : Word :=
  match i with
  | 0 => BitVec.ofNat 64 (r.me.toNat <<< 57 + r.pl.toNat <<< 56 + fld r.pc 55 3 <<< 3)
  | 1 => BitVec.ofNat 64 (r.launch <<< 24 + r.index)
  | 2 => BitVec.ofNat 64 (r.spix <<< 32 + r.afq <<< 24 + r.afv.toNat <<< 23 + r.age <<< 18 + r.cx.toNat <<< 17 + r.spl.toNat <<< 16
      + r.kind <<< 13 + r.pr.toNat <<< 12 + r.lmask.toNat <<< 8 + r.pri)
  | k => (r.xs[k - 3]?).getD 0

/-- The record in memory at pa. -/
def State.readRec (s : State) (pa : Nat) : Rec := recOf fun i n => BitVec.ofNat 64 (s.hwLe (pa + i) n)

/-- The record pool's slot i of a context (R279). -/
def Desc.slotAt (d : Desc) (i : Nat) : Nat := d.qbase.toNat + 0x2000000 + 64 * i

/-- The record that a pool slot holds: the one written there, unless a strand's stores have changed its bytes (R274, log entry
70). -/
def State.slotRec (s : State) (n slot : Nat) (r : Rec) : Rec :=
  match (s.ctx n).d with
  | none => r
  | some d =>
    let pa := d.slotAt slot
    if !s.hasMemory (unalias pa) || (List.range 8).all fun i => decide (s.hwLe (pa + 8 * i) 8 = (recWord r i).toNat) then r
    else s.readRec pa

/-- A launch template as its record (R273, R280): KIND 100, and N in place of X1. -/
def Template.asRec (t : Template) : Rec := { t.r with kind := 4, xs := BitVec.ofNat 64 t.count :: t.r.xs.drop 1 }

/-- The record of a launch's next index (R212). -/
def Template.next (t : Template) : Rec :=
  { t.r with kind := 0, xs := BitVec.ofNat 64 t.r.index :: t.r.xs.drop 1, age := 0 }

/-- A launch template as its slot holds it. -/
def State.slotTemplate (s : State) (n : Nat) (t : Template) : Template :=
  let r := s.slotRec n t.slot t.asRec
  if r = t.asRec then t else { t with r := r, count := (r.xs.headD 0).toNat }

/-- A queued item as its record: a launch reference is one of KIND 101 with the template's slot in X1. -/
def State.itemRec (s : State) (it : Item) : Rec :=
  match it.place with
  | .ref =>
    { it.r with kind := 5, xs := BitVec.ofNat 64 (match SMap.get? (s.ctx it.ctx).templates it.r.launch with | some t => t.slot | none => 0) :: it.r.xs.drop 1 }
  | _ => it.r

/-- The context descriptor at pa (R250). -/
def State.readDesc (s : State) (pa : Nat) : Desc :=
  let w (i : Nat) : Word := BitVec.ofNat 64 (s.hwLe (pa + i) 8)
  let copies : Copies :=
    { raf := (List.range 16).map fun i => (i, rafKeep (w (8 * i))), thbase := thAddr (w 0x80), thlimit := thAddr (w 0x88),
      thoff := pageField (w 0x90), thperm := w 0x98 &&& 15, acctbase := pageField (w 0xA0), acctctl := acctctlKeep (w 0xA8),
      telbase := telKeep (w 0xB0), spillbase := w 0xB8, tvec := tvecKeep (w 0xD8) }
  { copies := copies, qbase := w 0xC0, mbase := w 0xC8, cap := w 0xD0, res := s.readRec (pa + 0x100),
    ncell := s.hwLe ((w 0xC8).toNat + 0x200) 8 }

/-- A record passes the dispenser's check under a context's CAP (R274). -/
def recOk (cap : Word) (r : Rec) : Bool :=
  !r.bad && decide (r.kind < 6) && decide (r.lmask ≠ 0) && decide (r.lmask &&& ~~~(BitVec.ofNat 4 (fld cap 11 8)) = 0)
  && (r.spl == decide (r.spix ≠ 0)) && decide (r.spix < 2 ^ 19) && decide (r.pri ≤ fld cap 6 0)

/-- The descriptor is valid (R249): its 512 bytes and their checks. -/
def State.descValid (s : State) (pa : Nat) : Bool :=
  let w (i : Nat) : Word := BitVec.ofNat 64 (s.hwLe (pa + i) 8)
  let d := s.readDesc pa
  let inDram (a : Word) : Bool :=
    match rangeOf (unalias a.toNat) with
    | .dram _ => decide (a.toNat < 2 ^ 52) && s.hasMemory (unalias a.toNat)
    | _ => false
  (List.range 16).all (fun i => decide (w (8 * i) = rafKeep (w (8 * i))) && (pageBits (w (8 * i))).isSome)
  && decide (w 0x80 = d.copies.thbase) && decide (w 0x88 = d.copies.thlimit) && decide (w 0x90 = d.copies.thoff)
  && decide (w 0x98 = d.copies.thperm) && decide (w 0xA0 = d.copies.acctbase) && decide (w 0xA8 = d.copies.acctctl)
  && decide (w 0xB0 = d.copies.telbase) && decide (w 0xD8 = d.copies.tvec)
  && decide (d.cap &&& ~~~0xFF0F7F#64 = 0)
  && (List.range 4).all (fun i => decide (w (0xE0 + 8 * i) = 0)) && (List.range 24).all (fun i => decide (w (0x140 + 8 * i) = 0))
  && inDram d.copies.acctbase && inDram (pageField d.copies.telbase) && inDram d.copies.spillbase && inDram d.qbase && inDram d.mbase
  && decide (1 ≤ d.ncell) && decide (d.ncell ≤ 2 ^ 20)
  && recOk d.cap d.res && !d.res.spl && decide (d.res.spix = 0) && decide (d.res.kind = 0)

/-! ## The dispensers' rings -/

def effPri (r : Rec) : Nat := Nat.min 127 (r.pri + r.age)

/-- Pool slots that hold something of a context: its records, templates and references, and its running strands' last
records (R280, R416). -/
def State.slotsOf (s : State) (n : Nat) : List Nat :=
  (s.items.filter fun it => decide (it.ctx = n)).map (·.slot) ++ (s.ctx n).templates.map (·.2.slot)
  ++ s.cores.filterMap fun p => p.2.strand.bind fun t => if t.ctx = n then some t.slot else none
/-- The k lowest numbers that are not in a list. -/
def lowestOut (l : List Nat) (k : Nat) : List Nat := ((List.range (l.length + k)).filter fun i => !l.contains i).take k
/-- The lowest free pool slot (log entry 63). -/
def State.freeSlot (s : State) (n : Nat) : Nat := (lowestOut (s.slotsOf n) 1).headD 0

/-- A record of a pool slot enters the ring of a die and layer at its tail, with AGE 0 (R275). -/
def State.enqueue (s : State) (n die layer slot : Nat) (r : Rec) (out : Option (Nat × Word)) : State :=
  let (id, s) := s.fresh
  s.toRing { rid := id, ctx := n, die := die, layer := layer, place := .ring, since := 0, born := 0, seq := 0, was := none, slot := slot, r := r, out := out }

/-- A record is attached elsewhere: asleep, waiting, or parked. -/
def State.attach (s : State) (n die layer slot : Nat) (r : Rec) (p : Place) (kind : Nat) : State :=
  let (id, s) := s.fresh
  { s with items := s.items ++
      [{ rid := id, ctx := n, die := die, layer := layer, place := p, since := s.clock, born := s.clock, seq := id, was := none, slot := slot,
         r := { r with kind := kind, age := 0 }, out := none }] }

/-- A record that is discarded: its area is freed and its launch counter falls (R217, R274). A launch
reference stands for no strand. -/
def State.discardItem (s : State) (it : Item) (cancelled : Bool) : State :=
  let s := { s with items := s.items.filter fun x => decide (x.rid ≠ it.rid) }
  match it.place with
  | .ref => s.noteWaits
  | _ => ((s.loseArea it.ctx it.slot it.r.spix).launchEnd it.ctx it.r.launch cancelled).noteWaits

/-- Pool slots in use or reserved by running strands (R280). -/
def State.slotsUsed (s : State) (n : Nat) : Nat :=
  (s.items.filter fun it => decide (it.ctx = n)).length + (s.ctx n).templates.length
  + (s.cores.filter fun p => match p.2.strand with | some t => decide (t.ctx = n) | none => false).length

/-! ## Barrier membership, withholding -/

/-- A core is a member of a domain half on its die (R313). -/
def Domain.member (d : Domain) (g : Nat) : Bool :=
  decide (d.st ≠ .free) && d.qmask.toNat.testBit (g % coresPerDie / 4) && d.dctl.toNat.testBit (56 + g % 4)
def Domain.pkg (d : Domain) : Bool := bitAt d.dctl 62
def Domain.sched (d : Domain) : Bool := bitAt d.dctl 60
def Domain.ctxNum (d : Domain) : Nat := fld d.dctl 43 32
/-- The cores a half names. -/
def Domain.members (d : Domain) (die : Nat) : List Nat :=
  (List.range coresPerDie).filterMap fun i => if d.member (die * coresPerDie + i) then some (die * coresPerDie + i) else none
/-- The halves that run as one domain with half `n` of a die (R313). -/
def State.halves (s : State) (die n : Nat) : List Nat :=
  let d := (s.die die).domain n
  let e := (s.die (1 - die)).domain n
  if d.pkg && e.pkg && decide (d.st ≠ .free) && decide (e.st ≠ .free) then [die, 1 - die] else [die]

/-- A gang with a member in a restricted region holds all its members back (R319). -/
def State.gangHeld (s : State) (g : Nat) : Bool :=
  (List.range 32).any fun n =>
    let d := (s.die (dieOf g)).domain n
    bitAt d.dctl 61 && d.member g
    && (s.halves (dieOf g) n).any fun h => ((s.die h).domain n).members h |>.any fun m => s.restricted (quadOf m)

/-- A core that its dispenser withholds records from (R283, R319, R423, R426). -/
def State.withheld (s : State) (g : Nat) : Bool :=
  let q := s.quad (quadOf g)
  s.restricted (quadOf g) || s.gangHeld g || q.dbg || decide (q.retSt ≠ 0) || (s.core g).contained
  || decide ((s.core g).pair.st ≠ .single)

/-- An idle core that may be given a record. -/
def State.takes (s : State) (g : Nat) : Bool := decide ((s.core g).strand = none) && !s.withheld g

/-- Priority, link-array TIME and place as a dispatch at this clock sees them: from before a promotion of the same cycle (R281,
R282). -/
def State.rank (s : State) (it : Item) : Nat × Nat × Nat :=
  let now := (effPri it.r, nsOf it.since, it.seq)
  match it.was with
  | some (c, age, since, seq) => if c = s.clock then (effPri { it.r with age := age }, nsOf since, seq) else now
  | none => now

/-- The head of a dispenser: the highest effective priority, the earliest entry, the lower context, the first in its level (R281). -/
def State.headOf (s : State) (die layer : Nat) : Option Item :=
  bestBy (fun a b =>
      let x := s.rank a
      let y := s.rank b
      decide (y.1 < x.1)
      || (decide (x.1 = y.1) && (decide (x.2.1 < y.2.1) || (decide (x.2.1 = y.2.1) && (decide (a.ctx < b.ctx)
          || (decide (a.ctx = b.ctx) && decide (x.2.2 < y.2.2)))))))
    (s.items.filter fun it => decide (it.die = die) && decide (it.layer = layer) && it.queued && decide ((s.ctx it.ctx).st = .live))

/-- The cores of a layer on a die. -/
def coresOf (die layer : Nat) : List Nat := (List.range (4 * quadsIn layer)).map fun i => die * coresPerDie + layerBase layer + i
def partner (g : Nat) : Nat := g / 2 * 2 + (1 - g % 2)

/-- A core freed by a pre-emption is kept for another record, which still waits (R285). -/
def State.keptFor (s : State) (g : Nat) : Option Nat :=
  (s.core g).kept.bind fun rid => if s.items.any fun it => decide (it.rid = rid) && it.queued then some rid else none
/-- An idle core may take this record. -/
def State.mayTake (s : State) (g : Nat) (it : Item) : Bool :=
  s.takes g && (match s.keptFor g with | some rid => decide (rid = it.rid) | none => true)

/-- The record that a core is to be given for an item: its pool slot as it stands (R274), or a template's next index (R212). -/
def State.recFor (s : State) (it : Item) : Rec :=
  let r := s.slotRec it.ctx it.slot (s.itemRec it)
  if r.kind = 5 then
    match (s.ctx it.ctx).templates.find? fun p => decide (p.2.slot = (r.xs.headD 0).toNat) with
    | some (_, t) => (s.slotTemplate it.ctx t).next
    | none => r
  else r

/-- The core a head is placed on (R281): one kept for it, else the one idle longest, the lower GCORE on a tie. -/
def State.placeFor (s : State) (die layer : Nat) (it : Item) : Option Nat :=
  let pr := (s.recFor it).pr
  let ok := (coresOf die layer).filter fun g =>
    s.mayTake g it
    && (!(it.r.afv && decide (nsOf s.clock - nsOf it.born < 2000)) || decide (quadIdx (quadOf g) = it.r.afq))
    && (!pr || s.mayTake (partner g) it)
  (ok.find? fun g => decide (s.keptFor g = some it.rid)) <|> bestBy (fun a b => decide ((s.core a).idleSince < (s.core b).idleSince)) ok

/-! ## Loading a strand (R37, R251, R281, R288) -/

/-- What a strand starts with after a suspension point or at its birth (R37, R80, R89, R124, R289). -/
def startArch (old : Arch) (copies : Copies) (r : Rec) (out : Option (Nat × Word)) : Arch :=
  let st : Word := BitVec.ofNat 64 (r.pl.toNat * 2 + r.me.toNat <<< 17)
  let x : SMap Word := (List.range 5).map fun i => (i + 1, (r.xs[i]?).getD 0)
  let a : Arch := { Arch.reset with x := x, pc := r.pc, status := st, copies := copies, debt := old.debt }
  match out with | some (d, v) => a.wx d v | none => a

/-- A core's whole cycles up to now, cut where its layer's records began or ceased to wait: how many, and whether one
waited, oldest first. A cycle counts for what held as it began. -/
def State.idleSpans (s : State) (g : Nat) : List (Nat × Bool) :=
  let c := s.core g
  let p := s.periodOf g
  let n := (s.clock - c.now) / p
  let r := (SMap.get s.waitLog [] (dieOf g * 4 + layerOf g)).foldl (fun (r : Nat × List (Nat × Bool)) e =>
    let lo := Nat.min r.1 (ceilDiv (e.1 - c.now) p)
    (lo, (r.1 - lo, e.2) :: r.2)) (n, [])
  (r.1, false) :: r.2

/-- Charge an idle core up to now: HALT while it is contained or halted, THROT while records are withheld from it and one
waits, else IDLE (R264); a core out of service is charged nothing (R272, R417). -/
def State.chargeIdle (s : State) (g : Nat) : State :=
  let c := s.core g
  let q := s.quad (quadOf g)
  let n := (s.clock - c.now) / s.periodOf g
  if n = 0 then s
  else
    let t :=
      if q.retSt = 3 then s
      else if c.contained || q.dbg then s.charge g cHALT cHALT n 0
      else if s.withheld g then
        (s.idleSpans g).foldl (fun s p => let k := if p.2 then cTHROT else cIDLE; s.charge g k k p.1 0) s
      else s.charge g cIDLE cIDLE n 0
    t.spend g n

/-- The scratchpad's size and whether it has room for the journal of core g's pair (R324). -/
def State.journalFits (s : State) (g : Nat) : Nat × Bool :=
  let size := (s.quad (quadOf g)).spad * 4096
  (size, decide (65536 * (g % 4 / 2 + 1) ≤ size))

/-- A strand of context n becomes resident on core g, or on both cores of its pair, whose slots are then charged alike (R267,
R281). -/
def State.load (s : State) (g n : Nat) (it : Item) (r : Rec) : State :=
  let dual := r.pr && (s.journalFits g).2
  let s := s.chargeIdle g
  let s := if dual then s.chargeIdle (g + 1) else s
  let d := s.readDesc (s.ctx n).desc.toNat
  let (sid, s) := s.fresh
  let r' : Rec := { r with age := 0, afv := false, kind := 0, spl := false, spix := 0 }
  let sp := if r.spl then (s.ctx n).spilledAt it.slot r.spix else none
  let arch := match sp with
    | some sp =>
      let a := sp.arch.unspill sp.layer s.mem (sp.base + 0x20000 * sp.idx)
      -- the windows are read again before the first bundle (R318)
      { (if sp.reload then { a with copies := d.copies } else a) with windows := [] }
    | none => startArch (s.core g).arch d.copies r it.out
  let own := match sp with | some sp => sp.spill.map fun e => { e with mine := true } | none => []
  let s := s.dropArea n it.slot r.spix
  let s := s.updCtx n fun c =>
    { c with d := some d, spillQ := SMap.upd c.spillQ [] g (own ++ ·) }
  let t : Strand :=
    { sid := sid, ctx := n, r := r', last := (match sp with | some sp => sp.last | none => r'), slot := it.slot, pri := r.pri, since := s.clock, die := it.die,
      layer := it.layer, cancel := none, preempt := false, pend := false, retired := s.clock, watchdog := none, spilling := false }
  let s := s.updCore g fun c =>
    { c with arch := arch, strand := some t, kept := none, npc := arch.pc, taken := false, flow := .run, micro := none, pend := [], loads := [],
             fetchBuf := [], loopBuf := [], xl := 0, pair := if dual then { Pair.single with st := .paired } else c.pair }
  let s := if dual then s.updCore (g + 1) fun c =>
      { c with kept := none, pair := { Pair.single with st := .paired }, arch := { c.arch with copies := arch.copies } } else s
  s.pay g cSWITCH 1 arch.pc

/-! ## Cancelling (R217, R278) -/

/-- The effect of CANCEL on an object and everything below it: no new strand starts, records are discarded,
running strands are marked, and with force an interrupt carries the handle. -/
def State.cancelObj (s : State) (n id : Nat) (force : Bool) (h : Word) : State :=
  let c := s.ctx n
  match c.obj? id with
  | none => s
  | some o =>
    if o.done then s
    else
      let ids := (SMap.keys c.objs).filter fun k => c.under id k
      -- CANC and OUT on every incomplete object; launches lose the indices not yet generated
      let s := ids.foldl (fun s k =>
        match (s.ctx n).obj? k with
        | none => s
        | some o =>
          if o.done then s
          else
            let left := match SMap.get? (s.ctx n).templates k with | some t => t.count - t.r.index | none => 0
            s.setObj n k { o with canc := true, out := true, count := if o.lvl = 1 then o.count - left else o.count }) s
      let s := s.updCtx n fun c => { c with templates := c.templates.filter fun t => !ids.contains t.1 }
      let hit (it : Item) : Bool := decide (it.ctx = n) && ids.contains it.r.launch
      let s := (s.items.filter hit).foldl (fun s it => s.discardItem it true) s
      let s := { s with cores := SMap.mapVals s.cores fun _ k =>
        match k.strand with
        | some t =>
          if t.ctx = n && ids.contains t.r.launch then
            { k with strand := some { t with r := { t.r with cx := true }, cancel := if force then some h else t.cancel } }
          else k
        | none => k }
      let s := ids.foldl (fun s k => State.completeObj 4 s n k) s
      (s.stopCheck n).noteWaits

/-- Dropped records whose launch is cancelled end; the launch's own marks decide (R275). -/
def State.launchCancelled (s : State) (n id : Nat) : Bool :=
  match (s.ctx n).obj? id with | some o => o.canc | none => true

end Sys2Proof.Machine
end

