-- ==== Sys2Proof/Machine/Queues.lean ====
section
/-! DEFINITION. Message queues: packets, diversion to memory and its cells, mailboxes, error tokens and
sealing (R220 to R227, R296 to R309, R433), and the interlayer queue's filing (R358). -/

namespace Sys2Proof.Machine

def rqDepth : Nat := 16
def ilDepth : Nat := 8
def mboxDepth : Nat := 128

/-- Entries a packet takes: an error token one, others their number (R297). -/
def Packet.size (p : Packet) : Nat := Nat.max 1 p.ents.length
def occupied (q : List RqPacket) : Nat := (q.map fun p => p.pkt.size).sum

def Ctx.mbox (c : Ctx) (m : Nat) : Mailbox := SMap.get c.mboxes Mailbox.empty m
def State.updMbox (s : State) (n m : Nat) (f : Mailbox → Mailbox) : State :=
  s.updCtx n fun c => { c with mboxes := SMap.set c.mboxes m (f (c.mbox m)) }

/-- A strand of context n is resident on the core. -/
def State.resident (s : State) (g n : Nat) : Bool :=
  match (s.core g).strand with | some t => decide (t.ctx = n) | none => false

/-! ## Cells (R302, R304) -/

def Ctx.spillEntries (c : Ctx) : List SpillEntry :=
  c.mboxes.flatMap (fun p => p.2.spill) ++ c.spillQ.flatMap (fun p => p.2) ++ c.spilled.flatMap fun p => p.2.spill

def Ctx.ncell (c : Ctx) : Nat := match c.d with | some d => d.ncell | none => 0
def Ctx.reserve (c : Ctx) : Nat := Nat.min c.ncell 21760

/-- Cells granted to a diversion of a core of the context that has not yet been written. -/
def State.grantedCells (s : State) (n : Nat) (res : Bool) : Nat :=
  (s.cores.map fun p =>
    if s.resident p.1 n then (match p.2.arch.wait.cells with | some (k, r) => if r = res then k else 0 | none => 0) else 0).sum

/-- Cells in use, of the unreserved part or of the reserve. -/
def State.cellsUsed (s : State) (n : Nat) (res : Bool) : Nat :=
  ((s.ctx n).spillEntries.map fun e => if e.reserve = res then e.cells else 0).sum + s.grantedCells n res

/-- The cells a diversion of k cells may take: unreserved ones while there are enough; else, for a core that
holds none, reserve ones (R304). -/
def State.cellsFor (s : State) (n g k : Nat) (host : Bool) : Option Bool :=
  let c := s.ctx n
  if s.cellsUsed n false + k ≤ c.ncell - c.reserve then some false
  else if !host && c.spillEntries.all (fun e => !e.reserve || decide (e.holder ≠ g)) && decide (s.cellsUsed n true + k ≤ c.reserve) then
    some true
  else none

/-- The k lowest free cells of a context (log entry 63). -/
def Ctx.freeCells (c : Ctx) (k : Nat) : List Nat := lowestOut (c.spillEntries.flatMap (·.idx)) k

/-! ## Cells and ring slots in memory (R302, R303) -/

def Desc.cellAt (d : Desc) (c : Nat) : Nat := d.mbase.toNat + 0x20000 + 128 * c
def Desc.ringAt (d : Desc) (m i : Nat) : Nat := d.mbase.toNat + 0x1000 + 8192 * m + 64 * (i % mboxDepth)

def tokenWord (code g : Nat) : Word := BitVec.ofNat 64 (code <<< 24 + g)
def tokenPacket (code g : Nat) : Packet :=
  { src := g, host := false, tok := true, ents := [(tokenWord code g).setWidth 512] }

/-- The 64-byte entries of what a spill queue holds, one for each cell. -/
def SpillEntry.ents (e : SpillEntry) : List (BitVec 512) :=
  match e.pkt, e.il with
  | some p, _ => p.ents
  | none, some i => (List.range 8).map fun k => BitVec.ofNat 512 (i.data.toNat >>> (512 * k))
  | none, none => []

/-- The tag of its cell i. -/
def SpillEntry.tag (e : SpillEntry) (i : Nat) : Word :=
  match e.pkt, e.il with
  | some p, _ =>
    BitVec.ofNat 64 ((if p.host then 0 else p.src) <<< 20 + p.host.toNat <<< 19 + i <<< 16 + (p.size - 1) <<< 13 + p.tok.toNat <<< 12)
  | none, some x => BitVec.ofNat 64 (x.src <<< 20 + i <<< 16 + 7 <<< 13 + x.tok.toNat <<< 12 + 1 <<< 11 + x.tag <<< 7)
  | none, none => 0

/-- A 64-byte entry that memory holds, `none` where it is poisoned. -/
def State.entryAt (s : State) (pa : Nat) : Option (BitVec 512) :=
  if (List.range 2).any fun j => s.poisoned (unalias (pa + 32 * j)) then none else some (BitVec.ofNat 512 (s.hwLe pa 64))

/-- The entries at some addresses: `none` where one is poisoned. -/
def State.entriesAt (s : State) : List Nat → Option (List (BitVec 512))
  | [] => some []
  | pa :: r => match s.entryAt pa, State.entriesAt s r with | some e, some l => some (e :: l) | _, _ => none

/-- A packet whose entries stand in memory at some addresses: what memory holds there, which a strand's stores may have
changed; a poisoned one is lost and becomes a token (R227, R302, log entry 71). -/
def State.packetFrom (s : State) (pas : List Nat) (p : Packet) : Packet :=
  if pas.length ≠ p.ents.length || !(pas.all fun a => s.hasMemory (unalias a)) then p
  else match s.entriesAt pas with | some l => { p with ents := l } | none => tokenPacket 2 p.src

/-- An interlayer entry read from its eight cells. -/
def State.ilFrom (s : State) (pas : List Nat) (x : IlEntry) : IlEntry :=
  if pas.length ≠ 8 || !(pas.all fun a => s.hasMemory (unalias a)) then x
  else match s.entriesAt pas with
    | some l => { x with data := BitVec.ofNat 4096 (l.foldr (fun e acc => e.toNat + acc <<< 512) 0) }
    | none => { x with data := (tokenWord 2 x.src).setWidth 4096, tok := true }

/-- What a spill queue of context n holds, as its cells hold it once they are written. -/
def State.fromCells (s : State) (n : Nat) (e : SpillEntry) : SpillEntry :=
  match (s.ctx n).d with
  | none => e
  | some d => if e.since = s.clock then e else { e with pkt := e.pkt.map (s.packetFrom (e.idx.map d.cellAt)), il := e.il.map (s.ilFrom (e.idx.map d.cellAt)) }

/-- The packet at the head of mailbox m of context n, as its ring slots hold it. -/
def State.fromRing (s : State) (n m : Nat) (p : Packet) : Packet :=
  match (s.ctx n).d with
  | none => p
  | some d => s.packetFrom ((List.range p.ents.length).map fun i => d.ringAt m (((s.ctx n).mbox m).tail.toNat + i)) p

/-! ## Spill queues -/

/-- The pre-empted strand of a context that left core g last and has not been restored (R290): its pool slot. -/
def Ctx.spilledFrom (c : Ctx) (g : Nat) : Option Nat :=
  (bestBy (fun a b => decide (b.2.num < a.2.num)) (c.spilled.filter fun p => decide (p.2.core = g))).map Prod.fst

/-- Append to the spill queue that serves a receiver for context n, in cells of its own. -/
def State.pushSpill (s : State) (n : Nat) (d : Dest) (e : SpillEntry) : State :=
  let e := { e with idx := (s.ctx n).freeCells e.cells, since := s.clock }
  match d with
  | .mbox c m => s.updMbox c m fun b => { b with spill := b.spill ++ [e] }
  | .core g =>
    s.updCtx n fun c =>
      match (if s.resident g n then none else c.spilledFrom g) with
      | some i =>
        { c with spilled := c.spilled.map fun p => if p.1 = i then (p.1, { p.2 with spill := p.2.spill ++ [e] }) else p }
      | none => { c with spillQ := SMap.upd c.spillQ [] g (· ++ [e]) }

/-- The spill queue that serves a receiver. -/
def State.spillOf (s : State) (n : Nat) (d : Dest) : List SpillEntry :=
  match d with
  | .mbox c m => ((s.ctx c).mbox m).spill
  | .core g =>
    let c := s.ctx n
    match (if s.resident g n then none else c.spilledFrom g) with
    | some i => (match SMap.get? c.spilled i with | some x => x.spill | none => [])
    | none => SMap.get c.spillQ [] g

/-- The receive queues of a context are sealed by its teardown (R262). -/
def State.tornCtx (s : State) (n : Nat) : Bool := decide ((s.ctx n).st = .tearing) || decide ((s.ctx n).st = .dead)

/-- A receiver is sealed for packets of context n (R309). -/
def State.isSealed (s : State) (n : Nat) (d : Dest) : Bool :=
  match d with
  | .core g => (s.core g).rqSealed || s.tornCtx n
  | .mbox c m => ((s.ctx c).mbox m).sealed

/-- Room for n entries at a receiver (R297). -/
def State.hasRoom (s : State) (d : Dest) (k : Nat) : Bool :=
  match d with
  | .core g => decide (occupied (s.core g).rq + k ≤ rqDepth)
  | .mbox c m => decide (occupied ((s.ctx c).mbox m).ring + k ≤ mboxDepth)

/-- Ranks of the pushes of one cycle (R299): the spill queue's head, error tokens, scheduled packets, others by sender, the host. -/
def rankSpill : Nat := 0
def rankToken : Nat := 1
def rankScheduled (g : Nat) : Nat := 2 + g
def rankOther (g : Nat) : Nat := 2 + numCores + g
def rankHost : Nat := 2 + 2 * numCores
def Packet.rank (p : Packet) : Nat := if p.host then rankHost else if p.tok then rankToken else rankOther p.src

/-- Entries claimed in one cycle stand in the order of their ranks (R299). -/
def insertRq (l : List RqPacket) (e : RqPacket) : List RqPacket :=
  let later (x : RqPacket) : Bool := decide (x.born = e.born) && decide (e.rank < x.rank)
  l.filter (fun x => !later x) ++ e :: l.filter later

/-- A packet claims its entries (R433). One that is not present yet is still to cross; a SEND's is counted meanwhile (R315). At a
mailbox HEAD counts the slots from their claim on, so that the next claim begins at slot HEAD mod 128 (R306, log entry 64). -/
def State.claim (s : State) (n : Nat) (d : Dest) (p : Packet) (present counted : Bool) (rank : Nat) : State :=
  let e (n sid : Nat) : RqPacket :=
    { pkt := p, present := present, since := s.clock, counted := counted, ctx := n, strand := sid, born := s.clock, rank := rank }
  match d with
  | .core g => s.updCore g fun c => { c with rq := insertRq c.rq (e n (match c.strand with | some t => t.sid | none => 0)) }
  | .mbox c m => s.updMbox c m fun b => { b with ring := insertRq b.ring (e c 0), head := b.head + BitVec.ofNat 32 p.size }

/-- The oldest record parked on a mailbox is released (R225). -/
def State.releaseParked (s : State) (n m : Nat) : State :=
  match s.items.find? (fun it => decide (it.ctx = n) && decide (it.place = .parked m)) with
  | some it => s.toRing it
  | none => s


def State.lessOutstanding (s : State) (g : Nat) : State := s.updCore g fun c => { c with outstanding := c.outstanding - 1 }

/-- Packets become present, or are diverted or discarded: those still to cross are outstanding no longer (R315, R433). -/
def State.notOutstanding (s : State) (l : List RqPacket) : State :=
  (l.filter fun p => !p.present && p.counted).foldl (fun s p => s.lessOutstanding p.pkt.src) s

/-- A packet is diverted into memory with cells already found (R301). -/
def State.divert (s : State) (n g : Nat) (d : Dest) (p : Packet) (res : Bool) : State :=
  s.pushSpill n d { pkt := some p, il := none, holder := g, reserve := res, cells := p.size, idx := [], since := 0, mine := false }

/-! ## Draining (R305, R290, R307) -/

/-- The head of a core's spill queue for the resident context enters its queue when it fits. -/
def State.drainCore (s : State) (g n : Nat) : Option State :=
  match SMap.get (s.ctx n).spillQ [] g with
  | [] => none
  | e :: r =>
    let pop := s.updCtx n fun c => { c with spillQ := SMap.set c.spillQ g r }
    let e := s.fromCells n e
    match e.pkt, e.il with
    | some p, _ => if s.hasRoom (.core g) p.size then some (pop.claim n (.core g) p true false rankSpill) else none
    | none, some il =>
      if (s.core g).ilq.length < ilDepth then
        let sid := match (s.core g).strand with | some t => t.sid | none => 0
        some (pop.updCore g fun c => { c with ilq := c.ilq ++ [{ il with present := true, since := s.clock, strand := sid }] })
      else none
    | none, none => some pop

def State.drainAll : Nat → State → Nat → Nat → State
  | 0, s, _, _ => s
  | f + 1, s, g, n => match s.drainCore g n with | some t => State.drainAll f t g n | none => s

/-- A context's packets drain into the core's queues before its strand's first bundle (R307). -/
def State.drainFirst (s : State) (g n : Nat) : State := State.drainAll (SMap.get (s.ctx n).spillQ [] g).length s g n

/-- The head of a mailbox's spill queue enters its ring when it fits. -/
def State.drainMbox (s : State) (n m : Nat) : Option State :=
  match ((s.ctx n).mbox m).spill with
  | [] => none
  | e :: r =>
    match (s.fromCells n e).pkt with
    | some p =>
      if s.hasRoom (.mbox n m) p.size then
        some (((s.updMbox n m fun b => { b with spill := r }).claim n (.mbox n m) p true false rankSpill).releaseParked n m)
      else none
    | none => some (s.updMbox n m fun b => { b with spill := r })

def State.drainMboxAll : Nat → State → Nat → Nat → State
  | 0, s, _, _ => s
  | f + 1, s, n, m => match s.drainMbox n m with | some t => State.drainMboxAll f t n m | none => s

/-! ## Error tokens and notices on their way (R227, R299, R358, R416) -/

/-- A packet of this sender waits there, so that later ones go behind it (R221). -/
def State.behindSpill (s : State) (n src : Nat) (d : Dest) : Bool :=
  (s.spillOf n d).any fun e => match e.pkt with | some p => decide (p.src = src) && !p.host && !p.tok | none => false
/-- A claimed packet of this sender that had not crossed as its receiver left is still on its way there. -/
def State.behindPost (s : State) (src : Nat) (d : Dest) : Bool :=
  s.posts.any fun p => p.counted && decide (p.dst = d) && decide (p.holder = src)

/-- An earlier entry of this source waits in the receiver's spill queue. -/
def State.ilBehind (s : State) (n rcv port : Nat) : Bool :=
  (s.spillOf n (.core rcv)).any fun e => match e.il with | some i => decide (i.port = port) | none => false

/-- SPILLTO in clock units: n base cycles at 3.6 GHz as TIME, rounded up (R300). -/
def spillto (n : Nat) : Nat := ceilDiv (n * 5) 18

/-- The wait for room of something sent by core g at a clock has run out (R301). -/
def State.sendLate (s : State) (g since : Nat) : Bool :=
  decide (spillto (fld (s.die (dieOf g)).qctl 31 0) ≤ nsOf s.clock - nsOf since)

/-- Nothing of the context runs at the receiver, or an earlier packet of this sender waits in its spill queue: no later one
enters the queue itself (R221, R301). -/
def State.mustDivert (s : State) (n src : Nat) (d : Dest) : Bool :=
  (match d with | .core g => !s.resident g n | .mbox .. => false) || s.behindSpill n src d

/-- The die that homes a context's mailboxes. -/
def State.mboxDie (s : State) (n : Nat) : Nat := match (s.ctx n).d with | some d => homeDie (unalias d.mbase.toNat) | none => 0
def State.destDie (s : State) (d : Dest) : Nat := match d with | .core h => dieOf h | .mbox n _ => s.mboxDie n

/-- A sender's packet that was still to cross as its receiver left is outstanding no longer (R315). -/
def State.postDone (s : State) (p : Post) : State :=
  match p.pkt with | some k => if p.counted then s.lessOutstanding k.src else s | none => s

/-- What is on its way enters its queue or its spill queue, or is discarded toward a sealed one; `none` while it cannot. A packet
whose receiving strand has left since its claim is diverted (R433). -/
def State.deliver (s : State) (p : Post) : Option State :=
  if s.isSealed p.ctx p.dst then some (s.postDone p)
  else if s.crossWaits (dieOf p.holder) (s.destDie p.dst) then none
  else
    let away := match p.pkt, p.il, p.dst with
      | some k, _, _ => p.counted || s.mustDivert p.ctx k.src p.dst
      | none, some e, .core g => !s.resident g p.ctx || s.ilBehind p.ctx g e.port
      | _, _, _ => false
    let k := match p.pkt with | some k => k.size | none => 8
    let room := match p.pkt, p.dst with
      | some k, d => s.hasRoom d k.size
      | none, .core g => decide ((s.core g).ilq.length < ilDepth)
      | none, .mbox .. => false
    if !away && room then
      match p.pkt, p.il, p.dst with
      | some k, _, d => some (s.claim p.ctx d k k.tok false k.rank)
      | none, some e, .core g =>
        some (s.updCore g fun c =>
          { c with ilq := c.ilq ++ [{ e with since := s.clock, strand := match c.strand with | some t => t.sid | none => 0 }] })
      | _, _, _ => some s
    else if away || s.sendLate p.holder p.since then
      (s.cellsFor p.ctx p.holder k false).map fun r =>
        (s.pushSpill p.ctx p.dst
          { pkt := p.pkt, il := p.il, holder := p.holder, reserve := r, cells := k, idx := [], since := 0, mine := false }).postDone p
    else none

/-- The place of what is on its way among that which is ready in one cycle: by kind and sender, and for an interlayer queue in the
order UP0 to UP3, UPL, UPX, DNP, DNL (R299, R358). -/
def Post.rank (p : Post) : Nat :=
  match p.pkt, p.il with | some k, _ => k.rank | none, some e => e.port | none, none => 0

/-- Those that a condition names are offered again, in R299's order. -/
def State.servePosts (s : State) (f : Post → Bool) : State :=
  (sortBy (fun a b => decide (a.rank < b.rank)) (s.posts.filter f)).foldl (fun s p =>
    match s.deliver p with | some t => t | none => { s with posts := s.posts ++ [p] }) { s with posts := s.posts.filter fun p => !f p }

/-- A token or a notice sets out: offered at once, and again whenever there may be room. -/
def State.post (s : State) (p : Post) : State :=
  match s.deliver p with | some t => t | none => { s with posts := s.posts ++ [p] }

/-- The pushes that are ready at core g's queues enter while they fit, in R299's order: the spill queue, then tokens and notices
(R305). -/
def State.offer (s : State) (g : Nat) : State :=
  let s := match (s.core g).strand with
    | some t => if (s.core g).rqSealed then s else s.drainFirst g t.ctx
    | none => s
  s.servePosts fun p => decide (p.dst = .core g)

/-- The same at a mailbox. -/
def State.offerMbox (s : State) (n m : Nat) : State :=
  let s := if ((s.ctx n).mbox m).sealed then s else State.drainMboxAll ((s.ctx n).mbox m).spill.length s n m
  s.servePosts fun p => decide (p.dst = .mbox n m)

/-- A token of context n for a core's receive queue. -/
def State.sendToken (s : State) (n rcv code g : Nat) : State :=
  s.post { ctx := n, dst := .core rcv, pkt := some (tokenPacket code g), il := none, holder := g, since := s.clock, counted := false }

/-- An interlayer error token is filed under a source of a core (R358). -/
def State.sendIlToken (s : State) (n rcv port code g : Nat) : State :=
  let e : IlEntry :=
    { port := port, tag := 0, shape := 0, data := (tokenWord code g).setWidth 4096, src := g, tok := true, present := true, since := s.clock,
      ctx := n, strand := 0 }
  s.post { ctx := n, dst := .core rcv, pkt := none, il := some e, holder := g, since := s.clock, counted := false }

/-! ## Sealing (R309) -/

/-- A contained core's queues: sealed, their entries and its spill queues of every context discarded. -/
def State.sealCore (s : State) (g : Nat) : State :=
  let s := (s.notOutstanding (s.core g).rq).updCore g fun c => { c with rq := [], ilq := [], rqSealed := true }
  { s with ctxs := SMap.mapVals s.ctxs fun _ c => { c with spillQ := SMap.del c.spillQ g }, posts := s.posts.filter fun p => decide (p.dst ≠ .core g) }

def State.unsealCore (s : State) (g : Nat) : State := s.updCore g fun c => { c with rqSealed := false }

/-- A context's mailboxes and spill queues at teardown. -/
def State.sealMboxes (s : State) (n : Nat) : State :=
  let s := s.notOutstanding ((s.ctx n).mboxes.flatMap fun p => p.2.ring)
  let s : State := { s with posts := s.posts.filter fun p => decide (p.ctx ≠ n) }
  s.updCtx n fun c =>
    { c with mboxes := (List.range 8).map fun m => (m, { c.mbox m with sealed := true, ring := [], spill := [] }),
             spillQ := [], spilled := SMap.mapVals c.spilled fun _ x => { x with spill := [] } }

/-! ## A strand leaves its core (R290, R307) -/

/-- A claimed packet is still on the far side of a bridge that carries no traffic (R10, R433). -/
def State.stranded (s : State) (g : Nat) (p : RqPacket) : Bool := !p.present && !p.pkt.host && s.crossWaits (dieOf p.pkt.src) (dieOf g)
def State.ilStranded (s : State) (g : Nat) (e : IlEntry) : Bool := !e.present && s.crossWaits (dieOf e.src) (dieOf g)

/-- What a core's queues hold, as spill entries: the receive queue as it was claimed, then the interlayer queue source by source.
An entry still in transit is diverted as it arrives, and its transit ends no later than this (R433, log entry 64), but for one that
cannot cross. Each is a diversion of its own sender (R304). -/
def State.queued (s : State) (g : Nat) : List SpillEntry :=
  let c := s.core g
  (c.rq.filter fun p => !s.stranded g p).map (fun p =>
    { pkt := some p.pkt, il := none, holder := p.pkt.src, reserve := false, cells := p.pkt.size, idx := [], since := 0, mine := false })
  ++ (sortBy (fun a b => decide (a.port < b.port)) (c.ilq.filter fun e => !s.ilStranded g e)).map fun e =>
      { pkt := none, il := some { e with present := true }, holder := e.src, reserve := false, cells := 8, idx := [], since := 0, mine := false }

def SpillEntry.host (e : SpillEntry) : Bool := match e.pkt with | some p => p.host | none => false

/-- Cells for a list of diversions, one after the other; `none` while one of them finds none (R304). -/
def State.cellsForAll (n : Nat) : State → List SpillEntry → Option (List SpillEntry)
  | _, [] => some []
  | s, e :: r =>
    (s.cellsFor n e.holder e.cells e.host).bind fun res =>
      let e := { e with reserve := res, idx := (s.ctx n).freeCells e.cells, since := s.clock }
      -- the cells are taken while the rest is tried
      (State.cellsForAll n (s.updCtx n fun c => { c with spillQ := SMap.upd c.spillQ [] 0 (· ++ [e]) }) r).map (e :: ·)

/-- The queues of a core whose strand leaves find their cells (R296, R304). -/
def State.leaveCells (s : State) (g n : Nat) : Bool := (State.cellsForAll n s (s.queued g)).isSome

/-- The entries of core g's queues in cells of their own. -/
def State.spillOut (s : State) (g n : Nat) : List SpillEntry := (State.cellsForAll n s (s.queued g)).getD (s.queued g)

/-- The core's queues are empty, their packets written to memory. What cannot cross yet stays on its path, and is diverted when it
arrives (R433). -/
def State.emptyQueues (s : State) (g : Nat) : State :=
  let c := s.core g
  let late := c.rq.filter (s.stranded g)
  let s := s.notOutstanding (c.rq.filter fun p => !s.stranded g p)
  let posts : List Post :=
    late.map (fun p => { ctx := p.ctx, dst := .core g, pkt := some p.pkt, il := none, holder := p.pkt.src, since := s.clock, counted := p.counted })
    ++ (c.ilq.filter (s.ilStranded g)).map fun e =>
      { ctx := e.ctx, dst := .core g, pkt := none, il := some { e with present := true }, holder := e.src, since := s.clock, counted := false }
  { s.updCore g fun c => { c with rq := [], ilq := [] } with posts := s.posts ++ posts }

/-- The queues of a core whose strand reaches a suspension point or ends: placed ahead of what its spill
queue holds (R307). -/
def State.queuesToSpill (s : State) (g n : Nat) : State :=
  let own := s.spillOut g n
  (s.emptyQueues g).updCtx n fun x => { x with spillQ := SMap.upd x.spillQ [] g fun l => own ++ l.map fun e => { e with mine := false } }

end Sys2Proof.Machine
end

