-- ==== Sys2Proof/Machine/Ops.lean ====
section
/-! DEFINITION. The operations whole families share: breaking and releasing barrier domains (R314),
core-level containment (R413 to R416), taking a trap and returning from one (R116, R117, R119, R430),
suspension (R213), and pre-emption (R286). -/

namespace Sys2Proof.Machine

/-! ## Charging and time at the issue point -/

/-- Charge both slots a cause; VSEQ and MXQ cycles become THROT while the debt is at least 64 (R266). -/
def State.bill (s : State) (g causeC causeA n : Nat) (pc : Word) : State :=
  if causeC = cVSEQ ∨ causeC = cMXQ then
    let k := Nat.min n ((s.core g).arch.debt / 64)
    let s := s.charge g cTHROT cTHROT k pc
    (s.updCore g fun c => c.updArch fun a => { a with debt := a.debt - 64 * k }).charge g causeC causeA (n - k) pc
  else s.charge g causeC causeA n pc

/-- The cycles since the core's last turn are charged as the wait they were, or as a fetch; then the clock
reaches the core's next cycle, and vector results that have been written are in flight no longer. -/
def State.catchUp (s : State) (g : Nat) : State :=
  let c := s.core g
  let n := (s.clock - c.now) / s.periodOf g
  let cause := match c.flow with | .held h => h | _ => cFCH
  let s := (s.bill g cause cause n c.arch.pc).spend g n
  let t := Nat.max s.clock (s.core g).now
  { (s.updCore g fun c => c.updArch fun a => { a with vfly := a.vfly.filter fun f => decide (t < f.land) }) with clock := t }

/-- A debug-halted core: its slots are charged HALT and its own clock stands still (R263, R424). -/
def State.haltedTurn (s : State) (g : Nat) : State := s.pay g cHALT ((s.clock - (s.core g).now) / s.periodOf g) (s.core g).arch.pc

/-- A core's cycles up to now are charged, at its present clock and for what has held until now; those of a pair's odd core
go with the even core's. -/
def State.bringUp (s : State) (g : Nat) : State :=
  let g := if s.dual (g / 2 * 2) then g / 2 * 2 else g
  if (s.core g).strand.isNone then s.chargeIdle g
  else if (s.quad (quadOf g)).dbg && !(s.core g).midBundle then s.haltedTurn g
  else { s.catchUp g with clock := s.clock }

/-- A unit throttles the core it works for: the debt rises, after the cycles up to now have been charged under the old one
(R266). -/
def State.owe (s : State) (g d : Nat) : State :=
  if d = 0 then s else (s.bringUp g).updCore g fun c => c.updArch fun a => { a with debt := a.debt + d }

/-! ## Waiting strands of a barrier domain (R314) -/

/-- The arrival is made and its wait has not ended, or it ends with a release at this very clock, before which a break is applied. -/
def WaitSt.onDomain (w : WaitSt) (clock die n : Nat) (b : Bool) : Bool :=
  (match w.bar with | some (d, k, _) => decide (d = die) && decide (k = n) | none => false)
  && w.barArrived && (decide (w.barDone = none) || (!b && decide (w.barDone = some true) && decide (w.barAt = clock)))

/-- The arrival is that of the bundle that a trap interrupted. -/
def Outer.onDomain (w : Outer) (clock die n : Nat) (b : Bool) : Bool :=
  (match w.bar with | some (d, k, _) => decide (d = die) && decide (k = n) | none => false)
  && (decide (w.barDone = none) || (!b && decide (w.barDone = some true) && decide (w.barAt = clock)))

/-- A domain gives its waiting member q := b at a clock, and TVAL of a WATCHDOG where its watchdog has expired: with STATUS.TM = tm =
1 that of a double trap (R117). -/
def WaitSt.meet (w : WaitSt) (tm : Bool) (clock : Nat) (dies : List Nat) (n : Nat) (b : Bool) (wd : Option Word) : WaitSt :=
  let here := dies.any fun d => w.onDomain clock d n b
  let out := dies.any fun d => w.outer.onDomain clock d n b
  let w := if here then { w with barDone := some b, barAt := clock } else w
  let w := if out then { w with outer := { w.outer with barDone := some b, barAt := clock } } else w
  if (here || out) && wd.isSome then (if tm then { w with wdTm := wd } else { w with barWd := wd }) else w

/-- Change the state of every strand, resident or spilled. -/
def State.mapArch (s : State) (g : Arch → Arch) : State :=
  { s with cores := SMap.mapVals s.cores fun _ c => { c with arch := g c.arch },
           ctxs := SMap.mapVals s.ctxs fun _ c => { c with spilled := SMap.mapVals c.spilled fun _ x => { x with arch := g x.arch } } }

/-- Every strand that waits on one of the halves is given q := b. -/
def State.meetAll (s : State) (dies : List Nat) (n : Nat) (b : Bool) (wd : Option Word) : State :=
  s.mapArch fun a => { a with wait := a.wait.meet a.tm s.clock dies n b wd }

def State.updDomain (s : State) (die n : Nat) (f : Domain → Domain) : State :=
  s.updDie die fun d => { d with doms := SMap.set d.doms n (f (d.domain n)) }

/-- The step clocks of a half's members stop (R316). -/
def State.stopClocks (s : State) (die n : Nat) : State :=
  let d := (s.die die).domain n
  if d.sched then
    { s with cores := SMap.mapVals s.cores fun g c => if dieOf g = die && d.member g then { c with stepClock := none } else c }
  else s

/-- Idle cores are charged up to now, before what withholds records from them changes (R264, R283). -/
def State.idleUp (s : State) (gs : List Nat) : State :=
  gs.foldl (fun s g => if (s.core g).strand.isNone then s.bringUp g else s) s

/-- The members of a gang (R319). -/
def State.gangOf (s : State) (die n : Nat) : List Nat :=
  if bitAt ((s.die die).domain n).dctl 61 then (s.halves die n).flatMap fun h => ((s.die h).domain n).members h else []

/-- A domain leaves IDLE or GATHERING for BROKEN or FREE: every waiting member is released with q := false. -/
def State.endDomain (s : State) (die n : Nat) (to' : DomState) : State :=
  let hs := s.halves die n
  let s := s.idleUp (s.gangOf die n)
  let s := s.meetAll hs n false none
  hs.foldl (fun s h =>
    (s.stopClocks h n).updDomain h n fun d => { d with st := to', arrived := [], sstep := false, started := none, counted := 0 }) s

/-- A member that has not arrived is contained, or ended by a cancel in context n: its domains break (R314, R413). -/
def State.breakDomains (s : State) (g : Nat) (n : Option Nat) : State :=
  (List.range 32).foldl (fun s k =>
    let d := (s.die (dieOf g)).domain k
    if d.member g && decide (d.st = .armed) && n.all (fun m => decide (d.ctxNum = m)) && !d.arrived.contains g then
      s.endDomain (dieOf g) k .broken
    else s) s

/-! ## Leaving a core -/

/-- Lines an engine of the core owns are released (R135, R414). -/
def State.releaseLines (s : State) (g : Nat) : State :=
  let s := s.releaseEntries (s.core g).arch.stamps
  { s with own := s.own.filter fun p => match p.2 with | .chan h _ _ => decide (h ≠ g) | _ => true }

/-- The SFU is to serve a request of the core. -/
def State.inSfu (s : State) (g : Nat) : Bool := (s.quad (quadOf g)).sfuQ.any fun r => decide (r.core = g) && !r.drop
/-- The core's SFU request completes, and its result is dropped (R172). -/
def State.dropSfu (s : State) (g : Nat) : State :=
  s.updQuad (quadOf g) fun q => { q with sfuQ := q.sfuQ.map fun r => if r.core = g then { r with drop := true } else r }

/-- The core's entry no longer holds its cluster's array, nor a place at the tile port (R190, R196). -/
def State.leaveArray (s : State) (g : Nat) : State :=
  s.updCluster (clusterOf g) fun c =>
    let c := if c.work = some (g % 8) then { c with work := none, left := 0 } else c
    { c with port := c.port.filter fun h => decide (h ≠ g) }

/-- The core holds no strand from now on (R268, R316). What is on its way to it goes to the spill queue. -/
def State.freeCore (s : State) (g : Nat) : State :=
  let s := ((s.endRuns g).flushAcct g).leaveArray g
  (s.updCore g fun c =>
    { c with strand := none, idleSince := s.clock, stepClock := none, micro := none, pend := [], loads := [], flow := .left,
             fetchBuf := [], loopBuf := [], xl := 0, cmds := [], chans := [], linkPc := none }).offer g

/-- The chains and the queue entries of a bank are discarded: its accumulators are closed (R193). -/
def Bank.shut (b : Bank) : Bank :=
  { b with accs := SMap.mapVals b.accs fun _ x => { x with chain := none }, ishape := b.tshape, ifmt := b.fmt, iopen := [] }

/-- A core whose strand is stopped keeps its trap bank closed, and a fault of that bank is pending no longer (R193, R262). -/
def Core.shutTrap (c : Core) : Core := { c with tbank := c.tbank.shut, mxfmt := false }

/-- The armed graph or phase of a strand completes at once with outcome 0 (R277). -/
def State.disarm (s : State) (n : Nat) (h : Word) : State :=
  if h = 0 then s
  else
    let id := fld h 39 0
    let clear (s : State) (i : Nat) : State :=
      match (s.ctx n).obj? i with
      | some o => if o.armed then s.setObj n i { o with armed := false } else s
      | none => s
    -- an armed phase holds an armed graph
    let kids := (SMap.keys (s.ctx n).objs).filter fun i => decide ((s.ctx n).parent i = id)
    (kids ++ [id]).foldl (fun s i => State.completeObj 4 (clear s i) n i) s

/-! ## Containment (R413 to R416) -/

/-- The notice of R416, 64 bytes. -/
def noticeEntry (time : Nat) (launch : Word) (index reason g tcause : Nat) (pc : Word) (pa : Nat) : BitVec 512 :=
  BitVec.ofNat 512 (time + launch.toNat <<< 64 + (index + reason <<< 24) <<< 128 + (g + tcause <<< 16) <<< 160
    + pc.toNat <<< 192 + pa <<< 256)

/-- The supervisor's notice: core 0 of the parent quad, or mailbox 7 of the context on L3 (R416). -/
def State.notify (s : State) (g : Nat) (t : Strand) (reason tcause : Nat) (pc : Word) (pa : Nat) : State :=
  let e := noticeEntry (nsOf s.clock) (handleWord 1 t.ctx t.r.launch) t.r.index reason g tcause pc pa
  let p : Packet := { src := g, host := false, tok := false, ents := [e] }
  let d : Dest := match parentOf g with | some h => .core (h / 4 * 4) | none => .mbox t.ctx 7
  s.post { ctx := t.ctx, dst := d, pkt := some p, il := none, holder := g, since := s.clock, counted := false }

/-- What participant c of an XCHG receives (R228): quarter c of every participant's register, a token in the
quarter of one that failed, and whether none did. -/
def xchgResult (c : Nat) (l : List (Nat × Nat × BitVec 4096 × Bool)) : BitVec 4096 × Bool :=
  let q (i : Nat) : Nat :=
    match l.find? (fun e => decide (e.1 = i)) with
    | none => 0
    | some e => if e.2.2.2 then e.2.2.1.toNat % 2 ^ 1024 else (e.2.2.1.toNat >>> (1024 * c)) % 2 ^ 1024
  (BitVec.ofNat 4096 (q 0 + q 1 <<< 1024 + q 2 <<< 2048 + q 3 <<< 3072), l.all fun e => !e.2.2.2)

/-- The exchange that took contribution `num` gives its result to the bundle that made it. -/
def WaitSt.exchanged (w : WaitSt) (num : Nat) (r : BitVec 4096 × Bool) : WaitSt :=
  let w := if w.xchg = some num then { w with xchgDone := some r } else w
  if w.outer.xchg = some num then { w with outer := { w.outer with xchgDone := some r } } else w

/-- When every participant of a mask has contributed, the wait of each one's oldest contribution ends; a later one, of a handler's
XCHG, stays for the next meeting (R228). -/
def State.xchgMeet (s : State) (quad mask : Nat) : State :=
  let l := SMap.get (s.quad quad).xchg [] mask
  let met := (List.range 4).filterMap fun c => if mask.testBit c then l.find? (fun e => decide (e.1 = c)) else none
  if (List.range 4).all (fun c => !mask.testBit c || l.any fun e => decide (e.1 = c)) then
    let rest := l.filter fun e => !met.contains e
    let s := s.updQuad quad fun q =>
      { q with xchg := if rest.isEmpty then SMap.del q.xchg mask else SMap.set q.xchg mask rest }
    met.foldl (fun s e =>
      if e.2.2.2 then s
      else s.mapArch fun a =>
        { a with wait := a.wait.exchanged e.2.1 (xchgResult e.1 met) }) s
  else s

/-- The core's part in XCHG meetings becomes error tokens (R228). -/
def State.xchgTokens (s : State) (code g : Nat) : State :=
  let masks := (SMap.keys (s.quad (quadOf g)).xchg).filter fun m => m.testBit (coreIn g)
  masks.foldl (fun s m =>
    let s := s.updQuad (quadOf g) fun q =>
      { q with xchg := SMap.upd q.xchg [] m fun l =>
          if l.all (fun p => decide (p.1 ≠ coreIn g)) then l ++ [(coreIn g, 0, (tokenWord code g).setWidth 4096, true)] else l }
    s.xchgMeet (quadOf g) m) s

/-- Cores that share a barrier domain or an exchange in progress with a core (R227). -/
def State.neighbours (s : State) (g : Nat) : List Nat :=
  let doms := (List.range 32).flatMap fun k =>
    let d := (s.die (dieOf g)).domain k
    if d.member g then (s.halves (dieOf g) k).flatMap fun h => ((s.die h).domain k).members h else []
  let exch := (s.quad (quadOf g)).xchg.flatMap fun p =>
    if p.1.testBit (coreIn g) then (List.range 4).filterMap fun c => if p.1.testBit c then some (quadOf g * 4 + c) else none else []
  ((doms ++ exch).filter fun h => decide (h ≠ g)).eraseDups

/-- Interlayer neighbours with the source a token is filed under (R358). -/
def ilNeighbours (g : Nat) : List (Nat × Nat) :=
  let kids := (List.range 4).filterMap fun p => (childOf g p).map fun h => (h, 6)
  match parentOf g with
  | some h => (h, childPos (quadOf g)) :: kids
  | none => (if dieOf g = 1 then (g - coresPerDie, 5) else (g + coresPerDie, 6)) :: kids

/-- Scratchpad bytes [lo, hi) of a quad are lost: they read zero from now on (R324, R347). -/
def State.zeroSpad (s : State) (quad lo hi : Nat) : State :=
  let out (k : Nat) : Bool := decide (k < spadKey quad lo) || decide (spadKey quad hi ≤ k)
  { s with mem := s.mem.filter fun c => out c.1, poison := s.poison.filter fun p => out (p.1 * 32) }
/-- The bytes of the journal of the pair of even core e read zero (R324). -/
def State.zeroJournal (s : State) (e : Nat) : State :=
  let top := (s.quad (quadOf e)).spad * 4096 - 65536 * (e % 4 / 2)
  s.zeroSpad (quadOf e) (top - 65536) top

/-- The odd core of a pair has what the even one has of the state that the cores of a pair keep alike: it runs the same instructions
on the same values (R209, R229, R266, log entry 62). -/
def State.alike (s : State) (e : Nat) : State :=
  let c := s.core e
  s.updCore (e + 1) fun k =>
    { k with tbank := c.tbank, mxfmt := c.mxfmt, arch := { k.arch with copies := c.arch.copies, debt := c.arch.debt } }

/-- The partner of a failing core of a pair continues alone from the last agreed checkpoint: what the pair has in its queues and
units is discarded (R172, R415). -/
def State.pairSurvives (s : State) (g : Nat) : State :=
  let e := g / 2 * 2
  let s := (((s.alike e).releaseLines e).dropSfu e).leaveArray e
  let s := s.zeroJournal e
  let ce := s.core e
  let keep := partner g
  match ce.strand with
  | some t =>
    let arch := (ce.pair.ckpt.getD ce.arch).setStatus fun st => setBit st 18 false
    let s := s.updCore e fun c => { c with pair := Pair.single, strand := none }
    let s := s.updCore (e + 1) fun c => { c with pair := Pair.single }
    let s := s.updCore keep fun c =>
      { c with arch := arch, strand := some { t with r := { t.r with pr := false } }, npc := arch.pc, flow := .run, micro := none,
               pend := [], loads := [], fetchBuf := [], loopBuf := [], xl := 0, cmds := [], chans := [], stepClock := ce.stepClock }
    (s.notify g t 3 0 arch.pc 0).offer keep
  | none => s

/-- A claim of PAIR.on is given up. -/
def State.unclaim (s : State) (g : Nat) : State :=
  let s := (s.bringUp (g / 2 * 2)).bringUp (g / 2 * 2 + 1)
  (s.updCore (g / 2 * 2) fun c => { c with pair := Pair.single }).updCore (g / 2 * 2 + 1) fun c => { c with pair := Pair.single }

/-- What containment leaves of a core's state: the trap registers, which a double trap does not change, and the debt
(R117, R266). -/
def Arch.afterContainment (a : Arch) : Arch :=
  { Arch.reset with tpc := a.tpc, tcause := a.tcause, tval := a.tval, tstat := a.tstat, debt := a.debt }

/-- The cycle of a containment: HALT for the core that stops (R413), and PAIR for a partner, which goes back to its checkpoint
(R264, R415). -/
def State.haltCycle (s : State) (g : Nat) : State :=
  let e := if s.dual (g / 2 * 2) then g / 2 * 2 else g
  let s := if (s.core e).strand.isNone then s else s.payXl e (s.core e).arch.pc
  let c := s.core e
  if c.strand.isNone then s
  else if s.dual e then
    let one (s : State) (h : Nat) : State :=
      let k := if h = g then cHALT else cPAIR
      (s.chargeSlot h 0 c.ctxNum k 1 c.arch.pc).chargeSlot h 1 c.ctxNum k 1 c.arch.pc
    (one (one s e) (e + 1)).spend e 1
  else s.pay e cHALT 1 c.arch.pc

/-- A core is contained: reason, the TCAUSE of a double trap, the physical address of the error (R413). -/
def State.contain (s : State) (g reason tcause pa : Nat) : State :=
  let s := (s.bringUp g).haltCycle g
  let c := s.core g
  let paired := s.dual (g / 2 * 2)
  let n := c.ctxNum
  let s := if (s.core (g / 2 * 2)).pair.st = .claiming then s.unclaim g else s
  let s := (s.sealCore g).updCore g fun c => { c with failures := s.clock :: c.failures.take 2 }
  -- a core with no strand has no context of its own: its tokens are the receiver's
  let ctxAt (h : Nat) : Nat := if n = 0 then (s.core h).ctxNum else n
  let s := (s.neighbours g).foldl (fun s h => if ctxAt h = 0 then s else s.sendToken (ctxAt h) h 1 g) s
  let s := (ilNeighbours g).foldl (fun s p => if ctxAt p.1 = 0 then s else s.sendIlToken (ctxAt p.1) p.1 p.2 1 g) s
  let s := ((s.xchgTokens 1 g).releaseLines g).breakDomains g none
  let s := s.dropSfu g
  let stopped (c : Core) : Core := { c.shutTrap with contained := true, sb := [], arch := c.arch.afterContainment }
  if paired then ((s.pairSurvives g).freeCore g).updCore g stopped
  else
    let s := match c.strand with
      | none => s
      | some t =>
        let s := s.notify g t reason tcause c.arch.pc pa
        let s := s.disarm n c.arch.arming
        let s := s.freeCore g
        if s.launchCancelled n t.r.launch || t.r.cx then (s.launchEnd n t.r.launch true).stopCheck n
        else s.enqueue n t.die t.layer t.slot { s.slotRec n t.slot t.last with pri := t.pri } none
    (s.freeCore g).updCore g stopped

/-! ## Traps (R116, R117) -/

/-- A wait that a trap or an interrupt cuts short: the arrival of a barrier and the contribution of an
exchange stay (R208). -/
def WaitSt.cut (w : WaitSt) : WaitSt :=
  { w with bar := if w.barArrived then w.bar else none, since := none, expired := false, checked := false, cells := none, part := none, sent := 0,
           table := none, biasAt := none }

/-- The wait as a handler starts with: what the interrupted bundle has done is kept for it (R208). -/
def WaitSt.inner (w : WaitSt) : WaitSt :=
  let w := w.cut
  { w with bar := none, barArrived := false, barDone := none, xchg := none, xchgDone := none, told := 0,
           outer := { bar := w.bar, barDone := w.barDone, xchg := w.xchg, xchgDone := w.xchgDone, barAt := w.barAt, told := w.told } }

/-- The wait that RFT returns to. -/
def WaitSt.back (w : WaitSt) : WaitSt :=
  { w with bar := w.outer.bar, barArrived := w.outer.bar.isSome, barDone := w.outer.barDone, xchg := w.outer.xchg,
           xchgDone := w.outer.xchgDone, barAt := w.outer.barAt, told := w.outer.told, since := none, expired := false, checked := false,
           cells := none, part := none, sent := 0, table := none, outer := Outer.empty }

/-- TakeTrap on core g with TPC = pc (R116); in trap mode a double trap (R117). -/
def State.trapAt (s : State) (g cause : Nat) (val pc : Word) : State :=
  if (s.core g).arch.tm then
    (s.contain g 2 cause 0).updCore g fun c => { c with flow := .trapped cause val }
  else
    s.updCore g fun c =>
      let c := c.landEvery
      let a := c.arch
      let st := setBit (setBit (setFld (setBit a.status 2 false) 23 19 0) 1 true) 0 true
      { c with
        arch := { a with tstat := a.status, tpc := pc, tcause := BitVec.ofNat 64 cause, tval := val, status := st,
                         pc := tvecKeep a.copies.tvec, wait := a.wait.inner }
        npc := tvecKeep a.copies.tvec, taken := true, micro := none, fetchBuf := [], flow := .trapped cause val }

/-- A synchronous trap of the bundle at work (R116). -/
def State.trap (s : State) (cause : Nat) (val : Word) : State := s.trapAt s.cur cause val s.me.arch.pc
/-- ILLEGAL, with the bundle in TVAL (R71). -/
def State.illegal (s : State) : State := s.trap cILLEGAL s.me.bundle
def trapStep (s : State) (cause : Nat) (val : Word) : Step := .next (s.trap cause val)
/-- PRIV; the spec states no TVAL for it, so TVAL is a free value (log entry 7). -/
def State.priv (s : State) : State := { s with stamp := s.stamp + 1 }.trap cPRIV (Config.openWord s.stamp)
def privStep (s : State) : Step := .next s.priv
def illegalStep (s : State) : Step := .next s.illegal

/-- The first pending asynchronous cause, in R430's order, with its TVAL; a forced cancel and pre-emption last. -/
inductive Async | trap (cause : Nat) (val : Word) | preempt
  deriving DecidableEq, Repr

/-- A pre-emption has been taken on the core, and waits until it can spill. -/
def Core.spilling (c : Core) : Bool := match c.strand with | some t => t.spilling | none => false

/-- LINK on a tokened atomic holds interrupts, cancels and pre-emption until the bundle completes (R390). -/
def Core.linkHeld (c : Core) : Bool := c.linkPc.isSome

def Core.pending (c : Core) : Option Async :=
  if c.arch.tm then
    -- only a watchdog that expires in trap mode is taken there, as a double trap (R117); one that had expired before stays pending (R430)
    c.arch.wait.wdTm.map fun v => .trap cWATCHDOG v
  else if c.spilling then some .preempt
  else if c.mxfmt then some (.trap cMXFMT 7)
  else
    match c.arch.vfault, c.arch.mfault with
    | some f, _ => some (.trap f.cause f.val)
    | none, some f => some (.trap f.cause f.val)
    | none, none =>
      if c.arch.perc.flt then some (.trap cOVERRUN (BitVec.ofNat 64 c.arch.perc.fltVal))
      else
        match c.strand with
        | none => none
        | some t =>
          match t.watchdog <|> c.arch.wait.barWd with
          | some v => some (.trap cWATCHDOG v)
          | none =>
            if c.linkHeld then none
            else
              match t.cancel with
              | some h => some (.trap cCANCEL h)
              | none => if t.preempt then some .preempt else none

/-- The cause to take at this clock: an OVERRUN that arises in the very cycle in which a pre-emption is taken waits (R377, R430). -/
def Core.due (c : Core) (clock : Nat) : Option Async :=
  let rest := (c.updArch fun a => { a with perc := { a.perc with flt := false } }).pending
  if c.arch.perc.flt && decide (c.arch.perc.fltAt = clock) && decide (rest = some .preempt) then rest else c.pending

/-- The cause just taken is no longer pending (R430). -/
def Core.clearPending (c : Core) : Core :=
  if c.arch.tm then
    { c with arch := { c.arch with wait := { c.arch.wait with wdTm := none } } }
  else if c.mxfmt then { c with mxfmt := false }
  else if c.arch.vfault.isSome then { c with arch := { c.arch with vfault := none } }
  else if c.arch.mfault.isSome then { c with arch := { c.arch with mfault := none } }
  else if c.arch.perc.flt then { c with arch := { c.arch with perc := { c.arch.perc with flt := false } } }
  else
    match c.strand with
    | none => c
    | some t =>
      if t.watchdog.isSome then { c with strand := some { t with watchdog := none } }
      else if c.arch.wait.barWd.isSome then { c with arch := { c.arch with wait := { c.arch.wait with barWd := none } } }
      else { c with strand := some { t with cancel := none } }

/-- What the slot of a bundle's A instruction is charged in the cycle it issues (R264, R265). -/
def issueCause : Option Instr → Nat
  | none => cEMPTY
  | some .nop => cEMPTY
  | some .anop => cEMPTY
  | some _ => cISSUE

/-! ## Waits before a strand leaves (R156, R172, R196, R213, R244) -/

/-- Every earlier store of the core is past the die's order point, and at its home. -/
def State.storesHome (s : State) (g : Nat) : Bool :=
  (s.core g).sb.isEmpty && (s.die (dieOf g)).past.all fun p => decide (p.core ≠ g)

/-- Stores of the core to host-bias pages are on their way to the host: outside the die's order, so that no other core of the die sees
them yet (R233, R241). -/
def State.hostStores (s : State) (g : Nat) : Bool :=
  (s.die (dieOf g)).past.any fun p => decide (p.core = g) && p.ent.bytes.any fun c => s.hostBias c.1

/-- A release of the core at the scope can be performed: its stores are past the die's order point, and at .pkg and .sys no store
of the die, its own or one that it may have observed, is still on its way to its home; at narrower scopes none of its own to a
host-bias page is (R233, R236, R241, log entry 66). -/
def State.storesDone (s : State) (g : Nat) (sc : Scope) : Bool :=
  (s.core g).sb.isEmpty
  && (match sc with
      | .pkg | .sys => (s.die (dieOf g)).past.isEmpty
      | .core => true
      | _ => !s.hostStores g)


/-- The core's loads and atomics have their results. -/
def Core.loadsDone (c : Core) : Bool := c.loads.isEmpty

def VEntry.isMem (e : VEntry) : Bool := match e.ins with | .vld .. | .vst .. => true | _ => false
def VEntry.isVld (e : VEntry) : Bool := match e.ins with | .vld .. => true | _ => false
/-- The sequencer's entries that an access waits for: of those behind a held head while a handler runs only the handler's own, since
the others are performed after RFT (R137, log entry 16). -/
def Core.vwork (c : Core) : List VEntry := if c.arch.vheld && c.arch.tm then c.arch.vseq.filter (·.hand) else c.arch.vseq
/-- No VLD or VST of the core is still to be performed (R429). -/
def Core.vmemDone (c : Core) : Bool := c.vwork.all fun e => !e.isMem

/-- Vector results of the core that are still to be written (R169). -/
def State.vFlying (s : State) (g : Nat) : List VFly := (s.core g).arch.vfly.filter fun f => decide (s.clock < f.land)

/-- What a suspension point still waits for, as a cause of R264. -/
def State.suspendWait (s : State) (g : Nat) : Option Nat :=
  let c := s.core g
  if !c.loadsDone || !s.storesDone g .pkg || !c.vmemDone then some cMEM
  else if !c.chans.isEmpty || !c.cmds.isEmpty then some cSTRM
  else if !c.arch.vseq.isEmpty || !(s.vFlying g).isEmpty || s.inSfu g then some cVSEQ
  else if !c.arch.mxq.isEmpty then some cMXQ
  else if !s.leaveCells g c.ctxNum then some cMSG
  else none

/-- The record of the strand on core g with the given PC (R273). -/
def State.recordOf (s : State) (g : Nat) (t : Strand) (pc : Word) : Rec :=
  let a := (s.core g).landEvery.arch
  { t.r with pc := pc, me := a.meBit, pl := a.pl, pr := s.dual g, pri := t.pri, xs := (List.range 5).map fun i => a.rx (i + 1),
             spl := false, spix := 0, age := 0, afv := false, kind := 0 }

/-- Both cores of a pair are single again (R229). -/
def State.separate (s : State) (g : Nat) : State :=
  let e := g / 2 * 2
  let s := (s.zeroJournal e).alike e
  let s := (s.endRuns (e + 1)).flushAcct (e + 1)
  (s.updCore e fun c => { c with pair := Pair.single }).updCore (e + 1) fun c =>
    { c with pair := Pair.single, idleSince := s.clock }

/-- The strand on core g leaves at a suspension point, its waits done: its record goes where `put` says, or
the strand ends where a cancel is pending (R213, R217). -/
def State.suspendTo (s : State) (g : Nat) (pc : Word) (put : State → Strand → Rec → State) : State :=
  match (s.core g).strand with
  | none => s
  | some t =>
    let r := s.recordOf g t pc
    let s := (s.payXl g pc).pay g cSWITCH 1 pc
    let s := s.disarm t.ctx (s.core g).arch.arming
    let s := (s.queuesToSpill g t.ctx)
    let s := if s.dual g then s.separate g else s
    let s := if t.r.cx then s.breakDomains g (some t.ctx) else s
    let s := s.freeCore g
    let s := if t.r.cx then (s.launchEnd t.ctx t.r.launch true).stopCheck t.ctx else put s t r
    s.updCore g fun c => { c with arch := { Arch.reset with debt := c.arch.debt } }

/-- The record returns to the ring of its die and layer. -/
def State.requeue (s : State) (t : Strand) (r : Rec) : State := s.enqueue t.ctx t.die t.layer t.slot r none

/-! ## Pre-emption (R286 to R288, R290) -/

/-- The MXU queue's entries that a pre-emption waits for: those with a granule or transfer granted, the head whose granule
holds the array among them, and the trap bank's, which stays with the core (R195, R196). -/
def State.mxStarted (s : State) (g : Nat) : Bool :=
  let q := (s.core g).arch.mxq
  (!q.isEmpty && decide ((s.cluster (g / 8)).work = some (g % 8))) || q.any fun e => decide (e.done ≠ 0) || e.trap

/-- What pre-emption waits for: entries with a granted beat, channels, loads and the store buffer, and cells for its queues. -/
def State.preemptWait (s : State) (g : Nat) : Option Nat :=
  let c := s.core g
  if !c.loadsDone || !s.storesDone g .pkg then some cMEM
  else if !c.chans.isEmpty || !c.cmds.isEmpty then some cSTRM
  else if c.arch.vseq.any (fun e => decide (e.beats ≠ 0)) || !(s.vFlying g).isEmpty || s.inSfu g then some cVSEQ
  else if s.mxStarted g then some cMXQ
  else if !s.leaveCells g c.ctxNum then some cMSG
  else none

/-- Strips fetched ahead are fetched again after resumption (R153). -/
def Stream.forget (st : Stream) : Stream := { st with strips := [], fetch := st.pop, moved := 0, part := (0, none) }

/-- Freed cores are kept for the record that is their dispenser's head now (R285). -/
def State.keepFreed (s : State) (gs : List Nat) : State :=
  gs.foldl (fun s g => s.updCore g fun c => { c with kept := (s.headOf (dieOf g) (layerOf g)).map (·.rid) }) s

/-- The strand on core g is spilled and its record enqueued, or the interrupt is dropped where no area is free. -/
def State.preempt (s : State) (g : Nat) : State :=
  match (s.core g).strand with
  | none => s
  | some t =>
    match s.freeArea? (s.core g).arch.copies.spillbase.toNat with
    | none => s.updCore g fun c => { c with strand := some { t with preempt := false, pend := false, spilling := false } }
    | some i =>
      let c := (s.core g).landEvery
      let a := { c.arch with wait := c.arch.wait.cut, vfly := [], streams := SMap.mapVals c.arch.streams fun _ x => x.forget }
      let base := a.copies.spillbase.toNat + 0x20000 * i
      let (stamp, s) := s.fresh
      let cells := a.spillCells (layerOf g) base stamp
      let s := s.setAreaBit a.copies.spillbase.toNat i true
      let s := s.ownWrite cells (cells.map fun p => p.1 / 8 * 8).eraseDups
      let own := s.spillOut g t.ctx
      let sp : Spilled :=
        { base := a.copies.spillbase.toNat, idx := i, num := stamp, arch := a, spill := own, core := g, layer := layerOf g, last := t.last,
          reload := false }
      -- what remains of its own spill queue goes with it, behind what was in the queues (R290)
      let s := (s.emptyQueues g).updCtx t.ctx fun x =>
        { x with spilled := SMap.set x.spilled t.slot { sp with spill := own ++ (SMap.get x.spillQ [] g).filter (·.mine) },
                 spillQ := SMap.upd x.spillQ [] g fun l => l.filter fun e => !e.mine }
      let s := s.pay g cSWITCH 1 a.pc
      let dual := s.dual g
      let s := if dual then s.separate g else s
      let s := s.freeCore g
      let r : Rec :=
        { t.r with pc := a.pc, me := a.meBit, pl := a.pl, pr := dual, pri := t.pri, spl := true, spix := i, age := 0,
                   xs := (List.range 5).map fun i => a.rx (i + 1) }
      let s := (s.enqueue t.ctx t.die t.layer t.slot r none).updCore g fun x =>
        { x with arch := { Arch.reset with debt := 0 }, stepClock := c.stepClock }
      if t.pend then s.keepFreed (if dual then [g, partner g] else [g]) else s

/-- A pair takes its pre-emption only after an exchange (R322). -/
def State.exchangeForPreempt (s : State) (g : Nat) : Bool :=
  s.dual g && !(s.core g).pair.asked && decide ((s.core g).due s.clock = some .preempt)

/-- The request of an atomic is on its way across a link: its bundle is not interrupted until the response has come (R235, log
entry 68). -/
def Core.amoFlying (c : Core) : Bool := c.loads.any fun l => l.held.isSome

/-- The first pending asynchronous cause is taken on core g; `none` where there is none. -/
def State.takeAsync (s : State) (g : Nat) : Option State :=
  match (s.core g).due s.clock with
  | none => none
  | some (.trap cause val) =>
    let pc := (s.core g).arch.pc
    some ((s.updCore g Core.clearPending).trapAt g cause val pc)
  | some .preempt =>
    match s.preemptWait g with
    | some cause =>
      some (s.updCore g fun c => { c with flow := .held cause, strand := c.strand.map fun t => { t with spilling := true } })
    | none => some (s.preempt g)

/-! ## Return from a trap (R119, R195) -/

/-- The trap bank's a0 is open, or entries of the trap bank are still in the queue. -/
def Core.trapOpen (c : Core) : Bool := c.tbank.iopen.contains 0

/-- The order of R265 among the causes of a wait. -/
def waitRank (c : Nat) : Nat :=
  if c = cPAIR then 0 else if c = cMEM then 1 else if c = cSTRM then 2 else if c = cVSEQ then 3 else if c = cMXQ then 4
  else if c = cMSG then 5 else if c = cBAR then 6 else 7
def firstWait (l : List Nat) : Option Nat := bestBy (fun a b => decide (waitRank a < waitRank b)) l

/-- An entry whose result other instructions of the core are interlocked for (R48): VSFU, and VMOV to an x register. -/
def VEntry.interlocks (e : VEntry) : Bool :=
  match e.ins with | .vsfu .. => true | .vmov _ _ _ m => decide (m.toNat = 2) | _ => false

/-- What RFT waits for (R119, R195): every interlocked result, and the trap bank's entries while its a0 is open. -/
def Core.rftWaits (c : Core) : List Nat :=
  (if c.loads.isEmpty then [] else [cMEM])
  ++ (if c.vwork.any VEntry.interlocks || c.arch.vfly.any (fun f => f.regs.any fun r => match r with | .x _ => true | .q _ => true | _ => false) then [cVSEQ] else [])
  ++ (if c.trapOpen && c.arch.mxq.any (·.trap) then [cMXQ] else [])
  ++ (if c.pend.any fun p => p.inter && decide (c.cycle < p.land) then [cDEP] else [])

/-- The core after RFT: every result has landed (R49), an open trap bank is closed with MXFMT pending (R195), and what the
interrupted bundle had done stands again (R208). STATUS returns from TSTAT (R119). -/
def Core.returned (c : Core) : Core :=
  let open' := c.trapOpen
  let c := c.landEvery
  let a := c.arch
  let tb := if open' then
      { c.tbank with iopen := [], accs := SMap.upd c.tbank.accs Accum.zero 0 fun x => { x with chain := none } }
    else c.tbank
  { c with
    arch := { a with status := setBit a.tstat 0 false, vheld := a.vfault.isSome, mheld := a.mfault.isSome,
                     wait := a.wait.back }
    tbank := tb, mxfmt := c.mxfmt || open', npc := a.tpc, taken := true }

def State.rft (s : State) : Step :=
  if !s.me.arch.tm then illegalStep s
  else
    match firstWait s.me.rftWaits with
    | some h => s.hold h
    | none => .next (s.updMe Core.returned)

end Sys2Proof.Machine
end

