-- ==== Sys2Proof/Machine/Operands.lean ====
section
/-! DEFINITION. Operand forms: the effective address of C-MEM operands (R52), branch offsets (R53), the
substitution of MACRO's parameters (R67), and the byte counts of the accesses. -/

namespace Sys2Proof.Machine

/-- The effective address of a C-MEM operand with its scale in bytes (R52). -/
def MemOp.ea (c : Core) (scale : Nat) : MemOp → Word
  | .short b d => c.x b + wordOfInt (d.toInt * (scale : Int))
  | .ext b _ _ d => c.x b + wordOfInt d.toInt
  | .idx b _ _ i sc d => c.x b + (c.x i <<< sc.toNat) + wordOfInt d.toInt

def MemOp.ord : MemOp → MemOrd × Scope
  | .short _ _ => (.none, .core)
  | .ext _ o s _ => (o, s)
  | .idx _ o s _ _ _ => (o, s)

def Size.bytes : Size → Nat
  | .b => 1 | .h => 2 | .w => 4 | .d => 8

def LdKind.bytes : LdKind → Nat
  | .b | .bsx => 1 | .h | .hsx => 2 | .w | .wsx => 4 | .d => 8

def LdKind.sx : LdKind → Bool
  | .bsx | .hsx | .wsx => true
  | _ => false

/-- The offset in bundles of BRA and CALL (R53). -/
def BrOff.val : BrOff → Int
  | .near o => o.toInt
  | .far o => o.toInt

def JDisp.val : JDisp → Int
  | .near o => o.toInt
  | .far o => o.toInt

def MacroSel.val : MacroSel → Nat
  | .near e => e.toNat
  | .far e => e.toNat

/-! ## Substitution (R67) -/

/-- 61, 62 and 63 stand for MACRO's d, a and b fields. -/
def substReg (d a b r : Reg) : Reg := if r = 61 then d else if r = 62 then a else if r = 63 then b else r

def MemOp.subst (f : Reg → Reg) : MemOp → MemOp
  | .short b x => .short (f b) x
  | .ext b o s x => .ext (f b) o s x
  | .idx b o s i sc x => .idx (f b) o s (f i) sc x

/-- The instruction with a register map on each field that names one register in six bits of a plain form. -/
def Instr.subst (f : Reg → Reg) : Instr → Instr
  | .litx d a l => .litx (f d) (f a) l
  | .ld d k m => .ld (f d) k (MemOp.subst f m)
  | .st d z m => .st (f d) z (MemOp.subst f m)
  | .ldp d z m => .ldp (f d) z (MemOp.subst f m)
  | .stp d z m => .stp (f d) z (MemOp.subst f m)
  | .pref k m => .pref k (MemOp.subst f m)
  | .cflush k m => .cflush k (MemOp.subst f m)
  | .vld d r m => .vld (f d) r (MemOp.subst f m)
  | .vst d m => .vst (f d) (MemOp.subst f m)
  | .vgath d a b sc => .vgath (f d) (f a) (f b) sc
  | .vscat d a b sc => .vscat (f d) (f a) (f b) sc
  | .tld d sc m => .tld (f d) sc (MemOp.subst f m)
  | .tst d m => .tst (f d) (MemOp.subst f m)
  | .amo d a b t o c => .amo (f d) (f a) (f b) t o c
  | .cas d a b t c => .cas (f d) (f a) (f b) t c
  | .sbind d m => .sbind (f d) (MemOp.subst f m)
  | .sdrop d => .sdrop (f d)
  | .acopy d a b c => .acopy (f d) (f a) (f b) c
  | .chwait d c => .chwait (f d) c
  | .send d a n => .send (f d) (f a) n
  | .xchg d a q m => .xchg (f d) (f a) q m
  | .restrUp l a => .restrUp (f l) (f a)
  | .restrTake l a q m => .restrTake (f l) (f a) q m
  | .prolgDown l a m => .prolgDown (f l) (f a) m
  | .prolgTake l a q => .prolgTake (f l) (f a) q
  | .wload l r m => .wload (f l) r (MemOp.subst f m)
  | .cyc l b => .cyc (f l) b
  | .spawn d a (.reg b) m => .spawn (f d) (f a) (.reg (f b)) m
  | .spawn d a (.label o) m => .spawn (f d) (f a) (.label o) m
  | .cancel a x => .cancel (f a) x
  | .ppatch m => .ppatch (MemOp.subst f m)
  | .pstep d a b true => .pstep (f d) (f a) (f b) true
  | .pstep d a b false => .pstep (f d) (f a) b false
  | .psave m => .psave (MemOp.subst f m)
  | .prest m => .prest (MemOp.subst f m)
  | .pset a b w => .pset (f a) (f b) w
  | .pget d b s => .pget (f d) (f b) s
  | .snap q a => .snap q (f a)
  | .genq d i => .genq (f d) i
  | .bias d a x => .bias (f d) (f a) x
  | .tlbiVa a => .tlbiVa (f a)
  | .fmtld m => .fmtld (MemOp.subst f m)
  | .csrr d n => .csrr (f d) n
  | .csrw d a n => .csrw (f d) (f a) n
  | .acctCtx d l c => .acctCtx (f d) l c
  | .acctCore d c => .acctCore (f d) c
  | .acctMark a => .acctMark (f a)
  | .telem d i => .telem (f d) i
  | .xlat d a k => .xlat (f d) (f a) k
  | .prio d a i => .prio (f d) (f a) i
  | .movi d i h => .movi (f d) i h
  | .add d a b s t => .add (f d) (f a) (f b) s t
  | .sub d a b s t => .sub (f d) (f a) (f b) s t
  | .mul d a b s t => .mul (f d) (f a) (f b) s t
  | .mulh d a b t => .mulh (f d) (f a) (f b) t
  | .div d a b t => .div (f d) (f a) (f b) t
  | .and d a b => .and (f d) (f a) (f b)
  | .or d a b => .or (f d) (f a) (f b)
  | .xor d a b => .xor (f d) (f a) (f b)
  | .shl d a b k => .shl (f d) (f a) (f b) k
  | .shr d a b t => .shr (f d) (f a) (f b) t
  | .min d a b t => .min (f d) (f a) (f b) t
  | .max d a b t => .max (f d) (f a) (f b) t
  | .cmp c q a b t => .cmp c q (f a) (f b) t
  | .sel d a b s q => .sel (f d) (f a) (f b) s q
  | .bits d a o => .bits (f d) (f a) o
  | .bfx d a b => .bfx (f d) (f a) (f b)
  | .pred q a b i => .pred q (f a) (f b) i
  | .lea d a i => .lea (f d) (f a) i
  | .fadd d a b t r => .fadd (f d) (f a) (f b) t r
  | .fmul d a b t r => .fmul (f d) (f a) (f b) t r
  | .ffma d a b t r => .ffma (f d) (f a) (f b) t r
  | .fdiv d a b t r => .fdiv (f d) (f a) (f b) t r
  | .fcmp c q a b t => .fcmp c q (f a) (f b) t
  | .fcvt d a o s t r => .fcvt (f d) (f a) o s t r
  | .fmnx d a b t x => .fmnx (f d) (f a) (f b) t x
  | .vmov d a b m =>
    match m.toNat with
    | 0 => .vmov (f d) (f a) b m
    | 1 => .vmov (f d) (f a) b m
    | _ => .vmov (f d) (f a) (f b) m
  | .viota d a b t => .viota (f d) (f a) (f b) t
  | .vrep n a i => .vrep n (f a) i
  | .mma d a b r => .mma (f d) (f a) (f b) r
  | .mmas d a b r => .mmas (f d) (f a) (f b) r
  | .mdist d a b r => .mdist (f d) (f a) (f b) r
  | .mtopk d a b l => .mtopk (f d) (f a) (f b) l
  | .mzero d t => .mzero (f d) t
  | .mopen d => .mopen (f d)
  | .mclose d => .mclose (f d)
  | .mtran d a => .mtran (f d) (f a)
  | .mcvt d a t s o r => .mcvt (f d) (f a) t s o r
  | .mew d a .relu b r => .mew (f d) a .relu b r
  | .mew d a o b r => .mew (f d) (f a) o b r
  | .mwait d true => .mwait (f d) true
  | .vclmp d a b t => .vclmp (f d) (f a) (f b) t
  | .hash d a b => .hash (f d) (f a) (f b)
  | i => i

/-! ## Shapes -/

/-- ROWS, COLS and the element width in bytes of a VSHAPE (R163). -/
def vRows (sh : Word) : Nat := fld sh 25 16
def vCols (sh : Word) : Nat := fld sh 13 4
def vBytes (sh : Word) : Nat := 2 ^ fld sh 1 0
def vElems (sh : Word) : Nat := vRows sh * vCols sh
/-- Bytes of a strip or a packed transfer. -/
def vSize (sh : Word) : Nat := vElems sh * vBytes sh

/-- ROWS, COLS and the element width in bits of a TSHAPE (R187). -/
def tRows (sh : Word) : Nat := fld sh 16 10
def tCols (sh : Word) : Nat := fld sh 9 3
def tBits (sh : Word) : Nat := 4 * 2 ^ fld sh 1 0
def tKax (sh : Word) : Bool := bitAt sh 17
def tElems (sh : Word) : Nat := tRows sh * tCols sh
/-- Bytes of a packed tile transfer. -/
def tSize (sh : Word) : Nat := (tElems sh * tBits sh + 7) / 8
/-- Elements along K, lines, and the blocks of 32 of a line, the last one perhaps partial (R186). -/
def tK (sh : Word) : Nat := if tKax sh then tRows sh else tCols sh
def tLines (sh : Word) : Nat := if tKax sh then tCols sh else tRows sh
def tBlocks (sh : Word) : Nat := ceilDiv (tK sh) 32
/-- Scale bytes a tile's blocks take. -/
def scaleBytes (sh : Word) : Nat := tLines sh * tBlocks sh

end Sys2Proof.Machine
end

