-- ==== Sys2Proof/Machine/Scalar.lean ====
section
/-! DEFINITION. The A slot's scalar instructions (R98, R105 to R115): each reads the registers as they stood
before the bundle and leaves its result in flight with the latency of R34. -/

namespace Sys2Proof.Machine

/-- A `w`-bit result extended to the register (R91). -/
def extResult (t : IType) (v : Nat) : Word := if t.signed then sextWord t.width v else BitVec.ofNat 64 (v % 2 ^ t.width)

/-- The operand of an integer type. -/
def iArg (t : IType) (w : Word) : Int := intVal t.signed t.width w.toNat

/-- An exact integer result, wrapped or saturated, and extended (R91, R107). -/
def iResult (t : IType) (sat : Bool) (i : Int) : Word := extResult t (intBits sat t.signed t.width i)

def execAnop (s : State) : Step := .next s

def execMovi (d : Reg) (imm : BitVec 16) (half : Bool) (s : State) : Step :=
  .next (s.pushX d (if half then imm.signExtend 64 <<< 16 else imm.signExtend 64) 1)

def execAdd (d a b : Reg) (sat : Bool) (t : IType) (s : State) : Step :=
  .next (s.pushX d (iResult t sat (iArg t (s.me.x a) + iArg t (s.me.x b))) 1)

def execSub (d a b : Reg) (sat : Bool) (t : IType) (s : State) : Step :=
  .next (s.pushX d (iResult t sat (iArg t (s.me.x a) - iArg t (s.me.x b))) 1)

def execMul (d a b : Reg) (sat : Bool) (t : IType) (s : State) : Step :=
  .next (s.pushX d (iResult t sat (iArg t (s.me.x a) * iArg t (s.me.x b))) 3)

/-- Bits 2w−1:w of the exact product (R92). -/
def execMulh (d a b : Reg) (t : IType) (s : State) : Step :=
  .next (s.pushX d (iResult t false ((iArg t (s.me.x a) * iArg t (s.me.x b)) / (2 ^ t.width : Int))) 3)

def execDiv (d a b : Reg) (t : IType) (s : State) : Step :=
  .next (s.pushX d (extResult t (intDiv t.signed t.width (iArg t (s.me.x a)) (iArg t (s.me.x b))))
    (if t.width = 64 then 34 else 18))

def execAnd (d a b : Reg) (s : State) : Step := .next (s.pushX d (s.me.x a &&& s.me.x b) 1)
def execOr (d a b : Reg) (s : State) : Step := .next (s.pushX d (s.me.x a ||| s.me.x b) 1)
def execXor (d a b : Reg) (s : State) : Step := .next (s.pushX d (s.me.x a ^^^ s.me.x b) 1)

def execShl (d a b : Reg) (k : BitVec 5) (s : State) : Step :=
  .next (s.pushX d (s.me.x a <<< (((s.me.x b).toNat + k.toNat) % 64)) 1)

/-- The w-bit operand shifted right by x[b]<5:0>, filled by type (R108). -/
def execShr (d a b : Reg) (t : IType) (s : State) : Step :=
  .next (s.pushX d (iResult t false (iArg t (s.me.x a) / (2 ^ ((s.me.x b).toNat % 64) : Int))) 1)

def execMin (d a b : Reg) (t : IType) (s : State) : Step :=
  .next (s.pushX d (iResult t false (min (iArg t (s.me.x a)) (iArg t (s.me.x b)))) 1)
def execMax (d a b : Reg) (t : IType) (s : State) : Step :=
  .next (s.pushX d (iResult t false (max (iArg t (s.me.x a)) (iArg t (s.me.x b)))) 1)

/-- The truth of a condition on integers (R105). -/
def iCond (c : Cond) (a b : Int) : Bool :=
  match c with
  | .eq => decide (a = b) | .ne => decide (a ≠ b) | .lt => decide (a < b) | .le => decide (a ≤ b)
  | .gt => decide (b < a) | .ge => decide (b ≤ a) | .un => false

def execCmp (c : Cond) (q : QReg) (a b : Reg) (t : IType) (s : State) : Step :=
  .next (s.pushQ q (iCond c (iArg t (s.me.x a)) (iArg t (s.me.x b))) 1)

def execSel (d a b : Reg) (sense : Bool) (q : QReg) (s : State) : Step :=
  .next (s.pushX d (if s.me.q q != sense then s.me.x a else s.me.x b) 1)

/-- BITS on `w` bits: population count, leading and trailing zeros, bit reversal (R108). -/
def bitOp (op : BitOp) (w v : Nat) : Nat :=
  let bits := (List.range w).map fun i => v.testBit i
  match op with
  | .popc => (bits.filter id).length
  | .clz => (bits.reverse.takeWhile (!·)).length
  | .ctz => (bits.takeWhile (!·)).length
  | .rev => bits.foldl (fun acc b => 2 * acc + b.toNat) 0

def execBits (d a : Reg) (op : BitOp) (s : State) : Step :=
  .next (s.pushX d (BitVec.ofNat 64 (bitOp op 64 (s.me.x a).toNat)) 1)

def execBfx (d a b : Reg) (s : State) : Step :=
  let ctl := s.me.x b
  let pos := fld ctl 5 0
  let len := Nat.min (fld ctl 14 8) (64 - pos)
  .next (s.pushX d (BitVec.ofNat 64 (((s.me.x a).toNat >>> pos) % 2 ^ len)) 1)

def execPred (q : QReg) (a b : Reg) (inv : Bool) (s : State) : Step :=
  .next (s.pushQ q (decide (s.me.x a &&& s.me.x b ≠ 0) != inv) 1)

def execLea (d a : Reg) (imm : BitVec 11) (s : State) : Step :=
  .next (s.pushX d (s.me.x a + imm.signExtend 64) 1)

/-- One step of the CRC-64 of R110. -/
def crcBit (c : Word) : Word := if bitAt c 63 then (c <<< 1) ^^^ 0x42F0E1EBA9EA3693#64 else c <<< 1
def crcByte (c : Word) (b : Nat) : Word :=
  crcBit (crcBit (crcBit (crcBit (crcBit (crcBit (crcBit (crcBit (c ^^^ (BitVec.ofNat 64 b <<< 56)))))))))
/-- Eight bytes folded into a CRC state, byte 0 first (R110). -/
def crcWord (c v : Word) : Word := (List.range 8).foldl (fun c i => crcByte c (fld v (8 * i + 7) (8 * i))) c

def execHash (d a b : Reg) (s : State) : Step := .next (s.pushX d (crcWord (s.me.x a) (s.me.x b)) 2)

/-! ## Floats -/

/-- An .sr instruction claims its draws at issue (R83): the state after `n` draws is the core's, and the
instruction keeps the state before them. -/
def State.claimDraws (s : State) (r : Rnd) (n : Nat) : State :=
  if r = .sr then s.updMe fun c => c.updArch fun a => { a with srseed := xsN n a.srseed } else s

/-- The random value of a scalar instruction's one draw (R82, R111). -/
def State.rnd (s : State) : Nat := (xs s.me.arch.srseed).toNat

/-- A float result, zero-extended, with its flags (R79). -/
def State.floatX (s : State) (d : Reg) (r : Rnd) (lat : Nat) (v : Nat × FpFlags) : Step :=
  .next ((s.claimDraws r 1).pushXF d (BitVec.ofNat 64 v.1) lat v.2)

def execFadd (d a b : Reg) (f : FFmt) (r : Rnd) (s : State) : Step :=
  s.floatX d r 4 (fAdd (fkOfScalar f) r s.rnd (s.me.x a).toNat (s.me.x b).toNat)
def execFmul (d a b : Reg) (f : FFmt) (r : Rnd) (s : State) : Step :=
  s.floatX d r 4 (fMul (fkOfScalar f) r s.rnd (s.me.x a).toNat (s.me.x b).toNat)
def execFfma (d a b : Reg) (f : FFmt) (r : Rnd) (s : State) : Step :=
  s.floatX d r 4 (fFma (fkOfScalar f) r s.rnd (s.me.x a).toNat (s.me.x b).toNat (s.me.x d).toNat)
def execFdiv (d a b : Reg) (f : FFmt) (r : Rnd) (s : State) : Step :=
  s.floatX d r (if f = .f64 then 24 else 12) (fDiv (fkOfScalar f) r s.rnd (s.me.x a).toNat (s.me.x b).toNat)

def execFcmp (c : Cond) (q : QReg) (a b : Reg) (f : FFmt) (s : State) : Step :=
  let k := fkOfScalar f
  let v := fCmp c (decodeF k (s.me.x a).toNat) (decodeF k (s.me.x b).toNat)
  .next (s.pushQF q v.1 2 v.2)

/-- A conversion between scalar formats (R114). -/
def fcvt (sf df : FFmt) (ovf : Bool) (r : Rnd) (rnd v : Nat) : Nat × FpFlags :=
  if sf = df ∨ FFmt.widens sf df = true then widen (fkOfScalar sf) (fkOfScalar df) v
  else narrow (fkOfScalar df) ovf r rnd (decodeF (fkOfScalar sf) v)

def execFcvt (d a : Reg) (ovf : Bool) (sf df : FFmt) (r : Rnd) (s : State) : Step :=
  s.floatX d r 2 (fcvt sf df ovf r s.rnd (s.me.x a).toNat)

def execFmnx (d a b : Reg) (f : FFmt) (mx : Bool) (s : State) : Step :=
  s.floatX d .rne 2 (fMinMax (fkOfScalar f) mx (s.me.x a).toNat (s.me.x b).toNat)

end Sys2Proof.Machine
end

