-- ==== Sys2Proof/Machine/Control.lean ====
section
/-! DEFINITION. The C slot's control instructions: literals, branches, loops, MACRO, traps and fetch
synchronisation (R96 to R104, R119, R120, R130, R132). -/

namespace Sys2Proof.Machine

/-- The bundle at work transfers control (R97). -/
def State.jump (s : State) (target : Word) : State := s.updMe fun c => { c with npc := target, taken := true }

/-- A target in bundles from the bundle at work (R53). -/
def State.target (s : State) (o : Int) : Word := s.me.arch.pc + wordOfInt (8 * o)

def execNop (s : State) : Step := .next s

def execLitx (d a : Reg) (lit : BitVec 32) (s : State) : Step :=
  .next (s.pushX d (if a = 0 then lit.signExtend 64 else (s.me.x a <<< 32) ||| lit.setWidth 64) 1)

def execBra (q : QReg) (sense : Bool) (off : BrOff) (s : State) : Step :=
  if s.me.q q != sense then .next (s.jump (s.target (BrOff.val off))) else .next s

def execCall (q : QReg) (sense : Bool) (off : BrOff) (s : State) : Step :=
  if s.me.q q != sense then .next ((s.pushX 63 (s.me.arch.pc + 8) 1).jump (s.target (BrOff.val off))) else .next s

def execJmp (d a : Reg) (disp : JDisp) (s : State) : Step :=
  .next ((s.pushX d (s.me.arch.pc + 8) 1).jump (s.me.x a + wordOfInt (JDisp.val disp)))

def execRet (a : Reg) (s : State) : Step := .next (s.jump (s.me.x a))

/-- LOOP (R102, R103). -/
def execLoop (a : Reg) (n : BitVec 10) (s : State) : Step :=
  let c := s.me
  if c.arch.lcnt ≠ 0 ∨ c.arch.tm = true ∨ c.micro ≠ none then illegalStep s
  else if c.x a = 0 then .next (s.jump (c.arch.pc + BitVec.ofNat 64 (8 * (n.toNat + 1))))
  else
    .next (s.updMe fun c => { c.updArch (fun x =>
      { x with lbeg := x.pc + 8, lend := x.pc + BitVec.ofNat 64 (8 * n.toNat), lcnt := c.x a }) with loopBuf := [] })

/-- The control-store entry of the core's quad (R66). -/
def Quad.entry? (q : Quad) (e : Nat) : Option CsEntry :=
  match SMap.get? q.store e with
  | some x => if bitAt x.desc 63 then some x else none
  | none => none

/-- MACRO reads the entry at issue and the run starts at operation STATUS.MOP (R67, R69, R104). -/
def execRunMacro (d a b : Reg) (e : MacroSel) (s : State) : Step :=
  match (s.quad (quadOf s.cur)).entry? (MacroSel.val e), s.me.micro with
  | some x, none =>
    let m : Micro :=
      { entry := MacroSel.val e, pc := s.me.arch.pc, d := d, a := a, b := b,
        image := (List.range (fld x.desc 3 0 + 1)).map fun i => (x.image[i]?).getD 0 }
    .next (s.updMe fun c => { c with micro := some m })
  | _, _ => illegalStep s

def execTrap (imm : BitVec 10) (s : State) : Step := trapStep s cSYSCALL (imm.setWidth 64)
def execDbrk (imm : BitVec 10) (s : State) : Step := trapStep s cBREAK (imm.setWidth 64)
def execRft (s : State) : Step := s.rft

/-- ICSYNC (R132): once the store buffer is empty, both buffers are discarded and the next bundle is fetched anew; its own
bundle does not enter them again. -/
def execIcsync (s : State) : Step :=
  if s.me.sb.isEmpty then
    .next (s.updMe fun c => { c with fetchBuf := [], loopBuf := [], npc := c.arch.pc + 8, taken := true })
  else s.hold cMEM

/-- MODE: the package power mode, in effect at the next division (R130). -/
def execMode (m : BitVec 2) (s : State) : Step :=
  if s.me.arch.pl then .next { s with power := { s.power with nextMode := m.toNat, moded := true } }
  else privStep s

def execModeMe (e : Bool) (s : State) : Step :=
  .next (s.updMe fun c => c.updArch fun a => a.setStatus fun st => setBit st 17 e)

/-- PRIO (R134): the old priority, and a new one that a user strand may not raise. -/
def execPrio (d a : Reg) (imm : BitVec 7) (s : State) : Step :=
  let c := s.me
  let new := if a = 0 then imm.toNat else fld (c.x a) 6 0
  match c.strand with
  | none => .next (s.pushXI d 0)
  | some t =>
    if !c.arch.pl && decide (t.pri < new) then privStep s
    else .next ((s.updMe fun c => { c with strand := some { t with pri := new } }).pushXI d (BitVec.ofNat 64 t.pri))

end Sys2Proof.Machine
end

