-- ==== Sys2Proof/Machine/Access.lean ====
section
/-! DEFINITION. Core and engine accesses to memory: translation with its table reads, breakpoints, slice
windows, ownership, bias, poison, injected errors, the store buffer and forwarding (R121, R135 to R142, R252,
R330, R344, R352, R412, R421, R429). -/

namespace Sys2Proof.Machine

/-- What an access at issue comes to: it waits, charged a cause; it traps; the core is contained; or it goes on. -/
inductive Got (α : Type) where
  | wait (cause : Nat)
  | trap (cause : Nat) (val : Word)
  | gone
  | ok (a : α)
  deriving DecidableEq, Repr

/-! ## Translation with its side effects -/

/-- Addresses of the table entries a walk reads, from the top level down (R254). -/
def walkReads (s : State) (die p va : Nat) : Nat → Nat → List Nat
  | 0, _ => []
  | j + 1, table =>
    let ea := unalias (table + 8 * (((va % 2 ^ 52) >>> (p + 9 * j)) % 512))
    if !s.hasMemory ea then [] else ea :: walkReads s die p va j ((s.dieLe die ea 8 >>> 12) % 2 ^ 40 * 4096)

/-- A translation of va goes through the region's tables: not through a window (R252). -/
def State.tabled (s : State) (g va : Nat) (k : XKind) : Bool :=
  let c := s.core g
  decide (va / 2 ^ 56 = 0) && decide (va / 2 ^ 52 < 14) && bitAt (SMap.get c.arch.copies.raf 0 (va / 2 ^ 52)) 63
  && !(decide (k ≠ .fetch) && decide (c.arch.copies.thbase.toNat ≤ va) && decide (va < c.arch.copies.thlimit.toNat))

/-- The core's TLB misses and its quad's hits (R258). -/
def State.quadHit (s : State) (g va : Nat) (k : XKind) : Bool :=
  let c := s.core g
  s.tabled g va k && (tlbFind c.tlb c.ctxNum va).isNone && (tlbFind (s.quad (quadOf g)).tlb c.ctxNum va).isSome

/-- The table entries a translation of va would read: none through the windows or on a TLB hit. -/
def State.walkOf (s : State) (g va : Nat) (k : XKind) : List Nat :=
  let c := s.core g
  let raf := SMap.get c.arch.copies.raf 0 (va / 2 ^ 52)
  if !s.tabled g va k || (tlbFind c.tlb c.ctxNum va).isSome || (tlbFind (s.quad (quadOf g)).tlb c.ctxNum va).isSome then []
  else
    match pageBits raf with
    | none => []
    | some p => walkReads s (dieOf g) p va (fld raf 55 54 + 1) (fld raf 51 12 * 4096)

/-- A translation of a range would read table entries that it cannot reach now: it waits (R10). -/
def State.walkWaits (s : State) (waits : Nat → Bool) (g va n : Nat) (k : XKind) : Bool :=
  (pagesOf va n).any fun p => (s.walkOf g (p % 2 ^ 64) k).any waits

/-- A walk that reads n table entries occupies the quad's walker behind the walks before it, and the layer cycles until it
ends. How long its table reads take is not fixed: a free value (R259, log entry 58). -/
def State.startWalk (s : State) (g n : Nat) : State × Nat :=
  if n = 0 then (s, 0)
  else
    let (st, s) := s.fresh
    let p := s.periodOf g
    let stop := Nat.max s.clock (s.quad (quadOf g)).walker + (n + (Config.openWord st).toNat) * p
    (s.updQuad (quadOf g) fun q => { q with walker := stop }, ceilDiv (stop - s.clock) p)

/-- A translation's table reads fire armed errors, and a completed walk fills the TLBs (R258, R421): the state, the cycles it
takes, and what it yields. -/
def State.translated (s : State) (g va : Nat) (k : XKind) : State × Nat × Except Nat Xlated :=
  let reads := s.walkOf g va k
  let w := (reads.foldl (fun s a => (s.fireSector (dieOf g) false (a / 32)).1) s).startWalk g reads.length
  let n := if s.quadHit g va k then 2 else w.2
  match w.1.xlate g va k with
  | .ok x => (w.1.fillTlb g x, n, .ok x)
  | .error e => (w.1, n, .error e)

/-- Translate one address for an instruction at the issue point, which its cycles hold (R259). -/
def State.translate (s : State) (g va : Nat) (k : XKind) : State × Except Nat Xlated :=
  let r := s.translated g va k
  (if r.2.1 = 0 then r.1 else r.1.updCore g fun c => { c with xl := c.xl + r.2.1 }, r.2.2)

/-- Translate a range page by page; on failure the cause and the lowest faulting address (R136). -/
def State.translateRange (s : State) (g va n : Nat) (k : XKind) : State × Except (Nat × Nat) (List (Nat × Xlated)) :=
  (pagesOf va n).foldl (fun r p =>
    match r.2 with
    | .error e => (r.1, .error e)
    | .ok l =>
      match r.1.translate g (p % 2 ^ 64) k with
      | (s, .ok x) => (s, .ok (l ++ [(p, x)]))
      | (s, .error e) => (s, .error (e, p % 2 ^ 64))) (s, .ok [])

/-- The address is translated through a region outside the cut (R336). -/
def snapAt (tr : List (Nat × Xlated)) (va : Nat) : Bool := tr.foldl (fun acc p => if p.1 ≤ va then p.2.snapx else acc) false

/-- The keys of n bytes from va under the translations of its pages. -/
def keysOf (tr : List (Nat × Xlated)) (va n : Nat) : List Nat := (List.range n).map fun i => keyAt tr (va + i)

/-! ## Breakpoints (R121) -/

/-- The breakpoint a data access of [va, va + n) matches: kind 2 load, 3 store. -/
def Core.breakHit (c : Core) (va n kind : Nat) : Option Word :=
  let hit (k : Nat) (ad : Word) : Bool := decide (k = kind) && decide (va ≤ ad.toNat) && decide (ad.toNat < va + n)
  if bitAt c.arch.status 2 then none
  else if hit (fld c.arch.bpctl 1 0) c.arch.bpad0 then some c.arch.bpad0
  else if hit (fld c.arch.bpctl 3 2) c.arch.bpad1 then some c.arch.bpad1
  else none

/-! ## Slice windows (R352), ownership (R135), bias (R329, R330) -/

inductive Window | opened | waits | shut
  deriving DecidableEq, Repr

/-- An address that is no aperture is opened; an aperture offset by the slice's partition. -/
def State.window (s : State) (k : Nat) : Window :=
  match apertureOf k with
  | none => .opened
  | some (d, sl, o) =>
    let x := (s.die d).slice sl
    if o < x.cur * 2 ^ 20 then .opened
    else if x.st = 1 ∧ o < x.sw * 2 ^ 20 then .waits
    else .shut

/-! ## Links on the way (R10, R148, R382) -/


/-- The link endpoints, as (die, port), that an access of a die to a key crosses (R379). -/
def linksTo (die k : Nat) : List (Nat × Nat) :=
  (if siteDie k = die then [] else [(0, 0), (1, 0)])
  ++ (if isSpad k then []
      else match rangeOf k with
        | .cxl p => [(p / 2, 2 + p % 2)]
        | .host => [(0, 1)]
        | _ => [])

/-- Traffic to a key waits for the bridge while that is not up, and for another link that is being trained again; a port that is
down has torn down or failed whatever used it (R10, R381, R382, R418). -/
def State.linksWait (s : State) (die k : Nat) : Bool :=
  s.crossWaits (siteDie k) die
  || (linksTo die k).any fun p => decide (((s.die p.1).link p.2).st = .training) || decide (((s.die p.1).link p.2).st = .lost)

/-- The table walk of an instruction of the core at work cannot reach its tables now (R10). -/
def State.walkHeld (s : State) (va : Nat) (k : XKind) : Bool := s.walkWaits (s.linksWait (dieOf s.cur)) s.cur va 1 k

/-! ## Engines' lines -/

/-- The engine that owns a key's line (R135). -/
def State.owner (s : State) (k : Nat) : Option Eng := SMap.get? s.own (k / 32)

/-- The stamp of an engine command of a core. -/
def Eng.stamp : Eng → Option Nat
  | .entry _ n | .chan _ _ n => some n
  | .graph .. => none
/-- The same engine command; a queue entry may have moved to another core with its strand (R288). -/
def Eng.same (a b : Eng) : Bool := if a.stamp.isSome then decide (a.stamp = b.stamp) else decide (a = b)
/-- An owner keeps an access away: any owner a core's access at issue, and a command by stamp `mine` the owners that issued before
it (R135, log entry 65). -/
def Eng.blocks (e : Eng) (mine : Option Nat) : Bool :=
  match mine, e.stamp with
  | some m, some n => decide (n < m)
  | _, _ => true

/-- What an access by core g to lines it may not touch waits for: its own channel STREAM, else MEM (R155). -/
def State.ownWait (s : State) (g : Nat) (mine : Option Nat) (keys : List Nat) : Option Nat :=
  keys.findSome? fun k =>
    match s.owner k with
    | none => none
    | some e => if !e.blocks mine then none else match e with | .chan h _ _ => if h = g then some cSTRM else some cMEM | _ => some cMEM

/-- A scratchpad whose quad's strands have left and that is being copied to a spare (R426). -/
def State.spadMoving (s : State) (k : Nat) : Bool :=
  let q := spadQuad k
  isSpad k && decide ((s.quad q).retSt = 1) && (List.range 4).all fun c => (s.core (4 * q + c)).strand.isNone
/-- A key that no access reaches now: its host page is changing its bias (R329), or its scratchpad moves. -/
def State.moving (s : State) (k : Nat) : Bool :=
  (isHost k && (match SMap.get? s.bias (k / 4096) with | some .toDevice => true | some .toHost => true | _ => false))
  || s.spadMoving k
/-- The first device access to a page after reset records its bias (R330). -/
def State.recordBias (s : State) (biasd : Bool) (k : Nat) : State :=
  if isHost k && (SMap.get? s.bias (k / 4096)).isNone then
    { s with bias := SMap.set s.bias (k / 4096) (if biasd then .device else .host) }
  else s
def State.recordBiases (s : State) (tr : List (Nat × Xlated)) : State :=
  tr.foldl (fun s p => s.recordBias p.2.biasd p.2.pa) s

/-! ## What a core sees (R142, R232) -/

def SbEntry.has (e : SbEntry) (k : Nat) : Bool := (SMap.get? e.bytes k).isSome
/-- The stores a pair holds in its journal are younger than the store buffer's (R246). -/
def State.storesOf (s : State) (g : Nat) : List SbEntry :=
  (s.core g).sb ++ (if s.dual g then (s.core (g / 2 * 2)).pair.journal else [])

/-- Poison as a core's earlier stores will leave it. -/
def State.effPoison (s : State) (g : Nat) : SMap PoisonMask :=
  let p := (s.die (dieOf g)).past.foldl (fun p e => poisonWrite p e.ent.words) s.poison
  (s.storesOf g).foldl (fun p e => poisonWrite p e.words) p

def State.poisonSeen (s : State) (g k : Nat) : Bool :=
  (SMap.get? (s.effPoison g) (k / 32)).isSome || blockIs s k .quarantined

/-- The same as the core's sequencer and engines meet it: its store buffer without the VSTs that have no data yet. An engine read at
an aperture offset that is no window counts as one of poisoned data (R352). -/
def State.enginePoison (s : State) (g k : Nat) : Bool :=
  let p := (s.die (dieOf g)).past.foldl (fun p e => poisonWrite p e.ent.words) s.poison
  let sb := (s.storesOf g).filter fun e => e.awaits.isNone
  (SMap.get? (sb.foldl (fun p e => poisonWrite p e.words) p) (k / 32)).isSome || blockIs s k .quarantined || decide (s.window k = .shut)

/-- Stores of the core to bytes of host-bias pages that the host has still to receive: its own later reads follow them (R232,
R241). -/
def State.hostPast (s : State) (g : Nat) (keys : List Nat) : Bool :=
  keys.any fun k => s.hostBias k && (s.die (dieOf g)).past.any fun p => decide (p.core = g) && p.ent.has k

/-- A byte as the core's sequencer and engines read it: its store buffer byte by byte, without the VSTs that
have no data yet, then the die. -/
def State.viewByte (s : State) (g k : Nat) : Byte :=
  (s.storesOf g).foldl (fun acc e =>
    if e.awaits.isSome then acc else match SMap.get? e.bytes k with | some b => b | none => acc) (s.dieByte (dieOf g) k)

/-- A load's bytes: from the youngest overlapping store-buffer entry when it holds them all; `none` while an
overlapping entry must drain or be performed first (R142, R429). What a pair's journal holds never drains before the load: it is
forwarded byte by byte, once every VST among it has its data (R246, R376). -/
def State.loadBytes (s : State) (g : Nat) (keys : List Nat) : Option (List Byte) :=
  let near := (s.storesOf g).filter fun e => keys.any e.has
  match near.getLast? with
  | none => some (keys.map (s.dieByte (dieOf g)))
  | some e =>
    if e.awaits.isNone && keys.all e.has then some (keys.map fun k => SMap.get e.bytes 0 k)
    else if s.dual g && (s.core g).sb.all (fun e => !keys.any e.has) && near.all (fun e => e.awaits.isNone) then
      some (keys.map (s.viewByte g))
    else none

/-- A VST of the core that was issued before the stamp and has not delivered its data covers one of the keys (R135). -/
def State.awaitsVst (s : State) (g stamp : Nat) (keys : List Nat) : Bool :=
  (s.storesOf g).any fun e => (match e.awaits with | some t => decide (t < stamp) | none => false) && keys.any e.has

/-- A VLD of the core still to be performed reads one of the keys (R429). -/
def State.awaitsVld (s : State) (g : Nat) (keys : List Nat) : Bool :=
  (s.core g).vwork.any fun e => e.isVld && e.addrs.any fun p => keys.contains p.2

/-- The keys of elements of w bytes, and of an entry's elements. -/
def elemKeys (w : Nat) (addrs : List (Nat × Nat)) : List Nat := addrs.flatMap fun p => (List.range w).map fun i => p.2 + i
def VEntry.keys (e : VEntry) : List Nat := elemKeys (vBytes e.shape) e.addrs

/-- The bytes of a VLD can be read now. -/
def State.vldFree (s : State) (g : Nat) (e : VEntry) : Bool :=
  !s.awaitsVst g e.stamp e.keys && (s.ownWait g (some e.stamp) e.keys).isNone && !s.hostPast g e.keys
  && e.keys.all fun k => !s.enginePoison g k && (s.armed (k / 32)).isEmpty && !s.moving k && !s.linksWait (dieOf g) k

/-- A later load is about to be performed: the bytes of the VLDs before it are fixed, since loads keep their order (R234, R429);
`none` where one of them has to be performed first. -/
def State.fixVlds (s : State) (g : Nat) : Option State :=
  let l := (s.core g).vwork.filter fun e => e.isVld && e.seen.isNone
  if l.isEmpty then some s
  else if l.all (s.vldFree g) then
    some (s.updCore g fun c => c.updArch fun a =>
      { a with vseq := a.vseq.map fun e =>
          if e.isVld && e.seen.isNone then { e with seen := some (e.keys.map fun k => (k, s.viewByte g k)) } else e })
  else none

/-! ## Core accesses at issue -/

/-- Where an access may lie in control space. -/
inductive CtlRule
  /-- Only an aligned LD or ST may reach it: ALIGN (R139). -/
  | align
  /-- The caller handles it. -/
  | allow
  deriving DecidableEq, Repr

/-- The checks every core access makes at issue, in order: breakpoints, translation, control space, slice
windows, bias. The translations of its pages, or what it comes to. -/
def State.access (s : State) (g : Nat) (va : Word) (n : Nat) (k : XKind) (bp : List Nat) (ctl : CtlRule) :
    State × Got (List (Nat × Xlated)) :=
  match bp.findSome? (fun kind => (s.core g).breakHit va.toNat n kind) with
  | some ad => (s, .trap cBREAK ad)
  | none =>
    if s.walkWaits (s.linksWait (dieOf g)) g va.toNat n k then (s, .wait cMEM)
    else
    match s.translateRange g va.toNat n k with
    | (s, .error (e, a)) => (s, .trap e (BitVec.ofNat 64 a))
    | (s, .ok tr) =>
      if ctl = .align && tr.any (fun p => isControl p.2.pa) then (s, .trap cALIGN va)
      else
        let keys := keysOf tr va.toNat n
        let lowShut := ((List.range n).zip keys).find? fun p => decide (s.window p.2 = .shut)
        match lowShut with
        | some p => (s, .trap cSPAD (va + BitVec.ofNat 64 p.1))
        | none =>
          if keys.any (fun k => decide (s.window k = .waits)) || keys.any s.moving then (s, .wait cMEM)
          else (s.recordBiases tr, .ok tr)

/-- A later read of the core takes bytes from its own held stores (R142, R246). -/
def State.forwarded (s : State) (g : Nat) (keys : List Nat) : Bool := (s.storesOf g).any fun e => keys.any e.has

/-- What a read of the core waits for before it meets the data: an engine that owns a line (R135), or a link on its way (R10). -/
def State.readWait (s : State) (g : Nat) (keys : List Nat) : Option Nat :=
  s.ownWait g none keys <|> (if !s.forwarded g keys && keys.any (s.linksWait (dieOf g)) then some cMEM else none)

/-- A core read of n bytes at va (R141): checks, poison, forwarding, injected errors. -/
def State.coreRead (s : State) (g : Nat) (va : Word) (n : Nat) (k : XKind) (ctl : CtlRule) : State × Got (List Byte × Nat) :=
  match s.access g va n k [2] ctl with
  | (s, .wait c) => (s, .wait c)
  | (s, .trap c v) => (s, .trap c v)
  | (s, .gone) => (s, .gone)
  | (s, .ok tr) =>
    let keys := keysOf tr va.toNat n
    match s.readWait g keys with
    | some c => (s, .wait c)
    | none =>
      match ((List.range n).zip keys).find? (fun p => s.poisonSeen g p.2) with
      | some p => (s, .trap cPOISON (va + BitVec.ofNat 64 p.1))
      | none =>
        if s.awaitsVld g keys || s.hostPast g keys then (s, .wait cMEM)
        else
          match s.fixVlds g, s.loadBytes g keys with
          | none, _ | _, none => (s, .wait cMEM)
          | some s, some bs =>
            let r := if s.forwarded g keys then (s, false) else s.fireKeys (dieOf g) true keys
            if r.2 then (r.1.contain g 1 0 (keys.headD 0), .gone)
            else
              -- the injected poison is met by this very read
              match ((List.range n).zip keys).find? (fun p => r.1.poisonSeen g p.2) with
              | some p => (r.1, .trap cPOISON (va + BitVec.ofNat 64 p.1))
              | none => (r.1, .ok (bs, keys.headD 0))

def sbDepth : Nat := 8

/-- The store buffer has no room for n entries, or an earlier VLD must be performed first (R142, R429). -/
def State.sbWait (s : State) (g n : Nat) : Option Nat :=
  if sbDepth < (s.core g).sb.length + n ∨ (s.core g).vwork.any VEntry.isVld = true then some cMEM else none

/-- A store enters the store buffer (R142). In a pair it is held in the journal (R246). -/
def State.pushStore (s : State) (g : Nat) (e : SbEntry) : State :=
  if s.dual g then
    s.updCore (g / 2 * 2) fun c => { c with pair := { c.pair with journal := c.pair.journal ++ [e] } }
  else s.updCore g fun c => { c with sb := c.sb ++ [e] }

def sortCells (cs : List Host.Cell) : List Host.Cell := cs.foldl (fun m c => SMap.set m c.1 c.2) []

/-- The aligned 8-byte words that a list of keys covers in full (R138). -/
def fullWords (keys : List Nat) : List Nat :=
  (keys.map fun k => k / 8 * 8).eraseDups.filter fun w => (List.range 8).all fun i => keys.contains (w + i)

/-- The parts in which an access of n bytes at va is performed: a 32-byte line's and the next one's (R139). -/
def lineParts (va n : Nat) : List (Nat × Nat) :=
  let m := 32 - va % 32
  if n ≤ m then [(0, n)] else [(0, m), (m, n - m)]

/-- A core store of bytes at va: checks, the quarantine, and an entry for each of its parts (R139, R141, R344). -/
def State.coreWrite (s : State) (g : Nat) (va : Word) (bs : List Byte) (rel : Option Scope) (ctl : CtlRule) : State × Got Unit :=
  match s.access g va bs.length .write [3] ctl with
  | (s, .wait c) => (s, .wait c)
  | (s, .trap c v) => (s, .trap c v)
  | (s, .gone) => (s, .gone)
  | (s, .ok tr) =>
    let keys := keysOf tr va.toNat bs.length
    match s.ownWait g none keys with
    | some c => (s, .wait c)
    | none =>
      match ((List.range bs.length).zip keys).find? (fun p => blockIs s p.2 .quarantined) with
      | some p => (s, .trap cPOISON (va + BitVec.ofNat 64 p.1))
      | none =>
        let parts := lineParts va.toNat bs.length
        match s.sbWait g parts.length with
        | some c => (s, .wait c)
        | none =>
          let entry (p : Nat × Nat) : SbEntry :=
            let ks := (keys.drop p.1).take p.2
            { bytes := sortCells (ks.zip ((bs.drop p.1).take p.2)), words := fullWords ks, rel := rel, awaits := none, flush := false,
              exempt := snapAt tr (va.toNat + p.1) }
          (parts.foldl (fun s p => s.pushStore g (entry p)) s, .ok ())

/-- Core stores of consecutive doublewords, each an entry of its own, from number `done` on: those that find room, and how many
have entered then (R142, R367, R376). -/
def State.coreWriteWords (s : State) (g : Nat) (va : Word) (ws : List Word) (done : Nat) : State × Got Nat :=
  let n := 8 * ws.length
  match s.access g va n .write [3] .align with
  | (s, .wait c) => (s, .wait c)
  | (s, .trap c v) => (s, .trap c v)
  | (s, .gone) => (s, .gone)
  | (s, .ok tr) =>
    let keys := keysOf tr va.toNat n
    match s.ownWait g none keys with
    | some c => (s, .wait c)
    | none =>
      match ((List.range n).zip keys).find? (fun p => blockIs s p.2 .quarantined) with
      | some p => (s, .trap cPOISON (va + BitVec.ofNat 64 p.1))
      | none =>
        match s.sbWait g 1 with
        | some c => (s, .wait c)
        | none =>
          let room := if s.dual g then ws.length else sbDepth - (s.core g).sb.length
          let now := (((List.range ws.length).zip ws).drop done).take room
          (now.foldl (fun s p =>
            let k := keyAt tr (va.toNat + 8 * p.1)
            s.pushStore g { bytes := cellsOf k 8 p.2.toNat, words := [k], rel := none, awaits := none, flush := false,
                            exempt := snapAt tr (va.toNat + 8 * p.1) }) s, .ok (done + now.length))

/-- Every engine access of VGATH, VSCAT, TLD, TST and ACOPY issued earlier is complete; engines write at the home. -/
def Core.enginesDone (c : Core) : Bool :=
  c.vwork.all (fun e => match e.ins with | .vgath .. => false | .vscat .. => false | _ => true)
  && c.arch.mxq.all (fun e => match e.ins with | .tld .. => false | .tst .. => false | _ => true)
  && c.chans.isEmpty && c.cmds.all (fun x => match x with | .bind .. => true | .copy .. => false)

/-- Every earlier access of a core is performed: loads, stores at their homes, vector and tile transfers, and
its copies (R122, R139). -/
def State.accessesDone (s : State) (g : Nat) : Bool :=
  let c := s.core g
  c.loadsDone && s.storesHome g && c.vmemDone && c.enginesDone

/-- Every earlier access of the core is performed at .pkg, and a release there with it (R355, R361). -/
def State.pkgDone (s : State) (g : Nat) : Bool := s.accessesDone g && s.storesDone g .pkg

/-- Carry an access outcome into a step: waiting, trapping, or going on. -/
def Got.step {α : Type} (r : State × Got α) (f : State → α → Step) : Step :=
  match r with
  | (s, .wait c) => s.hold c
  | (s, .trap c v) => .next (s.trap c v)
  | (s, .gone) => .next s
  | (s, .ok a) => f s a

/-! ## Engine accesses (R135, R138, R139) -/

/-- A byte that an engine write cannot reach: its block is quarantined, it lies at an aperture offset that is no window, or its memory
is gone (R331, R344, R352). -/
def State.unwritable (s : State) (k : Nat) : Bool := blockIs s k .quarantined || decide (s.window k = .shut) || s.gone k
/-- The writes of one engine command at their homes, part after part, each exempt or not (R336): the words that they write in full
together, in the generation in force (R138, R334). -/
def State.engineWrites (s : State) (parts : List (Bool × List Host.Cell)) : State :=
  let ok := parts.map fun p => (p.1, p.2.filter fun c => !s.unwritable c.1)
  let t := ok.foldl (fun s p => s.homeWrite p.1 (sortCells p.2) []) s
  { t with poison := poisonWrite t.poison (fullWords (ok.flatMap fun p => p.2.map Prod.fst)) }
/-- An engine write in one part. -/
def State.engineWrite (s : State) (exempt : Bool) (cs : List Host.Cell) : State := s.engineWrites [(exempt, cs)]

/-- Take and release an engine's ownership of the lines of some keys. -/
def State.takeLines (s : State) (e : Eng) (keys : List Nat) : State :=
  { s with own := (keys.map (· / 32)).eraseDups.foldl (fun o l => SMap.set o l e) s.own }
def State.dropLines (s : State) (e : Eng) (keys : List Nat) : State :=
  let ls := (keys.map (· / 32)).eraseDups
  { s with own := s.own.filter fun p => !(ls.contains p.1 && p.2.same e) }
def State.dropAll (s : State) (e : Eng) : State := { s with own := s.own.filter fun p => !p.2.same e }

/-- A load's result is on its way to its registers (R48, R142). -/
def State.pushLoad (s : State) (l : LoadP) : State := s.updMe fun c => { c with loads := c.loads ++ [l] }

/-! ## Annotations (R233, R236, R237) -/

def Scope.wide : Scope → Bool
  | .pkg | .sys => true
  | _ => false
/-- Scopes whose accesses lie in one order: the die's, and those beyond it. -/
def Scope.meets (a b : Scope) : Bool :=
  match a with
  | .core => false
  | _ => decide (b ≠ .core) && decide (Scope.wide a = Scope.wide b)

def MemOrd.isAcq : MemOrd → Bool
  | .acq | .ar => true
  | _ => false
def MemOrd.isRel : MemOrd → Bool
  | .rel | .ar => true
  | _ => false

def SbEntry.releases (e : SbEntry) (sc : Scope) : Bool := match e.rel with | some r => Scope.meets sc r | none => false

/-- Stores of a die to the bytes are past the order point and not yet at home. -/
def State.inPast (s : State) (die : Nat) (keys : List Nat) : Bool := (s.die die).past.any fun p => keys.any p.ent.has

/-- An acquire waits for the core's earlier releases at its scope to be performed there, and at .pkg and .sys for the stores of
its die to its bytes to be performed at their homes. -/
def State.acquireWait (s : State) (g : Nat) (sc : Scope) (keys : List Nat) : Bool :=
  (s.core g).sb.any (fun e => e.releases sc)
  || (Scope.wide sc
      && ([0, 1].any (fun d => (s.die d).past.any fun p => decide (p.core = g) && p.ent.releases sc) || s.inPast (dieOf g) keys))

end Sys2Proof.Machine
end

