-- ==== Sys2Proof/Machine/System.lean ====
section
/-! DEFINITION. The CSRs and their writes (R122 to R127, R163, R187, R253, R318, R346, R347, R420, R421), and the
system instructions ACCT, TELEM and XLAT (R128, R129, R131). -/

namespace Sys2Proof.Machine

/-- The bundle at work waits this cycle, charged a cause. -/
def State.holding (s : State) (cause : Nat) : State := s.updMe fun c => { c with flow := .held cause }

/-- Words join the fingerprint of a pair's interval (R325). -/
def State.foldPrint (s : State) (g : Nat) (ws : List Word) : State :=
  if s.dual g then
    s.updCore g fun c => { c with pair := { c.pair with print := ws.foldl crcWord c.pair.print } }
  else s

/-- The 8-byte words that an entry wrote: a v register; of a tile those of its shape's elements and of its scale bytes; an
accumulator's elements as R288 packs them. -/
def Core.entryWords (c : Core) (g : Nat) (trap : Bool) : RegName → List Word
  | .x n => [c.arch.rx n]
  | .q _ => []
  | .v n => (List.range 64).map fun i => BitVec.ofNat 64 (elemAt (c.arch.rv n) 64 i)
  | .t n =>
    let b := c.bankOf trap
    let sh := b.shape (layerOf g) n
    ((List.range (ceilDiv (tSize sh) 8)).map fun i => BitVec.ofNat 64 (elemAt (b.tile n).data 64 i))
    ++ (List.range (ceilDiv (scaleBytes sh) 8)).map fun i => BitVec.ofNat 64 (elemAt (b.tile n).scales 64 i)
  | .a n => (List.range (side (layerOf g) ^ 2 / 2)).map fun i =>
      let m := ((c.bankOf trap).acc n).cur
      BitVec.ofNat 64 ((SMap.get m 0 (2 * i)).toNat + (SMap.get m 0 (2 * i + 1)).toNat <<< 32)

/-- Words that join the fingerprint after the interval's bundles (R325). -/
def State.foldLate (s : State) (g : Nat) (ws : List Word) : State :=
  if s.dual g then s.updCore g fun c => { c with pair := { c.pair with late := c.pair.late ++ ws } } else s

/-- An entry that a core of a pair finished joins the fingerprint, after the interval's bundles (R325). -/
def State.printEntry (s : State) (g : Nat) (trap : Bool) (i : Instr) : State :=
  s.foldLate g (i.writes.flatMap ((s.core g).entryWords g trap))

/-! ## Flags in flight (R79) -/

def VType.isFlt : VType → Bool | .flt _ => true | .int _ => false
def VArith.isFlt : VArith → Bool | .flt .. => true | .int .. => false

/-- An entry of the sequencer or the MXU queue that can set an FPST flag (R79). -/
def Instr.setsFlags : Instr → Bool
  | .vadd _ _ _ t | .vsub _ _ _ t | .vmul _ _ _ t => VArith.isFlt t
  | .vmin _ _ _ t | .vmax _ _ _ t | .vcmp _ _ _ t _ | .vred _ _ _ _ t _ | .vscan _ _ _ _ t _ | .vclmp _ _ _ t => VType.isFlt t
  | .vdot _ _ _ t => match t with | .flt .. => true | .int _ => false
  | .vfma .. | .vcvt .. | .vsfu .. | .venc .. | .vdec .. | .mcvt .. | .mma .. | .mmas .. | .mdist .. | .mew .. => true
  | _ => false

def Core.flagsPending (c : Core) : Bool :=
  c.pend.any (fun p => p.flags.isSome) || c.arch.vseq.any (fun e => Instr.setsFlags e.ins)
  || c.arch.vfly.any VFly.flags   || c.arch.mxq.any (fun e => Instr.setsFlags e.ins)

/-! ## Reading a CSR -/

/-- A number the map marks "—" for users (R123). -/
def csrSup (n : Nat) : Bool :=
  (decide (1 ≤ n) && decide (n ≤ 9)) || (decide (0x40 ≤ n) && decide (n ≤ 0x4F)) || (decide (0x58 ≤ n) && decide (n ≤ 0x5A))
  || decide (n = 0x60) || decide (n = 0x61) || decide (n = 0x69) || (decide (0x78 ≤ n) && decide (n ≤ 0x7A))
/-- A number users may only read. -/
def csrUserRo (n : Nat) : Bool := decide (n = 0x30) || (decide (0x38 ≤ n) && decide (n ≤ 0x3B))

/-- STASHCFG as the cores of a quad read it (R346). -/
def Quad.stashWord (q : Quad) : Word := BitVec.ofNat 64 (q.spad <<< 32 + q.stash)

/-- PHYS of a quad (R18, R19): the logical index until a spare takes its place. -/
def Quad.physIdx (q : Quad) (n : Nat) : Nat := q.phys.getD (quadIdx n)
def quadIdWord (s : State) (g : Nat) : Word :=
  let q := quadOf g
  BitVec.ofNat 64 ((s.quad q).physIdx q <<< 16 + dieOf g <<< 15 + layerOf g <<< 13 + quadRow q <<< 4 + quadCol q)
def layerWord (s : State) (g : Nat) : Word :=
  let k := layerOf g
  BitVec.ofNat 64 (s.fcur (dieOf g) k <<< 32 + fnom k <<< 16 + k)

/-- The TSHAPE a core last wrote in program order (R187), of the trap bank for numbers 0 and 1 in trap mode. -/
def Core.shapeBank (c : Core) (i : Nat) : Bool := c.arch.tm && decide (i < 2)
def Core.ishapeOf (c : Core) (k i : Nat) : Word := SMap.get (c.bankOf (c.shapeBank i)).ishape (tshapeReset k) i

/-- A CSR's present value on core g (R123). -/
def State.csrGet (s : State) (g n : Nat) : Word :=
  let c := s.core g
  let a := c.arch
  if n = 0x00 then a.status
  else if n = 0x01 then a.copies.tvec
  else if n = 0x02 then a.tcause
  else if n = 0x03 then a.tpc
  else if n = 0x04 then a.tval
  else if n = 0x05 then a.tstat
  else if n ≤ 0x09 then SMap.get a.tsave 0 (n - 6)
  else if n = 0x10 then a.fpst.setWidth 64
  else if n = 0x11 then a.srseed.setWidth 64
  else if n = 0x12 then a.lcnt
  else if n = 0x13 then a.lbeg
  else if n = 0x14 then a.lend
  else if n = 0x20 then a.vshape
  else if n ≤ 0x2F then c.ishapeOf (layerOf g) (n - 0x28)
  else if n = 0x30 then (s.quad (quadOf g)).stashWord
  else if n = 0x38 then a.copies.thbase
  else if n = 0x39 then a.copies.thlimit
  else if n = 0x3A then a.copies.thoff
  else if n = 0x3B then a.copies.thperm
  else if n ≤ 0x4F then SMap.get a.copies.raf 0 (n - 0x40)
  else if n = 0x50 then BitVec.ofNat 64 (nsOf s.clock)
  else if n = 0x51 then BitVec.ofNat 64 c.cycle
  else if n = 0x58 then a.copies.acctctl
  else if n = 0x59 then a.copies.acctbase
  else if n = 0x5A then a.copies.telbase
  else if n = 0x60 then c.injaddr
  else if n = 0x61 then c.injctl
  else if n = 0x68 then a.slottbl
  else if n = 0x69 then a.copies.spillbase
  else if n = 0x6A then a.rcnt.setWidth 64
  else if n = 0x70 then BitVec.ofNat 64 g
  else if n = 0x71 then quadIdWord s g
  else if n = 0x72 then layerWord s g
  else if n = 0x78 then a.bpad0
  else if n = 0x79 then a.bpad1
  else if n = 0x7A then a.bpctl.setWidth 64
  else SMap.get a.chstat 0 (n - 0x80)

/-! ## Writing a CSR -/

def State.updArch (s : State) (f : Arch → Arch) : State := s.updMe fun c => c.updArch f
def State.updWait (s : State) (f : WaitSt → WaitSt) : State := s.updArch fun a => { a with wait := f a.wait }
def State.updCopies (s : State) (f : Copies → Copies) : State := s.updArch fun a => { a with copies := f a.copies }

/-- A write waits for the core's earlier memory accesses (R122). -/
def State.afterAccesses (s : State) (f : State → State) : Except State State :=
  if s.accessesDone s.cur then .ok (f s) else .error (s.holding cMEM)

/-- VSHAPE's limits (R163). -/
def vshapeOk (v : Word) : Bool := decide (vRows v ≠ 0) && decide (vCols v ≠ 0) && decide (vSize v ≤ 512)
def State.putVshape (s : State) (v : Word) : Except State State :=
  if vshapeOk (vshapeKeep v) then .ok (s.updArch fun a => { a with vshape := vshapeKeep v }) else .error s.illegal

/-- TSHAPE's limits on a layer (R187). -/
def tshapeOk (k : Nat) (v : Word) : Bool :=
  decide (tRows v ≠ 0) && decide (tCols v ≠ 0) && decide (tRows v ≤ side k) && decide (tCols v ≤ side k)
  && decide (tElems v * tBits v ≤ 65536)

def mxqDepth : Nat := 8
/-- An entry joins the core's MXU queue (R189). -/
def State.pushMxq (s : State) (i : Instr) (trap : Bool) (xs : List Word) (seed : BitVec 32) (pages : List (Nat × Nat)) : State :=
  let (st, s) := s.fresh
  s.updArch fun a =>
    { a with mxq := a.mxq ++ [{ stamp := st, ins := i, trap := trap, xs := xs, seed := seed, pages := pages, done := 0 }] }

/-- A write of TSHAPEn enters the MXU queue; the issue side sees it from now on (R122, R187, R189). -/
def State.putTshape (s : State) (n : Nat) (v : Word) : Except State State :=
  let v := tshapeKeep v
  let trap := s.me.shapeBank n
  if !tshapeOk (layerOf s.cur) v then .error s.illegal
  else if mxqDepth ≤ s.me.arch.mxq.length then .error (s.holding cMXQ)
  else
    let s := s.updMe fun c =>
      let b := c.bankOf trap
      c.setBankOf trap { b with ishape := SMap.set b.ishape n v }
    .ok (s.pushMxq (.tshapeWrite (BitVec.ofNat 3 n) 0 0) trap [v] 0 [])

/-- RAFn (R253): the reserved page sizes are refused, and the core's own translations of region n end (R258). -/
def State.putRaf (s : State) (n : Nat) (v : Word) : Except State State :=
  if 5 ≤ fld v 58 56 then .error s.illegal
  else s.afterAccesses fun s =>
    (s.updCopies fun c => { c with raf := SMap.set c.raf n (rafKeep v) }).updMe fun c =>
      { c with tlb := c.tlb.filter fun e => decide ((e.vpage <<< e.p) / 2 ^ 52 ≠ n) }

/-- ACCTCTL or ACCTBASE (R268, R269): open runs end before ACCTCTL changes, and the counts are flushed, on both cores of a pair. -/
def State.putAcct (s : State) (base : Bool) (v : Word) : State :=
  let cores := if s.dual s.cur then [s.cur, s.cur + 1] else [s.cur]
  let s := cores.foldl (fun s g => (if base then s else s.endRuns g).flushAcct g) s
  s.updCopies fun c =>
    if base then { c with acctbase := pageField v } else { c with acctctl := acctctlKeep v }

/-- SRSEED (R83): zero is stored as 1. -/
def State.putSrseed (s : State) (v : Word) : State :=
  let w : BitVec 32 := v.setWidth 32
  s.updArch fun a => { a with srseed := if w = 0 then 1 else w }

/-- INJCTL (R420, R421): arming needs a kind and a sector of die DRAM; a write with ARM = 1 clears FIRED. -/
def State.putInjctl (s : State) (v : Word) : State :=
  s.updMe fun c =>
    let dram := match rangeOf (unalias c.injaddr.toNat) with | .dram _ => true | _ => false
    let arm := bitAt v 0
    let fired := bitAt c.injctl 3 && !arm
    { c with injctl := BitVec.ofNat 64 (fired.toNat <<< 3 + fld v 2 1 <<< 1 + (arm && decide (fld v 2 1 ≠ 0) && dram).toNat) }

/-- The scratchpad size below which a live journal of the quad would be cut: the lower end of each live pair's (R324, R347). -/
def State.journalLow (s : State) (quad : Nat) : Option Nat :=
  let live (p : Nat) : Bool := s.dual (4 * quad + 2 * p)
  let top := (s.quad quad).spad * 4096
  if live 0 then some (top - 65536) else if live 1 then some (top - 131072) else none

/-- The division of a quad's SRAM changes (R347): the result code of R348. -/
def State.putStash (s : State) (quad : Nat) (v : Word) : Nat × State :=
  let stash := fld v 9 0
  let all := sramUnits (quadLayer quad)
  if all < stash then (1, s)
  else
    let spad := all - stash
    let old := (s.quad quad).spad
    if (match s.journalLow quad with | some lo => decide (spad * 4096 < lo) | none => false) then (2, s)
    else
      let s := s.updQuad quad fun q => { q with stash := stash, spad := spad }
      -- bytes removed are lost, and bytes added read zero
      (0, s.zeroSpad quad (Nat.min spad old * 4096) (Nat.max spad old * 4096))

def State.putStashCsr (s : State) (v : Word) : Except State State :=
  if sramUnits (quadLayer (quadOf s.cur)) < fld v 9 0 then .error s.illegal
  else if !s.accessesDone s.cur then .error (s.holding cMEM)
  else
    match s.putStash (quadOf s.cur) v with
    | (0, s) => .ok s
    | (_, s) => .error (s.trap cPROT v)

/-! ### SLOTTBL (R317, R318) -/

def windowAt (bs : List Byte) (i : Nat) : BitVec 128 := BitVec.ofNat 128 (leValue ((bs.drop (16 * i)).take 16))
def windowOk (w : BitVec 128) : Bool := decide (fld w 95 80 ≠ 0) && decide (fld w 79 76 = 0)
def windowsOf (bs : List Byte) (nw : Nat) : List (Nat × Nat × Nat × Word) :=
  (List.range nw).map fun i =>
    let w := windowAt bs i
    (fld w 127 96, fld w 95 80, fld w 75 64, w.setWidth 64)

/-- The windows of a table are read by core g: what the read comes to, and the windows. -/
def State.readWindows (s : State) (g : Nat) (v : Word) : State × Got (List (Nat × Nat × Nat × Word)) :=
  let nw := fld v 4 0
  let ad : Word := v &&& 0x00FFFFFFFFFFFFC0#64
  if nw = 0 then (s, .ok [])
  else
    match s.coreRead g ad (16 * nw) .read .align with
    | (s, .wait c) => (s, .wait c)
    | (s, .trap c x) => (s, .trap c x)
    | (s, .gone) => (s, .gone)
    | (s, .ok (bs, _)) =>
      match (List.range nw).find? (fun i => !windowOk (windowAt bs i)) with
      | some i => (s, .trap cPROT (ad + BitVec.ofNat 64 (16 * i)))
      | none => (s, .ok (windowsOf bs nw))

def State.putSlottbl (s : State) (v : Word) : Except State State :=
  let v := slotKeep v
  if 16 < fld v 4 0 then .error s.illegal
  else
    match s.readWindows s.cur v with
    | (s, .wait c) => .error (s.holding c)
    | (s, .trap c x) => .error (s.trap c x)
    | (s, .gone) => .error s
    | (s, .ok w) =>
      let pages := (pagesOf (v.toNat / 64 * 64) (16 * fld v 4 0)).length - 1
      .ok ((s.updArch fun a => { a with slottbl := v, windows := w }).pay s.cur cMEM pages s.me.arch.pc)

/-- A CSR takes a new value (R122, R123): the state after it, or the state of a bundle that waits or traps. -/
def State.csrPut (s : State) (n : Nat) (v : Word) : Except State State :=
  if csrUserRo n && !s.me.arch.pl then .ok s
  else if n = 0x00 then .ok (s.updArch fun a => a.setStatus fun st => setBit st 16 (bitAt v 16))
  else if n = 0x01 then .ok (s.updCopies fun c => { c with tvec := tvecKeep v })
  else if n = 0x02 then .ok (s.updArch fun a => { a with tcause := tcauseKeep v })
  else if n = 0x03 then .ok (s.updArch fun a => { a with tpc := v })
  else if n = 0x04 then .ok (s.updArch fun a => { a with tval := v })
  else if n = 0x05 then .ok (s.updArch fun a => { a with tstat := tstatKeep v })
  else if n ≤ 0x09 then .ok (s.updArch fun a => { a with tsave := SMap.set a.tsave (n - 6) v })
  else if n = 0x10 then
    if s.me.flagsPending then .error (s.holding cDEP) else .ok (s.updArch fun a => { a with fpst := v.setWidth 5 })
  else if n = 0x11 then .ok (s.putSrseed v)
  else if n = 0x12 then .ok (s.updArch fun a => { a with lcnt := v })
  else if n = 0x13 then .ok (s.updArch fun a => { a with lbeg := v })
  else if n = 0x14 then .ok (s.updArch fun a => { a with lend := v })
  else if n = 0x20 then s.putVshape v
  else if n ≤ 0x2F then s.putTshape (n - 0x28) v
  else if n = 0x30 then s.putStashCsr v
  else if n = 0x38 then s.afterAccesses fun s => s.updCopies fun c => { c with thbase := thAddr v }
  else if n = 0x39 then s.afterAccesses fun s => s.updCopies fun c => { c with thlimit := thAddr v }
  else if n = 0x3A then s.afterAccesses fun s => s.updCopies fun c => { c with thoff := pageField v }
  else if n = 0x3B then s.afterAccesses fun s => s.updCopies fun c => { c with thperm := v &&& 15 }
  else if n ≤ 0x4F then s.putRaf (n - 0x40) v
  else if n = 0x58 then .ok (s.putAcct false v)
  else if n = 0x59 then .ok (s.putAcct true v)
  else if n = 0x5A then .ok (s.updCopies fun c => { c with telbase := telKeep v })
  else if n = 0x60 then .ok (s.updMe fun c => { c with injaddr := v &&& 0x000FFFFFFFFFFFE0 })
  else if n = 0x61 then .ok (s.putInjctl v)
  else if n = 0x68 then s.putSlottbl v
  else if n = 0x69 then .ok (s.updCopies fun c => { c with spillbase := v })
  else if n = 0x6A then .ok (s.updArch fun a => { a with rcnt := v.setWidth 32 })
  else if n = 0x78 then .ok (s.updArch fun a => { a with bpad0 := v })
  else if n = 0x79 then .ok (s.updArch fun a => { a with bpad1 := v })
  else if n = 0x7A then .ok (s.updArch fun a => { a with bpctl := v.setWidth 4 })
  else .ok s

/-- The old value goes to x[d] and the CSR takes the new one, as one step (R122). -/
def State.csrSwap (s : State) (d : Reg) (n : Nat) (v : Word) : Step :=
  if csrSup n && !s.me.arch.pl then privStep s
  else if n = 0x10 && s.me.flagsPending then s.hold cDEP
  else
    match s.csrPut n v with
    | .ok t => .next (if d = 0 then t else t.pushXI d (s.csrGet s.cur n))
    | .error t => .next t

def execCsrr (d : Reg) (n : BitVec 10) (s : State) : Step :=
  if !csrListed n.toNat then illegalStep s
  else if csrSup n.toNat && !s.me.arch.pl then privStep s
  else if n = 0x10 && s.me.flagsPending then s.hold cDEP
  else .next (s.pushXI d (s.csrGet s.cur n.toNat))

def execCsrw (d a : Reg) (n : BitVec 10) (s : State) : Step :=
  if !csrListed n.toNat then illegalStep s else s.csrSwap d n.toNat (s.me.x a)

/-! The rows of the table that are CSR writes of their own: each is CSRW of its CSR by the core at work. -/

def execVshapeWrite (d a : Reg) (s : State) : Step := s.csrSwap d 0x20 (s.me.x a)
def execTshapeWrite (n : BitVec 3) (d a : Reg) (s : State) : Step := s.csrSwap d (0x28 + n.toNat) (s.me.x a)
def execStashcfgWrite (d a : Reg) (s : State) : Step := s.csrSwap d 0x30 (s.me.x a)
def execRafWrite (n : BitVec 4) (d a : Reg) (s : State) : Step := s.csrSwap d (0x40 + n.toNat) (s.me.x a)
def execAcctctlWrite (d a : Reg) (base : Bool) (s : State) : Step :=
  s.csrSwap d (if base then 0x59 else 0x58) (s.me.x a)
def execSlottblWrite (d a : Reg) (s : State) : Step := s.csrSwap d 0x68 (s.me.x a)
def execSrseedWrite (d a : Reg) (s : State) : Step := s.csrSwap d 0x11 (s.me.x a)
def execInjArm (d a : Reg) (s : State) : Step := s.csrSwap d 0x61 (s.me.x a)

/-- The STASHCFG image of a quad's control window (R348): a failing write sets ERR and raises no trap. -/
def State.stashImage (s : State) (quad : Nat) (v : Word) : State :=
  let r := s.putStash quad v
  r.2.updQuad quad fun q => { q with stashErr := r.1 }
def execStashcfgImageWrite (quad : Nat) (v : Word) (s : State) : Step := .next (s.stashImage quad v)

/-! ## ACCT, TELEM, XLAT -/

/-- ACCT ctx (R128): the counter in the context's block, and the core's own counts not yet flushed. -/
def State.acctCtx (s : State) (layer cause : Nat) : Nat :=
  let c := s.me
  let block := s.hwLe (c.ringBase + 8 * (16 * layer + cause)) 8
  block + (if layer = layerOf s.cur then SMap.get c.acct.unflushed 0 (c.ctxNum * 16 + cause) else 0)

def execAcctCtx (d : Reg) (layer : BitVec 2) (cause : BitVec 4) (s : State) : Step :=
  .next (s.pushXI d (BitVec.ofNat 64 (s.acctCtx layer.toNat cause.toNat)))

def execAcctCore (d : Reg) (cause : BitVec 4) (s : State) : Step :=
  .next (s.pushXI d (BitVec.ofNat 64 (SMap.get s.me.acct.counts 0 cause.toNat)))

/-- A mark record (R270): it ends the open runs first, in a pair those of both cores, which execute it (R209); it is dropped while
the ring is full (R271). -/
def State.acctMark (s : State) (v : Word) : State :=
  if !s.me.pcrec then s
  else
    let full := s.ringFull s.me
    let s := s.endRuns s.cur
    let s := if s.dual s.cur then s.endRuns (s.cur + 1) else s
    if full || s.ringFull s.me then s
    else s.ringPut s.me (v.toNat <<< 64 + 1 <<< 60 + s.me.arch.pc.toNat % 2 ^ 56)

def execAcctMark (a : Reg) (s : State) : Step := .next (s.acctMark (s.me.x a))

/-- A field of the die's latest sample (R129). -/
def State.telem (s : State) (item : Nat) : Word :=
  let m := (s.die (dieOf s.cur)).sample
  if item < 5 then BitVec.ofNat 64 ((m.rails[item]?).getD 0)
  else if item = 5 then wordOfInt ((m.temps[regionOf (quadOf s.cur)]?).getD 0)
  else if item = 6 then BitVec.ofNat 64 m.time
  else BitVec.ofNat 64 m.package

def execTelem (d : Reg) (item : BitVec 3) (s : State) : Step := .next (s.pushXI d (s.telem item.toNat))

def probeKind : XlatKind → XKind
  | .read => .read | .write => .write | .fetch => .fetch | .atomic => .atomic | .engine => .eboth

/-- The fault of a fetch or an engine access of a translated address that the other kinds do not meet. -/
def State.probeFault (s : State) (k : XlatKind) (pa : Nat) : Option Nat :=
  if isControl pa || decide (s.window pa = .shut) then
    match k with | .fetch => some cFETCH | .engine => some cPROT | _ => none
  else none

/-- XLAT (R131): the physical address, or F and the cause, with the TLBs filled as the access would. A
scratchpad byte has no address in the map of R23: the word is a free value of 52 bits there (log entry 8). -/
def execXlat (d a : Reg) (k : XlatKind) (s : State) : Step :=
  let fail (s : State) (e : Nat) : Step := .next (s.pushXI d (BitVec.ofNat 64 (2 ^ 63 + e)))
  if s.walkHeld (s.me.x a).toNat (probeKind k) then s.hold cMEM
  else
  match s.translate s.cur (s.me.x a).toNat (probeKind k) with
  | (s, .ok x) =>
    if !s.hasMemory x.pa then fail s cPROT
    else
      -- control space and a shut slice window, which no fetch and no engine reaches (R39, R139, R352)
      match s.probeFault k x.pa with
      | some e => fail s e
      | none =>
        if isSpad x.pa then
          .next ({ s with stamp := s.stamp + 1 }.pushXI d (Config.openWord s.stamp &&& 0xFFFFFFFFFFFFF))
        else .next (s.pushXI d (BitVec.ofNat 64 x.raw))
  -- a fetch probe that fails in any way gives FETCH
  | (s, .error e) => fail s (if k = .fetch then cFETCH else e)

end Sys2Proof.Machine
end

