-- ==== Sys2Proof/Machine/VectorValue.lean ====
section
/-! DEFINITION. What the vector A instructions compute (R174 to R182): the new register contents and the flags
from the sources, the shape, the claimed stochastic state and the decode table. -/

namespace Sys2Proof.Machine

/-! ## Elements (R164) -/

/-- The elements of a register under a shape. -/
def vElemsOf (sh : Word) (v : BitVec 4096) : List Nat := (List.range (vElems sh)).map fun e => elemAt v (8 * vBytes sh) e
/-- A register of elements of the shape's width, zero above. -/
def vPack (sh : Word) (l : List Nat) : BitVec 4096 := packElems 4096 (8 * vBytes sh) l

def EType.bits : EType → Nat
  | .int t => t.width
  | .f64 => 64 | .f32 => 32 | .f16 | .bf16 => 16 | .e2m1 => 4
  | _ => 8

def VFmt.bits : VFmt → Nat | .f32 => 32 | _ => 16
def VType.bits : VType → Nat | .int t => t.width | .flt f => VFmt.bits f
def VArith.bits : VArith → Nat | .int t _ => t.width | .flt f _ => VFmt.bits f
def VDotT.bits : VDotT → Nat | .int t => t.width | .flt f _ => VFmt.bits f
def VDotT.rnd : VDotT → Rnd | .flt _ r => r | .int _ => .rne
def VArith.rnd : VArith → Rnd | .flt _ r => r | .int .. => .rne

/-- Element results with their flags ORed (R79). -/
def collect (l : List (Nat × FpFlags)) : List Nat × FpFlags := (l.map Prod.fst, orFlags (l.map Prod.snd))

/-- The draw of element e from a claimed state (R82). -/
def drawAt (seed : BitVec 32) (e : Nat) : Nat := (xsN (e + 1) seed).toNat
/-- The list of draws of n elements, each one step on. -/
def draws : Nat → BitVec 32 → List Nat
  | 0, _ => []
  | n + 1, s => (xs s).toNat :: draws n (xs s)
/-- The draws of n elements where the instruction rounds .sr. -/
def drawsFor (r : Rnd) (n : Nat) (seed : BitVec 32) : List Nat := if r = .sr then draws n seed else List.replicate n 0

/-! ## Element-wise (R174, R175) -/

/-- min and max of elements (R77, R174). -/
def vMinMax (t : VType) (mx : Bool) (a b : Nat) : Nat × FpFlags :=
  match t with
  | .int t =>
    let x := intVal t.signed t.width a
    let y := intVal t.signed t.width b
    (intBits false t.signed t.width (if mx then max x y else min x y), 0)
  | .flt f => fMinMax (fkOfVec f) mx a b

inductive Arith3 | add | sub | mul
  deriving DecidableEq, Repr

/-- VADD, VSUB and VMUL of one element. -/
def vArith (op : Arith3) (t : VArith) (rnd a b : Nat) : Nat × FpFlags :=
  match t with
  | .int t sat =>
    let x := intVal t.signed t.width a
    let y := intVal t.signed t.width b
    let z := match op with | .add => x + y | .sub => x - y | .mul => x * y
    (intBits sat t.signed t.width z, 0)
  | .flt f r =>
    match op with
    | .add => fAdd (fkOfVec f) r rnd a b
    | .sub => fSub (fkOfVec f) r rnd a b
    | .mul => fMul (fkOfVec f) r rnd a b

/-- VABS (R174): negative integers as 0 − A wrapped; floats with the sign bit cleared. -/
def vAbs (t : VType) (a : Nat) : Nat :=
  match t with
  | .int t =>
    if t.signed && decide (intVal true t.width a < 0) then intBits false true t.width (-(intVal true t.width a)) else a
  | .flt f => a % 2 ^ (VFmt.bits f - 1)

/-- VCLMP (R174): min(max(A, lo), hi). -/
def vClamp (t : VType) (lo hi a : Nat) : Nat × FpFlags :=
  let m := vMinMax t true a lo
  let r := vMinMax t false m.1 hi
  (r.1, m.2 ||| r.2)

/-- VCMP of one element: all ones where the condition holds. -/
def vCmp (t : VType) (c : Cond) (a b : Nat) : Nat × FpFlags :=
  let r := match t with
    | .int t => (iCond c (intVal t.signed t.width a) (intVal t.signed t.width b), (0 : FpFlags))
    | .flt f => fCmp c (decodeF (fkOfVec f) a) (decodeF (fkOfVec f) b)
  (if r.1 then 2 ^ VType.bits t - 1 else 0, r.2)

def vLogic (op : LogOp) (w a b : Nat) : Nat :=
  let m := 2 ^ w - 1
  match op with
  | .and => a &&& b
  | .or => a ||| b
  | .xor => a ^^^ b
  | .andn => a &&& (m ^^^ (b % 2 ^ w))
  | .not => m ^^^ (a % 2 ^ w)

/-- VSH of one element: logical, zero from the width on. -/
def vShift (right : Bool) (w a s : Nat) : Nat :=
  if w ≤ s then 0 else if right then a >>> s else (a <<< s) % 2 ^ w

/-! ## Reductions and dot products (R178, R179) -/

/-- The element numbers of each row (axis 0) or column (axis 1). -/
def vLines (sh : Word) (col : Bool) : List (List Nat) :=
  let r := vRows sh
  let c := vCols sh
  if col then (List.range c).map fun j => (List.range r).map fun i => i * c + j
  else (List.range r).map fun i => (List.range c).map fun j => i * c + j

/-- One reduction over a list of elements: a single rounding of the exact sum, or the chain of minima or
maxima from the first element, which meets itself. -/
def vReduce (op : RedOp) (t : VType) (r : Rnd) (rnd : Nat) (l : List Nat) : Nat × FpFlags :=
  match op with
  | .add =>
    match t with
    | .int t => (intBits false t.signed t.width ((l.map (intVal t.signed t.width)).foldl (· + ·) 0), 0)
    | .flt f => sumRound (fkOfVec f) r rnd (l.map (decodeF (fkOfVec f))) 0
  | .min | .max =>
    match l with
    | [] => (0, 0)
    | x :: _ => l.foldl (fun acc y => let m := vMinMax t (decide (op = .max)) acc.1 y; (m.1, acc.2 ||| m.2)) (x, 0)

/-- The prefixes of a list, each with its last element's number. -/
def prefixesOf (l : List Nat) : List (Nat × List Nat) := (List.range l.length).map fun i => ((l[i]?).getD 0, l.take (i + 1))

/-- VRED (R178): the results at the heads of the lines, zero elsewhere. -/
def vRed (sh : Word) (op : RedOp) (col : Bool) (t : VType) (r : Rnd) (seed : BitVec 32) (a : BitVec 4096) : BitVec 4096 × FpFlags :=
  let w := 8 * vBytes sh
  let lines := vLines sh col
  let res := (lines.zip (drawsFor r lines.length seed)).map fun p => (p.1.headD 0, vReduce op t r p.2 (p.1.map (elemAt a w)))
  let m : SMap Nat := res.foldl (fun m p => SMap.set m p.1 p.2.1) []
  (vPack sh ((List.range (vElems sh)).map (SMap.get m 0)), orFlags (res.map fun p => p.2.2))

/-- VSCAN (R178): the same over the prefixes, draws in increasing e. -/
def vScan (sh : Word) (op : RedOp) (col : Bool) (t : VType) (r : Rnd) (seed : BitVec 32) (a : BitVec 4096) : BitVec 4096 × FpFlags :=
  let w := 8 * vBytes sh
  let ds := drawsFor r (vElems sh) seed
  let res := (vLines sh col).flatMap fun line =>
    (prefixesOf line).map fun p => (p.1, vReduce op t r ((ds[p.1]?).getD 0) (p.2.map (elemAt a w)))
  let m : SMap Nat := res.foldl (fun m p => SMap.set m p.1 p.2.1) []
  (vPack sh ((List.range (vElems sh)).map (SMap.get m 0)), orFlags (res.map fun p => p.2.2))

/-- Elements of a group of VDOT, by the width of its type (R164, R179). -/
def VDotT.group (t : VDotT) : Nat := if VDotT.bits t < 32 then 32 / VDotT.bits t else 1
/-- VDOT's n elements of its type's width lie in a register; where they do not, the spec states no result (log entry 69). -/
def dotFits (sh : Word) (t : VDotT) : Bool := decide (vElems sh * VDotT.bits t ≤ 4096)

def vDot (sh : Word) (t : VDotT) (seed : BitVec 32) (d a b : BitVec 4096) : BitVec 4096 × FpFlags :=
  let w := VDotT.bits t
  let g := VDotT.group t
  let aw := if w = 64 then 64 else 32
  let m := vElems sh / g
  let ds := drawsFor (VDotT.rnd t) m seed
  let res := collect ((List.range m).map fun j =>
    let at' (v : BitVec 4096) (i : Nat) : Nat := elemAt v w (g * j + i)
    match t with
    | .int t =>
      let s := (List.range g).foldl (fun acc i => acc + intVal t.signed w (at' a i) * intVal t.signed w (at' b i))
        (intVal t.signed aw (elemAt d aw j))
      (intBits false t.signed aw s, 0)
    | .flt f r =>
      let k := fkOfVec f
      let ps := (List.range g).map fun i => FV.mul (decodeF k (at' a i)) (decodeF k (at' b i))
      sumRound .f32 r ((ds[j]?).getD 0) (decodeF .f32 (elemAt d 32 j) :: ps.map Prod.fst) (orFlags (ps.map Prod.snd)))
  (packElems 4096 aw res.1, res.2)

/-! ## Conversions (R180, R181) -/

def fkOf : EType → FK
  | .f64 => .f64 | .f32 => .f32 | .f16 => .f16 | .bf16 => .bf16 | .e4m3 => .e4m3 | .e5m2 => .e5m2 | .e2m1 => .e2m1
  | _ => .f32

/-- The exact value of an element of any type, with the flags of its decoding (R89). -/
def srcValue (tab : SMap TabEntry) (t : EType) (code : Nat) : FV × FpFlags :=
  match t with
  | .int t => (fvOfInt (intVal t.signed t.width code), 0)
  | .tbl8 =>
    let d := tblDecode (SMap.get tab 0 (code % 256))
    (decodeF .f32 d.1, d.2)
  | t => (decodeF (fkOf t) code, 0)

/-- An exact value converted to a type (R85, R90, R93). -/
def toType (tab : SMap TabEntry) (t : EType) (infOvf : Bool) (r : Rnd) (rnd : Nat) (v : FV) : Nat × FpFlags :=
  match t with
  | .int t => fToInt t.signed t.width r rnd v
  | .tbl8 => tblEncode tab infOvf v
  | t => narrow (fkOf t) infOvf r rnd v

/-- One unscaled element of VCVT (R180). The overflow bit is .sat for integers and .inf otherwise. -/
def cvtElem (tab : SMap TabEntry) (dt st : EType) (ovf : Bool) (r : Rnd) (rnd code : Nat) : Nat × FpFlags :=
  if dt = st then
    match st with
    | .int _ => (code, 0)
    | .tbl8 => (code, 0)
    | t =>
      match decodeF (fkOf t) code with
      | .nan sig => ((fkOf t).canonNaN, nanFlags sig)
      | _ => (code, 0)
  else
    match dt, st with
    | .int d, .int s => (intBits ovf d.signed d.width (intVal s.signed s.width code), 0)
    | _, _ =>
      let v := srcValue tab st code
      let o := toType tab dt ovf r rnd v.1
      (o.1, v.2 ||| o.2)

/-- The exponent of a type's largest value (R87): of a table, that of its largest finite entry; `free` where it
has none that is not zero. -/
def emaxOf (tab : SMap TabEntry) (free : Int) (t : EType) : Int :=
  match t with
  | .tbl8 => (blockLog (((tblCodes tab).map Prod.snd).filter fvIsFin)).getD free
  | t => (fkOf t).emaxel

/-- The blocks of 32 consecutive elements. -/
def blocksOf {α : Type} : Nat → List α → List (List α)
  | 0, _ => []
  | n + 1, l => l.take 32 :: blocksOf n (l.drop 32)

/-- The codes of one block under a fresh scale (R87), with the draws of its elements. -/
def scaleBlock (tab : SMap TabEntry) (free : Int) (t : EType) (r : Rnd) (vs : List (FV × Nat)) : Nat × List Nat × FpFlags :=
  let e := blockScale (emaxOf tab free t) (vs.map Prod.fst)
  let cs := collect (vs.map fun p => if e.1 = 255 then (0, 0) else toType tab t false r p.2 (unscaled e.1 p.1))
  (e.1, cs.1, e.2 ||| cs.2)

/-- VCVT of n elements: v[d], the new scales where the destination carries them, and the flags. -/
def vCvt (tab : SMap TabEntry) (free : Int) (n : Nat) (dt st : EType) (sc : Bool) (r : Rnd) (ovf : Bool) (seed : BitVec 32)
    (a a1 : BitVec 4096) : BitVec 4096 × Option (BitVec 4096) × FpFlags :=
  let ds := drawsFor r n seed
  let codes := (List.range n).map fun e => elemAt a (EType.bits st) e
  if !sc then
    let o := collect ((codes.zip ds).map fun p => cvtElem tab dt st ovf r p.2 p.1)
    (packElems 4096 (EType.bits dt) o.1, none, o.2)
  else
    let vs := codes.map (srcValue tab st)
    let fl := orFlags (vs.map Prod.snd)
    let vals := ((vs.map Prod.fst).zip (List.range n)).map fun p =>
      if EType.narrow st then scaled (elemAt a1 8 (p.2 / 32)) p.1 else p.1
    if EType.narrow dt then
      let bs := (blocksOf (n / 32) (vals.zip ds)).map (scaleBlock tab free dt r)
      (packElems 4096 (EType.bits dt) (bs.flatMap fun b => b.2.1), some (packElems 4096 8 (bs.map Prod.fst)),
        fl ||| orFlags (bs.map fun b => b.2.2))
    else
      let o := collect ((vals.zip ds).map fun p => toType tab dt ovf r p.2 p.1)
      (packElems 4096 (EType.bits dt) o.1, none, fl ||| o.2)

/-! ## One entry's result -/

/-- The sources of an entry: v[a], v[b], v[d] and v[a+1] as it reads them. -/
structure VSrc where
  a : BitVec 4096
  b : BitVec 4096
  d : BitVec 4096
  a1 : BitVec 4096

/-- What an entry writes: a vector register, a second one (scales), an x register, and its flags. -/
structure VOut where
  v : Option (BitVec 4096)
  v1 : Option (BitVec 4096)
  x : Option Word
  fl : FpFlags

def VOut.ofV (v : BitVec 4096) : VOut := { v := some v, v1 := none, x := none, fl := 0 }
def VOut.ofVF (p : BitVec 4096 × FpFlags) : VOut := { v := some p.1, v1 := none, x := none, fl := p.2 }

/-- An element-wise result with draws for the elements. -/
def vMap (sh : Word) (r : Rnd) (seed : BitVec 32) (src : VSrc) (f : Nat → Nat → Nat → Nat → Nat × FpFlags) : VOut :=
  let w := 8 * vBytes sh
  let o := collect (((List.range (vElems sh)).zip (drawsFor r (vElems sh) seed)).map fun p =>
    f p.2 (elemAt src.a w p.1) (elemAt src.b w p.1) (elemAt src.d w p.1))
  VOut.ofVF (vPack sh o.1, o.2)

/-- The result of a vector A instruction. `xs` are the scalar operands read at issue. -/
def vValue (tab : SMap TabEntry) (free : Int) (freeV : BitVec 4096) (sh : Word) (seed : BitVec 32) (xs : List Word) (src : VSrc) (i : Instr) : VOut :=
  let w := 8 * vBytes sh
  let n := vElems sh
  let x (k : Nat) : Nat := ((xs[k]?).getD 0).toNat
  match i with
  | .vadd _ _ _ t => vMap sh (VArith.rnd t) seed src fun r a b _ => vArith .add t r a b
  | .vsub _ _ _ t => vMap sh (VArith.rnd t) seed src fun r a b _ => vArith .sub t r a b
  | .vmul _ _ _ t => vMap sh (VArith.rnd t) seed src fun r a b _ => vArith .mul t r a b
  | .vfma _ _ _ f m => vMap sh m seed src fun r a b d => fFma (fkOfVec f) m r a b d
  | .vmin _ _ _ t => vMap sh .rne seed src fun _ a b _ => vMinMax t false a b
  | .vmax _ _ _ t => vMap sh .rne seed src fun _ a b _ => vMinMax t true a b
  | .vabs _ _ t => vMap sh .rne seed src fun _ a _ _ => (vAbs t a, 0)
  | .vclmp _ _ _ t => vMap sh .rne seed src fun _ a _ _ => vClamp t (x 0 % 2 ^ w) (x 1 % 2 ^ w) a
  | .vcmp _ _ _ t c => vMap sh .rne seed src fun _ a b _ => vCmp t c a b
  | .vsel _ _ _ => vMap sh .rne seed src fun _ a b d => ((d &&& a) ||| ((2 ^ w - 1 ^^^ d) &&& b), 0)
  | .vlog _ _ _ op => vMap sh .rne seed src fun _ a b _ => (vLogic op w a b, 0)
  | .vsh _ _ amt right => vMap sh .rne seed src fun _ a b _ =>
      (vShift right w a (match amt with | .reg _ => b | .imm k => k.toNat), 0)
  | .vbits _ _ op => vMap sh .rne seed src fun _ a _ _ => (bitOp op w a, 0)
  | .vperm _ _ _ => vMap sh .rne seed src fun _ _ b _ => (if b < n then elemAt src.a w b else 0, 0)
  | .vmov _ _ _ md =>
    match md.toNat with
    | 0 => VOut.ofV src.a
    | 1 => VOut.ofV (vPack sh (List.replicate n (x 0)))
    | 2 => { v := none, v1 := none, x := some (BitVec.ofNat 64 (if x 0 < n then elemAt src.a w (x 0) else 0)), fl := 0 }
    | _ => VOut.ofV (if x 1 < n then setFld src.d (w * x 1 + w - 1) (w * x 1) (x 0) else src.d)
  | .viota _ _ _ _ => VOut.ofV (vPack sh ((List.range n).map fun e => x 0 + e * x 1))
  | .vred _ _ op col t r => VOut.ofVF (vRed sh op col t r seed src.a)
  | .vscan _ _ op col t r => VOut.ofVF (vScan sh op col t r seed src.a)
  | .vdot _ _ _ t =>
    if dotFits sh t then VOut.ofVF (vDot sh t seed src.d src.a src.b) else { v := some freeV, v1 := none, x := none, fl := BitVec.ofInt 5 free }
  | .vcvt _ _ dt st sc r ovf =>
    let o := vCvt tab free n dt st sc r ovf seed src.a src.a1
    { v := some o.1, v1 := o.2.1, x := none, fl := o.2.2 }
  | .venc _ _ ovf =>
    let o := vCvt tab free n .tbl8 .f32 false .rne ovf seed src.a src.a1
    { v := some o.1, v1 := none, x := none, fl := o.2.2 }
  | .vdec _ _ =>
    let o := vCvt tab free n .f32 .tbl8 false .rne false seed src.a src.a1
    { v := some o.1, v1 := none, x := none, fl := o.2.2 }
  | .vsfu _ _ fn f => vMap sh .rne seed src fun _ a _ _ => sfu fn (fkOfVec f) a
  | _ => { v := none, v1 := none, x := none, fl := 0 }

/-- The draws an entry claims at issue (R82, R83, R178 to R180). -/
def vDraws (sh : Word) : Instr → Nat
  | .vadd _ _ _ t | .vsub _ _ _ t | .vmul _ _ _ t => if VArith.rnd t = .sr then vElems sh else 0
  | .vfma _ _ _ _ r => if r = .sr then vElems sh else 0
  | .vred _ _ _ col _ r => if r = .sr then (if col then vCols sh else vRows sh) else 0
  | .vscan _ _ _ _ _ r => if r = .sr then vElems sh else 0
  | .vdot _ _ _ t => if VDotT.rnd t = .sr then vElems sh / VDotT.group t else 0
  | .vcvt _ _ _ _ _ r _ => if r = .sr then vElems sh else 0
  | _ => 0

/-- The checks at issue that depend on VSHAPE (R165, R179, R180). -/
def vShapeOk (sh : Word) : Instr → Bool
  | .vadd _ _ _ t | .vsub _ _ _ t | .vmul _ _ _ t => decide (VArith.bits t = 8 * vBytes sh)
  | .vfma _ _ _ f _ | .vsfu _ _ _ f => decide (VFmt.bits f = 8 * vBytes sh)
  | .vmin _ _ _ t | .vmax _ _ _ t | .vcmp _ _ _ t _ | .vred _ _ _ _ t _ | .vscan _ _ _ _ t _ | .vclmp _ _ _ t | .vabs _ _ t =>
    decide (VType.bits t = 8 * vBytes sh)
  | .viota _ _ _ t => decide (t.width = 8 * vBytes sh)
  | .vdot _ _ _ t => decide (vElems sh % VDotT.group t = 0)
  | .vcvt _ _ dt st sc _ _ =>
    decide (vElems sh * EType.bits st ≤ 4096) && decide (vElems sh * EType.bits dt ≤ 4096)
    && (!sc || decide (vElems sh % 32 = 0))
  | .venc .. | .vdec .. => decide (vElems sh * 32 ≤ 4096)
  | _ => true

end Sys2Proof.Machine
end

