-- ==== Sys2Proof/Machine/Vector.lean ====
section
/-! DEFINITION. The vector sequencer: entry at issue, VREP bodies, stream operands, the lane groups, the stream
port and the SFU, and the V-prefixed instructions (R145, R146, R153, R165 to R185, R429, R432). -/

namespace Sys2Proof.Machine

def vseqDepth : Nat := 16

/-! ## VREP bodies (R184) -/

/-- The body that is still being issued. -/
def Arch.openRep (a : Arch) : Option VRep :=
  match a.vreps.getLast? with
  | some r => if r.missing = 0 then none else some r
  | none => none

/-- The states from which the entries of a body draw in its next repetition. -/
def reseed : BitVec 32 → List VEntry → List VEntry × BitVec 32
  | s, [] => ([], s)
  | s, e :: r => let t := reseed (xsN (vDraws e.shape e.ins) s) r; ({ e with seed := s } :: t.1, t.2)

/-- The end of a repetition: the next one begins, or the body retires. -/
def Arch.repTurn (a : Arch) : Arch :=
  match a.vreps with
  | [] => a
  | r :: rs =>
    if r.missing = 0 ∧ r.idx = r.size then
      if r.left.toNat ≤ 1 then { a with vreps := rs, vseq := a.vseq.drop r.size }
      else
        let t := reseed r.base (a.vseq.take r.size)
        { a with vseq := t.1 ++ a.vseq.drop r.size, vreps := { r with left := r.left - 1, idx := 0, base := t.2 } :: rs }
    else a

/-- The youngest body is complete: the draws of its further repetitions are claimed (R83), or it retires
unperformed where its count is zero. The spec does not order these draws against those of scalar instructions between the body's
entries: they come after them, when the body closes (DESIGN CHOICE, log entry 75). -/
def Arch.closeRep (a : Arch) : Arch :=
  match a.vreps.getLast? with
  | none => a
  | some r =>
    let rest := a.vreps.dropLast
    let keep := a.vseq.length - r.size
    if r.size = 0 ∨ r.left = 0 then { a with vreps := rest, vseq := a.vseq.take keep }
    else
      let d := ((a.vseq.drop keep).map fun e => vDraws e.shape e.ins).sum
      ({ a with vreps := rest ++ [{ r with missing := 0, base := a.srseed }],
                srseed := xsN ((r.left.toNat - 1) * d) a.srseed }).repTurn

/-- At a suspension point an open body is closed with the entries it holds (R184). -/
def State.closeBody (s : State) (g : Nat) : State :=
  s.updCore g fun c => c.updArch fun a => if a.openRep.isSome then a.closeRep else a

/-! ## Entering the sequencer (R36, R168) -/

/-- An SBIND of a v register is in the command queue; and the register is a bound stream register for the instructions that issue
now (R153). -/
def Core.binding (c : Core) (r : Nat) : Bool := c.cmds.any fun x => match x with | .bind n _ => decide (n = r) | .copy .. => false
def Core.bound (c : Core) (r : Nat) : Bool := (SMap.get c.arch.streams Stream.unbound r).bound || c.binding r

def Core.writesBound (c : Core) (i : Instr) : Bool :=
  i.writes.any fun r => match r with | .v n => c.bound n | _ => false

/-- An entry joins the sequencer, with its draws claimed (R83). -/
def Arch.enter (a : Arch) (stamp clock : Nat) (i : Instr) (xs : List Word) (addrs : List (Nat × Nat)) : Arch :=
  let e : VEntry :=
    { stamp := stamp, ins := i, shape := a.vshape, xs := xs, seed := a.srseed, addrs := addrs, beats := 0, olds := [], body := a.openRep.isSome, hand := a.tm, seen := none,
      born := clock }
  let n := vDraws a.vshape i
  match a.openRep with
  | none => { a with vseq := a.vseq ++ [e], srseed := xsN n a.srseed }
  | some r =>
    let r' := { r with missing := r.missing - 1, size := r.size + 1 }
    let b : Arch :=
      { a with vseq := a.vseq ++ [e], vreps := a.vreps.dropLast ++ [r'], srseed := if r.left = 0 then a.srseed else xsN n a.srseed }
    if r'.missing = 0 then b.closeRep else b

def State.enterV (s : State) (i : Instr) (xs : List Word) (addrs : List (Nat × Nat)) : State :=
  let (st, s) := s.fresh
  s.updArch fun a => a.enter st s.clock i xs addrs

/-- A vector A instruction at issue (R168, R173). -/
def State.issueV (s : State) (i : Instr) (xs : List Word) : Step :=
  let c := s.me
  if !vShapeOk c.arch.vshape i || c.writesBound i then illegalStep s
  else if vseqDepth ≤ c.arch.vseq.length then s.hold cVSEQ
  else .next (s.enterV i xs [])

def execVadd (d a b : VReg) (t : VArith) (s : State) : Step := s.issueV (.vadd d a b t) []
def execVsub (d a b : VReg) (t : VArith) (s : State) : Step := s.issueV (.vsub d a b t) []
def execVmul (d a b : VReg) (t : VArith) (s : State) : Step := s.issueV (.vmul d a b t) []
def execVfma (d a b : VReg) (f : VFmt) (r : Rnd) (s : State) : Step := s.issueV (.vfma d a b f r) []
def execVmin (d a b : VReg) (t : VType) (s : State) : Step := s.issueV (.vmin d a b t) []
def execVmax (d a b : VReg) (t : VType) (s : State) : Step := s.issueV (.vmax d a b t) []
def execVlog (d a b : VReg) (op : LogOp) (s : State) : Step := s.issueV (.vlog d a b op) []
def execVsh (d a : VReg) (amt : ShAmt) (right : Bool) (s : State) : Step := s.issueV (.vsh d a amt right) []
def execVcmp (d a b : VReg) (t : VType) (c : Cond) (s : State) : Step := s.issueV (.vcmp d a b t c) []
def execVsel (d a b : VReg) (s : State) : Step := s.issueV (.vsel d a b) []
def execVred (d a : VReg) (op : RedOp) (col : Bool) (t : VType) (r : Rnd) (s : State) : Step := s.issueV (.vred d a op col t r) []
def execVscan (d a : VReg) (op : RedOp) (col : Bool) (t : VType) (r : Rnd) (s : State) : Step := s.issueV (.vscan d a op col t r) []
def execVperm (d a b : VReg) (s : State) : Step := s.issueV (.vperm d a b) []
def execVcvt (d a : VReg) (dt st : EType) (sc : Bool) (r : Rnd) (ovf : Bool) (s : State) : Step := s.issueV (.vcvt d a dt st sc r ovf) []
def execVsfu (d a : VReg) (fn : SfuFn) (f : VFmt) (s : State) : Step := s.issueV (.vsfu d a fn f) []
def execVenc (d a : VReg) (ovf : Bool) (s : State) : Step := s.issueV (.venc d a ovf) []
def execVdec (d a : VReg) (s : State) : Step := s.issueV (.vdec d a) []
def execVabs (d a : VReg) (t : VType) (s : State) : Step := s.issueV (.vabs d a t) []
def execVbits (d a : VReg) (op : BitOp) (s : State) : Step := s.issueV (.vbits d a op) []
def execVdot (d a b : VReg) (t : VDotT) (s : State) : Step := s.issueV (.vdot d a b t) []
def execViota (d a b : Reg) (t : IType) (s : State) : Step := s.issueV (.viota d a b t) [s.me.x a, s.me.x b]
def execVclmp (d a b : Reg) (t : VType) (s : State) : Step := s.issueV (.vclmp d a b t) [s.me.x b, s.me.x (b + 1)]

/-- VMOV (R177); mode 10 may not issue while a body is open (R184). -/
def execVmov (d a b : Reg) (mode : BitVec 2) (s : State) : Step :=
  let xs := match mode.toNat with | 0 => [] | 1 => [s.me.x a] | 2 => [s.me.x b] | _ => [s.me.x a, s.me.x b]
  if mode.toNat = 2 && s.me.arch.openRep.isSome then illegalStep s else s.issueV (.vmov d a b mode) xs

/-- VREP opens a body (R184). It takes no place in the sequencer. -/
def execVrep (nb : BitVec 4) (a : Reg) (imm : BitVec 11) (s : State) : Step :=
  if s.me.arch.openRep.isSome then illegalStep s
  else
    let n : Word := if a = 0 then imm.setWidth 64 else s.me.x a
    .next (s.updArch fun x => { x with vreps := x.vreps ++ [{ missing := nb.toNat + 1, size := 0, left := n, idx := 0, base := 0 }] })

/-! ## VLD, VST, VGATH, VSCAT at issue (R145, R146, R429) -/

/-- An instruction that translates several pages holds the bundle a cycle for each page beyond the first (R136). -/
def State.extraCycles (s : State) (n : Nat) : State :=
  s.pay s.cur cMEM n s.me.arch.pc

/-- A region's SNAPX for an address (R253, R336). -/
def State.snapx (s : State) (g va : Nat) : Bool :=
  decide (va / 2 ^ 52 < 14) && bitAt (SMap.get (s.core g).arch.copies.raf 0 (va / 2 ^ 52)) 59

/-- Virtual address and key of each element of w bytes of a packed transfer. -/
def packedAddrs (tr : List (Nat × Xlated)) (va n w : Nat) : List (Nat × Nat) :=
  (List.range n).map fun e => (va + e * w, keyAt tr (va + e * w))

def execVld (d : Reg) (row : Bool) (m : MemOp) (s : State) : Step :=
  let c := s.me
  let ea := MemOp.ea c 64 m
  let sh := c.arch.vshape
  let w := vBytes sh
  let n := if row then vCols sh else vElems sh
  let i : Instr := .vld d row m
  if c.arch.openRep.isSome || c.writesBound i then illegalStep s
  else if ea.toNat % w ≠ 0 then trapStep s cALIGN ea
  else Got.step (s.access s.cur ea (n * w) .read [2] .align) fun s tr =>
    if vseqDepth ≤ s.me.arch.vseq.length then s.hold cVSEQ
    else .next ((s.extraCycles (tr.length - 1)).enterV i [] (packedAddrs tr ea.toNat n w))

/-- What a VST of a stamp puts into the store buffer for its keys, each exempt or not: one entry, and where it crosses into a region
of the other kind one for each (R336, R429). -/
def vstEntries (stamp : Nat) (keys : List (Bool × Nat)) : List SbEntry :=
  let words := fullWords (keys.map Prod.snd)
  [false, true].filterMap fun x =>
    let ks := (keys.filter fun p => p.1 = x).map Prod.snd
    if ks.isEmpty then none
    else some
      { bytes := sortCells (ks.map fun k => (k, 0)), words := words.filter ks.contains, rel := none, awaits := some stamp, flush := false,
        exempt := x }

/-- VST takes its store-buffer entry at issue; its bytes come when its entry is performed (R429). -/
def execVst (d : Reg) (m : MemOp) (s : State) : Step :=
  let c := s.me
  let ea := MemOp.ea c 64 m
  let sh := c.arch.vshape
  let w := vBytes sh
  if c.arch.openRep.isSome then illegalStep s
  else if ea.toNat % w ≠ 0 then trapStep s cALIGN ea
  else Got.step (s.access s.cur ea (vSize sh) .write [3] .align) fun s tr =>
    let keys := keysOf tr ea.toNat (vSize sh)
    match s.ownWait s.cur none keys with
    | some c => s.hold c
    | none =>
      let es := vstEntries s.stamp ((List.range keys.length).zip keys |>.map fun p => (snapAt tr (ea.toNat + p.1), p.2))
      if sbDepth < s.me.sb.length + es.length then s.hold cMEM
      else if vseqDepth ≤ s.me.arch.vseq.length then s.hold cVSEQ
      else
        .next (es.foldl (fun t e => t.pushStore s.cur e)
          ((s.extraCycles (tr.length - 1)).enterV (.vst d m) [] (packedAddrs tr ea.toNat (vElems sh) w)))

/-- Element addresses of VGATH and VSCAT. -/
def gatherAddrs (sh : Word) (base : Word) (sc : Nat) (idx : BitVec 4096) : List Nat :=
  (List.range (vElems sh)).map fun e => (base + BitVec.ofNat 64 (elemAt idx (8 * vBytes sh) e) <<< sc).toNat

/-- Every element address is translated at issue (R136, R139): the keys, or the fault at the lowest address. -/
def State.engineAddrs (s : State) (g : Nat) (k : XKind) (w : Nat) (vas : List Nat) : State × Except (Nat × Nat) (List (Nat × Nat)) :=
  let r := vas.foldl (fun (r : State × List (Nat × Nat) × List (Nat × Nat)) va =>
    match r.1.translateRange g va w k with
    | (s, .error e) => (s, r.2.1, (e.2, e.1) :: r.2.2)
    | (s, .ok tr) =>
      if tr.any (fun p => isControl p.2.pa) then (s, r.2.1, (va, cPROT) :: r.2.2)
      else (s, r.2.1 ++ [(va, keyAt tr va)], r.2.2)) (s, [], [])
  match bestBy (fun a b => decide (a.1 < b.1)) r.2.2 with
  | some e => (r.1, .error (e.2, e.1))
  | none => (r.1, .ok r.2.1)

/-- An earlier entry of the sequencer is still to write v register r. -/
def Arch.vWriter (a : Arch) (r : Nat) : Bool :=
  a.vseq.any (fun e => e.ins.writes.contains (.v r)) || a.vfly.any fun f => f.regs.contains (.v r)

/-! ### Streams (R151 to R153) -/

def Stream.total (t : Stream) : Nat := t.counts.foldl (· * ·) 1
/-- The next read need not wait: a strip has arrived, or there is none left. -/
def Stream.ready (t : Stream) : Bool := !t.strips.isEmpty || decide (t.total ≤ t.pop)
/-- The fault of the next read: the strip's, or zero past the end. -/
def Stream.fault (t : Stream) : Option (Nat × Nat) :=
  match t.strips with
  | [] => some (cSTREAM, 0)
  | p :: _ => p.2
def Stream.popped (t : Stream) : Stream :=
  match t.strips with
  | [] => t
  | p :: r => { t with strips := r, pop := t.pop + 1, last := p.1 }

def Arch.stream (a : Arch) (r : Nat) : Stream := SMap.get a.streams Stream.unbound r

/-- The v registers an instruction reads, each once. -/
def vReads (i : Instr) : List Nat :=
  (i.reads.filterMap fun r => match r with | .v n => some n | _ => none).eraseDups

/-- The v registers an entry reads when it is performed. VGATH's and VSCAT's index was read at issue. -/
def vPops : Instr → List Nat
  | .vgath .. => []
  | .vscat d _ _ _ => [d.toNat]
  | i => vReads i
/-- The bound stream registers an entry pops. -/
def Arch.streamReads (a : Arch) (i : Instr) : List Nat := (vPops i).filter fun r => (a.stream r).bound

/-- Each stream register read yields its next strip, and holds it from then on (R153). -/
def Arch.popStream (a : Arch) (r : Nat) : Arch :=
  { a with streams := SMap.set a.streams r (a.stream r).popped }.wv r (a.stream r).popped.last
def Arch.popStreams (a : Arch) (i : Instr) : Arch := (a.streamReads i).foldl Arch.popStream a

/-- A first access to host pages records their bias (R330). -/
def State.recordHosts (s : State) (k : XKind) (vas : List Nat) : State :=
  vas.foldl (fun s v => match s.xlate s.cur (v % 2 ^ 64) k with | .ok x => s.recordBias x.biasd x.pa | .error _ => s) s

/-- VGATH and VSCAT: waits, translation, ownership, and the entry. A faulted strip that is read as the index at issue is a precise
trap of this bundle (DESIGN CHOICE, log entry 84). A VSCAT whose index and data are one bound register sees one strip, which its
entry pops (R153). -/
def State.gather (s : State) (write : Bool) (i : Instr) (a b : Reg) (sc : BitVec 2) : Step :=
  let c := s.me
  let sh := c.arch.vshape
  let w := vBytes sh
  if c.arch.openRep.isSome || (!write && c.writesBound i) then illegalStep s
  else if c.arch.vWriter b.toNat || (c.bound b.toNat && !c.arch.vseq.isEmpty) then s.hold cVSEQ
  else if c.bound b.toNat && (c.binding b.toNat || !(c.arch.stream b.toNat).ready) then s.hold cSTRM
  else
    match (if c.bound b.toNat then (c.arch.stream b.toNat).fault else none) with
    | some f => trapStep s f.1 (BitVec.ofNat 64 f.2)
    | none =>
      let idx := if c.bound b.toNat then (match (c.arch.stream b.toNat).strips with | p :: _ => p.1 | [] => 0) else c.arch.rv b.toNat
      let vas := gatherAddrs sh (c.x a) sc.toNat idx
      match vas.filter (fun v => decide (v % w ≠ 0)) |> bestBy (fun x y => decide (x < y)) with
      | some v => trapStep s cALIGN (BitVec.ofNat 64 v)
      | none =>
        let k : XKind := if write then .ewrite else .eread
        if vas.any (fun v => s.walkWaits (s.linksWait (dieOf s.cur)) s.cur v w k) then s.hold cMEM
        else
        match s.engineAddrs s.cur k w vas with
        | (s, .error (e, v)) => .next (s.trap e (BitVec.ofNat 64 v))
        | (s, .ok addrs) =>
          let keys := elemKeys w addrs
          if keys.any (fun k => decide (s.window k = .waits)) || keys.any s.moving then s.hold cMEM
          else if vseqDepth ≤ s.me.arch.vseq.length then s.hold cVSEQ
          else if write && (!s.me.sb.isEmpty || s.me.vwork.any VEntry.isVld
              || [0, 1].any fun d => (s.die d).past.any fun p => keys.any p.ent.has) then s.hold cMEM
          else
            match (if write then s.ownWait s.cur none keys else none) with
            | some c => s.hold c
            | none =>
              let s := s.recordHosts k (addrs.map Prod.fst)
              let own := if write then s.takeLines (.entry s.cur s.stamp) keys else s
              let pop := if c.bound b.toNat && !(vPops i).contains b.toNat then own.updArch fun x => x.popStream b.toNat else own
              let pages := (vas.map (· / 4096)).eraseDups.length
              .next ((pop.extraCycles (pages - 1)).enterV i [] addrs)

def execVgath (d a b : Reg) (sc : BitVec 2) (s : State) : Step := s.gather false (.vgath d a b sc) a b sc
def execVscat (d a b : Reg) (sc : BitVec 2) (s : State) : Step := s.gather true (.vscat d a b sc) a b sc

/-! ## Performing an entry -/

inductive VUnit | lane | port | sfu
  deriving DecidableEq, Repr

def vUnit : Instr → VUnit
  | .vld .. | .vst .. | .vgath .. | .vscat .. => .port
  | .vsfu .. => .sfu
  | _ => .lane

/-- Bytes of the widest operand (R169), or of the port's transfer (R432). -/
def VEntry.bytes (e : VEntry) : Nat :=
  let sh := e.shape
  match e.ins with
  | .vmov _ _ _ m => if m.toNat = 0 then 512 else vSize sh
  | .vcvt _ _ dt st _ _ _ => vElems sh * Nat.max (EType.bits dt) (EType.bits st) / 8
  | .venc .. | .vdec .. => vElems sh * 4
  | .vdot _ _ _ t => Nat.max (vElems sh * VDotT.bits t / 8) (vElems sh / VDotT.group t * (if VDotT.bits t = 64 then 8 else 4))
  | .vld _ row _ => if row then vCols sh * vBytes sh else vSize sh
  | _ => vSize sh
def VEntry.beatsNeeded (e : VEntry) : Nat := Nat.max 1 (ceilDiv e.bytes 128)

/-- The entry at work and its place in the sequencer; none while the head is held (R137). -/
def Arch.vAt (a : Arch) : Option (Nat × VEntry) :=
  if a.vheld then none
  else
    match a.vseq with
    | [] => none
    | e :: _ =>
      if !e.body then some (0, e)
      else
        match a.vreps with
        | [] => none
        | r :: _ => if r.left = 0 ∨ r.size ≤ r.idx then none else (a.vseq[r.idx]?).map fun e => (r.idx, e)

/-- The entry at work is performed: it leaves, or its body goes on. -/
def Arch.vDone (a : Arch) : Arch :=
  match a.vseq with
  | [] => a
  | e :: rest =>
    if !e.body then { a with vseq := rest }
    else
      match a.vreps with
      | [] => a
      | r :: rs =>
        let vs := (List.range a.vseq.length).zip a.vseq |>.map fun p => if p.1 = r.idx then { p.2 with beats := 0, olds := [] } else p.2
        ({ a with vseq := vs, vreps := { r with idx := r.idx + 1 } :: rs }).repTurn

/-- The register fields of an entry: d, a, b. -/
def vFields : Instr → Nat × Nat × Nat
  | .vadd d a b _ | .vsub d a b _ | .vmul d a b _ | .vmin d a b _ | .vmax d a b _ | .vlog d a b _ | .vcmp d a b _ _
  | .vsel d a b | .vperm d a b | .vdot d a b _ | .vfma d a b _ _ => (d.toNat, a.toNat, b.toNat)
  | .vsh d a amt _ => (d.toNat, a.toNat, match amt with | .reg b => b.toNat | .imm _ => a.toNat)
  | .vred d a _ _ _ _ | .vscan d a _ _ _ _ | .vsfu d a _ _ | .venc d a _ | .vdec d a | .vabs d a _ | .vbits d a _
  | .vcvt d a _ _ _ _ _ => (d.toNat, a.toNat, a.toNat)
  | .vmov d a _ _ | .vclmp d a _ _ => (d.toNat, a.toNat, a.toNat)
  | .viota d _ _ _ | .vld d _ _ | .vst d _ | .vgath d _ _ _ | .vscat d _ _ _ => (d.toNat, d.toNat, d.toNat)
  | _ => (0, 0, 0)

/-- The first fault of the streams an entry reads. -/
def Arch.streamFault (a : Arch) (i : Instr) : Option (Nat × Nat) :=
  (a.streamReads i).findSome? fun r => (a.stream r).fault

/-- A register as an entry reads it: the next strip of a bound stream register, else its contents. -/
def Arch.vIn (a : Arch) (e : VEntry) (r : Nat) : BitVec 4096 :=
  let t := a.stream r
  match SMap.get? e.olds r with
  | some v => v
  | none => if t.bound then (match t.strips with | p :: _ => p.1 | [] => 0) else a.rv r

/-- A fault of the entry at work: it stays at the head and is held until RFT (R137); the strips it would have
consumed are fetched again. -/
def State.vFault (s : State) (g : Nat) (i : Instr) (cause va : Nat) : State :=
  s.updCore g fun c => c.updArch fun a =>
    let st := (a.streamReads i).foldl (fun m r => SMap.set m r (a.stream r).forget) a.streams
    { a with vfault := some { cause := cause, val := BitVec.ofNat 64 va }, vheld := true, streams := st,
             vseq := a.vseq.map fun e => { e with beats := 0 } }

/-- The entry at work needs nothing that is still on its way. -/
def State.vReady (s : State) (g : Nat) (e : VEntry) : Bool :=
  let c := s.core g
  let keys := e.keys
  (s.vFlying g).all (fun f => f.regs.all fun r => !e.ins.reads.contains r)
  && (vPops e.ins).all (fun r => !c.binding r && (!(c.arch.stream r).bound || (c.arch.stream r).ready))
  && (e.seen.isSome || ((s.ownWait g (some e.stamp) keys).isNone && !s.hostPast g keys
      && keys.all fun k => !s.moving k && !s.linksWait (dieOf g) k))
  && (match e.ins with
      | .vscat .. => s.canWrite false ((elemKeys (vBytes e.shape) (e.addrs.filter fun p => !s.snapx g p.1)).map fun k => (k, 0))
      | _ => true)

/-- Write a vector result and its flags. -/
def Arch.putV (a : Arch) (i : Instr) (o : VOut) : Arch :=
  let d := (vFields i).1
  let a := { a with fpst := a.fpst ||| o.fl }
  let a := match o.v with | some v => a.wv d v | none => a
  let a := match o.v1 with | some v => a.wv (d + 1) v | none => a
  match o.x with | some x => a.wx d x | none => a

/-- An A instruction's entry is performed. -/
def State.vCompute (s : State) (g : Nat) (e : VEntry) : State :=
  let (st, s) := s.fresh
  s.updCore g fun c => c.updArch fun a =>
    let f := vFields e.ins
    let src : VSrc := { a := a.vIn e f.2.1, b := a.vIn e f.2.2, d := a.vIn e f.1, a1 := a.vIn e (f.2.1 + 1) }
    let o := vValue a.tab (Config.openWord st).toInt (Config.openReg st) e.shape e.seed e.xs src e.ins
    ((a.popStreams e.ins).putV e.ins o).vDone

/-- The first poisoned byte of a core transfer: its virtual address. -/
def State.vPoison (s : State) (g w : Nat) (addrs : List (Nat × Nat)) : Option Nat :=
  addrs.findSome? fun p =>
    ((List.range w).find? fun i => s.enginePoison g (p.2 + i)).map (p.1 + ·)

/-- The bytes of a load reach its register. -/
def State.vArrive (s : State) (g : Nat) (e : VEntry) (byte : Nat → Byte) : State :=
  let el := e.addrs.map fun p => leValue ((List.range (vBytes e.shape)).map fun i => byte (p.2 + i))
  let l := match e.ins with
    | .vld _ true _ => (List.replicate (vRows e.shape) el).flatten
    | _ => el
  s.updCore g fun c => c.updArch fun a => (a.wv (vFields e.ins).1 (vPack e.shape l)).vDone

/-- VLD and VGATH read their bytes, where a later load has not fixed them already: a fault, the core contained, or the register
(R138, R412, R429). -/
def State.vLoad (s : State) (g : Nat) (e : VEntry) : State :=
  let w := vBytes e.shape
  match e.seen, s.vPoison g w e.addrs with
  | some m, _ => s.vArrive g e (SMap.get m 0)
  | none, some va => s.vFault g e.ins cPOISON va
  | none, none =>
    let keys := e.keys
    let r := s.fireKeys (dieOf g) true keys
    if r.2 then r.1.contain g 1 0 (keys.headD 0)
    else
      match r.1.vPoison g w e.addrs with
      | some va => r.1.vFault g e.ins cPOISON va
      | none => r.1.vArrive g e (r.1.viewByte g)

/-- VST's data reach its store-buffer entry (R429). A quarantined block faults (R344). -/
def State.vStore (s : State) (g : Nat) (e : VEntry) : State :=
  let w := vBytes e.shape
  match e.addrs.find? (fun p => blockIs s p.2 .quarantined) with
  | some p => s.vFault g e.ins cPOISON p.1
  | none =>
    let a := (s.core g).arch
    let src := a.vIn e (vFields e.ins).1
    let cells := ((List.range e.addrs.length).zip e.addrs).flatMap fun p => cellsOf p.2.2 w (elemAt src (8 * w) p.1)
    let fill (x : SbEntry) : SbEntry := if x.awaits = some e.stamp then { x with bytes := sortCells (cells.filter fun c => x.has c.1), awaits := none } else x
    let s := s.foldLate g ((List.range (ceilDiv (vSize e.shape) 8)).map fun i => BitVec.ofNat 64 (elemAt src 64 i))
    let s := s.updCore g fun c => { c with sb := c.sb.map fill, arch := (c.arch.popStreams e.ins).vDone }
    s.updCore (g / 2 * 2) fun c => { c with pair := { c.pair with journal := c.pair.journal.map fill } }

/-- VSCAT's elements are written in increasing e, and its lines released (R135, R145). -/
def State.vScatter (s : State) (g : Nat) (e : VEntry) : State :=
  let w := vBytes e.shape
  let src := (s.core g).arch.vIn e (vFields e.ins).1
  let s := s.engineWrites (((List.range e.addrs.length).zip e.addrs).map fun p =>
    (s.snapx g p.2.1, cellsOf p.2.2 w (elemAt src (8 * w) p.1)))
  (s.dropAll (.entry g e.stamp)).updCore g fun c => c.updArch fun a => (a.popStreams e.ins).vDone

/-- The entry at work of core g is performed, or faults. -/
def State.vRun (s : State) (g : Nat) (e : VEntry) : State :=
  match (s.core g).arch.streamFault e.ins with
  | some f => s.vFault g e.ins f.1 f.2
  | none =>
    match e.ins with
    | .vld .. => s.vLoad g e
    | .vgath .. => s.vLoad g e
    | .vst .. => s.vStore g e
    | .vscat .. => s.vScatter g e
    | _ => s.vCompute g e

/-- Quad cycles from an entry's last beat to the writing of its result (R169); the SFU's are counted in the return slot. What a load
brings is written as it arrives (R432). -/
def vLatency : Instr → Nat
  | .vlog .. | .vsh .. | .vsel .. | .vperm .. | .vmov .. | .viota .. | .vbits .. | .vabs .. | .vcmp .. => 2
  | .vadd _ _ _ t | .vsub _ _ _ t => if VArith.isFlt t then 4 else 2
  | .vmin _ _ _ t | .vmax _ _ _ t | .vclmp _ _ _ t => if VType.isFlt t then 4 else 2
  | .vmul .. | .vfma .. | .vcvt .. | .venc .. | .vdec .. => 4
  | .vdot _ _ _ t => match t with | .flt .. => 5 | .int _ => 4
  | .vred .. | .vscan .. => 6
  | _ => 0

/-- The result of an entry is written its latency after its last beat, and not before those of earlier entries (R168). -/
def State.vSend (s : State) (g : Nat) (i : Instr) : State :=
  let fly := s.vFlying g
  let land := (fly.map VFly.land).foldl Nat.max (s.clock + vLatency i * s.periodOf g)
  let new : List VFly := if s.clock < land then [{ regs := i.writes, flags := Instr.setsFlags i, land := land }] else []
  s.updCore g fun c => c.updArch fun a => { a with vfly := fly ++ new }

/-- The entry at work of core g is performed; what it wrote joins a pair's fingerprint. -/
def State.vPerform (s : State) (g : Nat) (e : VEntry) : State :=
  let s := s.vRun g e
  if (s.core g).arch.vfault.isSome || (s.core g).contained then s else (s.printEntry g false e.ins).vSend g e.ins

/-- The sequencer of core g writes what its return slot holds (R183). -/
def State.sfuReturn (s : State) (g : Nat) : State :=
  match (s.core g).arch.sfu, (s.core g).arch.vAt with
  | some r, some (_, e) =>
    if s.clock < r.land then s
    else
      (s.updCore g fun c => c.updArch fun a =>
        ({ a with sfu := none }.putV e.ins { v := some r.val, v1 := none, x := none, fl := r.fl }).vDone).printEntry g false e.ins
  | _, _ => s
def State.sfuReturns (s : State) (quad : Nat) : State := (List.range 4).foldl (fun s i => s.sfuReturn (4 * quad + i)) s

/-! ## Arbitration (R169) -/

/-- One grant among the requesters of a list: the winner and the new credits. -/
def arbitrate (all : List Nat) (w : Nat → Nat) (req : Nat → Bool) (cr : SMap Int) : Option Nat × SMap Int :=
  let cr := all.foldl (fun m c => if req c then m else SMap.set m c 0) cr
  let rs := all.filter req
  let heavy := rs.filter fun c => decide (0 < w c)
  let ps := if heavy.isEmpty then rs else heavy
  let wt (c : Nat) : Int := if heavy.isEmpty then 1 else w c
  let cr := ps.foldl (fun m c => SMap.upd m 0 c (· + wt c)) cr
  match bestBy (fun a b => decide (SMap.get cr 0 b < SMap.get cr 0 a)) ps with
  | none => (none, cr)
  | some c => (some c, SMap.upd cr 0 c (· - (ps.map wt).sum))

/-- The weight of a core in VSHARE (R170). -/
def vWeight (sh : Word) (c : Nat) : Nat := fld sh (4 * c + 3) (4 * c)

/-- The head of core g for a kind of unit, its sources ready. An entry is seen from the cycle after it has entered (R298). -/
def State.vHead (s : State) (g : Nat) (u : VUnit) : Option VEntry :=
  match (s.core g).arch.vAt with
  | some (_, e) => if vUnit e.ins = u && decide (e.born < s.clock) && s.vReady g e then some e else none
  | none => none

/-- The vector rail of a die works at half width (R171). -/
def State.vHalf (s : State) (g : Nat) : Bool := (s.ladder (dieOf g)).vhalf

/-- One more beat of the entry at work; with its last beat it is performed. -/
def State.vBeat (s : State) (g : Nat) (e : VEntry) : State :=
  let s := s.owe g (if s.vHalf g && decide (vUnit e.ins = .lane) then 64 else 0)
  if e.beatsNeeded ≤ e.beats + 1 then s.vPerform g e
  else
    s.updCore g fun c => c.updArch fun a =>
      { a with vseq := a.vseq.map fun x => if x.stamp = e.stamp then { x with beats := x.beats + 1 } else x }

/-- A lane group, or the stream port, is granted to a core of the quad. The port keeps credits of its own (DESIGN CHOICE, log entry
86). -/
def State.vGrant (s : State) (quad : Nat) (u : VUnit) (cr : SMap Int) : Option Nat × SMap Int :=
  arbitrate (List.range 4) (vWeight (s.quad quad).vshare) (fun c => (s.vHead (4 * quad + c) u).isSome) cr

def execVectorBeatGrant (quad group : Nat) (s : State) : Step :=
  if 4 ≤ group then .next s
  else
    let s := s.sfuReturns quad
    let r := s.vGrant quad .lane (s.quad quad).credits
    let s := s.updQuad quad fun q => { q with credits := r.2 }
    match r.1 with
    | none => .next s
    | some c => match s.vHead (4 * quad + c) .lane with | some e => .next (s.vBeat (4 * quad + c) e) | none => .next s

def execStreamPortGrant (quad : Nat) (s : State) : Step :=
  let s := s.sfuReturns quad
  let r := s.vGrant quad .port (s.quad quad).portCredits
  let s := s.updQuad quad fun q => { q with portCredits := r.2 }
  match r.1 with
  | none => .next s
  | some c => match s.vHead (4 * quad + c) .port with | some e => .next (s.vBeat (4 * quad + c) e) | none => .next s

/-! ## The SFU (R183) -/

/-- Requests of the cores whose entry at work is a VSFU join the queue, in ascending core number. -/
def State.sfuRequests (s : State) (quad : Nat) : State :=
  (List.range 4).foldl (fun s i =>
    let g := 4 * quad + i
    match s.vHead g .sfu with
    | none => s
    | some e =>
      if s.inSfu g || (s.core g).arch.sfu.isSome then s
      else s.updQuad quad fun q => { q with sfuQ := q.sfuQ ++ [{ core := g, elems := vElems e.shape, cycles := 0, drop := false }] }) s

/-- The results of core g's VSFU land in its return slot, 8 quad cycles after the last SFU cycle. -/
def State.sfuLand (s : State) (g : Nat) : State :=
  match (s.core g).arch.vAt with
  | none => s
  | some (_, e) =>
    match (s.core g).arch.streamFault e.ins with
    | some f => s.vFault g e.ins f.1 f.2
    | none =>
      let a := (s.core g).arch
      let src : VSrc := { a := a.vIn e (vFields e.ins).2.1, b := 0, d := 0, a1 := 0 }
      let o := vValue a.tab 0 0 e.shape e.seed e.xs src e.ins
      let r : SfuRet := { val := o.v.getD 0, fl := o.fl, land := s.clock + 8 * s.periodOf g }
      s.updCore g fun c => c.updArch fun a => { a.popStreams e.ins with sfu := some r }

/-- One SFU cycle: the request at the head of the queue is served. -/
def State.sfuCycle (s : State) (quad : Nat) : State :=
  match (s.quad quad).sfuQ with
  | [] => s
  | r :: rest =>
    let half := s.vHalf r.core
    let s := s.owe r.core (if half && !r.drop && decide (ceilDiv r.elems 16 ≤ r.cycles) then 64 else 0)
    if r.cycles + 1 < ceilDiv r.elems (if half then 8 else 16) then
      s.updQuad quad fun q => { q with sfuQ := { r with cycles := r.cycles + 1 } :: rest }
    else
      let s := s.updQuad quad fun q => { q with sfuQ := rest }
      if r.drop then s else s.sfuLand r.core

def execSfuService (quad : Nat) (s : State) : Step := .next (((s.sfuReturns quad).sfuRequests quad).sfuCycle quad)

end Sys2Proof.Machine
end

