-- ==== Sys2Proof/Machine/MatrixValue.lean ====
section
/-! DEFINITION. Tiles, accumulators and what the matrix instructions compute on them (R186 to R188, R201 to R206). -/

namespace Sys2Proof.Machine


/-- The scale byte of block b of line l (R186). -/
def scaleByte (sh : Word) (l b : Nat) : Nat := if tKax sh then b * tCols sh + l else l * ceilDiv (tCols sh) 32 + b
/-- The scale byte of element (r, c). -/
def scaleOf (sh : Word) (r c : Nat) : Nat := if tKax sh then scaleByte sh c (r / 32) else scaleByte sh r (c / 32)

def Tile.elem (t : Tile) (sh : Word) (r c : Nat) : Nat := elemAt t.data (tBits sh) (r * tCols sh + c)
def Tile.scale (t : Tile) (i : Nat) : Nat := elemAt t.scales 8 i
/-- Elements written row-major from the start of a tile; its other bits stay. -/
def Tile.putElems (t : Tile) (sh : Word) (l : List Nat) : Tile :=
  let w := tBits sh
  if l.isEmpty then t
  else { t with data := setFld t.data (w * l.length - 1) 0 (packElems 65536 w l).toNat }
/-- A scale area of ones: every byte 0x7F (R198). -/
def onesScales : BitVec 1024 := packElems 1024 8 (List.replicate 128 0x7F)
def Tile.putScales (t : Tile) (l : List (Nat × Nat)) : Tile :=
  { t with scales := l.foldl (fun s p => setFld s (8 * p.1 + 7) (8 * p.1) p.2) t.scales }
/-- Poison leaves the 32-byte sectors that n bytes from the start write in full (R197). -/
def Tile.cleanse (t : Tile) (n : Nat) : Tile := { t with poison := t.poison.filter fun p => !decide (p.1 < n / 32) }

/-- Sectors of a tile are numbered from 0; those of its scale area from this number. -/
def scaleSector : Nat := 256
/-- The address of the first poisoned sector among n bytes of data and k scale bytes. -/
def Tile.poisonIn (t : Tile) (n k : Nat) : Option Nat :=
  (t.poison.find? fun p => decide (p.1 < ceilDiv n 32) || (decide (scaleSector ≤ p.1) && decide (p.1 < scaleSector + ceilDiv k 32))).map
    Prod.snd
/-- Poison leaves the sectors of the scale area that k scale bytes write in full. -/
def Tile.cleanseScales (t : Tile) (k : Nat) : Tile :=
  { t with poison := t.poison.filter fun p => !(decide (scaleSector ≤ p.1) && decide (p.1 < scaleSector + k / 32)) }

/-- The element type of a matrix operand type, and its W code and width class (R192, R200). -/
def MType.e : MType → EType
  | .f16 => .f16 | .bf16 => .bf16 | .e4m3 => .e4m3 | .e5m2 => .e5m2 | .e2m1 => .e2m1 | .tbl8 => .tbl8
def MType.wCode : MType → Nat
  | .f16 | .bf16 => 2 | .e2m1 => 0 | _ => 1
/-- The elements of a chunk of K (R94). -/
def MType.chunk : MType → Nat
  | .f16 | .bf16 => 16 | _ => 32
/-- Layer cycles of a granule at full width, and the rate of R404. -/
def MType.cycles : MType → Nat
  | .e2m1 => 4 | _ => 16
def MType.rate : MType → Nat
  | .f16 | .bf16 => 1 | .e2m1 => 8 | _ => 2

/-- An operand element as an exact value with its block scale (R201). -/
def mValue (tab : SMap TabEntry) (ty : MType) (sc : Bool) (t : Tile) (sh : Word) (r c : Nat) : FV × FpFlags :=
  let v := srcValue tab (MType.e ty) (t.elem sh r c)
  if sc then (scaled (t.scale (scaleOf sh r c)) v.1, v.2) else v

/-- The exact difference of two values (MDIST). -/
def FV.sub (a b : FV) : FV × FpFlags :=
  match a, b with
  | .nan s, b => (.nan false, nanFlags (s || b.isSig))
  | a, .nan s => (.nan false, nanFlags (s || a.isSig))
  | .inf p, .inf q => if p = q then (.nan false, fNV) else (.inf p, 0)
  | .inf p, _ => (.inf p, 0)
  | _, .inf q => (.inf (!q), 0)
  | a, b => let s := sumInt [a, b.negate]; (.fin (decide (s.1 < 0)) s.1.natAbs s.2, 0)

inductive AccOp | mma | mmas | mdist
  deriving DecidableEq, Repr

/-- One term of a chunk with its flags (R201). -/
def accTerm (op : AccOp) (a b : FV × FpFlags) : FV × FpFlags :=
  let fl := a.2 ||| b.2
  match op with
  | .mma => let p := FV.mul a.1 b.1; (p.1, fl ||| p.2)
  | .mmas => let p := FV.mul a.1 b.1; (p.1.negate, fl ||| p.2)
  | .mdist => let d := FV.sub a.1 b.1; let p := FV.mul d.1 d.1; (p.1, fl ||| d.2 ||| p.2)

/-- The operands of an accumulating entry as it is performed. -/
structure MArgs where
  op : AccOp
  fmt : Fmt
  tab : SMap TabEntry
  ta : Tile
  tb : Tile
  sa : Word
  sb : Word
  mode : Rnd
  side : Nat

def MArgs.chunk (m : MArgs) : Nat := MType.chunk m.fmt.ta
def MArgs.chunks (m : MArgs) : Nat := ceilDiv (tCols m.sa) m.chunk
/-- The terms of chunk q for element (i, j), padded with zeros (R94), which are +0 (DESIGN CHOICE, log entry 76). -/
def MArgs.terms (m : MArgs) (q i j : Nat) : List (FV × FpFlags) :=
  (List.range m.chunk).map fun o =>
    let k := q * m.chunk + o
    if k < tCols m.sa then
      accTerm m.op (mValue m.tab m.fmt.ta m.fmt.sa m.ta m.sa i k) (mValue m.tab m.fmt.tb m.fmt.sb m.tb m.sb k j)
    else (.fin false 0 0, 0)

/-- Chunk q added into the chain, row-major, with its draws (R94, R201). -/
def MArgs.addChunk (m : MArgs) (ds : List Nat) (acc : SMap (BitVec 32) × FpFlags) (q : Nat) : SMap (BitVec 32) × FpFlags :=
  let n := tCols m.sb
  (List.range (tRows m.sa * n)).foldl (fun acc e =>
    let at' := e / n * m.side + e % n
    let ts := m.terms q (e / n) (e % n)
    let r := accChunk (decodeF .f32 (SMap.get acc.1 0 at').toNat) (ts.map Prod.fst) (orFlags (ts.map Prod.snd)) m.mode
      ((ds[q * (tRows m.sa * n) + e]?).getD 0)
    (SMap.set acc.1 at' (BitVec.ofNat 32 r.1), acc.2 ||| r.2)) acc

def MArgs.run (m : MArgs) (seed : BitVec 32) (chain : SMap (BitVec 32)) : SMap (BitVec 32) × FpFlags :=
  (List.range m.chunks).foldl (m.addChunk (drawsFor m.mode (tRows m.sa * tCols m.sb * m.chunks) seed)) (chain, 0)

/-- MTRAN (R203): elements, scales and poison move to their transposed places. -/
def transpose (src dst : Tile) (sa sd : Word) : Tile :=
  let w := tBits sa
  let idx := (List.range (tRows sd)).flatMap fun r => (List.range (tCols sd)).map fun c => (c, r)
  let t := dst.putElems sd (idx.map fun p => src.elem sa p.1 p.2)
  let scs := (List.range (tLines sa)).flatMap fun l => (List.range (tBlocks sa)).map fun b => (scaleByte sd l b, src.scale (scaleByte sa l b))
  let from' (e : Nat) : Option Nat := SMap.get? src.poison ((e * w) / 256)
  let bits := ((List.range idx.length).zip idx).filterMap fun p =>
    (from' (p.2.1 * tCols sa + p.2.2)).map fun ad => ((p.1 * w) / 256, ad)
  let scBits := (List.range (tLines sa)).flatMap fun l => (List.range (tBlocks sa)).filterMap fun b =>
    (SMap.get? src.poison (scaleSector + scaleByte sa l b / 32)).map fun ad => (scaleSector + scaleByte sd l b / 32, ad)
  let bits := bits ++ scBits
  let clean := ((t.cleanse (tSize sd)).cleanseScales (scaleBytes sd)).putScales scs
  { clean with poison := bits.foldl (fun m p => if (SMap.get? m p.1).isSome then m else SMap.set m p.1 p.2) clean.poison }

/-- MCVT (R204): the elements of an accumulator narrowed into a tile. -/
def convertTile (tab : SMap TabEntry) (free : Int) (t : EType) (sc infOvf : Bool) (r : Rnd) (seed : BitVec 32) (side : Nat)
    (acc : SMap (BitVec 32)) (dst : Tile) (sh : Word) : Tile × FpFlags :=
  let n := tCols sh
  let ds := drawsFor r (tElems sh) seed
  let val (i j : Nat) : FV := decodeF .f32 (SMap.get acc 0 (i * side + j)).toNat
  let clean := { dst with poison := [] }
  if !sc then
    let o := collect ((List.range (tElems sh)).map fun e => toType tab t infOvf r ((ds[e]?).getD 0) (val (e / n) (e % n)))
    ({ clean.putElems sh o.1 with scales := onesScales }, o.2)
  else
    -- the blocks of a line, each with the numbers of its elements
    let place (l k : Nat) : Nat := if tKax sh then k * n + l else l * n + k
    let bs := (List.range (tLines sh)).flatMap fun l => (List.range (tBlocks sh)).map fun b =>
      let es := (List.range 32).map fun k => place l (32 * b + k)
      (scaleByte sh l b, es, scaleBlock tab free t r (es.map fun e => (val (e / n) (e % n), (ds[e]?).getD 0)))
    let m : SMap Nat := bs.foldl (fun m b => (b.2.1.zip b.2.2.2.1).foldl (fun m p => SMap.set m p.1 p.2) m) []
    ((clean.putElems sh ((List.range (tElems sh)).map (SMap.get m 0))).putScales (bs.map fun b => (b.1, b.2.2.1)),
      orFlags (bs.map fun b => b.2.2.2.2))

/-- One element of MEW other than .relu (R205). -/
def mewElem (op : MewOp) (r : Rnd) (rnd : Nat) (acc : BitVec 32) (u : FV × FpFlags) : Nat × FpFlags :=
  let a := decodeF .f32 acc.toNat
  match op with
  | .mul => let p := FV.mul a u.1; let o := roundFV .f32 r rnd p.1; (o.1, u.2 ||| p.2 ||| o.2)
  | .max =>
    if a.isNaN || u.1.isNaN then (FK.f32.canonNaN, u.2 ||| nanFlags (a.isSig || u.1.isSig))
    else if a.lt u.1 || (a.eqv u.1 && a.isNeg && !u.1.isNeg) then let o := roundFV .f32 r rnd u.1; (o.1, u.2 ||| o.2)
    else (acc.toNat, u.2)
  | _ => let o := sumRound .f32 r rnd [a, u.1] u.2; (o.1, o.2)

/-- MEW.relu of one element: the accumulator where it is above zero; NaN gives the canonical NaN. -/
def reluElem (acc : BitVec 32) : Nat × FpFlags :=
  match decodeF .f32 acc.toNat with
  | .nan sig => (FK.f32.canonNaN, nanFlags sig)
  | v => (if FV.lt (.fin false 0 0) v then acc.toNat else 0, 0)

/-- MEW over the tile's block, or the whole accumulator for .relu (R205). -/
def mewRun (tab : SMap TabEntry) (fmt : Fmt) (op : MewOp) (bcast : Bool) (r : Rnd) (seed : BitVec 32) (side : Nat) (t : Tile) (sh : Word)
    (acc : SMap (BitVec 32)) : SMap (BitVec 32) × FpFlags :=
  match op with
  | .relu =>
    (List.range (side * side)).foldl (fun m e =>
      let o := reluElem (SMap.get acc 0 e)
      (SMap.set m.1 e (BitVec.ofNat 32 o.1), m.2 ||| o.2)) (acc, 0)
  | op =>
    let n := tCols sh
    let ds := drawsFor r (tElems sh) seed
    (List.range (tElems sh)).foldl (fun m e =>
      let i := e / n
      let j := e % n
      let row := if bcast then 0 else i
      let u := if tBits sh = 32 then (decodeF .f32 (t.elem sh row j), (0 : FpFlags)) else mValue tab fmt.ta fmt.sa t sh row j
      let o := mewElem op r ((ds[e]?).getD 0) (SMap.get acc 0 (i * side + j)) u
      (SMap.set m.1 (i * side + j) (BitVec.ofNat 32 o.1), m.2 ||| o.2)) (acc, 0)

/-- MTOPK's order: a number before a NaN, then by value, then the lower column (R206). -/
def topBefore (largest : Bool) (a b : Nat × FV) : Bool :=
  if a.2.isNaN then b.2.isNaN && decide (a.1 < b.1)
  else if b.2.isNaN then true
  else if largest then b.2.lt a.2 || (a.2.eqv b.2 && decide (a.1 < b.1))
  else a.2.lt b.2 || (a.2.eqv b.2 && decide (a.1 < b.1))

/-- MTOPK (R206). -/
def topk (largest : Bool) (n side : Nat) (acc : SMap (BitVec 32)) (dst : Tile) (sh : Word) : Tile :=
  let k := tCols sh
  let row (i : Nat) : List Nat :=
    let cs := (List.range n).map fun j => (j, decodeF .f32 (SMap.get acc 0 (i * side + j)).toNat)
    let best := ((sortBy (topBefore largest) cs).take k).map Prod.fst
    best ++ List.replicate (k - best.length) 0xFFFF
  (dst.putElems sh ((List.range (tRows sh)).flatMap row)).cleanse (tSize sh)

end Sys2Proof.Machine
end

