-- ==== Sys2Proof/Machine/Matrix.lean ====
section
/-! DEFINITION. The MXU queue at issue and as the cluster performs it: granules, the tile port, and the matrix
instructions with TLD and TST (R145, R146, R186 to R207, R403, R404, R409). -/

namespace Sys2Proof.Machine

/-! ## Issue-side checks (R189, R193, R194) -/

/-- MXFMT with the register at fault and the reason (R194). -/
def State.mxfmt (s : State) (reg code : Nat) : Step := trapStep s cMXFMT (BitVec.ofNat 64 (reg <<< 4 + code))

/-- The shape of a tile as last written in program order, in the bank that names it now. -/
def State.ishape (s : State) (n : Nat) : Word := SMap.get s.me.bank.ishape (tshapeReset (layerOf s.cur)) n
def State.isOpen (s : State) (n : Nat) : Bool := s.me.bank.iopen.contains n
def State.updBank (s : State) (f : Bank → Bank) : State := s.updMe fun c => c.setBankOf c.arch.tm (f c.bank)

/-- A matrix instruction joins the queue, its draws claimed; a full queue holds the bundle (R83, R189). -/
def State.issueM (s : State) (i : Instr) (xs : List Word) (draws : Nat) (f : Bank → Bank) : Step :=
  if mxqDepth ≤ s.me.arch.mxq.length then s.hold cMXQ
  else
    let seed := s.me.arch.srseed
    let s := (s.updArch fun a => { a with srseed := xsN draws a.srseed }).updBank f
    .next (s.pushMxq i s.me.arch.tm xs seed [])

/-- MFMT (R200). -/
def mfmtOk (ta tb : MType) (sa sb : Bool) : Bool :=
  decide (MType.wCode ta = MType.wCode tb)
  && (match MType.wCode ta with | 2 => !sa && !sb | 0 => sa && sb | _ => true)
def execMfmt (ta tb : MType) (sa sb ovr : Bool) (s : State) : Step :=
  if !mfmtOk ta tb sa sb then s.mxfmt 0 6
  else s.issueM (.mfmt ta tb sa sb ovr) [] 0 fun b => { b with ifmt := { ta := ta, tb := tb, sa := sa, sb := sb, ovr := ovr } }

/-- A K dimension that block scales need (R201). -/
def kOk (sc : Bool) (k : Nat) : Bool := !sc || decide (k % 32 = 0)

/-- MMA, MMAS and MDIST at issue (R201). Here and in MCVT, MEW and MTOPK the batch states are checked before shapes and widths, where
both fail (DESIGN CHOICE, log entry 87). -/
def State.accumulate (s : State) (i : Instr) (d a b : Reg) (r : Rnd) : Step :=
  let f := s.me.bank.ifmt
  let sa := s.ishape a.toNat
  let sb := s.ishape b.toNat
  if !s.isOpen d.toNat then s.mxfmt d.toNat 1
  else if fld sa 1 0 ≠ MType.wCode f.ta || tKax sa || !kOk f.sa (tCols sa) then s.mxfmt a.toNat 5
  else if fld sb 1 0 ≠ MType.wCode f.tb || !tKax sb || !kOk f.sb (tRows sb) then s.mxfmt b.toNat 5
  else if tCols sa ≠ tRows sb then s.mxfmt b.toNat 5
  else s.issueM i [] (if r = .sr then tRows sa * tCols sb * ceilDiv (tCols sa) (MType.chunk f.ta) else 0) id

def execMma (d a b : Reg) (r : Rnd) (s : State) : Step := s.accumulate (.mma d a b r) d a b r
def execMmas (d a b : Reg) (r : Rnd) (s : State) : Step := s.accumulate (.mmas d a b r) d a b r
def execMdist (d a b : Reg) (r : Rnd) (s : State) : Step := s.accumulate (.mdist d a b r) d a b r

def execMzero (d : Reg) (tile : Bool) (s : State) : Step :=
  if !tile && s.isOpen d.toNat then s.mxfmt d.toNat 4 else s.issueM (.mzero d tile) [] 0 id

def execMopen (d : Reg) (s : State) : Step :=
  if s.isOpen d.toNat then s.mxfmt d.toNat 2
  else s.issueM (.mopen d) [] 0 fun b => { b with iopen := d.toNat :: b.iopen }
def execMclose (d : Reg) (s : State) : Step :=
  if !s.isOpen d.toNat then s.mxfmt d.toNat 3
  else s.issueM (.mclose d) [] 0 fun b => { b with iopen := b.iopen.filter (· ≠ d.toNat) }

/-- MTRAN (R203): its shapes must be each other's transposes. -/
def execMtran (d a : Reg) (s : State) : Step :=
  let sd := s.ishape d.toNat
  let sa := s.ishape a.toNat
  if tRows sd ≠ tCols sa || tCols sd ≠ tRows sa || fld sd 1 0 ≠ fld sa 1 0 || tKax sd == tKax sa then s.mxfmt d.toNat 5
  else s.issueM (.mtran d a) [] 0 id

/-- The W code a destination type needs (R204). -/
def mcvtW (t : EType) : Nat :=
  match EType.bits t with | 32 => 3 | 16 => 2 | 8 => 1 | _ => 0
def execMcvt (d a : Reg) (t : EType) (sc : Bool) (ovf : McvtOvf) (r : Rnd) (s : State) : Step :=
  let sd := s.ishape d.toNat
  if s.isOpen a.toNat then s.mxfmt a.toNat 4
  else if fld sd 1 0 ≠ mcvtW t || (sc && (!EType.narrow t || tK sd % 32 ≠ 0)) || (!sc && decide (t = .e2m1)) then s.mxfmt d.toNat 5
  else s.issueM (.mcvt d a t sc ovf r) [] (if r = .sr then tElems sd else 0) id

def execMew (d a : Reg) (op : MewOp) (bcast : Bool) (r : Rnd) (s : State) : Step :=
  let sa := s.ishape a.toNat
  if s.isOpen d.toNat then s.mxfmt d.toNat 4
  else if op ≠ .relu && decide (fld sa 1 0 ≠ 3) && decide (fld sa 1 0 ≠ MType.wCode s.me.bank.ifmt.ta) then s.mxfmt a.toNat 5
  else s.issueM (.mew d a op bcast r) [] (if r = .sr then tElems sa else 0) id

def execMtopk (d a b : Reg) (largest : Bool) (s : State) : Step :=
  let sd := s.ishape d.toNat
  let n := (s.me.x b).toNat
  if s.isOpen a.toNat then s.mxfmt a.toNat 4
  else if fld sd 1 0 ≠ 2 || 16 < tCols sd || n = 0 || side (layerOf s.cur) < n then s.mxfmt d.toNat 5
  else s.issueM (.mtopk d a b largest) [s.me.x b] 0 id

/-- The accumulator an entry reads or writes. -/
def accOf : Instr → Option Nat
  | .mma d _ _ _ | .mmas d _ _ _ | .mdist d _ _ _ | .mopen d | .mclose d | .mew d _ _ _ _ => some d.toNat
  | .mzero d false => some d.toNat
  | .mtopk _ a _ _ | .mcvt _ a _ _ _ _ => some a.toNat
  | _ => none
def MEntry.isTst (e : MEntry) : Bool := match e.ins with | .tst .. => true | _ => false

/-- MWAIT (R207): it waits in trap mode for the strand's entries too. -/
def execMwait (d : Reg) (named : Bool) (s : State) : Step :=
  let tm := s.me.arch.tm
  let waits (e : MEntry) : Bool :=
    !named || e.isTst || (tm && !e.trap) || (decide (e.trap = tm) && decide (accOf e.ins = some d.toNat))
  if s.me.arch.mxq.any waits then s.hold cMXQ else .next s

/-! ### TLD and TST (R145, R146, R198) -/

def pageKey (pages : List (Nat × Nat)) (va : Nat) : Nat :=
  pages.foldl (fun acc p => if p.1 ≤ va then p.2 + (va - p.1) else acc) 0
/-- Bytes from the data's start to the scales of TLD.sc (R198). -/
def scalesAt (sh : Word) : Nat := 64 * ceilDiv (tSize sh) 64
/-- Bytes a TLD reads or a TST writes, from its address. -/
def tileSpan (sh : Word) (sc : Bool) : Nat := if sc then scalesAt sh + scaleBytes sh else tSize sh
/-- The offsets of those bytes. -/
def tileOffsets (sh : Word) (sc : Bool) : List Nat :=
  List.range (tSize sh) ++ (if sc then (List.range (scaleBytes sh)).map (scalesAt sh + ·) else [])

/-- The virtual pages that the bytes of a transfer lie in, with a first address in each. -/
def tilePages (sh : Word) (va : Nat) (sc : Bool) : List Nat :=
  ((tileOffsets sh sc).foldl (fun l o => if l.any (fun p => decide (p / 4096 = (va + o) / 4096)) then l else l ++ [va + o]) [])

/-- Translate a tile transfer's pages at issue (R136, R139). -/
def State.tileXlate (s : State) (g : Nat) (k : XKind) (ps : List Nat) : State × Except (Nat × Nat) (List (Nat × Nat)) :=
  ps.foldl (fun r p =>
    match r.2 with
    | .error e => (r.1, .error e)
    | .ok l =>
      match r.1.translate g (p % 2 ^ 64) k with
      | (s, .error e) => (s, .error (e, p % 2 ^ 64))
      | (s, .ok x) => if isControl x.pa then (s, .error (cPROT, p % 2 ^ 64)) else (s, .ok (l ++ [(p, x.pa)]))) (s, .ok [])

/-- TLD and TST at issue: ALIGN first, then MXFMT, then the translation's fault (DESIGN CHOICE, log entry 87). -/
def State.tileMove (s : State) (write : Bool) (i : Instr) (d : Reg) (sc : Bool) (m : MemOp) : Step :=
  let ea := MemOp.ea s.me 64 m
  let sh := s.ishape d.toNat
  if ea.toNat % 64 ≠ 0 then trapStep s cALIGN ea
  else if sc && decide (tK sh % 32 ≠ 0) then s.mxfmt d.toNat 5
  else
    let k : XKind := if write then .ewrite else .eread
    let ps := tilePages sh ea.toNat sc
    if ps.any (fun p => s.walkWaits (s.linksWait (dieOf s.cur)) s.cur p 1 k) then s.hold cMEM
    else
    match s.tileXlate s.cur k ps with
    | (s, .error (e, v)) => .next (s.trap e (BitVec.ofNat 64 v))
    | (s, .ok pages) =>
      let keys := (tileOffsets sh sc).map fun o => pageKey pages (ea.toNat + o)
      if keys.any (fun k => decide (s.window k = .waits)) || keys.any s.moving then s.hold cMEM
      else if mxqDepth ≤ s.me.arch.mxq.length then s.hold cMXQ
      else if write && (!s.me.sb.isEmpty || s.me.vwork.any VEntry.isVld
          || [0, 1].any fun d => (s.die d).past.any fun p => keys.any p.ent.has) then s.hold cMEM
      else
        match (if write then s.ownWait s.cur none keys else none) with
        | some c => s.hold c
        | none =>
          let s := s.recordHosts k (pages.map Prod.fst)
          let own := if write then s.takeLines (.entry s.cur s.stamp) keys else s
          .next ((own.extraCycles (pages.length - 1)).pushMxq i s.me.arch.tm [ea] 0 pages)

def execTld (d : Reg) (sc : Bool) (m : MemOp) (s : State) : Step := s.tileMove false (.tld d sc m) d sc m
def execTst (d : Reg) (m : MemOp) (s : State) : Step := s.tileMove true (.tst d m) d false m

/-! ## Performing an entry -/

/-- A fault of the queue's head (R137). -/
def State.mFault (s : State) (g va : Nat) : State :=
  s.updCore g fun c => c.updArch fun a =>
    { a with mfault := some { cause := cPOISON, val := BitVec.ofNat 64 va }, mheld := true,
             mxq := match a.mxq with | [] => [] | e :: r => { e with done := 0 } :: r }

/-- The head leaves the queue with a new bank and its flags. -/
def State.mDone (s : State) (g : Nat) (e : MEntry) (b : Bank) (fl : FpFlags) : State :=
  (s.updCore g fun c => { (c.setBankOf e.trap b).updArch fun a => { a with mxq := a.mxq.tail, fpst := a.fpst ||| fl } with
    mxLast := some s.clock }).printEntry g e.trap e.ins

/-- The address of a poisoned sector an entry reads. -/
def mPoison (b : Bank) (k : Nat) (i : Instr) : Option Nat :=
  let of (t : Nat) (sc : Bool) : Option Nat := (b.tile t).poisonIn (tSize (b.shape k t)) (if sc then scaleBytes (b.shape k t) else 0)
  match i with
  | .mma _ a c _ | .mmas _ a c _ | .mdist _ a c _ =>
    match of a.toNat b.fmt.sa with | some x => some x | none => of c.toNat b.fmt.sb
  | .mew _ _ .relu _ _ => none
  | .mew _ a _ bc _ =>
    let sh := b.shape k a.toNat
    -- of a broadcast the first row and its blocks
    let sc := if !b.fmt.sa || decide (tBits sh = 32) then 0 else if !bc then scaleBytes sh else if tKax sh then tCols sh else tBlocks sh
    (b.tile a.toNat).poisonIn (if bc then (tCols sh * tBits sh + 7) / 8 else tSize sh) sc
  | _ => none

def Accum.mapCur (x : Accum) (r : SMap (BitVec 32)) : Accum := x.setCur r

/-- An accumulating entry on a bank. -/
def Bank.accumulate (b : Bank) (tab : SMap TabEntry) (k : Nat) (op : AccOp) (d a c : Nat) (mode : Rnd) (seed : BitVec 32) : Bank × FpFlags :=
  let m : MArgs :=
    { op := op, fmt := b.fmt, tab := tab, ta := b.tile a, tb := b.tile c, sa := b.shape k a, sb := b.shape k c, mode := mode, side := side k }
  let r := m.run seed (b.acc d).cur
  (b.setAcc d ((b.acc d).setCur r.1), r.2)

/-- The effect of a matrix entry on its bank, with its flags (R192, R193, R200 to R206). -/
def Bank.step (b : Bank) (tab : SMap TabEntry) (free : Int) (k : Nat) (seed : BitVec 32) (xs : List Word) (i : Instr) : Bank × FpFlags :=
  match i with
  | .mfmt ta tb sa sb ovr => ({ b with fmt := { ta := ta, tb := tb, sa := sa, sb := sb, ovr := ovr } }, 0)
  | .mma d a c r => b.accumulate tab k .mma d.toNat a.toNat c.toNat r seed
  | .mmas d a c r => b.accumulate tab k .mmas d.toNat a.toNat c.toNat r seed
  | .mdist d a c r => b.accumulate tab k .mdist d.toNat a.toNat c.toNat r seed
  | .mzero d true => (b.setTile d.toNat { data := 0, scales := onesScales, poison := [] }, 0)
  | .mzero d false => (b.setAcc d.toNat Accum.zero, 0)
  | .mopen d => (b.setAcc d.toNat { (b.acc d.toNat) with chain := some (b.acc d.toNat).val }, 0)
  | .mclose d => (b.setAcc d.toNat { val := (b.acc d.toNat).cur, chain := none }, 0)
  | .mtran d a => (b.setTile d.toNat (transpose (b.tile a.toNat) (b.tile d.toNat) (b.shape k a.toNat) (b.shape k d.toNat)), 0)
  | .mcvt d a t sc ovf r =>
    let infOvf := match ovf with | .ctx => b.fmt.ovr | .sat => false | .inf => true
    -- integers clamp whatever the overflow rule (R93)
    let o := convertTile tab free t sc infOvf r seed (side k) (b.acc a.toNat).val (b.tile d.toNat) (b.shape k d.toNat)
    (b.setTile d.toNat o.1, o.2)
  | .mew d a op bc r =>
    let o := mewRun tab b.fmt op bc r seed (side k) (b.tile a.toNat) (b.shape k a.toNat) (b.acc d.toNat).val
    (b.setAcc d.toNat { (b.acc d.toNat) with val := o.1 }, o.2)
  | .mtopk d a _ largest =>
    (b.setTile d.toNat (topk largest ((xs[0]?).getD 0).toNat (side k) (b.acc a.toNat).val (b.tile d.toNat) (b.shape k d.toNat)), 0)
  | .tshapeWrite n _ _ => ({ b with tshape := SMap.set b.tshape n.toNat ((xs[0]?).getD 0) }, 0)
  | _ => (b, 0)

/-- An array entry, or a write of TSHAPEn, is performed. -/
def State.mPerform (s : State) (g : Nat) (e : MEntry) : State :=
  let c := s.core g
  let b := c.bankOf e.trap
  match mPoison b (layerOf g) e.ins with
  | some va => s.mFault g va
  | none =>
    let (st, s) := s.fresh
    let r := b.step c.arch.tab (Config.openWord st).toInt (layerOf g) e.seed e.xs e.ins
    s.mDone g e r.1 r.2

/-- TLD's bytes reach the tile (R197, R198): poisoned sectors read as zero and leave a poison bit with their address. -/
def State.tileLoad (s : State) (g : Nat) (e : MEntry) (d : Nat) (sc : Bool) : State :=
  let b := (s.core g).bankOf e.trap
  let sh := b.shape (layerOf g) d
  let va := ((e.xs[0]?).getD 0).toNat
  let key (o : Nat) : Nat := pageKey e.pages (va + o)
  let s := (s.fireKeys (dieOf g) false ((tileOffsets sh sc).map key)).1
  let bad (o : Nat) : Bool := s.enginePoison g (key o)
  let byte (o : Nat) : Nat := if bad o then 0 else (s.viewByte g (key o)).toNat
  let n := tSize sh
  let t := (b.tile d)
  let data := if n = 0 then t.data else setFld t.data (8 * n - 1) 0 (packElems 65536 8 ((List.range n).map byte)).toNat
  let clean := { (t.cleanse n) with data := data }
  let dataBad := (List.range (ceilDiv n 32)).filter fun i => bad (32 * i)
  let scBad := if sc then (List.range (ceilDiv (scaleBytes sh) 32)).filter (fun i => bad (scalesAt sh + 32 * i)) else []
  let scales : BitVec 1024 :=
    if sc then ((List.range (scaleBytes sh)).foldl (fun v i => setFld v (8 * i + 7) (8 * i) (byte (scalesAt sh + i))) t.scales) else onesScales
  let kept := if sc then (clean.cleanseScales (scaleBytes sh)).poison else clean.poison.filter fun p => decide (p.1 < scaleSector)
  let ps := dataBad.map (fun i => (i, va + 32 * i)) ++ scBad.map fun i => (scaleSector + i, va + scalesAt sh + 32 * i)
  let t' : Tile := { data := clean.data, scales := scales, poison := ps.foldl (fun m p => SMap.set m p.1 p.2) kept }
  s.mDone g e (b.setTile d t') 0

/-- TST's bytes reach memory (R197): a poisoned tile sector leaves a poisoned memory sector. -/
def State.tileStore (s : State) (g : Nat) (e : MEntry) (d : Nat) : State :=
  let b := (s.core g).bankOf e.trap
  let sh := b.shape (layerOf g) d
  let va := ((e.xs[0]?).getD 0).toNat
  let n := tSize sh
  let t := b.tile d
  let bad (o : Nat) : Bool := (SMap.get? t.poison (o / 32)).isSome
  let cells (x : Bool) : List Host.Cell := ((List.range n).filter fun o => s.snapx g (va + o) = x).map fun o =>
    (pageKey e.pages (va + o), if bad o then (0 : Byte) else BitVec.ofNat 8 (elemAt t.data 8 o))
  let lost := ((List.range (ceilDiv n 32)).filter fun i => bad (32 * i)).map fun i => pageKey e.pages (va + 32 * i)
  let lost := lost.filter fun k => !s.unwritable k
  let s := lost.foldl (fun s k => s.setPoison (k / 32)) (s.engineWrites [(false, cells false), (true, cells true)])
  (s.dropAll (.entry g e.stamp)).mDone g e b 0

/-! ## The array (R190, R191, R403, R404) -/

/-- An entry that uses the array. -/
def usesArray : Instr → Bool
  | .tld .. | .tst .. | .tshapeWrite .. => false
  | _ => true
def usesPort : Instr → Bool
  | .tld .. | .tst .. => true
  | _ => false

/-- The granules of an entry, and the progress units each needs (R190, R404). -/
def granules (b : Bank) (k : Nat) : Instr → Nat
  | .mma _ a _ _ | .mmas _ a _ _ | .mdist _ a _ _ => ceilDiv (tCols (b.shape k a.toNat)) (MType.chunk b.fmt.ta)
  | _ => 1
def unitsOf (b : Bank) (k : Nat) : Instr → Nat
  | .mma .. | .mmas .. | .mdist .. => MType.chunk b.fmt.ta * side k
  | .mcvt d _ _ _ _ _ => tRows (b.shape k d.toNat) * side k
  | .mew _ _ .relu _ _ => side k * side k
  | .mew _ a _ _ _ => tRows (b.shape k a.toNat) * side k
  | .mtran _ a => tRows (b.shape k a.toNat) * side k
  | .mtopk d _ _ _ => 2 * tRows (b.shape k d.toNat) * side k
  | _ => 0
/-- Entries of one cycle whatever the grant. -/
def oneCycle : Instr → Bool
  | .mfmt .. | .mzero .. | .mopen .. | .mclose .. => true
  | _ => false
/-- The units a cycle with g columns adds. -/
def rateOf (b : Bank) : Instr → Nat
  | .mma .. | .mmas .. | .mdist .. => MType.rate b.fmt.ta
  | _ => 1

/-- The entry at the head of a core's queue; none while it is held. -/
def Core.mHead (c : Core) : Option MEntry := if c.arch.mheld then none else c.arch.mxq.head?
/-- The same for the layer cycle at hand: behind an entry that has finished in it the next one starts in the following cycle
(R190). -/
def State.mHead (s : State) (g : Nat) : Option MEntry := if (s.core g).mxLast = some s.clock then none else (s.core g).mHead

def mxWeight (sh : Word) (q : Nat) : Nat := fld sh (4 * q + 3) (4 * q)

/-- The matrix rail of a die works at half width, which halves an MXU's cap (R400). -/
def State.mHalf (s : State) (d : Nat) : Bool := (s.ladder d).mhalf
def State.mxCap (s : State) (m : Nat) : Nat :=
  let sd := side (clusterLayer m)
  if s.mHalf (m / 170) then sd / 2 else sd
def State.qps (s : State) (d k : Nat) : Nat := fld (s.die d).ramptbl (16 * k + 3) (16 * k)

/-! ## The slew limiter (R403) -/

/-- The layer of a slew domain of a die, and the package-wide number of its cluster m. -/
def slewLayer (dom : Nat) : Nat := let r := dom % 22; if r < 16 then 0 else if r < 20 then 1 else if r < 21 then 2 else 3
def slewCluster (dom m : Nat) : Nat :=
  let k := slewLayer dom
  dom / 22 * 170 + layerBase k / 8 + 8 * (dom % 22 - domBase k) + m
/-- The clusters of a domain by domain-local index. -/
def slewMembers (dom : Nat) : List Nat := List.range (if slewLayer dom = 3 then 2 else 8)

/-- An MXU holds a granted granule or a queue that is not empty. -/
def State.hasWork (s : State) (m : Nat) : Bool :=
  (s.cluster m).work.isSome || (List.range 8).any fun q => !(s.core (8 * m + q)).arch.mxq.isEmpty

def Slew.gOf (x : Slew) (m : Nat) : Nat := SMap.get x.g 0 m
def Slew.fOf (x : Slew) (m : Nat) : Nat := SMap.get x.f 0 m
def Slew.quiescent (x : Slew) : Bool := (List.range 8).all fun m => decide (x.gOf m = 0) && decide (x.fOf m = 0)
def Slew.setG (x : Slew) (m v : Nat) : Slew := { x with g := if v = 0 then SMap.del x.g m else SMap.set x.g m v }
def Slew.setF (x : Slew) (m v : Nat) : Slew := { x with f := if v = 0 then SMap.del x.f m else SMap.set x.f m v }

/-- Working columns above an MXU's cap become filler. -/
def Slew.shed (x : Slew) (m cap : Nat) : Slew :=
  let q := ceilDiv (x.gOf m - cap) 16 * 16
  if q = 0 then x else (x.setG m (x.gOf m - q)).setF m (x.fOf m + q)

/-- The lowest filler loses 16 columns. -/
def Slew.dropFiller (x : Slew) : Option Slew :=
  ((List.range 8).find? fun n => decide (0 < x.fOf n)).map fun n => x.setF n (x.fOf n - 16)

/-- Quanta are handed out, round robin after `last`; transfers of filler do not use up. -/
def Slew.handOut (caps : List Nat) : Nat → Nat → Slew → Slew
  | 0, _, x => x
  | fuel + 1, up, x =>
    let cap (m : Nat) : Nat := (caps[m]?).getD 0
    match ((List.range 8).map fun i => (x.last + 1 + i) % 8).find? fun m => decide (x.gOf m < cap m) with
    | none => x
    | some m =>
      let give (y : Slew) : Slew := { y.setG m (y.gOf m + 16) with last := m }
      match x.dropFiller with
      | some y => Slew.handOut caps fuel up (give y)
      | none => if up = 0 then x else Slew.handOut caps fuel (up - 1) (give x)

/-- Filler that no transfer took leaves, at most `down` quanta. -/
def Slew.drain : Nat → Slew → Slew
  | 0, x => x
  | down + 1, x => match x.dropFiller with | some y => Slew.drain down y | none => x

/-- Every MXU at its cap, and no filler. -/
def Slew.full (x : Slew) (caps : List Nat) : Slew :=
  { x with f := [], g := ((List.range 8).filterMap fun m => match caps[m]? with | some 0 => none | none => none | some c => some (m, c)) }

/-- One step with its caps; with QPS = 0 every MXU has its cap in every cycle, until a step reads another QPS. -/
def Slew.step (x : Slew) (caps : List Nat) (qps : Nat) : Slew :=
  if qps = 0 then { x.full caps with qps := 0 }
  else
    let x := if x.since.isSome && decide (x.qps = 0) then x.full caps else x
    let x := (List.range 8).foldl (fun x m => x.shed m ((caps[m]?).getD 0)) x
    { (x.handOut caps 33 qps).drain qps with qps := qps }

/-- The caps of a domain's MXUs now. -/
def State.slewCaps (s : State) (dom : Nat) : List Nat :=
  (slewMembers dom).map fun m => let c := slewCluster dom m; if s.hasWork c then s.mxCap c else 0

/-- A step of the domain is due: its first, when an MXU has work, or the one SLEN layer cycles after the last. -/
def State.slewDue (s : State) (dom : Nat) : Bool :=
  let x := SMap.get s.slews Slew.reset dom
  match x.since with
  | none => (slewMembers dom).any fun m => s.hasWork (slewCluster dom m)
  | some c => decide (c + x.slen * period (s.fcur (dom / 22) (slewLayer dom)) ≤ s.clock)

/-- A step of the domain, where one is due. -/
def State.slewNow (s : State) (dom : Nat) : State :=
  if 44 ≤ dom ∨ s.slewDue dom = false then s
  else
    let k := slewLayer dom
    let d := dom / 22
    let x := (SMap.get s.slews Slew.reset dom).step (s.slewCaps dom) (s.qps d k)
    let x : Slew := if x.quiescent then Slew.reset else { x with since := some s.clock, slen := fld (s.die d).ramptbl (16 * k + 11) (16 * k + 8) }
    { s with slews := if x.quiescent then SMap.del s.slews dom else SMap.set s.slews dom x }

/-- The columns granted to a cluster's MXU: the slew domain's count, or the cap where the QPS of its last step is 0 (R397, R403). -/
def State.columns (s : State) (m : Nat) : Nat :=
  let x := SMap.get s.slews Slew.reset (slewDomOf m)
  if x.since.isSome && decide (x.qps = 0) then s.mxCap m else x.gOf (clusterIdx m % 8)

/-- Writes of TSHAPEn at the heads of their queues are performed (R190, R409). -/
def State.shapeWrites (s : State) (m : Nat) : State :=
  (List.range 8).foldl (fun s q =>
    match s.mHead (8 * m + q) with
    | some e => (match e.ins with | .tshapeWrite .. => s.mPerform (8 * m + q) e | _ => s)
    | none => s) s

/-- A granule of the head of queue q ends; with the last the entry is performed. -/
def State.granuleEnd (s : State) (m q : Nat) (e : MEntry) : State :=
  let g := 8 * m + q
  let b := (s.core g).bankOf e.trap
  if granules b (layerOf g) e.ins ≤ e.done + 1 then s.mPerform g e
  else s.updCore g fun c => c.updArch fun a => { a with mxq := match a.mxq with | [] => [] | x :: r => { x with done := x.done + 1 } :: r }

/-- One layer cycle of the array: a grant where none holds it, then the progress of the granule at work. -/
def State.arrayCycle (s : State) (m : Nat) : State :=
  let k := clusterLayer m
  let c := s.cluster m
  let head (q : Nat) : Option MEntry := match s.mHead (8 * m + q) with | some e => if usesArray e.ins then some e else none | none => none
  let busy := match c.work with | some q => (head q).isSome | none => false
  let r := if busy then (c.work, c.credits)
    else arbitrate (List.range 8) (mxWeight (s.quad (2 * m)).mxshare) (fun q => (head q).isSome) c.credits
  match r.1 with
  | none => s.updCluster m fun c => { c with work := none, carry := 0, credits := r.2 }
  | some q =>
    match head q with
    | none => s
    | some e =>
      let g := 8 * m + q
      let b := (s.core g).bankOf e.trap
      let need := if busy then c.left else unitsOf b k e.ins - c.carry
      let cols := s.columns m
      let add := cols * rateOf b e.ins
      let s := s.owe g (64 * (side k - cols) / side k)
      if oneCycle e.ins then
        (s.updCluster m fun c => { c with work := none, left := 0, carry := 0, credits := r.2 }).granuleEnd m q e
      else if add < need then s.updCluster m fun c => { c with work := some q, left := need - add, carry := 0, credits := r.2 }
      else
        (s.updCluster m fun c => { c with work := none, left := 0, carry := add - need, credits := r.2 }).granuleEnd m q e

/-- A slew step that begins in the same cycle comes before the granule's (R408). -/
def execMxuGranuleGrant (cluster : Nat) (s : State) : Step :=
  .next (((s.shapeWrites cluster).slewNow (slewDomOf cluster)).arrayCycle cluster)

/-! ## The tile port (R190) -/

/-- Transfers that have reached the heads of their queues join the port's queue, in ascending queue number. -/
def State.portJoin (s : State) (m : Nat) : State :=
  (List.range 8).foldl (fun s q =>
    match s.mHead (8 * m + q) with
    | some e =>
      if usesPort e.ins && !(s.cluster m).port.contains (8 * m + q) then s.updCluster m fun c => { c with port := c.port ++ [8 * m + q] } else s
    | none => s) s

/-- Bytes of a transfer, and whether it can be performed now. -/
def State.tileBytes (s : State) (g : Nat) (e : MEntry) : Nat :=
  let b := (s.core g).bankOf e.trap
  match e.ins with
  | .tld d sc _ => let sh := b.shape (layerOf g) d.toNat; tSize sh + (if sc then scaleBytes sh else 0)
  | .tst d _ => tSize (b.shape (layerOf g) d.toNat)
  | _ => 0
def State.tileReady (s : State) (g : Nat) (e : MEntry) : Bool :=
  let b := (s.core g).bankOf e.trap
  let va := ((e.xs[0]?).getD 0).toNat
  let keys (d : Nat) (sc : Bool) : List Nat := (tileOffsets (b.shape (layerOf g) d) sc).map fun o => pageKey e.pages (va + o)
  let free (ks : List Nat) : Bool := ks.all fun k => !s.moving k && !s.linksWait (dieOf g) k
  match e.ins with
  | .tld d sc _ =>
    let ks := keys d.toNat sc
    (s.ownWait g (some e.stamp) ks).isNone && !s.awaitsVst g e.stamp ks && !s.hostPast g ks && free ks
  | .tst d _ =>
    let new := (tileOffsets (b.shape (layerOf g) d.toNat) false).filter fun o => !s.snapx g (va + o)
    free (keys d.toNat false) && s.canWrite false (new.map fun o => (pageKey e.pages (va + o), 0))
  | _ => false

/-- 64 bytes of the transfer at the head of the port's queue; with its last it is performed. -/
def State.portCycle (s : State) (m : Nat) : State :=
  match (s.cluster m).port with
  | [] => s
  | g :: rest =>
    let drop := s.updCluster m fun c => { c with port := rest }
    match (s.core g).mHead with
    | none => drop
    | some e =>
      if !usesPort e.ins then drop
      else if e.done + 1 < ceilDiv (s.tileBytes g e) 64 then
        s.updCore g fun c => c.updArch fun a => { a with mxq := match a.mxq with | [] => [] | x :: r => { x with done := x.done + 1 } :: r }
      else if !s.tileReady g e then s
      else
        match e.ins with
        | .tld d sc _ => drop.tileLoad g e d.toNat sc
        | .tst d _ => drop.tileStore g e d.toNat
        | _ => drop

def execTilePortTransfer (cluster : Nat) (s : State) : Step := .next (((s.shapeWrites cluster).portJoin cluster).portCycle cluster)

end Sys2Proof.Machine
end

