-- ==== Sys2Proof/Machine/Stream.lean ====
section
/-! DEFINITION. Streams and copies: SBIND, SDROP, ACOPY, CHWAIT, and the copy and stream engine (R151 to R156,
R296, R431). -/

namespace Sys2Proof.Machine

/-! ## Patterns (R151, R152) -/

def descField (d : List Byte) (i n : Nat) : Nat := leValue ((d.drop i).take n)

/-- The stream a descriptor describes under a shape. -/
def streamOf (d : List Byte) (sh : Word) : Stream :=
  { Stream.unbound with
    bound := true, base := BitVec.ofNat 64 (descField d 0 8), shape := sh
    counts := (List.range 4).map fun i => descField d (8 + 2 * i) 2
    strides := (List.range 4).map fun i => BitVec.ofNat 32 (descField d (16 + 4 * i) 4) }

/-- SBIND's checks. -/
def Stream.ok (t : Stream) : Bool :=
  let w := vBytes t.shape
  t.counts.all (fun n => decide (n ≠ 0)) && decide (fld t.base 63 56 = 0) && decide (t.base.toNat % w = 0)
  && t.strides.all fun x => decide (x.toInt % (w : Int) = 0)

/-- The strides' part of a strip's address: the strip number in mixed radix. -/
def stripOffset : List Nat → List (BitVec 32) → Nat → Int
  | n :: ns, s :: ss, k => ((k % n : Nat) : Int) * s.toInt + stripOffset ns ss (k / n)
  | _, _, _ => 0
def Stream.stripAddr (t : Stream) (k : Nat) : Word := t.base + wordOfInt (stripOffset t.counts t.strides k)

/-! ## The command queue (R152, R154, R296) -/

def cmdDepth : Nat := 2

/-- CHSTAT of a copy at work (R156). -/
def Copy.stat (k : Copy) (busy : Bool) (addr : Nat) : Word :=
  BitVec.ofNat 64 (busy.toNat <<< 63 + k.flt.toNat <<< 62 + k.cause <<< 56 + addr % 2 ^ 56)

def State.setChstat (s : State) (g c : Nat) (v : Word) : State :=
  s.updCore g fun k => k.updArch fun a => { a with chstat := SMap.set a.chstat c v }

/-- The oldest command is accepted, in a cycle after that in which it entered (R298): a bind at once, a copy when its channel is idle.
A copy of no bytes passes through the queue as others do, and completes when it is accepted (DESIGN CHOICE, log entry 85). -/
def State.acceptOne (s : State) (g : Nat) : State :=
  match (s.core g).cmds with
  | [] => s
  | .bind r t :: rest =>
    if s.clock ≤ t.born then s
    else s.updCore g fun c => { c with cmds := rest, arch := { c.arch with streams := SMap.set c.arch.streams r t } }
  | .copy c k :: rest =>
    if (SMap.get? (s.core g).chans c).isSome || decide (s.clock ≤ k.born) then s
    else
      let s := s.updCore g fun x => { x with cmds := rest }
      if k.len = 0 then s.setChstat g c (k.stat false k.dst.toNat)
      else (s.updCore g fun x => { x with chans := SMap.set x.chans c k }).setChstat g c (k.stat true k.dst.toNat)
def State.acceptCmds (s : State) (g : Nat) : State := (s.acceptOne g).acceptOne g

/-- A command enters the engine's queue. -/
def State.pushCmd (s : State) (c : Cmd) : State :=
  let c := match c with | .bind r t => .bind r { t with after := s.stamp, born := s.clock } | .copy n k => .copy n { k with born := s.clock }
  s.updMe fun k => { k with cmds := k.cmds ++ [c] }

/-- An entry of the sequencer uses a v register. -/
def Arch.vUses (a : Arch) (r : Nat) : Bool := a.vWriter r || a.vseq.any fun e => e.ins.reads.contains (.v r)

/-- SBIND, and SDROP below, wait for the sequencer's entries that use the register, charged VSEQ (DESIGN CHOICE, log entry 85). -/
def execSbind (d : Reg) (m : MemOp) (s : State) : Step :=
  let ea := MemOp.ea s.me 32 m
  if ea.toNat % 32 ≠ 0 then trapStep s cALIGN ea
  else Got.step (s.coreRead s.cur ea 32 .read .align) fun s r =>
    let t := streamOf r.1 s.me.arch.vshape
    if !t.ok then trapStep s cSTREAM ea
    else if cmdDepth ≤ s.me.cmds.length then s.hold cSTRM
    else if s.me.arch.vUses d.toNat then s.hold cVSEQ
    else .next (s.pushCmd (.bind d.toNat t))

/-- SDROP (R153): the register then holds the last strip popped. -/
def execSdrop (d : Reg) (s : State) : Step :=
  let n := d.toNat
  if s.me.binding n then s.hold cSTRM
  else if !(s.me.arch.stream n).bound then .next s
  else if s.me.arch.vUses n then s.hold cVSEQ
  else .next (s.updArch fun a => { a with streams := SMap.del a.streams n }.wv n (a.stream n).last)

/-- A C instruction reads a v register at issue: a bound stream register yields its next strip, once the sequencer's
earlier entries are past it (R153). -/
def State.takeV (s : State) (r : Nat) : State × Got (BitVec 4096) :=
  let a := s.me.arch
  if s.me.bound r then
    if a.vUses r then (s, .wait cVSEQ)
    else if s.me.binding r || !(a.stream r).ready then (s, .wait cSTRM)
    else
      match (a.stream r).fault with
      | some f => (s, .trap f.1 (BitVec.ofNat 64 f.2))
      | none =>
        let t := s.updArch fun x => x.popStream r
        (t, .ok (t.me.arch.rv r))
  else (s, .ok (a.rv r))

/-- A C instruction's result in v[d] is written n cycles of the core's layer from now: its readers wait, charged VSEQ (R48). -/
def State.flyV (s : State) (d n : Nat) : State :=
  s.updMe fun c => c.updArch fun a => { a with vfly := a.vfly ++ [{ regs := [.v d], flags := true, land := s.clock + n * s.periodOf s.cur }] }

/-! ## ACOPY and CHWAIT -/

/-- Keys of the destination's lines that translate at issue. -/
def State.destKeys (s : State) (g : Nat) (va n : Nat) : List Nat :=
  (pagesOf va n).flatMap fun p =>
    match s.xlate g p .ewrite with
    | .ok x => if isControl x.pa then [] else (List.range (Nat.min (va + n) (p / 4096 * 4096 + 4096) - p)).map (x.pa + ·)
    | .error _ => []

/-- A first access to the destination's host pages records their bias (R330). -/
def State.recordDest (s : State) (va n : Nat) : State :=
  (pagesOf va n).foldl (fun s p => match s.xlate s.cur (p % 2 ^ 64) .ewrite with | .ok x => s.recordBias x.biasd x.pa | .error _ => s) s

def execAcopy (d a b : Reg) (c : BitVec 2) (s : State) : Step :=
  let len := (s.me.x b).toNat
  if 2 ^ 32 ≤ len then trapStep s cENGINE (s.me.x b)
  else if cmdDepth ≤ s.me.cmds.length then s.hold cSTRM
  else
    let keys := s.destKeys s.cur (s.me.x d).toNat len
    if !s.me.sb.isEmpty || s.me.vwork.any VEntry.isVld || [0, 1].any (fun d => (s.die d).past.any fun p => keys.any p.ent.has) then
      s.hold cMEM
    else
      match s.ownWait s.cur none keys with
      | some h => s.hold h
      | none =>
        let (st, s) := (s.recordDest (s.me.x d).toNat len).fresh
        let k : Copy := { dst := s.me.x d, src := s.me.x a, len := len, pos := 0, flt := false, cause := 0, first := 0, stamp := st, born := 0 }
        .next ((s.takeLines (.chan s.cur c.toNat st) keys).pushCmd (.copy c.toNat k))

/-- A copy of the channel is at work or still in the queue. -/
def Core.chanBusy (k : Core) (c : Nat) : Bool :=
  (SMap.get? k.chans c).isSome || k.cmds.any fun x => match x with | .copy n _ => decide (n = c) | .bind .. => false

def execChwait (d : Reg) (c : BitVec 2) (s : State) : Step :=
  if s.me.chanBusy c.toNat then s.hold cSTRM
  else .next (if d = 0 then s else s.pushXI d (SMap.get s.me.arch.chstat 0 c.toNat))

/-! ## The engine's work (R138, R139, R153, R154, R431) -/

/-- What an engine access, by a command of stamp `after`, to bytes within one page comes to: blocked for now, failed with a cause,
or the keys. -/
inductive Touch | blocked | failed (cause : Nat) | keys (ks : List Nat)
  deriving DecidableEq, Repr

/-- A page is translated with the privilege that STATUS.PL gives when its sector is at work (DESIGN CHOICE, log entry 85). A write to
a quarantined block fails with cause 0x07 (R344). -/
def State.touch (s : State) (g after va n : Nat) (k : XKind) : Touch :=
  if s.walkWaits (s.linksWait (dieOf g)) g va n k then .blocked
  else
  match s.xlate g va k with
  | .error e => .failed e
  | .ok x =>
    let ks := (List.range n).map (x.pa + ·)
    if isControl x.pa || decide (s.window x.pa = .shut) then .failed cPROT
    else if k = .ewrite && blockIs s x.pa .quarantined then .failed cPOISON
    else if decide (s.window x.pa = .waits) || ks.any s.moving || ks.any (s.linksWait (dieOf g)) || s.awaitsVst g after ks || s.hostPast g ks
        || (s.ownWait g (some after) ks).isSome then .blocked
    else .keys ks

/-- A range cut where a 4 KiB page ends: its pieces (address, bytes). -/
def pieces (va n : Nat) : List (Nat × Nat) :=
  (pagesOf va n).map fun p => (p, Nat.min (va + n) (p / 4096 * 4096 + 4096) - p)

/-- The translation of an engine's access: its table reads, its fill of the TLBs, and a first access's bias (R258, R330). -/
def State.touched (s : State) (g va : Nat) (k : XKind) : State :=
  match s.translated g va k with | (s, _, .ok x) => s.recordBias x.biasd x.pa | (s, _, .error _) => s

/-- Engine reads of a range, page by page: blocked, or the bytes with the first fault. Injected errors fire. -/
def State.engineFetch (s : State) (g after va n : Nat) : Option (State × List Byte × Option (Nat × Nat)) :=
  (pieces va n).foldl (fun acc p =>
    match acc with
    | none => none
    | some (s, bs, flt) =>
      match s.touch g after (p.1 % 2 ^ 64) p.2 .eread with
      | .blocked => none
      | .failed e => some (s, bs ++ List.replicate p.2 0, flt <|> some (e, p.1 % 2 ^ 64))
      | .keys ks =>
        let s := ((s.touched g (p.1 % 2 ^ 64) .eread).fireKeys (dieOf g) false ks).1
        let bad := ((List.range p.2).zip ks).find? fun q => s.enginePoison g q.2
        let data := ks.map fun k => if s.enginePoison g k then (0 : Byte) else s.viewByte g k
        some (s, bs ++ data, flt <|> bad.map fun q => (cPOISON, p.1 + q.1))) (some (s, [], none))

/-- The sector of an ACOPY that is next (R154); `none` while it must wait. -/
def State.copySector (s : State) (g c : Nat) (k : Copy) : Option State :=
  let at' := k.dst.toNat + k.pos
  let n := Nat.min (k.len - k.pos) (32 - at' % 32)
  let sector := at' / 32 * 32
  match s.engineFetch g k.stamp (k.src.toNat + k.pos) n, s.touch g k.stamp (at' % 2 ^ 64) 1 .ewrite with
  | none, _ => none
  | _, .blocked => none
  | some (s, bs, flt), dst =>
    let base := match dst with | .keys (x :: _) => some (x / 32 * 32) | _ => none
    let flt := flt <|> match dst with | .failed e => some (e, at' % 2 ^ 64) | _ => none
    let exempt := s.snapx g (at' % 2 ^ 64)
    let cells : List Host.Cell := match base with
      | none => []
      | some x =>
        match flt with
        | some _ => (List.range 32).map fun i => (x + i, 0)
        | none => ((List.range n).zip bs).map fun p => (x + at' % 32 + p.1, p.2)
    if !s.canWrite exempt cells then none
    else
      let s := match base with
        | none => s
        | some x =>
          let s := (s.touched g (at' % 2 ^ 64) .ewrite).engineWrite exempt cells
          let s := match flt with | some _ => s.setPoison (x / 32) | none => s
          s.dropLines (.chan g c k.stamp) [x]
      let k' : Copy := { k with pos := k.pos + n, flt := k.flt || flt.isSome,
                                cause := match flt with | some f => if k.flt then k.cause else f.1 | none => k.cause,
                                first := match flt with | some f => if k.flt then k.first else f.2 | none => k.first }
      if k'.pos < k.len then
        some ((s.updCore g fun x => { x with chans := SMap.set x.chans c k' }).setChstat g c (k'.stat true (sector + 32)))
      else
        let fin := k'.stat false (if k'.flt then k'.first else k.dst.toNat + k.len)
        some ((((s.dropAll (.chan g c k.stamp)).updCore g fun x => { x with chans := SMap.del x.chans c }).setChstat g c fin).acceptCmds g)

/-- Sectors a strip touches. -/
def stripSectors (va m : Nat) : Nat := if m = 0 then 1 else (va + m - 1) / 32 - va / 32 + 1

/-- The next sector of a stream's strip (R153). A failed translation or read faults STREAM; poison is POISON. -/
def State.streamSector (s : State) (g r : Nat) (t : Stream) : Option State :=
  let va := (t.stripAddr t.fetch).toNat
  let m := vSize t.shape
  let lo := Nat.max va ((va / 32 + t.moved) * 32)
  let hi := Nat.min (va + m) ((va / 32 + t.moved + 1) * 32)
  match s.engineFetch g t.after lo (hi - lo) with
  | none => none
  | some (s, bs, flt) =>
    let flt := flt.map fun f => (if f.1 = cPOISON then cPOISON else cSTREAM, f.2)
    let v := t.part.1 ||| BitVec.ofNat 4096 (leValue bs <<< (8 * (lo - va)))
    let part := (v, t.part.2 <|> flt)
    let t' : Stream := if t.moved + 1 < stripSectors va m then { t with moved := t.moved + 1, part := part }
      else { t with moved := 0, part := (0, none), fetch := t.fetch + 1, strips := t.strips ++ [part] }
    some (s.updCore g fun c => c.updArch fun a => { a with streams := SMap.set a.streams r t' })

/-- Client i of the rotation c0–c3, v24–v31 moves a sector, where it has work that need not wait. -/
def State.engineClient (s : State) (g i : Nat) : Option State :=
  if i < 4 then
    match SMap.get? (s.core g).chans i with
    | some k => s.copySector g i k
    | none => none
  else
    let t := (s.core g).arch.stream (i + 20)
    if t.bound && decide (t.fetch < t.total) && decide (t.strips.length < 4) then s.streamSector g (i + 20) t else none

/-- One grant of the copy and stream engine of core g. -/
def execCopyEngineGrant (g : Nat) (s : State) : Step :=
  let s := s.acceptCmds g
  let order := (List.range 12).map fun i => ((s.core g).grant + 1 + i) % 12
  match order.findSome? (fun i => (s.engineClient g i).map fun t => (i, t)) with
  | some (i, t) => .next (t.updCore g fun c => { c with grant := i })
  | none => .next s

end Sys2Proof.Machine
end

