-- ==== Sys2Proof/Machine/Work.lean ====
section
/-! DEFINITION. Strands and launches: SPAWN, SUSP, EXIT, WAITC, CANCEL, and PAIR (R208 to R217, R229, R276 to R280,
R322 to R326). -/

namespace Sys2Proof.Machine

/-! ## Suspension points -/

/-- The cycle in which a suspension point issues, charged before its strand leaves (R265). -/
def State.issueCharge (s : State) : State :=
  let a := match decodeBundle s.me.bundle with | .ok b => b.a | .error _ => none
  (s.charge s.cur cISSUE (issueCause a) 1 s.me.arch.pc).spend s.cur 1

/-- The strand reaches a suspension point of its own bundle: its waits, then its record (R213). -/
def State.suspendHere (s : State) (put : State → Strand → Rec → State) : Step :=
  let s := s.closeBody s.cur
  match s.suspendWait s.cur with
  | some h => s.hold h
  | none => .next (s.issueCharge.suspendTo s.cur (s.me.arch.pc + 8) put)

/-- SUSP (R213). -/
def execSusp (a : Reg) (s : State) : Step :=
  let wake := (s.me.xAt a).toNat
  if s.me.arch.tm then illegalStep s
  else s.suspendHere fun s t r =>
    if a = 0 ∨ wake ≤ nsOf s.clock then s.requeue t r else s.attach t.ctx t.die t.layer t.slot r (.sleeping wake) 1

/-- EXIT (R214): no record is written; in trap mode the trap bank is discarded. -/
def execExit (s : State) : Step :=
  match s.suspendHere fun s t _ => (s.launchEnd t.ctx t.r.launch t.r.cx).stopCheck t.ctx with
  | .next t =>
    .next (if s.me.arch.tm && decide (t.me.flow = .left) then
        let drop (c : Core) : Core := { c with tbank := Bank.reset, mxfmt := false }
        let t := t.updMe drop
        if s.dual s.cur then t.updCore (s.cur + 1) drop else t
      else t)
  | o => o

/-- What a handle names (R210): the object's number. -/
def Ctx.named (c : Ctx) (n : Nat) (h : Word) : Option Nat :=
  let lvl := fld h 63 61
  let id := fld h 39 0
  let level := match c.obj? id with | some o => decide (o.lvl = lvl) | none => true
  if 1 ≤ lvl ∧ lvl ≤ 4 ∧ fld h 60 56 = 0 ∧ fld h 55 40 = n ∧ 1 ≤ id ∧ id < c.nextId ∧ level = true then some id else none

/-- The outcome of an object that has completed (R216): `none` while it has not. Of an object whose entry another has
taken, the spec keeps no outcome: a free value (log entry 18). -/
def Ctx.outcome (c : Ctx) (stamp id : Nat) : Option Bool :=
  match c.obj? id with
  | some o => if o.done then some o.out else none
  | none => some (bitAt (Config.openWord stamp) 0)

/-- A strand whose counter is already zero goes on in its core after 4 cycles charged SWITCH (R215). -/
def State.resumeHere (s : State) (g : Nat) (t : Strand) (r : Rec) (out : Option (Nat × Word)) : State :=
  let it : Item := { rid := 0, ctx := t.ctx, die := t.die, layer := t.layer, place := .ring, since := s.clock, born := s.clock, seq := 0, was := none, slot := t.slot, r := r, out := out }
  let s := (s.load g t.ctx it r).offer g
  (s.pay g cSWITCH 2 r.pc).updCore g fun c => { c with flow := .left }

/-! ### Pairs (R229, R322, R324) -/


/-- The strand on the even core e runs on both cores from now on: the checkpoint is its state as it stands. -/
def State.pairUp (s : State) (e : Nat) : State :=
  let s := (s.bringUp e).bringUp (e + 1)
  let s := s.updCore e fun c =>
    let a := c.landEvery.arch.setStatus fun st => setBit st 18 true
    { c with
      arch := { c.arch with status := setBit c.arch.status 18 true }
      pair := { Pair.single with st := .paired, ckpt := some a }
      strand := c.strand.map fun t => { t with r := { t.r with pr := true } } }
  (s.updCore (e + 1) fun c => { c with pair := { Pair.single with st := .paired } }).alike e

/-- A record with its pairing bit is paired again before its first bundle; where the journal no longer fits, as
PAIR.on traps (log entry 19). -/
def State.pairAgain (s : State) (e : Nat) : State :=
  let fit := s.journalFits e
  if fit.2 then s.pairUp e
  else
    let s := s.updCore e fun c =>
      { c with arch := c.arch.setStatus fun st => setBit st 18 false,
               strand := c.strand.map fun t => { t with r := { t.r with pr := false } } }
    (s.trapAt e cPROT (BitVec.ofNat 64 fit.1) (s.core e).arch.pc).pay e cTRAPC 4 (s.core e).arch.pc

/-- WAITC (R215, R216). -/
def execWaitc (d a : Reg) (s : State) : Step :=
  let h := s.me.xAt a
  match s.me.strand with
  | none => .next s
  | some t =>
    let c := s.ctx t.ctx
    if s.me.arch.tm then illegalStep s
    else
      match c.named t.ctx h with
      | none => trapStep s cPROT h
      | some id =>
        if c.under id t.r.launch then trapStep s cPROT h
        else
          match c.outcome s.stamp id with
          | none => s.suspendHere fun s t r =>
              -- the attach and the decrement are ordered at the object entry (R275)
              match (s.ctx t.ctx).outcome s.stamp id with
              | some o => s.enqueue t.ctx t.die t.layer t.slot r (if d = 0 then none else some (d.toNat, BitVec.ofNat 64 o.toNat))
              | none => s.attach t.ctx t.die t.layer t.slot r (.waiting id d.toNat) 2
          | some o =>
            let r := s.recordOf s.cur t (s.me.arch.pc + 8)
            match { s with stamp := s.stamp + 1 }.suspendHere fun s _ _ => s with
            | .next s' =>
              if s'.me.flow ≠ .left || t.r.cx then .next s'
              else
                let s' := s'.resumeHere s.cur t r (if d = 0 then none else some (d.toNat, BitVec.ofNat 64 o.toNat))
                .next (if r.pr then (s'.pairAgain s.cur).updMe fun c => { c with flow := .left } else s')
            | o => o

/-- CANCEL (R217). -/
def execCancel (a : Reg) (force : Bool) (s : State) : Step :=
  let h := s.me.x a
  match s.me.strand with
  | none => .next s
  | some t =>
    match (s.ctx t.ctx).named t.ctx h with
    | none => trapStep s cPROT h
    | some id => .next (s.cancelObj t.ctx id force h)

/-! ## SPAWN (R211, R212, R276, R277) -/

/-- The dies and layers whose dispensers generate a launch's strands. -/
def launchPlaces (mask : BitVec 4) : List (Nat × Nat) :=
  [0, 1].flatMap fun d => (List.range 4).filterMap fun k => if mask.toNat.testBit k then some (d, k) else none

/-- Where the next launch of a strand goes: its own graph, or the first of its armed graph (R277). -/
def Ctx.spawnGraph (c : Ctx) (t : Strand) (arming : Word) : Nat :=
  if arming = 0 then c.parent t.r.launch
  else
    let id := fld arming 39 0
    match c.obj? id with
    | some o =>
      if o.lvl = 2 then id
      else ((SMap.keys c.objs).find? fun i => decide (c.parent i = id) && (match c.obj? i with | some x => x.armed | none => false)).getD id
    | none => c.parent t.r.launch

/-- A launch of n strands joins graph `gr`, its object allocated; the template record is `r`. -/
def State.newLaunch (s : State) (n gr : Nat) (r : Rec) (count : Nat) : Option (Nat × State) :=
  let dead := match (s.ctx n).obj? gr with | some o => o.canc | none => false
  match s.newObj n { Obj.new 1 gr (if dead then 0 else count) with canc := dead, out := dead } with
  | none => none
  | some (id, s) =>
    let s := match (s.ctx n).obj? gr with
      | some o => s.setObj n gr { o with count := o.count + 1, armed := false }
      | none => s
    let s := match (s.ctx n).obj? ((s.ctx n).parent gr) with
      | some o => s.setObj n ((s.ctx n).parent gr) { o with armed := false }
      | none => s
    if count = 0 ∨ dead = true then some (id, State.completeObj 4 s n id)
    else
      let r := { r with launch := id }
      let s := s.updCtx n fun c => { c with templates := SMap.set c.templates id { ctx := n, r := r, count := count, slot := s.freeSlot n } }
      some (id, ((launchPlaces r.lmask).foldl (fun s p =>
        let (rid, s) := s.fresh
        { s with items := s.items ++
            [{ rid := rid, ctx := n, die := p.1, layer := p.2, place := .ref, since := s.clock, born := s.clock, seq := rid, was := none,
               slot := s.freeSlot n, r := { r with kind := 5 }, out := none }] }) s).noteWaits)

def spawnEntry (s : State) : SpawnTo → Word
  | .reg b => s.me.x b
  | .label o => s.target o.toInt

/-- SPAWN's own traps (R211). -/
def State.spawnTrap (s : State) (w : Word) (t : Strand) (e : SpawnTo) : Option (Step) :=
  if fld w 63 40 ≠ 0 ∨ fld w 31 25 ≠ 0 ∨ 2 ^ 24 < fld w 24 0 then some (trapStep s cENGINE w)
  else if !s.me.arch.pl && bitAt w 39 && decide (t.pri < fld w 38 32) then some (privStep s)
  else
    match e with
    | .reg b => if fld (s.me.x b) 2 0 ≠ 0 ∨ fld (s.me.x b) 63 56 ≠ 0 then some (trapStep s cALIGN (s.me.x b)) else none
    | .label _ => none

def poolSlots : Nat := 2 ^ 20

def execSpawn (d a : Reg) (e : SpawnTo) (mask : BitVec 4) (s : State) : Step :=
  let w := s.me.x a
  match s.me.strand with
  | none => .next s
  | some t =>
    match s.spawnTrap w t e with
    | some o => o
    | none =>
      if !s.storesDone s.cur .pkg then s.hold cMEM
      else
        let lmask := if mask = 0 then t.r.lmask else mask
        let refs := (launchPlaces lmask).length
        if poolSlots < s.slotsUsed t.ctx + 1 + refs then s.hold cMSG
        else
          let arch := s.me.arch
          let gr := (s.ctx t.ctx).spawnGraph t arch.arming
          let r : Rec :=
            { pc := spawnEntry s e, me := false, pl := t.r.pl, launch := 0, index := 0, afq := 0, afv := false, age := 0, cx := false,
              spl := false, kind := 4, pr := false, lmask := lmask, pri := if bitAt w 39 then fld w 38 32 else t.pri, spix := 0,
              xs := [0, arch.rx 2, arch.rx 3, arch.rx 4, arch.rx 5], bad := false }
          match s.newLaunch t.ctx gr r (fld w 24 0) with
          | none => s.hold cMSG
          | some (id, s) =>
            .next ((s.updArch fun a => { a with arming := 0 }).pushXI d (handleWord 1 t.ctx id))

/-! ## PAIR -/

/-- A core of an armed domain is no victim (R313). -/
def State.inDomain (s : State) (g : Nat) : Bool :=
  (List.range 32).any fun k =>
    let d := (s.die (dieOf g)).domain k
    decide (d.st = .armed) && d.member g

/-- The partner core holds nothing that keeps it from the pair: no strand, no service. -/
def State.partnerFree (s : State) (p : Nat) : Bool :=
  let q := s.quad (quadOf p)
  decide ((s.core p).strand = none) && (s.keptFor p).isNone && !(s.core p).contained && !q.dbg && decide (q.retSt = 0)

/-- PAIR.on waits for its partner from now on: records are withheld from both cores, and a strand of lower priority
there is pre-empted. -/
def State.claimPair (s : State) (g : Nat) : State :=
  let e := g / 2 * 2
  let s := s.bringUp (partner g)
  let mark (c : Core) : Core := { c with pair := { Pair.single with st := .claiming, odd := decide (g % 2 = 1) } }
  let s := (s.updCore e mark).updCore (e + 1) mark
  match s.me.strand, (s.core (partner g)).strand with
  | some t, some u =>
    if decide (u.pri < t.pri) && !s.inDomain (partner g) then
      s.updCore (partner g) fun c => { c with strand := some { u with preempt := true } }
    else s
  | _, _ => s

/-- The strand of the claiming core continues on the even core of its pair (R229). Each core keeps its own clock and its own
count of packets outstanding (R126, R315); results in flight land as many cycles ahead as before. -/
def State.moveEven (s : State) (g : Nat) : State :=
  let e := g / 2 * 2
  if g % 2 = 0 then s
  else
    let s := (((s.bringUp g).endRuns g).flushAcct g).bringUp e
    let c := s.core g
    let s := s.updCore e fun k =>
      { k with arch := c.arch, tbank := c.tbank, mxfmt := c.mxfmt, strand := c.strand, npc := c.npc, taken := c.taken, flow := c.flow,
               bundle := c.bundle, pend := c.pend.map fun p => { p with land := k.cycle + (p.land - c.cycle) }, loads := c.loads,
               sb := c.sb, fetchBuf := c.fetchBuf, loopBuf := c.loopBuf, cmds := c.cmds, chans := c.chans, grant := c.grant, rq := c.rq,
               ilq := c.ilq, stepClock := c.stepClock, linkPc := c.linkPc }
    let s := s.updCore g fun k =>
      { k with arch := Arch.reset, strand := none, pend := [], loads := [], sb := [], fetchBuf := [], loopBuf := [], cmds := [], chans := [], rq := [], ilq := [],
               stepClock := none, flow := .left }
    let own := s.own.map fun p =>
        match p.2 with
        | .entry h st => if h = g then (p.1, Eng.entry e st) else p
        | .chan h k n => if h = g then (p.1, Eng.chan e k n) else p
        | .graph .. => p
    { s with own := own, cur := if s.cur = g then e else s.cur }

/-- PAIR.on (R229, R322): it completes once PAIR_CLAIM_COMPLETE has made the pair. -/
def execPairOn (s : State) : Step :=
  let g := s.cur
  if s.dual s.cur then .next s
  else
    let fit := s.journalFits g
    if !fit.2 then trapStep s cPROT (BitVec.ofNat 64 fit.1)
    else if s.me.pair.st = .claiming then s.hold cPAIR
    else (s.claimPair g).hold cPAIR

/-- The partner of a claim is free: the pair is made, with the strand on its even core. Its first checkpoint is taken
as PAIR.on retires. -/
def execPairClaimComplete (g : Nat) (s : State) : Step :=
  let e := g / 2 * 2
  let p := (s.core e).pair
  let claimer := if p.odd then e + 1 else e
  if p.st = .claiming ∧ s.partnerFree (partner claimer) = true ∧ (s.core claimer).strand ≠ none then
    .next ((((s.moveEven claimer).pairUp e).updCore e fun c => { c with pair := { c.pair with ckpt := none } }).offer e)
  else .next s

/-- PAIR.off: the exchange has been made; the partner is freed (R229). -/
def execPairOff (s : State) : Step :=
  if !s.dual s.cur then .next s
  else
    let s := s.updMe fun c =>
      { c with arch := c.arch.setStatus fun st => setBit st 18 false,
               strand := c.strand.map fun t => { t with r := { t.r with pr := false } } }
    .next (s.separate s.cur)

/-- The layer cycles of an exchange, charged PAIR (R322). -/
def State.exchangeCycles (s : State) (e : Nat) : State := s.pay e cPAIR 8 (s.core e).arch.pc

/-- The interval is accepted: its stores go to the store buffer in program order, and the state is the next
checkpoint (R246, R322). -/
def State.pairAgree (s : State) (e : Nat) : State :=
  s.updCore e fun c =>
    { c with sb := c.sb ++ c.pair.journal,
             pair := { Pair.single with st := .paired, ckpt := some c.landEvery.arch, asked := c.pair.asked } }

/-- The checkpoint is restored and the interval's held stores are discarded. Of an operation in an interval of its own,
which is performed once, the state stands (R323, log entry 20). -/
def State.pairBack (s : State) (e fails : Nat) : State :=
  (s.updCore e fun c =>
    let a := if c.pair.solo then c.landEvery.arch else c.pair.ckpt.getD c.arch
    { c with arch := a, npc := a.pc, flow := .run, micro := none, pend := [], loads := [], fetchBuf := [], loopBuf := [],
             pair := { Pair.single with st := .paired, ckpt := some a, fails := fails } }).alike e

/-- The third disagreement: the strand goes on alone on the even core and traps PAIRFAIL (R326). -/
def State.pairFail (s : State) (e : Nat) : State :=
  let n := (s.core e).pair.bundles
  let s := s.pairBack e 0
  let s := s.updCore e fun c =>
    { c with arch := c.arch.setStatus fun st => setBit st 18 false,
             strand := c.strand.map fun t => { t with r := { t.r with pr := false } } }
  let s := s.separate e
  (s.trapAt e cPAIRFAIL (BitVec.ofNat 64 (e + n <<< 32)) (s.core e).arch.pc).pay e cTRAPC 4 (s.core e).arch.pc

/-- Every entry of the interval has finished, or is held with its fault. -/
def Core.intervalDone (c : Core) : Bool :=
  c.loadsDone && (c.arch.vseq.isEmpty || c.arch.vheld) && c.arch.vfly.isEmpty && (c.arch.mxq.isEmpty || c.arch.mheld) && c.chans.isEmpty
  && c.cmds.isEmpty && (c.arch.vheld || c.pair.journal.all fun e => e.awaits.isNone)

/-- The two cores compare fingerprints: the even core's own, and the odd core's as its hardware computed it (R322, R325). -/
def execPairExchange (g : Nat) (odd : Word) (s : State) : Step :=
  let e := g / 2 * 2
  let c := s.core e
  if c.pair.st ≠ .exchanging ∨ c.intervalDone = false then .next s
  else
    let s := s.exchangeCycles e
    if c.pair.late.foldl crcWord c.pair.print = odd then .next (s.pairAgree e)
    else if c.pair.fails + 1 < 3 then .next (s.pairBack e (c.pair.fails + 1))
    else .next (s.pairFail e)

end Sys2Proof.Machine
end

