-- ==== Sys2Proof/Machine/Barrier.lean ====
section
/-! DEFINITION. Barrier domains: BAR, SSTEP, arrival, release and the barrier watchdog (R218, R219, R311 to R321). -/

namespace Sys2Proof.Machine

/-! ## BAR and SSTEP -/

/-- The strand's BAR or SSTEP completes with its predicate. -/
def State.barEnd (s : State) (q : QReg) (b : Bool) : State :=
  (s.updArch fun a => { a with wait := { a.wait with bar := none, barArrived := false, barDone := none } }).pushQI q b

def State.mayArrive (s : State) (dom : Nat) : Bool :=
  let d := (s.die (dieOf s.cur)).domain dom
  d.member s.cur && decide (d.ctxNum = s.me.ctxNum)

def isArmed (d : Domain) : Bool := decide (d.st = .armed)

/-- The scope of a domain (R218): .pkg for a half with PKG = 1, whose domain has members on both dies once its other
half is armed too, else .die. -/
def State.barScope (s : State) (die n : Nat) : Scope := if ((s.die die).domain n).pkg then .pkg else .die

/-- BAR and SSTEP (R208, R218, R219): the arrival is BARRIER_ARRIVAL's, the release BARRIER_RELEASE's. -/
def State.barrier (s : State) (q : QReg) (dom : Nat) (sstep : Bool) : Step :=
  let die := dieOf s.cur
  let w := s.me.arch.wait
  let here := w.bar.map (fun b => (b.1, b.2.1)) = some (die, dom)
  match if here then w.barDone else none with
  | some b => .next (s.barEnd q b)
  | none =>
    if here ∧ w.barArrived = true then s.hold cBAR
    else if ¬ here ∧ s.mayArrive dom = false then trapStep s cPROT (BitVec.ofNat 64 dom)
    else if !isArmed ((s.die die).domain dom) then .next (s.barEnd q false)
    else
      let s := s.updArch fun a => { a with wait := { a.wait with bar := some (die, dom, sstep), barArrived := false, barDone := none } }
      s.hold (if s.storesDone s.cur (s.barScope die dom) then cBAR else cMEM)

def execBar (q : QReg) (dom : BitVec 5) (s : State) : Step := s.barrier q dom.toNat false
def execSstep (q : QReg) (dom : BitVec 5) (s : State) : Step := s.barrier q dom.toNat true

/-! ## The watchdog's clock (R320, R321) -/

/-- A quad that holds a member is halted for debugging. -/
def State.frozen (s : State) (die n : Nat) : Bool :=
  (s.halves die n).any fun h => ((s.die h).domain n).members h |>.any fun g => (s.quad (quadOf g)).dbg

/-- A round is in progress in a domain. -/
def State.gathering (s : State) (die n : Nat) : Bool :=
  (s.halves die n).any fun h => !((s.die h).domain n).arrived.isEmpty

/-- The watchdog of one half starts, stops counting while a member quad is halted, and counts on after it. -/
def State.rewatch (s : State) (die n : Nat) : State :=
  let d := (s.die die).domain n
  let run := isArmed d && s.gathering die n && !s.frozen die n && decide (fld d.dctl 31 0 ≠ 0)
  s.updDomain die n fun d =>
    match d.started with
    | none => if run then { d with started := some s.clock } else d
    | some c => if run then d else { d with started := none, counted := d.counted + (s.clock - c) }

/-- Clock units that a half's watchdog has counted. -/
def State.watched (s : State) (die n : Nat) : Nat :=
  let d := (s.die die).domain n
  d.counted + (match d.started with | some c => s.clock - c | none => 0)

/-! ## Arrival and release (R314 to R316) -/

/-- The member on core g arrives once its earlier stores and atomics are performed at the domain's scope. -/
def execBarrierArrival (g : Nat) (s : State) : Step :=
  match (s.core g).arch.wait.bar with
  | none => .next s
  | some (die, n, sstep) =>
    let w := (s.core g).arch.wait
    let d := (s.die die).domain n
    if (s.core g).strand = none ∨ w.barArrived = true ∨ isArmed d = false ∨ d.arrived.contains g = true
        ∨ s.storesDone g (s.barScope die n) = false then .next s
    else
      let s := s.updDomain die n fun d => { d with arrived := d.arrived ++ [g], sstep := d.sstep || sstep }
      let s := s.updCore g fun c => c.updArch fun a => { a with wait := { a.wait with barArrived := true, barDone := none } }
      .next ((s.halves die n).foldl (fun s h => s.rewatch h n) s)

/-- Every member has arrived, both halves of a joined domain are armed and the bridge carries their traffic (R10), and in an SSTEP
round nothing is outstanding. -/
def State.releasable (s : State) (die n : Nat) : Bool :=
  let d := (s.die die).domain n
  let hs := s.halves die n
  let sstep := hs.any fun h => ((s.die h).domain n).sstep
  isArmed d && (!d.pkg || (decide (hs.length = 2) && !s.bridgeWaits)) && s.gathering die n
  && hs.all fun h =>
    let d := (s.die h).domain n
    isArmed d && (d.members h).all fun g => d.arrived.contains g && (!sstep || decide ((s.core g).outstanding = 0))

/-- The members on L0 that wait in BAR or SSTEP. -/
def State.waiters (s : State) (hs : List Nat) (n : Nat) : List Nat :=
  (hs.flatMap fun h => ((s.die h).domain n).members h).filter fun g =>
    decide (layerOf g = 0) && decide ((s.core g).flow = .held cBAR) && !(s.quad (quadOf g)).dbg

/-- The base cycle of a release: the first in which every waiting member on L0 can issue (R327). -/
def State.releaseCycle (s : State) (ws : List Nat) : Nat := ws.foldl (fun b g => Nat.max b (s.core g).now) s.clock

/-- A member waits in BAR or SSTEP until a base cycle, in which its bundle then issues (R327). -/
def State.waitUntil (s : State) (b g : Nat) : State :=
  let s := s.bringUp g
  let n := ceilDiv (b - (s.core g).now) (s.periodOf g)
  s.pay g cBAR n (s.core g).arch.pc

/-- A release: every waiting member gets q := true in the same cycle; step clocks restart or stop (R316, R327). -/
def State.releaseDomain (s : State) (die n : Nat) : State :=
  let hs := s.halves die n
  let sstep := hs.any fun h => ((s.die h).domain n).sstep
  let ws := s.waiters hs n
  let base := s.releaseCycle ws
  let s := (ws.foldl (State.waitUntil · base) s).meetAll hs n true none
  hs.foldl (fun s h =>
    let d := (s.die h).domain n
    let s := if d.sched then
        { s with cores := SMap.mapVals s.cores fun g c =>
            if decide (dieOf g = h) && d.member g then { c with stepClock := if sstep then some base else none } else c }
      else s
    s.updDomain h n fun d =>
      { d with round := (d.round + 1) % 2 ^ 16, arrived := [], sstep := false, started := none, counted := 0 }) s

def execBarrierRelease (die dom : Nat) (s : State) : Step :=
  .next (if s.releasable die dom then s.releaseDomain die dom else s)

/-- The watchdog's expiry: a last arrival in the same cycle is applied first; else the domain breaks and every waiting
member traps WATCHDOG (R314, R320). -/
def execBarrierWatchdogExpiry (die dom : Nat) (s : State) : Step :=
  let d := (s.die die).domain dom
  let limit := fld d.dctl 31 0
  if isArmed d = false ∨ limit = 0 ∨ s.gathering die dom = false ∨ s.watched die dom < limit * 1000 * unitsPerNs then .next s
  else if s.releasable die dom then .next (s.releaseDomain die dom)
  else
    let s := s.meetAll (s.halves die dom) dom false (some (BitVec.ofNat 64 (0x100 + dom)))
    .next (s.endDomain die dom .broken)

/-! ## Arming and disarming (R311 to R314) -/

/-- A core belongs to another armed domain with SCHED = 1. -/
def State.schedElsewhere (s : State) (die n g : Nat) : Bool :=
  (List.range 32).any fun k =>
    let d := (s.die die).domain k
    decide (k ≠ n) && isArmed d && d.sched && d.member g

/-- A descriptor is valid (R312). -/
def State.domainOk (s : State) (die n : Nat) (v : Word) : Bool :=
  let d : Domain := { (s.die die).domain n with dctl := v, st := .armed }
  let e := (s.die (1 - die)).domain n
  let ms := d.members die
  decide (fld v 55 44 = 0) && decide (d.qmask.toNat < 2 ^ 340) && !ms.isEmpty
  && decide ((s.ctx d.ctxNum).st = .live)
  && !(d.sched && ms.any fun g => s.schedElsewhere die n g)
  && !(d.pkg && isArmed e && e.pkg && decide (e.ctxNum ≠ d.ctxNum))

/-- DOMAIN_ARM: a write of DCTL with EN = 1. -/
def execDomainArm (die dom : Nat) (v : Word) (s : State) : Step :=
  let d := (s.die die).domain dom
  if d.st = .armed then .next (s.updDomain die dom fun d => { d with err := 1 })
  else if !s.domainOk die dom v then .next (s.updDomain die dom fun d => { d with err := 2 })
  else
    let arm (s : State) : State := s.updDomain die dom fun d =>
      { d with dctl := v, err := 0, st := .armed, round := 0, arrived := [], sstep := false, started := none, counted := 0 }
    let s := (arm (s.idleUp ((arm s).gangOf die dom))).stopClocks die dom
    -- arrivals that the other half already holds are its round's from now on (R320)
    .next ((s.halves die dom).foldl (fun s h => s.rewatch h dom) s)

/-- DOMAIN_DISARM: a write of DCTL with EN = 0. -/
def execDomainDisarm (die dom : Nat) (v : Word) (s : State) : Step :=
  let keep : Word := v &&& 0x7F000FFFFFFFFFFF
  let s := if ((s.die die).domain dom).st = .free then s else s.endDomain die dom .free
  .next (s.updDomain die dom fun d => { d with dctl := keep, err := 0 })

/-- QMASK_WRITE: doubleword i of QMASK; accepted in FREE and BROKEN only. -/
def execQmaskWrite (die dom i : Nat) (v : Word) (s : State) : Step :=
  if ((s.die die).domain dom).st = .armed then .next (s.updDomain die dom fun d => { d with err := 1 })
  else .next (s.updDomain die dom fun d => { d with err := 0, qmask := setFld d.qmask (64 * i + 63) (64 * i) v.toNat })

end Sys2Proof.Machine
end

