-- ==== Sys2Proof/Machine/Message.lean ====
section
/-! DEFINITION. Messages between cores: SEND, RECV, RECV.acc, XCHG, the arrival of packets, diversion, draining, and
host messages (R208, R220 to R228, R296 to R309, R316 to R318, R433). -/

namespace Sys2Proof.Machine

/-! ## SEND -/

/-- A destination word (R220). -/
def destOf (n : Nat) (w : Word) : Option Dest :=
  if fld w 63 16 ≠ 0 then none
  else if bitAt w 15 then (if fld w 11 0 = 0 then some (.mbox n (fld w 14 12)) else none)
  else if fld w 14 12 = 0 ∧ fld w 11 0 < numCores then some (.core (fld w 11 0))
  else none

/-- The packet of the first n 64-byte blocks of a register (R221). -/
def packetOf (g n : Nat) (v : BitVec 4096) : Packet :=
  { src := g, host := false, tok := false, ents := (List.range n).map fun i => BitVec.ofNat 512 (elemAt v 512 i) }

/-- The core's offset on its step clock, in base cycles (R316). -/
def State.stepOffset (s : State) (g : Nat) : Option Nat :=
  (s.core g).stepClock.map fun c => (s.clock - c) / period (s.fcur (dieOf g) 0)

/-- SENDs of the core are checked against its windows. -/
def State.scheduled (s : State) : Bool := s.me.stepClock.isSome && !s.me.arch.windows.isEmpty

/-- Some window allows the receiver now (R318). -/
def windowAllows (ws : List (Nat × Nat × Nat × Word)) (off : Nat) (d : Dest) : Bool :=
  match d with
  | .mbox .. => false
  | .core g => ws.any fun w =>
      decide (w.1 ≤ off) && decide (off < w.1 + w.2.1) && decide (w.2.2.1 ≤ g) && decide (g - w.2.2.1 < 64)
      && w.2.2.2.toNat.testBit (g - w.2.2.1)

/-- The traps of a SEND at issue: the SLOT check is the issue cycle's own. -/
def State.sendTrap (s : State) (w : Word) (d : Dest) : Option (Nat × Word) :=
  if s.isSealed s.me.ctxNum d then some (cSEALED, w)
  else if s.me.arch.wait.checked then none
  else
    match s.stepOffset s.cur with
    | some off =>
      if s.scheduled && !windowAllows s.me.arch.windows off d then some (cSLOT, BitVec.ofNat 64 off) else none
    | none => none

/-- The wait for room has run out (R301). -/
def State.sendExpired (s : State) (g : Nat) : Bool :=
  let w := (s.core g).arch.wait
  w.expired || s.sendLate g (w.since.getD s.clock)

/-- Cells for a waiting diversion: those granted to it, or some that are free now (R304). -/
def State.cellsNow (s : State) (n g k : Nat) : Option Bool :=
  match (s.core g).arch.wait.cells with
  | some (_, r) => some r
  | none => s.cellsFor n g k false

def execSend (d a : Reg) (n : BitVec 3) (s : State) : Step :=
  let g := s.cur
  let w := s.me.x d
  let ctx := s.me.ctxNum
  match destOf ctx w with
  | none => trapStep s cPROT w
  | some dst =>
    match s.sendTrap w dst with
    | some t => trapStep s t.1 t.2
    | none =>
      match s.takeV a.toNat with
      | (s, .wait c) => s.hold c
      | (s, .trap c v) => .next (s.trap c v)
      | (s, .gone) => .next s
      | (t, .ok v) =>
        let p := packetOf g (n.toNat + 1) v
        let s := s.updWait fun w => { w with checked := true }
        -- a packet of the same sender that is still on its way behind a departed receiver goes first (R433)
        let behind := s.behindPost g dst
        if !s.me.sb.isEmpty || !s.me.vmemDone then s.hold cMEM
        else if !behind && !s.mustDivert ctx g dst && s.hasRoom dst p.size then
          let rank := if s.scheduled then rankScheduled g else p.rank
          .next ((t.claim ctx dst p false true rank).updMe fun c => { c with outstanding := c.outstanding + 1 })
        else
          let s := s.updWait fun w => { w with since := w.since <|> some s.clock }
          if behind then (s.servePosts fun p => decide (p.dst = dst) && decide (p.holder = g)).hold cMSG
          else if s.crossWaits (dieOf g) (s.destDie dst) then s.hold cMSG
          else if s.mustDivert ctx g dst || s.scheduled || s.sendExpired g then
            match s.cellsNow ctx g p.size with
            | some r => .next (t.divert ctx g dst p r)
            | none => s.hold cMSG
          else s.hold cMSG

/-- The C instruction of the bundle a core holds at its issue point. -/
def Core.heldC (c : Core) : Option Instr :=
  match decodeBundle c.bundle with | .ok b => some b.c | .error _ => none
def Core.heldBy (c : Core) (cause : Nat) : Bool := decide (c.flow = .held cause)

/-- SPILLTO_EXPIRY: the wait of core g's SEND ends, and that of tokens and notices of the core. -/
def execSpilltoExpiry (g : Nat) (s : State) : Step :=
  let s := s.servePosts fun p => decide (p.holder = g)
  match (s.core g).heldC with
  | some (.send ..) =>
    if (s.core g).heldBy cMSG && (s.core g).arch.wait.since.isSome && s.sendExpired g then
      .next (s.updCore g fun c => c.updArch fun a => { a with wait := { a.wait with expired := true } })
    else .next s
  | _ => .next s

/-- Cells a waiting diversion of core g needs. -/
def State.diversionWants (s : State) (g : Nat) : Option Nat :=
  let c := s.core g
  if !c.heldBy cMSG then none
  else
    match c.heldC with
    | some (.send d _ n) =>
      match destOf c.ctxNum (c.x d) with
      | some dst => if s.mustDivert c.ctxNum g dst || s.sendExpired g then some (n.toNat + 1) else none
      | none => none
    | _ => none

/-- DIVERSION_CELL_GRANT (R304): freed cells go to a waiting diversion of core g. -/
def execDiversionCellGrant (g : Nat) (s : State) : Step :=
  let s := s.servePosts fun p => decide (p.holder = g)
  match s.diversionWants g with
  | none => .next s
  | some k =>
    if (s.core g).arch.wait.cells.isSome then .next s
    else
      match s.cellsFor (s.core g).ctxNum g k false with
      | some r => .next (s.updCore g fun c => c.updArch fun a => { a with wait := { a.wait with cells := some (k, r) } })
      | none => .next s

/-! ## Receiving (R224 to R226) -/

/-- The packet of a channel that claimed its entries first. -/
def State.chFirst (s : State) (ch : RecvCh) : Option RqPacket :=
  match ch with
  | .rq => if s.me.rqSealed then none else s.me.rq.head?
  | .mb m => let b := (s.ctx s.me.ctxNum).mbox m.toNat; if b.sealed then none else b.ring.head?

/-- It is there for pops of the core's present cycle: present since before (R298, R433). -/
def RqPacket.seen (p : RqPacket) (now : Nat) : Bool := p.present && decide (p.since < now)

/-- The oldest packet of a channel, when a pop of this cycle sees it. -/
def State.chHead (s : State) (ch : RecvCh) : Option Packet :=
  (s.chFirst ch).bind fun p =>
    if !p.seen s.me.now then none
    else match ch with | .rq => some p.pkt | .mb m => some (s.fromRing s.me.ctxNum m.toNat p.pkt)

/-- It leaves its queue whole, and what is ready enters in the same cycle (R298, R305). -/
def State.chPop (s : State) (ch : RecvCh) : State :=
  match ch with
  | .rq => (s.updMe fun c => { c with rq := c.rq.drop 1 }).offer s.cur
  | .mb m =>
    (s.updMbox s.me.ctxNum m.toNat fun b =>
      { b with tail := b.tail + BitVec.ofNat 32 (match b.ring with | p :: _ => p.pkt.size | [] => 0), ring := b.ring.drop 1 }).offerMbox
      s.me.ctxNum m.toNat

/-- The clock at which x[a] cycles of core g's layer will have passed since its wait began; all ones is no limit (R224). -/
def State.recvLimit (s : State) (g : Nat) (limit : Word) : Option Nat :=
  let c := s.core g
  if limit = 0xFFFFFFFFFFFFFFFF#64 then none
  else some (c.now + (limit.toNat + c.arch.wait.since.getD c.cycle) * s.periodOf g - c.cycle * s.periodOf g)

/-- The wait has run out, and the channel's packet, where there is one, came no earlier than in the cycle in which it did (R224,
R298). -/
def State.recvExpired (s : State) (first : Option RqPacket) (limit : Word) : Bool :=
  s.me.arch.wait.expired
  || (match s.recvLimit s.cur limit with
      | none => false
      | some t => decide (t ≤ s.me.now) && (match first with | some p => !p.seen t | none => true))

/-- The wait of a RECV, counted in the core's own cycles. -/
def State.recvWait (s : State) : Step :=
  (s.updWait fun w => { w with since := w.since <|> some s.me.cycle }).hold cMSG

/-- A packet as v[d] receives it (R224, R227). -/
def Packet.toV (p : Packet) : BitVec 4096 := BitVec.ofNat 4096 (p.ents.foldr (fun e acc => e.toNat + acc <<< 512) 0)

/-- A mailbox RECV that times out parks its record on the mailbox (R225). A message that is already there releases it
at once (log entry 21). -/
def State.park (s : State) (m : Nat) : Step :=
  let s := s.closeBody s.cur
  match s.suspendWait s.cur with
  -- the timeout outcome is taken, whatever lands while the core empties (R298)
  | some h => (s.updWait fun w => { w with since := w.since <|> some s.me.cycle, expired := true }).hold h
  | none =>
    let there := match s.chFirst (.mb (BitVec.ofNat 3 m)) with | some p => p.present | none => false
    let s := s.pay s.cur cMSG 1 s.me.arch.pc
    .next (s.suspendTo s.cur s.me.arch.pc fun s t r =>
      let s := s.attach t.ctx t.die t.layer t.slot r (.parked m) 3
      if there then s.releaseParked t.ctx m else s)

/-- A RECV is a load: the VLDs before it keep their places (R234, R429). -/
def State.afterVlds (s : State) (f : State → Step) : Step :=
  match s.fixVlds s.cur with
  | none => s.hold cMEM
  | some s => f s

def execRecv (d a : Reg) (q : QReg) (ch : RecvCh) (s : State) : Step :=
  if s.me.bound d.toNat then illegalStep s
  else s.afterVlds fun s =>
    match if s.recvExpired (s.chFirst ch) (s.me.x a) then none else s.chHead ch with
    | some p =>
      -- a host message makes RECV an acquire at .sys (R243)
      if p.host && s.acquireWait s.cur .sys [] then s.hold cMEM
      else .next (((s.chPop ch).updArch fun x => x.wv d.toNat p.toV).pushQI q (!p.tok))
    | none =>
      if !s.recvExpired (s.chFirst ch) (s.me.x a) then s.recvWait
      else
        match ch with
        | .rq => .next (s.pushQI q false)
        | .mb m => if s.me.arch.tm then .next (s.pushQI q false) else s.park m.toNat

/-- Packets of RECV.acc are added at RNE, and integers wrap (R226). -/
def accType : VType → VArith
  | .int t => .int t false
  | .flt f => .flt f .rne

/-- The elements of a packet added to the low bytes of v[d]. -/
def addPacket (t : VType) (v : BitVec 4096) (p : Packet) : BitVec 4096 × FpFlags :=
  let w := VType.bits t
  let x := p.toV
  (List.range (512 * p.ents.length / w)).foldl (fun acc e =>
    let r := vArith .add (accType t) 0 (elemAt acc.1 w e) (elemAt x w e)
    (setFld acc.1 (w * e + w - 1) (w * e) r.1, acc.2 ||| r.2)) (v, 0)

/-- The packets present at the head are added, at most `fuel` of them. -/
def State.accumulatePackets (t : VType) (d : Nat) (limit : Word) : Nat → State → State
  | 0, s => s
  | f + 1, s =>
    if s.me.arch.rcnt = 0 ∨ s.recvExpired (s.chFirst .rq) limit = true then s
    else
      match s.chHead .rq with
      | some p =>
        if p.tok then s
        else
          let r := addPacket t (s.me.arch.rv d) p
          let s := (s.chPop .rq).updArch fun a =>
            let b := a.wv d r.1
            { b with rcnt := a.rcnt - 1, fpst := a.fpst ||| r.2, wait := { a.wait with since := none } }
          State.accumulatePackets t d limit f s
      | none => s

def execRecvAcc (d a : Reg) (q : QReg) (t : VType) (s : State) : Step :=
  if s.me.bound d.toNat then illegalStep s
  else s.afterVlds fun s =>
    let s := State.accumulatePackets t d.toNat (s.me.x a) rqDepth s
    if s.me.arch.rcnt = 0 then .next (s.pushQI q true)
    else
      if s.recvExpired (s.chFirst .rq) (s.me.x a) then .next (s.pushQI q false)
      else
        match s.chHead .rq with
        | some p => if p.tok then .next (s.pushQI q false) else s.recvWait
        | none => s.recvWait

/-- RECV_TIMEOUT: the wait of core g's RECV has reached its limit, and its channel was still empty. -/
def execRecvTimeout (g : Nat) (s : State) : Step :=
  let c := s.core g
  let here : State := { s with cur := g }
  let late (ch : RecvCh) (a : Reg) : Bool :=
    c.arch.wait.since.isSome
    && (match s.recvLimit g (c.x a) with
        | some t => decide (t ≤ s.clock) && (match here.chFirst ch with | some p => !p.seen t | none => true)
        | none => false)
  let hit := c.heldBy cMSG && (match c.heldC with | some (.recv _ a _ ch) => late ch a | some (.recvAcc _ a _ _) => late .rq a | _ => false)
  .next (if hit then s.updCore g fun c => c.updArch fun a => { a with wait := { a.wait with expired := true } } else s)

/-! ## XCHG (R185, R228) -/

/-- Participants that have been contained contribute their error tokens. -/
def State.exchangeTokens (s : State) (mask : Nat) : State :=
  let quad := quadOf s.cur
  (List.range 4).foldl (fun s c =>
    if mask.testBit c && (s.core (4 * quad + c)).contained then
      s.updQuad quad fun q =>
        { q with xchg := SMap.upd q.xchg [] mask fun l =>
            if l.any (fun e => decide (e.1 = c)) then l else l ++ [(c, 0, (tokenWord 1 (4 * quad + c)).setWidth 4096, true)] }
    else s) s

/-- The exchange is complete for this core: its register and predicate. -/
def State.xchgEnd (s : State) (d : Reg) (q : QReg) (r : BitVec 4096 × Bool) : State :=
  ((s.updWait fun w => { w with xchg := none, xchgDone := none }).updArch fun x => x.wv d.toNat r.1).pushQI q r.2

def State.xchgWait (s : State) (d : Reg) (q : QReg) : Step :=
  match s.me.arch.wait.xchgDone with
  | some r => .next (s.xchgEnd d q r)
  | none => s.hold cMSG

def execXchg (d a : Reg) (q : QReg) (mask : BitVec 4) (s : State) : Step :=
  if mask.toNat.testBit (coreIn s.cur) = false ∨ s.me.bound d.toNat = true then illegalStep s
  else if s.me.arch.wait.xchg.isSome then s.xchgWait d q
  else
    match s.takeV a.toNat with
    | (s, .wait c) => s.hold c
    | (s, .trap c v) => .next (s.trap c v)
    | (s, .gone) => .next s
    | (s, .ok v) =>
      let (st, s) := s.fresh
      let s := s.updWait fun w => { w with xchg := some st, xchgDone := none }
      let s := s.updQuad (quadOf s.cur) fun x =>
        { x with xchg := SMap.upd x.xchg [] mask.toNat fun l => l ++ [(coreIn s.cur, st, v, false)] }
      ((s.exchangeTokens mask.toNat).xchgMeet (quadOf s.cur) mask.toNat).xchgWait d q

/-! ## What arrives and drains (R299, R305 to R307, R433) -/

/-- Entry i of a list becomes present at a clock. -/
def presentAt (l : List RqPacket) (i clock : Nat) : List RqPacket :=
  ((List.range l.length).zip l).map fun p => if p.1 = i then { p.2 with present := true, since := clock } else p.2

/-- A claimed packet of a sender for a die still has to cross, and the bridge carries it now (R10, R382). -/
def State.crosses (s : State) (die : Nat) (p : RqPacket) : Bool :=
  !p.present && (p.pkt.host || !s.crossWaits (dieOf p.pkt.src) die)

/-- PACKET_ARRIVAL: claimed packet i of a receive queue has crossed; receivers from 2,720 on are mailboxes, eight to
a context. -/
def execPacketArrival (g i : Nat) (s : State) : Step :=
  if g < numCores then
    match (s.core g).rq[i]? with
    | none => .next s
    | some p =>
      if !s.crosses (dieOf g) p then .next s
      else .next ((s.notOutstanding [p]).updCore g fun c => { c with rq := presentAt c.rq i s.clock })
  else
    let n := (g - numCores) / 8
    let m := (g - numCores) % 8
    match ((s.ctx n).mbox m).ring[i]? with
    | none => .next s
    | some p =>
      if !s.crosses (s.mboxDie n) p then .next s
      else .next (((s.notOutstanding [p]).updMbox n m fun b => { b with ring := presentAt b.ring i s.clock }).releaseParked n m)

/-- SPILL_QUEUE_DRAIN: what is ready for a queue enters while it fits, the head of its spill queue first (R299, R305). -/
def execSpillQueueDrain (q : SpillRef) (s : State) : Step :=
  match q with
  | .core g n => .next (if s.resident g n && !(s.core g).rqSealed then s.offer g else s)
  | .mailbox n m => .next (if ((s.ctx n).mbox m).sealed then s else s.offerMbox n m)

/-- A context whose mailboxes are open (R249). -/
def Ctx.isOpen (c : Ctx) : Bool := decide (c.st = .ready) || decide (c.st = .live) || decide (c.st = .stopping)

/-- HOST_DOORBELL (R306, R309). -/
def execHostDoorbell (ctx : BitVec 12) (mb : BitVec 3) (msg : BitVec 512) (s : State) : Step :=
  let n := ctx.toNat
  let m := mb.toNat
  let b := (s.ctx n).mbox m
  let p : Packet := { src := 0, host := true, tok := false, ents := [msg] }
  let drop := s.updMbox n m fun b => { b with drops := b.drops + 1 }
  if b.sealed then .next drop
  else if !(s.ctx n).isOpen then .next s
  else if s.hasRoom (.mbox n m) 1 && b.spill.isEmpty then .next ((s.claim n (.mbox n m) p true false p.rank).releaseParked n m)
  else
    match s.cellsFor n 0 1 true with
    | some r => .next (s.divert n 0 (.mbox n m) p r)
    | none => .next drop

end Sys2Proof.Machine
end

