-- ==== Sys2Proof/Machine/Level.lean ====
section
/-! DEFINITION. Levels: the level table, RESTR and PROLG, WLOAD, CYC, and the arrival of interlayer entries (R353 to
R363). -/

namespace Sys2Proof.Machine

/-! ## The level table (R354) -/

/-- The physical address of entry l of a context's level table. -/
def State.levelAt (s : State) (n l : Nat) : Nat :=
  (match (s.ctx n).d with | some d => d.qbase.toNat | none => 0) + 0x8000 + 0x100 * l

/-- A word of the table as the bundle at work sees it: as it was read at its issue, while it waits (R355, R360). -/
def State.tableWord (s : State) (n l off size : Nat) : Nat :=
  match s.me.arch.wait.table with
  | some m => SMap.get m 0 (256 * l + off)
  | none => s.hwLe (s.levelAt n l + off) size
/-- BIND of a level: 0 to 3 the layers, 4 the crown, anything else unbound. -/
def State.binding (s : State) (n l : Nat) : Nat := fld (BitVec.ofNat 64 (s.tableWord n l 0 8) : Word) 2 0
def State.levelRep (s : State) (n l : Nat) : Bool := bitAt (BitVec.ofNat 64 (s.tableWord n l 0 8) : Word) 3
/-- Weight (slot, t + 2) of the W table at 0x40 or the P table at 0x90. -/
def State.weight (s : State) (n l off slot t : Nat) : Nat := s.tableWord n l (off + 4 * (5 * slot + t)) 4

/-- A RESTR or PROLG of level l begins to wait: its checks have been made, and it keeps the entries it has read. -/
def State.levelIssued (s : State) (n l : Nat) : State :=
  let keys (e : Nat) : List (Nat × Nat × Nat) := (e, 0, 8) :: (List.range 40).map fun i => (e, 0x40 + 4 * i, 4)
  let m : SMap Nat := ([l - 1, l, l + 1].flatMap keys).foldl (fun m k => SMap.set m (256 * k.1 + k.2.1) (s.tableWord n k.1 k.2.1 k.2.2)) []
  s.updWait fun w => { w with checked := true, table := some m }

/-! ## Paths (R356) -/

inductive LvPath | port | folded | crown
  deriving DecidableEq, Repr

def pathOf (lower upper : Nat) : Option LvPath :=
  if upper < 4 ∧ lower + 1 = upper then some .port
  else if lower = upper ∧ upper < 4 then some .folded
  else if lower = 3 ∧ upper = 4 then some .crown
  else none

/-- A level's own check against the issuer (reasons 1 and 2 of R360). -/
def State.levelCheck (s : State) (n l : Nat) : Option Nat :=
  let b := s.binding n l
  if 5 ≤ b then some 1
  else if b = 4 then (if layerOf s.cur = 3 ∧ dieOf s.cur = 0 then none else some 2)
  else if b = layerOf s.cur then none else some 2

/-- The path between a level and the one above it or below it, or the reason of a LEVEL trap. -/
def State.levelPath (s : State) (n l : Nat) (above : Bool) : Except Nat LvPath :=
  match s.levelCheck n l with
  | some r => .error r
  | none =>
    if (above && decide (l = 15)) || (!above && decide (l = 0)) then .error 3
    else
      match (if above then pathOf (s.binding n l) (s.binding n (l + 1)) else pathOf (s.binding n (l - 1)) (s.binding n l)) with
      | some p => .ok p
      | none => .error 3

def levelTrap (s : State) (l reason : Nat) : Step := trapStep s cLEVEL (BitVec.ofNat 64 (reason <<< 8 + l))

/-- Slots that a path provides from above, by slot: what a parent sends to and takes from. -/
def slotsOf : LvPath → List Nat
  | .port => [0, 1, 2, 3] | .folded => [0] | .crown => [0, 1]

/-- The slots of a mask, 0 standing for all; `none` where it names one the path lacks. -/
def maskSlots (p : LvPath) (mask : Nat) : Option (List Nat) :=
  if mask = 0 then some (slotsOf p)
  else if (List.range 4).all (fun i => !mask.testBit i || (slotsOf p).contains i) then some ((slotsOf p).filter fun i => mask.testBit i)
  else none

/-- Sources by number, as IlEntry.port: UP0 to UP3, UPL, UPX, DNP, DNL. -/
def upSource (p : LvPath) (slot : Nat) : Nat :=
  match p with | .port => slot | .folded => 4 | .crown => if slot = 0 then 4 else 5

/-- Where RESTR.up sends: the core and the source it is filed under. -/
def upDest (g : Nat) (p : LvPath) : Nat × Nat :=
  match p with
  | .port => ((parentOf g).getD g, childPos (quadOf g))
  | .folded => (g, 4)
  | .crown => if dieOf g = 0 then (g, 4) else (g - coresPerDie, 5)

/-- Where PROLG.down sends for a slot. -/
def downDest (g : Nat) (p : LvPath) (slot : Nat) : Nat × Nat :=
  match p with
  | .port => ((childOf g slot).getD g, 6)
  | .folded => (g, 7)
  | .crown => if slot = 0 then (g, 7) else (g + coresPerDie, 6)

/-- The source and slot that PROLG.take takes from. -/
def downSource (g : Nat) (p : LvPath) : Nat × Nat :=
  match p with
  | .port => (6, childPos (quadOf g))
  | .folded => (7, 0)
  | .crown => if dieOf g = 0 then (7, 0) else (6, 1)

/-! ## Sending (R358, R359) -/

/-- An earlier entry of this source had not crossed as its receiver left, and is still on its way there (R433). -/
def State.ilBehindPost (s : State) (rcv port : Nat) : Bool :=
  s.posts.any fun p => decide (p.dst = .core rcv) && (match p.il with | some x => decide (x.port = port) && !x.tok | none => false)

/-- One destination: the entry claims its place, or is diverted where it must or may be, once it can cross (R10); toward a queue
sealed since the issue it is discarded (R309). -/
def State.sendEntry (s : State) (n g rcv : Nat) (e : IlEntry) (late : Bool) : Option State :=
  let away := !s.resident rcv n || s.ilBehind n rcv e.port
  if (s.core rcv).rqSealed then some s
  else if s.ilBehindPost rcv e.port then none
  else if !away && decide ((s.core rcv).ilq.length < ilDepth) then
    let sid := match (s.core rcv).strand with | some t => t.sid | none => 0
    some (s.updCore rcv fun c => { c with ilq := c.ilq ++ [{ e with strand := sid }] })
  else if (away || late) && !s.crossWaits (dieOf g) (dieOf rcv) then
    match s.cellsFor n g 8 false with
    | some r => some (s.pushSpill n (.core rcv) { pkt := none, il := some { e with present := true }, holder := g, reserve := r, cells := 8, idx := [], since := 0, mine := false })
    | none => none
  else none

/-- The destinations that have not been served yet are offered their entry, ascending: what fits enters (R298, R359). The
destinations served, by bit. -/
def State.sendAll (s : State) (n : Nat) (dests : List (Nat × Nat)) (ent : Nat → IlEntry) (late : Bool) : State × Nat :=
  ((List.range dests.length).zip dests).foldl (fun (r : State × Nat) d =>
    if r.2.testBit d.1 then r
    else match r.1.sendEntry n s.cur d.2.1 (ent d.2.2) late with
      | some t => (t, r.2 + 2 ^ d.1)
      | none => r) (s, s.me.arch.wait.told)

/-- Elements must be of 32 bits. -/
def State.levelShape (s : State) : Bool := decide (vBytes s.me.arch.vshape = 4)

/-- The first sealed destination of a RESTR.up or PROLG.down at its issue. -/
def State.sealedDest (s : State) (dests : List (Nat × Nat)) : Option Nat :=
  if s.me.arch.wait.checked then none else (dests.find? fun d => (s.core d.1).rqSealed).map Prod.fst

/-- RESTR.up and PROLG.down to their destinations: each takes its entry as soon as it can, and the bundle waits for the last. -/
def State.sendLevel (s : State) (l a : Nat) (p : LvPath) (dests : List (Nat × Nat)) : Step :=
  let g := s.cur
  let n := s.me.ctxNum
  match s.sealedDest dests with
  | some h => trapStep s cSEALED (BitVec.ofNat 64 h)
  | none =>
    match s.takeV a with
    | (s, .wait c) => (s.levelIssued n l).hold c
    | (s, .trap c v) => .next (s.trap c v)
    | (s, .gone) => .next s
    | (t, .ok v) =>
      if !s.me.sb.isEmpty || !s.me.vmemDone then (s.levelIssued n l).hold cMEM
      else
        let s := s.updWait fun w => { w with since := w.since <|> some s.clock }
        let late := s.sendExpired g
        let ent (port : Nat) : IlEntry :=
          { port := port, tag := l, shape := s.me.arch.vshape, data := v, src := g, tok := false, present := false, since := 0, ctx := n, strand := 0 }
        let r := t.sendAll n dests ent late
        if r.2 = 2 ^ dests.length - 1 then
          -- a folded transfer holds the C slot 8 cycles more (R357)
          let fold := decide (p = .folded) || (decide (p = .crown) && dests.any fun d => decide (d.1 = g))
          let n := if fold then 8 else 0
          let t := r.1.updWait fun w => { w with told := 0 }
          .next (t.pay g cMSG n t.me.arch.pc)
        else
          -- a strip is consumed only with the last entry
          let u := s.sendAll n dests ent late
          ((u.1.updWait fun w => { w with told := u.2 }).levelIssued n l).hold cMSG

def execRestrUp (lv a : Reg) (s : State) : Step :=
  let l := lv.toNat
  if !s.levelShape then illegalStep s
  else
    match s.levelPath s.me.ctxNum l true with
    | .error r => levelTrap s l r
    | .ok p => s.sendLevel l a.toNat p [upDest s.cur p]

def execProlgDown (lv a : Reg) (mask : BitVec 4) (s : State) : Step :=
  let l := lv.toNat
  if !s.levelShape then illegalStep s
  else
    match s.levelPath s.me.ctxNum l false with
    | .error r => levelTrap s l r
    | .ok p =>
      match maskSlots p mask.toNat with
      | none => levelTrap s l 5
      | some slots => s.sendLevel l a.toNat p (slots.map (downDest s.cur p))

/-! ## Taking (R360) -/

/-- The oldest entry of a source, when a pop of this cycle sees it (R298). -/
def Core.ilHead (c : Core) (port : Nat) : Option IlEntry :=
  if c.rqSealed then none
  else
    match c.ilq.find? fun e => decide (e.port = port) with
    | some e => if e.present && decide (e.since < c.now) then some e else none
    | none => none

/-- The oldest entry of a source leaves. -/
def ilPop (port : Nat) : List IlEntry → List IlEntry
  | [] => []
  | e :: r => if e.port = port then r else e :: ilPop port r

/-- An element of an entry, with its boundary mode. -/
def IlEntry.at' (e : IlEntry) (rep : Bool) (r : Nat) (x : Int) : Nat :=
  let cols := vCols e.shape
  let el (c : Nat) : Nat := elemAt e.data 32 (r * cols + c)
  if vRows e.shape ≤ r then 0
  else if 0 ≤ x ∧ x < cols then el x.toNat
  else if rep then el (clampInt 0 ((cols : Int) - 1) x).toNat
  else 0

/-- The column of an entry that tap t (0 to 4 for −2 to 2) of an output column reads, where there is one. -/
def tapColumn (up : Bool) (col t : Nat) : Option Int :=
  let k : Int := (t : Int) - 2
  if up then some (2 * (col : Int) + k)
  else if ((col : Int) + k) % 2 = 0 then some (((col : Int) + k) / 2) else none

/-- One output element: the exact sum of the weighted terms, rounded once; terms of weight zero are left out. -/
def levelElem (w : Nat → Nat → Nat) (rep up : Bool) (es : List (IlEntry × Nat)) (r col : Nat) : Nat × FpFlags :=
  let ts := es.flatMap fun p => (List.range 5).filterMap fun t =>
    let c := w p.2 t
    if c % 2 ^ 31 = 0 then none
    else (tapColumn up col t).map fun x => FV.mul (decodeF .f32 c) (decodeF .f32 (p.1.at' rep r x))
  if ts.isEmpty then (0, 0) else sumRound .f32 .rne 0 (ts.map Prod.fst) (orFlags (ts.map Prod.snd))

/-- The register a take yields under a shape. -/
def levelValue (w : Nat → Nat → Nat) (rep up : Bool) (es : List (IlEntry × Nat)) (sh : Word) : BitVec 4096 × FpFlags :=
  let res := collect ((List.range (vRows sh)).flatMap fun r => (List.range (vCols sh)).map fun c => levelElem w rep up es r c)
  (packElems 4096 32 res.1, res.2)

/-- The results of a take, v[d] and q, are written n cycles of the core's layer from now: their readers wait, charged VSEQ (R48, R357).
What was in flight for the predicate is overwritten by then. -/
def State.flyTake (s : State) (d q n : Nat) (b : Bool) : State :=
  s.updMe fun c =>
    { c with
      pend := c.pend.filter fun p => decide (p.dst ≠ .q q)
      arch := { c.arch.wq q b with vfly := c.arch.vfly ++ [{ regs := [.v d, .q q], flags := true, land := s.clock + n * s.periodOf s.cur }] } }

/-- The loop of R360 over sources with their slots. The result is written 12 cycles after its entries are popped (R357). -/
def State.takeLevel (s : State) (l : Nat) (d : Reg) (q : QReg) (up : Bool) (entry tag : Nat) (srcs : List (Nat × Nat)) : Step :=
  let n := s.me.ctxNum
  let heads := srcs.filterMap fun p => (s.me.ilHead p.1).map fun e => (e, p.2)
  match heads.find? fun p => p.1.tok with
  | some (e, _) =>
    let s := (s.updMe fun c => { c with ilq := ilPop e.port c.ilq }).offer s.cur
    .next ((s.updArch fun a => a.wv d.toNat e.data).flyTake d.toNat q.toNat 12 false)
  | none =>
    if heads.any fun p => decide (p.1.tag ≠ tag) then levelTrap s l 4
    else if heads.length ≠ srcs.length then (s.levelIssued n l).hold cMSG
    else
      let v := levelValue (s.weight n entry (if up then 0x40 else 0x90)) (s.levelRep n entry) up heads s.me.arch.vshape
      let s := (s.updMe fun c => { c with ilq := srcs.foldl (fun l p => ilPop p.1 l) c.ilq }).offer s.cur
      .next (((s.updArch fun a => a.wv d.toNat v.1).raise s.cur v.2).flyTake d.toNat q.toNat 12 true)

def execRestrTake (lv a : Reg) (q : QReg) (mask : BitVec 4) (s : State) : Step :=
  let l := lv.toNat
  if !s.levelShape || s.me.bound a.toNat then illegalStep s
  else
    match s.levelPath s.me.ctxNum l false with
    | .error r => levelTrap s l r
    | .ok p =>
      match maskSlots p mask.toNat with
      | none => levelTrap s l 5
      | some slots => s.takeLevel l a q true l (l - 1) (slots.map fun i => (upSource p i, i))

def execProlgTake (lv a : Reg) (q : QReg) (s : State) : Step :=
  let l := lv.toNat
  if !s.levelShape || s.me.bound a.toNat then illegalStep s
  else
    match s.levelPath s.me.ctxNum l true with
    | .error r => levelTrap s l r
    | .ok p => s.takeLevel l a q false (l + 1) (l + 1) [downSource s.cur p]

/-! ## WLOAD and CYC (R361, R362) -/

/-- W, P and REP of an entry. -/
def State.putWeights (s : State) (n l : Nat) (bs : List Byte) (rep : Bool) : State :=
  let ctl := s.hwLe (s.levelAt n l) 8
  let s := s.hwWrite (s.levelAt n l) 8 (ctl % 8 + 8 * rep.toNat)
  s.hwWrite (s.levelAt n l + 0x40) 160 (leValue bs)

def execWload (lv : Reg) (rep : Bool) (m : MemOp) (s : State) : Step :=
  let ea := MemOp.ea s.me 64 m
  if ea.toNat % 64 ≠ 0 then trapStep s cALIGN ea
  else Got.step (s.coreRead s.cur ea 160 .read .align) fun s r =>
    if !s.pkgDone s.cur then s.hold cMEM
    else .next ((s.putWeights s.me.ctxNum lv.toNat r.1 rep).extraCycles ((pagesOf ea.toNat 160).length - 1))

def Bind.bits : Bind → Nat
  | .l0 => 0 | .l1 => 1 | .l2 => 2 | .l3 => 3 | .crown => 4 | .unbound => 7

def execCyc (lv : Reg) (b : Bind) (s : State) : Step :=
  if !s.pkgDone s.cur then s.hold cMEM
  else
    let n := s.me.ctxNum
    let ctl := s.hwLe (s.levelAt n lv.toNat) 8
    .next (s.hwWrite (s.levelAt n lv.toNat) 8 (ctl / 8 % 2 * 8 + Bind.bits b))

/-! ## Arrival (R433) -/

/-- INTERLAYER_ENTRY_ARRIVAL: claimed entry i of a core's interlayer queue has crossed. -/
def execInterlayerEntryArrival (g i : Nat) (s : State) : Step :=
  match (s.core g).ilq[i]? with
  | none => .next s
  | some e =>
    if e.present || s.crossWaits (dieOf e.src) (dieOf g) then .next s
    else
      .next (s.updCore g fun c =>
        { c with ilq := ((List.range c.ilq.length).zip c.ilq).map fun p =>
            if p.1 = i then { p.2 with present := true, since := s.clock } else p.2 })

end Sys2Proof.Machine
end

