-- ==== Sys2Proof/Machine/Pages.lean ====
section
/-! DEFINITION. Pages, generations and the divided memories: SNAP, GENQ, BIAS, TLBI, FMTLD, Carafe, GENCTL, scrubbing
and slice ways (R157 to R162, R328 to R352). -/

namespace Sys2Proof.Machine

/-! ## SNAP and GENQ (R157 to R159, R333, R338 to R342) -/

/-- Bytes of an image (R339). -/
def imageBytes : Nat := 0x2001000000

/-- An image fits in one CXL port's window with memory behind every byte. -/
def State.imageOk (s : State) (pa : Nat) : Bool :=
  match rangeOf pa with
  | .cxl p => s.cxlUp p && decide (homeOffset pa + imageBytes ≤ 2 ^ 40) && decide (homeOffset pa + imageBytes ≤ Config.cxlPages p * 4096)
  | _ => false

def State.imageUp (s : State) : Bool :=
  match rangeOf s.gen.image with | .cxl p => s.cxlUp p | _ => false

/-- The block map of a new image reads zero. -/
def State.clearMap (s : State) (image : Nat) : State :=
  let lo := image + 0x1000
  let hi := lo + 2 ^ 23
  let out (k : Nat) : Bool := decide (k < lo) || decide (hi ≤ k)
  { s with mem := s.mem.filter fun c => out c.1, poison := s.poison.filter fun p => out (p.1 * 32) }

/-- Every populated block that is not quarantined becomes FROZEN. -/
def freeze (b : Block) : Block :=
  match b.st with
  | .quarantined => { b with exempt := false }
  | .zero => b
  | _ => { st := .frozen, old := [], bad := [], exempt := false }

/-- G advances, and Carafe starts on the image: header with STATE 0, whose counts the spec leaves open until the final
one (log entry 22). -/
def State.cut (s : State) (image : Nat) : State :=
  let s := s.clearMap image
  let s := { s with gen :=
    { s.gen with gen := s.gen.gen + 1, draining := true, image := image, blocks := SMap.mapVals s.gen.blocks fun _ b => freeze b,
                 pres := 0, psec := 0 } }
  let counts := (Config.openWord s.stamp).toNat + (Config.openWord (s.stamp + 1)).toNat <<< 64
  let s := ({ s with stamp := s.stamp + 2 }).putBytes image 4096 (s.gen.gen + (nsOf s.clock) <<< 64 + counts <<< 256)
  -- the codes of what the cut leaves out stay, whatever becomes of the blocks (R339)
  s.gen.blocks.foldl (fun s b => if b.2.st = .quarantined then s.putCode b.1 3 else s) s

def execSnap (q : QReg) (a : Reg) (s : State) : Step :=
  let v := s.me.x a
  if v.toNat % 4096 ≠ 0 then trapStep s cALIGN v
  else if s.walkHeld v.toNat .write then s.hold cMEM
  else
    match s.translate s.cur v.toNat .write with
    | (s, .error e) => trapStep s e v
    | (s, .ok x) =>
      if !s.imageOk x.pa then trapStep s cPROT v
      else if s.gen.draining || (decide (s.gen.ctx ≠ 0) && decide (s.gen.ctx ≠ s.me.ctxNum)) then .next (s.pushQI q false)
      -- the cut is consistent: no store of either die is on its way to its home (R245, log entry 66)
      else if !s.me.loadsDone || !s.storesDone s.cur .sys || !s.me.vmemDone || [0, 1].any (fun d => !(s.die d).past.isEmpty) then
        s.hold cMEM
      else .next ((s.cut x.pa).pushQI q true)

/-- Blocks that Carafe has still to drain. -/
def Gen.left (g : Gen) : Nat := (g.blocks.filter fun b => decide (b.2.st = .frozen) || decide (b.2.st = .split)).length

def State.genq (s : State) (item : Nat) : Nat :=
  match item with
  | 0 => if s.gen.draining then 4096 * s.gen.left else 0
  | 1 => s.gen.gen
  | _ => 4096 * (s.gen.free 0 + s.gen.free 1)

def execGenq (d : Reg) (item : BitVec 2) (s : State) : Step :=
  if item = 3 then illegalStep s else .next (s.pushXI d (BitVec.ofNat 64 (s.genq item.toNat)))

/-! ### Carafe -/

/-- The keys that core g's engines and atomics are to write next, write by write, but for those written through exempt regions. -/
def State.coreWriters (s : State) (g : Nat) : List (List Nat) :=
  let c := s.core g
  let copies := c.chans.filterMap fun k =>
    match s.xlate g ((k.2.dst.toNat + k.2.pos) % 2 ^ 64) .ewrite with | .ok x => if x.snapx then none else some [x.pa] | .error _ => none
  let scat := match c.arch.vseq with
    | e :: _ => (match e.ins with | .vscat .. => (e.addrs.filter fun p => !s.snapx g p.1).map Prod.snd | _ => [])
    | [] => []
  let tst := match c.arch.mxq with | e :: _ => if e.isTst then (e.pages.filter fun p => !s.snapx g p.1).map Prod.snd else [] | [] => []
  let word (a : Word) : List (List Nat) :=
    match s.xlate g a.toNat .atomic with | .ok x => if x.snapx then [] else [[x.pa]] | .error _ => []
  let held := if !c.heldBy cMEM then [] else match c.heldC with
    | some (.amo _ a _ _ _ k) => word (c.x a + k.disp.signExtend 64)
    | some (.cas _ a _ _ none) => word (c.x a)
    | some (.cas _ a _ _ (some k)) => word (c.x a + k.disp.signExtend 64)
    | _ => []
  let sent := c.arch.wait.amo.filterMap fun p => match p.2 with | .sent r => if s.snapx g r.ea.toNat then none else some [r.pa] | _ => none
  copies ++ [scat, tst] ++ held ++ sent

/-- FROZEN blocks of a die that some writer waits for, its reserve having fewer media blocks than the write needs copies (R337). -/
def State.waitedBlocks (s : State) (die : Nat) : List Nat :=
  let past := [0, 1].flatMap fun d => (s.die d).past.map fun p => if p.ent.exempt then [] else p.ent.bytes.map Prod.fst
  (past ++ s.cores.flatMap fun p => s.coreWriters p.1).flatMap fun ks =>
    let bs := (ks.filterMap blockOf).eraseDups.filter fun b => onDie die b && blockIs s (b * 4096) .frozen
    if s.gen.free die < bs.length then bs else []

/-- An engine of core g waits for a block: its core's waits for the engine are charged MEM (R337). -/
def State.engineStarved (s : State) (g : Nat) : Bool :=
  (s.coreWriters g).any fun ks => !s.canWrite false (ks.map fun k => (k, 0))

/-- The block that Carafe drains next on a die: the first that a writer waits for, which is FROZEN, else the lowest of those left
(R337, R338). -/
def State.nextBlock (s : State) (die : Nat) : Option Nat :=
  match s.waitedBlocks die with
  | b :: _ => some b
  | [] => (s.gen.blocks.find? fun b => onDie die b.1 && (decide (b.2.st = .frozen) || decide (b.2.st = .split))).map Prod.fst

/-- The final header: STATE 1 complete or 2 failed. -/
def State.finalHeader (s : State) (st : Nat) : State :=
  let k := s.gen.image
  ((s.putBytes (k + 0x10) 8 (nsOf s.clock)).putBytes (k + 0x18) 8 st).putBytes (k + 0x20) 16 (s.gen.pres + s.gen.psec <<< 64)

/-- The last codes of the map, and the end of the drain. -/
def State.endDrain (s : State) : State :=
  let s := s.gen.blocks.foldl (fun s b =>
    if s.mapCode b.1 = 0 ∧ b.2.exempt = true then s.putCode b.1 2 else s) s
  let s := s.finalHeader 1
  { s with gen := { s.gen with draining := false, last := 1, blocks := SMap.mapVals s.gen.blocks fun _ b => { b with exempt := false } } }

/-- CARAFE_DRAIN_BLOCK: the next block of a die, and after the last block of both dies the end of the drain. -/
def execCarafeDrainBlock (die : Nat) (s : State) : Step :=
  if !s.gen.draining || !s.imageUp then .next s
  else
    match s.nextBlock die with
    | some b => .next (s.drainBlock b)
    | none => .next (if s.gen.left = 0 then s.endDrain else s)

/-- A drain fails (R341). -/
def State.failDrain (s : State) : State :=
  let s := (SMap.keys s.gen.blocks).foldl (fun s b =>
    if blockIs s (b * 4096) .frozen || blockIs s (b * 4096) .split then s.thaw b else s) s
  let s := if s.imageUp then s.finalHeader 2 else s
  { s with gen := { s.gen with draining := false, last := 2, blocks := SMap.mapVals s.gen.blocks fun _ b => { b with exempt := false } } }

/-- DRAIN_FAIL: a write to the image has failed. -/
def execDrainFail (s : State) : Step := .next (if s.gen.draining then s.failDrain else s)

/-- A drain fails where the image's port has left the up or degraded state. -/
def State.checkImage (s : State) : State := if s.gen.draining && !s.imageUp then s.failDrain else s

/-! ### GENCTL and GENST (R331, R332) -/

def genctlWord (g : Gen) : Word := BitVec.ofNat 64 (g.err <<< 44 + g.ctx <<< 32 + g.rsv)
def genstWord (g : Gen) : Word := BitVec.ofNat 64 (g.draining.toNat <<< 63 + g.last <<< 61 + g.free 0 + g.free 1)

/-- Blocks of [lo, hi) GiB of each die take the state ZERO and lose their contents. -/
def State.forgetRange (s : State) (lo hi : Nat) : State :=
  let inside (k : Nat) : Bool :=
    decide (k < 2 ^ 37) && decide (lo * 2 ^ 30 ≤ k % 2 ^ 36) && decide (k % 2 ^ 36 < hi * 2 ^ 30)
  { s with mem := s.mem.filter (fun c => !inside c.1), poison := s.poison.filter (fun p => !inside (p.1 * 32))
           gen := { s.gen with blocks := s.gen.blocks.filter fun b => !inside (b.1 * 4096) } }

/-- GENCTL_WRITE. -/
def execGenctlWrite (v : Word) (s : State) : Step :=
  let rsv := fld v 4 0
  let old := s.gen.rsv
  let s := { s with gen := { s.gen with ctx := fld v 43 32 } }
  if s.gen.draining ∧ rsv ≠ old then .next { s with gen := { s.gen with err := 1 } }
  else if 16 < rsv then .next { s with gen := { s.gen with err := 2 } }
  else
    let s := if old < rsv then s.forgetRange (64 - rsv) (64 - old) else s
    .next { s with gen := { s.gen with err := 0, rsv := rsv } }

/-! ## BIAS (R160, R329, R330) -/

def biasDev : Bias → Bool | .device => true | .toHost => true | _ => false

/-- The BIAS at work takes the last place among those that wait for a page. -/
def State.queuedBias (s : State) (page : Nat) : State :=
  let (n, s) := s.fresh
  s.updWait fun w => { w with biasAt := some (page, n) }

/-- A BIAS for a host page waits, behind those that came before it. -/
def State.queueBias (s : State) (page : Nat) : Step :=
  match s.me.arch.wait.biasAt with
  | some (p, _) => (if p = page then s else s.queuedBias page).hold cMEM
  | none => (s.queuedBias page).hold cMEM

/-- A BIAS for the page that came earlier still waits. -/
def State.biasBehind (s : State) (page : Nat) : Bool :=
  let mine := match s.me.arch.wait.biasAt with | some (p, n) => if p = page then n else s.stamp | none => s.stamp
  s.cores.any fun c => decide (c.1 ≠ s.cur) && (match c.2.arch.wait.biasAt with | some (p, n) => decide (p = page) && decide (n < mine) | none => false)

def execBias (d a : Reg) (dev : Bool) (s : State) : Step :=
  let v := s.me.x a
  if s.walkHeld v.toNat .write then s.hold cMEM
  else
  match s.translate s.cur v.toNat .write with
  | (s, .error e) => trapStep s e v
  | (s, .ok x) =>
    if !isHost x.pa then trapStep s cPROT v
    else
      let s := s.recordBias x.biasd x.pa
      let page := x.pa / 4096
      let now := SMap.get s.bias .host page
      match s.me.arch.wait.bias with
      | some (p, prev) =>
        if p = page ∧ prev = !dev then
          -- the flip that this bundle asked for completes it, whatever another BIAS has made of the page since
          if s.me.arch.wait.biasDone then .next ((s.updWait fun w => { w with bias := none, biasDone := false }).pushXI d (BitVec.ofNat 64 prev.toNat))
          else s.hold cMEM
        else (s.updWait fun w => { w with bias := none, biasDone := false }).hold cMEM
      | none =>
        if s.moving x.pa || s.biasBehind page then s.queueBias page
        else if !s.accessesDone s.cur then s.hold cMEM
        else
          let s := s.updWait fun w => { w with biasAt := none }
          if biasDev now = dev then .next (s.pushXI d (BitVec.ofNat 64 dev.toNat))
          else
            let s := s.updWait fun w => { w with bias := some (page, !dev), biasDone := false }
            { s with bias := SMap.set s.bias page (if dev then .toDevice else .toHost) }.hold cMEM

/-- A flip of the page is complete, and with it the BIAS that asked for it. -/
def State.flipped (s : State) (page : Nat) (b : Bias) : State :=
  let hit (w : WaitSt) : Bool := match w.bias with | some (p, _) => decide (p = page) | none => false
  { s with bias := SMap.set s.bias page b }.mapArch fun a =>
    if hit a.wait then { a with wait := { a.wait with biasDone := true } } else a

/-- BIAS_FLIP_COMPLETE: the losing side of a host page has drained, with every store that was on its way to it (R160, R242). -/
def execBiasFlipComplete (page : Nat) (s : State) : Step :=
  let busy := [0, 1].any fun d => (s.die d).past.any fun p => p.ent.bytes.any fun c => decide (c.1 / 4096 = page)
  match SMap.get? s.bias page with
  | some .toDevice => .next (if busy then s else s.flipped page .device)
  | some .toHost => .next (if busy then s else s.flipped page .host)
  | _ => .next s

/-! ## TLBI (R161, R251, R258) -/

/-- Cores that hold a strand of a context. -/
def State.coresOfCtx (s : State) (n : Nat) : List Nat :=
  s.cores.filterMap fun p => match p.2.strand with | some t => if t.ctx = n then some p.1 else none | none => none

/-- Translated accesses of a core that are still to be performed. -/
def State.usesTlb (s : State) (g : Nat) : Bool :=
  let c := s.core g
  -- of another core all that it holds behind a faulted head too: it is performed with these translations after RFT
  let v := if g = s.cur then c.vwork else c.arch.vseq
  !(c.loadsDone && s.storesHome g && v.all (fun e => e.addrs.isEmpty) && c.arch.mxq.all fun e => e.pages.isEmpty)

/-- Entries that `hit` names leave every TLB of the package. -/
def State.dropTlb (s : State) (hit : TlbEntry → Bool) : State :=
  { s with cores := SMap.mapVals s.cores fun _ c => { c with tlb := c.tlb.filter (!hit ·) },
           quads := SMap.mapVals s.quads fun _ q => { q with tlb := q.tlb.filter (!hit ·) } }

def execTlbiVa (a : Reg) (s : State) : Step :=
  let n := s.me.ctxNum
  let va := (s.me.x a).toNat
  if !s.me.arch.pl then privStep s
  else if !s.storesHome s.cur || (s.coresOfCtx n).any s.usesTlb then s.hold cMEM
  else .next (s.dropTlb fun e => decide (e.ctx = n) && decide (va >>> e.p = e.vpage))

/-- Every core that holds a strand of context n reloads its working copies, and spilled strands will. -/
def State.reloadCopies (s : State) (n : Nat) : State :=
  let d := s.readDesc (s.ctx n).desc.toNat
  let s := (s.coresOfCtx n).foldl (fun s g =>
    let s := ((s.endRuns g).flushAcct g).updCore g fun c => c.updArch fun a => { a with copies := d.copies }
    if s.dual g then s.updCore (g + 1) fun c => c.updArch fun a => { a with copies := d.copies } else s) s
  s.updCtx n fun c => { c with d := some d, spilled := SMap.mapVals c.spilled fun _ x => { x with reload := true } }

def execTlbiAll (s : State) : Step :=
  let n := s.me.ctxNum
  if !s.me.arch.pl then privStep s
  else if !s.storesHome s.cur || (s.coresOfCtx n).any (fun g => s.usesTlb g || !s.accessesDone g) then s.hold cMEM
  else .next ((s.dropTlb fun e => decide (e.ctx = n)).reloadCopies n)

/-! ## FMTLD (R88, R162) -/

/-- A sequencer entry that reads the decode table. -/
def vUsesTab : Instr → Bool
  | .vcvt _ _ dt st _ _ _ => decide (dt = .tbl8) || decide (st = .tbl8)
  | .venc .. | .vdec .. => true
  | _ => false
/-- An entry of the MXU queue may read the decode table: its own type, or a format context in force or to come. -/
def Core.mUsesTab (c : Core) : Bool :=
  let isTbl (f : Fmt) : Bool := decide (f.ta = .tbl8) || decide (f.tb = .tbl8)
  let fmts := isTbl c.arch.bank.fmt || isTbl c.tbank.fmt
    || c.arch.mxq.any fun e => match e.ins with | .mfmt ta tb _ _ _ => decide (ta = .tbl8) || decide (tb = .tbl8) | _ => false
  c.arch.mxq.any fun e =>
    match e.ins with
    | .mcvt _ _ t _ _ _ => decide (t = .tbl8)
    | .mma .. | .mmas .. | .mdist .. | .mew .. => fmts
    | _ => false

/-- The table an image holds. -/
def tabOf (bs : List Byte) : SMap TabEntry :=
  (List.range 256).map fun c => (c, tabKeep (BitVec.ofNat 32 (descField bs (4 * c) 4)))

def execFmtld (m : MemOp) (s : State) : Step :=
  let ea := MemOp.ea s.me 64 m
  if ea.toNat % 64 ≠ 0 then trapStep s cALIGN ea
  else Got.step (s.coreRead s.cur ea 1024 .read .align) fun s r =>
    if s.me.arch.vseq.any (fun e => vUsesTab e.ins) || s.me.mUsesTab then s.hold cMEM
    else .next ((s.updArch fun a => { a with tab := tabOf r.1 }).extraCycles ((pagesOf ea.toNat 1024).length - 1))

/-! ## Scrubbing (R345) -/

/-- SCRUB_START: a write of SCRUB. -/
def execScrubStart (die : Nat) (v : Word) (s : State) : Step :=
  .next (if (s.die die).scrubBusy then s else s.updDie die fun d => { d with scrubBusy := true, scrubPa := pageField v })

/-- A block takes the state ZERO. One that has left the cut in progress keeps its code in the image's map (R339). -/
def State.zeroBlock (s : State) (b : Nat) : State :=
  let s := match s.block b with | some x => if s.gen.draining && x.exempt && decide (s.mapCode b = 0) then s.putCode b 2 else s | none => s
  { s with mem := s.mem.filter (fun c => decide (c.1 / 4096 ≠ b)), poison := s.poison.filter (fun p => decide (p.1 / 128 ≠ b)),
           gen := { s.gen with blocks := SMap.del s.gen.blocks b } }

/-- SCRUB_COMPLETE: whether the media tested good. -/
def execScrubComplete (die : Nat) (good : Bool) (s : State) : Step :=
  let k := unalias (s.die die).scrubPa.toNat
  let done (s : State) (res : Nat) : State := s.updDie die fun d => { d with scrubBusy := false, scrubRes := res }
  if !(s.die die).scrubBusy then .next s
  else
    match blockOf k with
    | none => .next (done s 3)
    | some b =>
      if !onDie die b || !blockIs s k .quarantined then .next (done s 3)
      else if good then .next (done (s.zeroBlock b) 1)
      else if 0 < s.gen.free die then
        let s := s.zeroBlock b
        .next (done { s with gen := { s.gen with retired := SMap.upd s.gen.retired 0 die (· + 1) } } 2)
      else .next (done s 4)

/-! ## Slice ways (R349 to R351) -/

def waypartWord (x : Slice) : Word := BitVec.ofNat 64 (x.st <<< 44 + x.err <<< 40 + x.cur <<< 32 + x.sw)

def State.updSlice (s : State) (die sl : Nat) (f : Slice → Slice) : State :=
  s.updDie die fun d => { d with slices := SMap.set d.slices sl (f (d.slice sl)) }

/-- The physical address of a slice's window. -/
def apertureBase (die sl : Nat) : Nat := 0xF018000000000 + die * 2 ^ 44 + 0x800000 * sl

/-- Window bytes [lo, hi) of a slice in MiB read zero. -/
def State.zeroWindow (s : State) (die sl lo hi : Nat) : State :=
  let b := apertureBase die sl
  let out (k : Nat) : Bool := decide (k < b + lo * 2 ^ 20) || decide (b + hi * 2 ^ 20 ≤ k)
  { s with mem := s.mem.filter fun c => out c.1, poison := s.poison.filter fun p => out (p.1 * 32) }

/-- WAYPART_WRITE. -/
def execWaypartWrite (die slice : Nat) (v : Word) (s : State) : Step :=
  let sw := fld v 3 0
  let x := (s.die die).slice slice
  if 8 < sw then .next (s.updSlice die slice fun x => { x with err := 2 })
  else if x.st ≠ 0 then .next (s.updSlice die slice fun x => { x with err := 1 })
  else if sw = x.cur then .next (s.updSlice die slice fun x => { x with err := 0, sw := sw })
  else if x.cur < sw then
    .next ((s.zeroWindow die slice x.cur sw).updSlice die slice fun x => { x with err := 0, sw := sw, st := 1 })
  else .next (s.updSlice die slice fun x => { x with err := 0, sw := sw, cur := sw, st := 2 })

/-- SURRENDER_COMPLETE: the last dirty line has been written back. -/
def execSurrenderComplete (die slice : Nat) (s : State) : Step :=
  .next (if ((s.die die).slice slice).st = 1 then s.updSlice die slice fun x => { x with st := 0, cur := x.sw } else s)

/-- An accepted access to a slice's window at or above its ways is still to be performed: a store, an atomic on its way, or an entry of
a sequencer or an MXU queue. -/
def State.windowBusy (s : State) (die slice : Nat) : Bool :=
  let lost (k : Nat) : Bool :=
    match apertureOf k with
    | some (d, sl, o) => decide (d = die) && decide (sl = slice) && decide (((s.die die).slice slice).cur * 2 ^ 20 ≤ o)
    | none => false
  let out (b : List (Nat × Byte)) : Bool := b.any fun c => lost c.1
  let queued (a : Arch) : Bool :=
    a.vseq.any (fun e => e.keys.any lost) || a.mxq.any (fun e => e.pages.any fun p => lost p.2)
    || a.wait.amo.any fun p => match p.2 with | .sent r => lost r.pa | _ => false
  ([0, 1].any fun d => (s.die d).past.any fun p => out p.ent.bytes)
  || s.cores.any fun c => (s.storesOf c.1).any (fun e => out e.bytes) || queued c.2.arch

/-- RECLAIM_COMPLETE: accesses accepted before have completed, and the bytes are discarded. -/
def execReclaimComplete (die slice : Nat) (s : State) : Step :=
  let x := (s.die die).slice slice
  .next (if x.st = 2 ∧ s.windowBusy die slice = false then (s.zeroWindow die slice x.cur 8).updSlice die slice fun x => { x with st := 0 } else s)

end Sys2Proof.Machine
end

