-- ==== Sys2Proof/Machine/Context.lean ====
section
/-! DEFINITION. Contexts and the dispensers' events: CTXCTL's commands, the object words, dispatch, aging, waking,
pre-emption, asynchronous causes, the strand watchdog, teardown and the flushing of accounts (R247 to R251, R262, R268 to
R295, R418, R422, R430). -/

namespace Sys2Proof.Machine

/-! ## CTXDESC and CTXCTL (R248, R249, R291) -/

def State.ctxErr (s : State) (n e : Nat) : State := s.updCtx n fun c => { c with err := e }

def CtxState.code : CtxState → Nat
  | .free => 0 | .ready => 1 | .live => 2 | .stopping => 3 | .tearing => 4 | .dead => 5

def ctxctlWord (c : Ctx) : Word := BitVec.ofNat 64 (c.err <<< 8 + c.st.code <<< 4)

/-- CTXDESC_WRITE. -/
def execCtxdescWrite (n : BitVec 12) (v : Word) (s : State) : Step :=
  if n = 0 then .next s
  else if (s.ctx n.toNat).st = .free then
    .next (s.updCtx n.toNat fun c => { c with desc := v &&& 0x000FFFFFFFFFFE00 })
  else .next (s.ctxErr n.toNat 1)

/-- The level table at CREATE: LCTL = 7 and zeros (R354). -/
def State.resetLevels (s : State) (n : Nat) : State :=
  (List.range 16).foldl (fun s l => (s.hwWrite (s.levelAt n l) 256 7)) s

/-- CTX_CREATE. -/
def execCtxCreate (n : BitVec 12) (s : State) : Step :=
  let k := n.toNat
  let pa := (s.ctx k).desc.toNat
  if k = 0 then .next s
  else if (s.ctx k).st ≠ .free then .next (s.ctxErr k 1)
  else if !s.descValid pa then .next (s.ctxErr k 2)
  else
    let d := s.readDesc pa
    let s := s.updCtx k fun c => { Ctx.reset with desc := c.desc, st := .ready, d := some d }
    let s := s.hwWrite (fld d.copies.acctbase 51 12 * 4096) 512 0
    .next (s.resetLevels k)

/-- CTX_START: the job, a phase, a graph and a launch with IDs 1 to 4, and the resident program's record. -/
def execCtxStart (n : BitVec 12) (s : State) : Step :=
  let k := n.toNat
  match (s.ctx k).st, (s.ctx k).d with
  | .ready, some d =>
    let objs : SMap Obj := [(1, Obj.new 4 0 1), (2, Obj.new 3 1 1), (3, Obj.new 2 2 1), (4, Obj.new 1 3 1)]
    let s := s.updCtx k fun c => { c with st := .live, err := 0, objs := objs, templates := [], nextId := 5 }
    let layer := ((List.range 4).find? fun i => d.res.lmask.toNat.testBit i).getD 0
    .next (s.enqueue k 0 layer 0 { d.res with launch := 4, index := 0 } none)
  | _, _ => .next (if k = 0 then s else s.ctxErr k 1)

/-- CTX_STOP: the job is cancelled with force. -/
def execCtxStop (n : BitVec 12) (s : State) : Step :=
  let k := n.toNat
  if (s.ctx k).st = .live then
    let s := s.updCtx k fun c => { c with st := .stopping, err := 0 }
    .next ((s.cancelObj k 1 true (handleWord 4 k 1)).stopCheck k)
  else .next (if k = 0 then s else s.ctxErr k 1)

/-- CTX_DESTROY: mailboxes closed, descriptor released. -/
def execCtxDestroy (n : BitVec 12) (s : State) : Step :=
  let k := n.toNat
  let c := s.ctx k
  if c.st = .ready ∨ c.st = .dead then
    let s := s.notOutstanding (c.mboxes.flatMap fun p => p.2.ring)
    .next { (s.updCtx k fun c => { Ctx.reset with desc := c.desc }) with posts := s.posts.filter (fun p => decide (p.ctx ≠ k)), items := s.items.filter fun it => decide (it.ctx ≠ k) }
  else .next (if k = 0 then s else s.ctxErr k 1)

/-- CTXCTL's other commands. -/
def State.ctxCommand (s : State) (n : Nat) (cmd : Nat) : Step :=
  match cmd with
  | 1 => execCtxCreate (BitVec.ofNat 12 n) s
  | 2 => execCtxStart (BitVec.ofNat 12 n) s
  | 3 => execCtxStop (BitVec.ofNat 12 n) s
  | 4 => execCtxDestroy (BitVec.ofNat 12 n) s
  | _ => .next (if n = 0 then s else s.ctxErr n 1)

/-! ## Object words (R277) -/

/-- ARMG or ARMP: a new graph in the strand's phase, or a new phase of the job with an armed graph inside it; `none`
while an object entry is not free. -/
def State.arm (s : State) (phase : Bool) : Option (Word × State) :=
  match s.me.strand with
  | none => none
  | some t =>
    let n := t.ctx
    let s := (s.disarm n s.me.arch.arming).updArch fun a => { a with arming := 0 }
    let c := s.ctx n
    let ph := c.parent (c.parent t.r.launch)
    let more (s : State) (id : Nat) : State :=
      match (s.ctx n).obj? id with | some o => s.setObj n id { o with count := o.count + 1 } | none => s
    let mark (o : Obj) (up : Nat) : Obj :=
      let dead := match c.obj? up with | some p => p.canc | none => false
      { o with armed := true, canc := dead, out := dead }
    if !phase then
      (s.newObj n (mark (Obj.new 2 ph 0) ph)).map fun r =>
        let h := handleWord 2 n r.1
        (h, (more r.2 ph).updArch fun a => { a with arming := h })
    else
      let job := c.parent ph
      (s.newObj n (mark (Obj.new 3 job 1) job)).bind fun r =>
        (r.2.newObj n (mark (Obj.new 2 r.1 0) job)).map fun q =>
          let h := handleWord 3 n r.1
          (h, (more q.2 job).updArch fun a => { a with arming := h })

/-- A load's result for one register, on its way. -/
def State.pushLd (s : State) (d : Reg) (v : Word) (pa : Nat) : State :=
  s.pushLoad { dsts := [(d.toNat, v)], atomic := false, held := none, since := s.clock, pa := pa }

/-- The address of an object word on the core's die (R277). -/
def objectPa (die i : Nat) : Nat := 0xF000000000000 + die <<< 44 + 3 <<< 40 + 0x200000 + 8 * i

def State.armInto (s : State) (d : Reg) (phase : Bool) : Step :=
  match s.arm phase with
  | some (h, s) => .next (s.pushLd d h (objectPa (dieOf s.cur) phase.toNat))
  | none => s.hold cMEM

/-- ARMG, ARMP: an LD.d of the word. -/
def execArmg (d : Reg) (s : State) : Step := s.armInto d false
def execArmp (d : Reg) (s : State) : Step := s.armInto d true

/-- MYL, MYG, MYP, MYJ: handles of the strand's own objects. -/
def State.myHandle (s : State) (lvl : Nat) : Word :=
  match s.me.strand with
  | none => 0
  | some t =>
    let c := s.ctx t.ctx
    let id := match lvl with
      | 1 => t.r.launch
      | 2 => c.parent t.r.launch
      | 3 => c.parent (c.parent t.r.launch)
      | _ => c.parent (c.parent (c.parent t.r.launch))
    handleWord lvl t.ctx id

/-! ## Dispatch (R274, R280 to R283) -/

/-- An item's record is loaded into a core, or into both cores of its pair. -/
def State.startOn (s : State) (g : Nat) (it : Item) (r : Rec) : State :=
  let e := if r.pr then g / 2 * 2 else g
  let s := (s.load e it.ctx it r).offer e
  if r.pr then s.pairAgain e else s


/-- The template moves on; with its last index it goes, and all its references with it. -/
def State.generate (s : State) (n id : Nat) (t : Template) : State :=
  if t.count ≤ t.r.index + 1 then
    { (s.updCtx n fun c => { c with templates := SMap.del c.templates id }) with
      items := s.items.filter fun it => !(decide (it.ctx = n) && decide (it.place = .ref) && decide (it.r.launch = id)) }
  else s.updCtx n fun c => { c with templates := SMap.set c.templates id { t with r := { t.r with index := t.r.index + 1 } } }

/-- A core for the head of a dispenser is found: the record is read from its slot and checked, and loaded or discarded. -/
def State.serve (s : State) (it : Item) (g : Nat) : State :=
  let n := it.ctx
  let cap := match (s.ctx n).d with | some d => d.cap | none => 0
  let r := s.slotRec n it.slot (s.itemRec it)
  if r.kind = 5 then
    match (s.ctx n).templates.find? fun p => decide (p.2.slot = (r.xs.headD 0).toNat) with
    | none => { s with items := s.items.filter fun x => decide (x.rid ≠ it.rid) }.noteWaits
    | some (id, t) =>
      if poolSlots ≤ s.slotsUsed n then s
      else
        let t := s.slotTemplate n t
        let r := t.next
        let s := s.generate n id t
        if !recOk cap r then (s.launchEnd n r.launch true).noteWaits
        else (s.startOn g { it with place := .ring, slot := s.freeSlot n, r := r, out := none } r).noteWaits
  else
    let s := { s with items := s.items.filter fun x => decide (x.rid ≠ it.rid) }
    if !recOk cap r then ((s.loseArea n it.slot r.spix).launchEnd n r.launch true).noteWaits
    else (s.startOn g it r).noteWaits

/-- DISPATCH: a dispenser places its head, when an idle core may take it. -/
def execDispatch (die layer : Nat) (s : State) : Step :=
  match s.headOf die layer with
  | none => .next s
  | some it =>
    match s.placeFor die layer it with
    | some g => .next (s.serve it g)
    | none => .next s

def State.updItem (s : State) (rid : Nat) (f : Item → Item) : State :=
  { s with items := s.items.map fun it => if it.rid = rid then f it else it }

/-- AFFINITY_WINDOW_EXPIRY (R261): after 2,000 ns any core of the layer may take the record. -/
def execAffinityWindowExpiry (rid : Nat) (s : State) : Step :=
  .next (s.updItem rid fun it =>
    if it.r.afv && decide (2000 ≤ nsOf s.clock - nsOf it.born) then { it with r := { it.r with afv := false } } else it)

def Die.dispctl' (d : Die) (k : Nat) : Word := SMap.get d.dispctl dispctlReset k

/-- AGING_PROMOTION (R282). -/
def execAgingPromotion (rid : Nat) (s : State) : Step :=
  match s.items.find? fun it => decide (it.rid = rid) with
  | none => .next s
  | some it =>
    let q := fld ((s.die it.die).dispctl' it.layer) 31 16
    if it.queued && decide (effPri it.r < 127) && decide (it.r.age < 16) && decide (q ≠ 0)
        && decide (q * 1000 ≤ nsOf s.clock - nsOf it.since) then
      .next { s with items := s.items.filter (fun x => decide (x.rid ≠ rid))
          ++ [{ it with since := s.clock, seq := s.stamp, was := some (s.clock, it.r.age, it.since, it.seq), r := { it.r with age := it.r.age + 1 } }],
                      stamp := s.stamp + 1 }
    else .next s

/-- SLEEP_WAKE (R275). -/
def execSleepWake (rid : Nat) (s : State) : Step :=
  match s.items.find? fun it => decide (it.rid = rid) with
  | some it =>
    match it.place with
    | .sleeping wake => .next (if wake ≤ nsOf s.clock then s.toRing it else s)
    | _ => .next s
  | none => .next s

/-! ## Pre-emption (R285) -/

/-- A pre-emption of the dispenser's own is in progress: DISPCTL.PEND (R284). -/
def State.pend (s : State) (die layer : Nat) : Bool :=
  s.cores.any fun p =>
    decide (dieOf p.1 = die) && decide (layerOf p.1 = layer) && (match p.2.strand with | some t => t.preempt && t.pend | none => false)

/-- A core whose strand may be a victim for a head of effective priority e. -/
def State.victimOk (s : State) (g e pthr : Nat) : Bool :=
  let q := s.quad (quadOf g)
  match (s.core g).strand with
  | none => false
  | some t =>
    decide (t.pri + pthr ≤ e) && !s.restricted (quadOf g) && !s.gangHeld g && !q.dbg && decide (q.retSt = 0)
    && decide ((s.core g).pair.st ≠ .claiming) && !s.inDomain g
    && (s.freeArea? (s.core g).arch.copies.spillbase.toNat).isSome

/-- The victim of R285: the lowest priority, and of equals the strand dispatched last. -/
def State.victim (s : State) (die layer : Nat) : Option Nat :=
  match s.headOf die layer with
  | none => none
  | some it =>
    let pthr := fld ((s.die die).dispctl' layer) 11 8
    if (s.placeFor die layer it).isSome || s.pend die layer || decide (pthr = 0) then none
    else
      let key (g : Nat) : Nat × Nat := match (s.core g).strand with | some t => (t.pri, t.since) | none => (0, 0)
      bestBy (fun a b => decide ((key a).1 < (key b).1) || (decide ((key a).1 = (key b).1) && decide ((key b).2 < (key a).2)))
        ((coresOf die layer).filter fun g => s.victimOk g (s.rank it).1 pthr)

/-- PREEMPTION: the dispenser sends its interrupt to core g, its victim. -/
def execPreemption (g : Nat) (s : State) : Step :=
  if s.victim (dieOf g) (layerOf g) = some g then
    .next (s.updCore g fun c => { c with strand := c.strand.map fun t => { t with preempt := true, pend := true } })
  else .next s

/-- ASYNC_TRAP_TAKE: the first pending cause is taken at a bundle boundary of core g (R430); a pair exchanges
fingerprints before it is pre-empted. -/
def execAsyncTrapTake (g : Nat) (s : State) : Step :=
  let c := s.core g
  let e := (s.core (g / 2 * 2)).pair
  if c.strand = none ∨ (s.quad (quadOf g)).dbg = true ∨ e.st = .exchanging ∨ (c.arch.mop % 2 = 1 ∧ c.micro ≠ none)
      ∨ c.amoFlying = true ∨ s.exchangeForPreempt g = true then .next s
  else
    match (s.bringUp g).takeAsync g with
    | none => .next s
    | some t =>
      match (t.core g).flow with
      | .trapped .. => .next (if (t.core g).strand.isNone then t else t.pay g cTRAPC 4 c.arch.pc)
      | _ => .next t

/-- The strand on core g waits where its watchdog does not count (R422). -/
def State.watchStopped (s : State) (g : Nat) : Bool :=
  let c := s.core g
  let w := match c.flow with | .held _ => c.heldC | _ => none
  (s.quad (quadOf g)).dbg || (match w with
    | some (.recv ..) => c.heldBy cMSG
    | some (.recvAcc ..) => c.heldBy cMSG
    | some (.bar ..) => true
    | some (.sstep ..) => true
    | _ => false)

/-- STRAND_WATCHDOG_EXPIRY. -/
def execStrandWatchdogExpiry (g : Nat) (s : State) : Step :=
  match (s.core g).strand with
  | none => .next s
  | some t =>
    let wd := (s.quad (quadOf g)).wd
    if wd = 0 ∨ s.watchStopped g = true ∨ s.clock - t.retired < wd * 1000 * unitsPerNs then .next s
    else
      .next (s.updCore g fun c =>
        if c.arch.tm then
          { c with strand := some { t with retired := s.clock }, arch := { c.arch with wait := { c.arch.wait with wdTm := some 0x200 } } }
        else { c with strand := some { t with watchdog := some 0x200, retired := s.clock } })

/-! ## Teardown (R262, R418) -/

/-- A core's strand is killed, which takes a SWITCH cycle (R264): its queues and everything in flight are discarded, and peers in other contexts get
tokens of code 3. -/
def State.killOn (s : State) (n g : Nat) : State :=
  let s := (s.bringUp g).pay g cSWITCH 1 (s.core g).arch.pc
  let s := if (s.core (g / 2 * 2)).pair.st = .claiming then s.unclaim g else s
  let s := (s.neighbours g).foldl (fun s h =>
    let m := (s.core h).ctxNum
    if m = n ∨ m = 0 then s else s.sendToken m h 3 g) s
  let s := (s.xchgTokens 3 g).releaseLines g
  let s := s.dropSfu g
  let s := s.emptyQueues g
  let s := if s.dual g then s.separate g else s
  (s.freeCore g).updCore g fun c => { c.shutTrap with sb := [], arch := { Arch.reset with debt := c.arch.debt } }

/-- Graphs of a context stop (R262). -/
def State.killGraphs (s : State) (n : Nat) : State :=
  { s with dies := SMap.mapVals s.dies fun _ d =>
      { d with graphs := SMap.mapVals d.graphs fun _ x =>
          match x.run with
          | some r => if fld r.header 59 48 = n then { x with run := none, held := [] } else x
          | none => x },
           own := s.own.filter fun p =>
      match p.2 with
      | .graph die port slot =>
        (match ((s.die die).graph port slot).run with | some r => decide (fld r.header 59 48 ≠ n) | none => true)
      | _ => true }

/-- A context is torn down: every strand is killed, every record and queue discarded, its domains freed. -/
def State.tear (s : State) (n : Nat) : State :=
  if n = 0 then s
  else if (s.ctx n).st ≠ .live ∧ (s.ctx n).st ≠ .stopping then s.ctxErr n 1
  else
    let s := s.updCtx n fun c => { c with st := .tearing }
    let s := (s.coresOfCtx n).foldl (fun s g => s.killOn n g) s
    let s := [0, 1].foldl (fun s d => (List.range 32).foldl (fun s k =>
      let x := (s.die d).domain k
      if decide (x.st ≠ .free) && decide (x.ctxNum = n) then s.endDomain d k .free else s) s) s
    let s := (s.killGraphs n).sealMboxes n
    let s := { s with items := s.items.filter fun it => decide (it.ctx ≠ n) }
    let s := (s.ctx n).spilled.foldl (fun s p => s.loseArea n p.1 p.2.idx) s
    (s.updCtx n fun c => { c with templates := [], objs := [] }).noteWaits

/-- The contexts an uncontained error tears down. -/
def State.tornBy (s : State) (u : FailUnit) : List Nat :=
  let live := (s.ctxs.filter fun p => decide (p.2.st = .live) || decide (p.2.st = .stopping)).map Prod.fst
  match u with
  | .mxu m => live.filter fun n => (List.range 8).any fun i => s.resident (8 * m + i) n
  | .slice n _ _ => [n]
  | .router l => l
  | .bridge | .hostPort => (s.ctxs.filter fun p => decide (p.2.st = .live)).map Prod.fst

/-- A block that an uncontained error touches (R334, R343). One that a drain had still to copy gets the image's code 11 (R344). -/
def State.quarantine (s : State) (b : Nat) : State :=
  let x : Block := { st := .quarantined, old := [], bad := [], exempt := false }
  let waits := match s.block b with | some y => decide (y.st = .frozen) || decide (y.st = .split) || y.exempt | none => false
  let s := if s.gen.draining && waits && decide (s.mapCode b = 0) then s.putCode b 3 else s
  { s with gen := { s.gen with blocks := SMap.set s.gen.blocks b x } }

/-- An uncorrectable error detected on a die (R419). -/
def State.countUe (s : State) (die pa : Nat) : State :=
  s.updDie die fun d => { d with errcntUe := (d.errcntUe + 1) % 2 ^ 32, erraddr := if pa = 0 then d.erraddr else BitVec.ofNat 64 (pa / 32 * 32) &&& 0xFFFFFFFFFFFE0 }

/-- ADDRESS_SPACE_TEARDOWN. -/
def execAddressSpaceTeardown (u : FailUnit) (s : State) : Step :=
  let s := match u with
    | .mxu m => s.countUe (m / 170) 0
    | .slice _ bs pa => (bs.foldl State.quarantine s).countUe (homeDie (unalias pa)) pa
    | _ => s
  .next ((s.tornBy u).foldl State.tear s)

/-- TEARDOWN_COMPLETE: the last agent has stopped; the host is interrupted. -/
def execTeardownComplete (n : BitVec 12) (s : State) : Step :=
  let k := n.toNat
  .next (if (s.ctx k).st = .tearing && s.ctxEmpty k then s.updCtx k fun c => { c with st := .dead, err := 3, msi := true } else s)

/-! ## Accounts (R268, R271) -/

/-- ACCT_FLUSH: a core's own flush every 4,096 cycles of its layer, halted ones included. From when they count the spec does not
say: the model counts them from the core's last flush of any kind (R268; DESIGN CHOICE, log entry 90). -/
def execAcctFlush (g : Nat) (s : State) : Step :=
  let c := s.core g
  .next (if 4096 ≤ c.acct.cycles + (s.clock - c.now) / s.periodOf g - c.acct.lastFlush then (s.bringUp g).flushAcct g else s)

/-- ACCT_OVERFLOW_RECORD: with space in the ring, the first non-zero overflow count becomes a record. -/
def execAcctOverflowRecord (g : Nat) (s : State) : Step :=
  let c := s.core g
  .next (if c.strand.isNone || !c.pcrec then s else s.putOverflow g)

end Sys2Proof.Machine
end

