-- ==== Sys2Proof/Machine/Power.lean ====
section
/-! DEFINITION. The budget arbiter, the power regions, the slew limiter and telemetry (R395 to R407). -/

namespace Sys2Proof.Machine

/-! ## What the sensors give -/

/-- Energy of a die's five rails over the interval, in nJ. -/
def DivInput.rail (inp : DivInput) (d r : Nat) : Nat := (((inp.energy[d]?).getD [])[r]?).getD 0
def DivInput.dieEnergy (inp : DivInput) (d : Nat) : Nat := ((List.range 5).map (DivInput.rail inp d)).sum
def DivInput.region (inp : DivInput) (d r : Nat) : Nat := (((inp.regionEnergy[d]?).getD [])[r]?).getD 0
def DivInput.temperature (inp : DivInput) (d r : Nat) : Int := (((inp.temp[d]?).getD [])[r]?).getD 0
/-- Energy in nJ over 10 µs as a power in mW (R407). -/
def milliwatts (nJ : Nat) : Nat := nJ / 10
/-- The energy in nJ that a power in W uses in 10 µs. -/
def wattEnergy (w : Nat) : Nat := w * 10000

/-! ## Regions (R401, R402) -/

def numRegions : Nat := 22

/-- What a region's next state is at a sample, before its dwell. -/
def thermalNext (thot tcrit : Int) (st : Nat) (exits : Nat) (t : Int) : Nat :=
  match st with
  | 0 => if tcrit ≤ t then 2 else if thot ≤ t then 1 else 0
  | 1 => if tcrit ≤ t then 2 else if 5 ≤ exits then 0 else 1
  | _ => if 5 ≤ exits then 1 else 2

/-- Consecutive samples at or below the exit level of the region's state, this one included. -/
def exitSamples (thot tcrit : Int) (r : Region) (t : Int) : Nat :=
  let level := if r.thermal = 1 then thot - 128 else tcrit - 128
  if r.thermal ≠ 0 ∧ t ≤ level then r.exitCount + 1 else 0

/-- 50 µs in clock units. -/
def dwell : Nat := 50000 * unitsPerNs

/-- A sample of a region's temperature at a division: at most one transition, and none within 50 µs of the last. -/
def Region.samples (r : Region) (tctl : Word) (t : Int) (now : Nat) : Region :=
  let thot : Int := fld tctl 15 0
  let tcrit : Int := fld tctl 31 16
  let n := exitSamples thot tcrit r t
  let st := thermalNext thot tcrit r.thermal n t
  let free := match r.since with | none => true | some c => decide (c + dwell ≤ now)
  if st ≠ r.thermal ∧ free = true then { r with thermal := st, exitCount := 0, since := some now, temp := t }
  else { r with exitCount := n, temp := t }

/-- A region's own level: over its limit, HOT or CRIT. -/
def regionLevel (rmax energy : Nat) (r : Region) : Nat :=
  if r.thermal = 2 then 3
  else if r.thermal = 1 then 2
  else if rmax ≠ 0 ∧ wattEnergy rmax < energy then 1 else 0

/-- The regions, as (die, region), that hold a member of the gang of domain n on a die (R319). -/
def State.gangRegions (s : State) (die n : Nat) : List (Nat × Nat) :=
  let d := (s.die die).domain n
  if bitAt d.dctl 61 && decide (d.st ≠ .free) then
    ((s.halves die n).flatMap fun h => (((s.die h).domain n).members h).map fun g => (h, regionOf (quadOf g))).eraseDups
  else []

def State.levelOf (s : State) (p : Nat × Nat) : Nat := ((s.die p.1).region p.2).level
def State.setLevel (s : State) (l : Nat) (p : Nat × Nat) : State :=
  s.updDie p.1 fun d => { d with regions := SMap.set d.regions p.2 { d.region p.2 with level := l } }

/-- Every region of a gang takes the highest level among them. -/
def State.gangLevels (s : State) (rs : List (Nat × Nat)) : State :=
  rs.foldl (State.setLevel · ((rs.map s.levelOf).foldl Nat.max 0)) s

/-- The gangs of the package; a joined one is listed for each half. -/
def State.gangs (s : State) : List (List (Nat × Nat)) :=
  ([0, 1].flatMap fun d => (List.range 32).map fun n => s.gangRegions d n).filter fun l => !l.isEmpty

/-- Every gang's regions are level with each other: repeated once for each gang, for gangs that share a region. -/
def State.levelGangs (s : State) : State :=
  let gs := s.gangs
  gs.foldl (fun s _ => gs.foldl State.gangLevels s) s

/-- The regions of both dies at a division. -/
def State.sampleRegions (s : State) (inp : DivInput) (now : Nat) : State :=
  let s := [0, 1].foldl (fun s d => s.updDie d fun x =>
    { x with regions := (List.range numRegions).foldl (fun rs r =>
        let y := (SMap.get rs Region.reset r).samples x.tctl (DivInput.temperature inp d r) now
        SMap.set rs r { y with level := regionLevel (fld x.regmax 15 0) (DivInput.region inp d r) y }) x.regions }) s
  s.levelGangs

/-! ## The ladder (R399) -/

/-- The energy of 10 µs at a die's share of the budget. -/
def shareEnergy (plim other : Nat) : Nat :=
  let half := wattEnergy plim / 2
  half + (half - other)

/-- A die's next position. -/
def ladderNext (mode pos share mine : Nat) (crit : Bool) : Nat :=
  if crit = true ∨ share < mine then Nat.min (pos + 1) (ladderBottom mode)
  else if 16 * mine ≤ 15 * share then pos - 1
  else pos

/-- A region of the die counts as CRIT: its own state, or its gang's (R401). -/
def Die.crit (d : Die) : Bool := (List.range numRegions).any fun r => decide ((d.region r).level = 3)

/-- LADDER_STEP on both dies; with a MODE written since the last division both positions are 0 and no step is taken. -/
def State.ladderStep (s : State) (inp : DivInput) : State :=
  if s.power.moded then
    let s := { s with power := { s.power with mode := s.power.nextMode, moded := false } }
    [0, 1].foldl (fun s d => s.updDie d fun x => { x with ladder := 0 }) s
  else
    [0, 1].foldl (fun s d => s.updDie d fun x =>
      { x with ladder := ladderNext s.power.mode x.ladder (shareEnergy s.power.plim (DivInput.dieEnergy inp (1 - d)))
                 (DivInput.dieEnergy inp d) x.crit }) s

/-! ## A change of clocks (R27, R28) -/

/-- A moment from which cycles are counted, moved so that as many cycles have gone by at the new period. -/
def rebase (now old new c : Nat) : Nat := now - (now - c) * new / old
/-- A moment to come, moved so that as many cycles are still to go by. -/
def rebaseTo (now old new c : Nat) : Nat := now + (c - now) * new / old

/-- Step clocks count L0's cycles (R316), slew steps and the results of vector entries a layer's: all go on from the cycles they have
(R400). -/
def State.reclock (s t : State) : State :=
  let per (u : State) (d k : Nat) : Nat := period (u.fcur d k)
  let slews := SMap.mapVals t.slews fun i x =>
    let d := i / 22
    let k := if i % 22 < 16 then 0 else if i % 22 < 20 then 1 else if i % 22 < 21 then 2 else 3
    { x with since := x.since.map (rebase t.clock (per s d k) (per t d k)) }
  let cores := SMap.mapVals t.cores fun g c =>
    let to' := rebaseTo t.clock (per s (dieOf g) (layerOf g)) (per t (dieOf g) (layerOf g))
    { c with
      stepClock := c.stepClock.map (rebase t.clock (per s (dieOf g) 0) (per t (dieOf g) 0))
      arch := { c.arch with vfly := c.arch.vfly.map fun f => { f with land := to' f.land }, sfu := c.arch.sfu.map fun r => { r with land := to' r.land } } }
  { t with slews := slews, cores := cores }

/-- The arbiter's outputs take effect: the clocks of whole layers, then what counts their cycles. -/
def State.takeEffect (s t : State) : State :=
  let moved := [0, 1].flatMap fun d => (List.range 4).filterMap fun k => if s.fcur d k = t.fcur d k then none else some (d, k)
  if moved.isEmpty then t
  else
    let u := moved.foldl (fun u p => (coresOf p.1 p.2).foldl State.bringUp u) s
    u.reclock { u with dies := t.dies, power := t.power }

/-! ## Telemetry (R406, R407) -/

/-- Bytes 8 to 11 of a sample. -/
def sampleHeader (s : State) (seq d kind : Nat) : Nat :=
  let l := s.ladder d
  seq % 2 ^ 16 * 2 ^ 16 + (s.die d).ladder % 16 * 2 ^ 12 + s.power.mode * 2 ^ 10 + l.mhalf.toNat * 2 ^ 9 + l.vhalf.toNat * 2 ^ 8
    + d * 2 ^ 4 + kind

def powerSample (s : State) (inp : DivInput) (time seq d : Nat) : Nat :=
  let pkg := milliwatts (DivInput.dieEnergy inp 0 + DivInput.dieEnergy inp 1)
  leValue (leBytes 8 time ++ leBytes 4 (sampleHeader s seq d 0) ++ leBytes 4 pkg
    ++ ((List.range 5).flatMap fun r => leBytes 4 (milliwatts (DivInput.rail inp d r)))
    ++ ((List.range 4).flatMap fun k => leBytes 2 (s.fcur d k))
    ++ (List.range 5).flatMap fun _ => leBytes 1 (s.ladder d).op)

def thermalSample (s : State) (inp : DivInput) (time seq d : Nat) : Nat :=
  let states := ((List.range numRegions).map fun r => ((s.die d).region r).thermal <<< (2 * r)).sum
  leValue (leBytes 8 time ++ leBytes 4 (sampleHeader s seq d 1)
    ++ ((List.range numRegions).flatMap fun r => leBytes 2 (BitVec.ofInt 16 (DivInput.temperature inp d r)).toNat)
    ++ leBytes 8 states)

/-- TELEMETRY_SAMPLE: a division's four samples go to one context's ring, or are counted lost. -/
def State.writeSamples (s : State) (samples : List Nat) (tel : Word) : State :=
  let base := fld tel 51 12 * 4096
  let size := 2 ^ (6 + fld tel 7 4)
  let word (o : Nat) : Nat := s.hwLe (base + o) 8
  let head := word 0
  if !bitAt tel 0 then s
  else if size < (head + 2 ^ 64 - word 8) % 2 ^ 64 + 4 then s.hwWrite (base + 0x10) 8 (word 0x10 + 4)
  else
    ((List.range samples.length).zip samples).foldl (fun s p =>
      (s.hwWrite (base + 0x40 + 64 * ((head + p.1) % size)) 64 p.2).hwWrite base 8 (head + p.1 + 1)) s

/-- Every LIVE context's image of TELBASE as it stands. -/
def State.telemetry (s : State) (inp : DivInput) (time seq : Nat) : State :=
  let samples := [powerSample s inp time seq 0, thermalSample s inp time seq 0, powerSample s inp time seq 1, thermalSample s inp time seq 1]
  s.ctxs.foldl (fun t c =>
    if c.2.st = .live then t.writeSamples samples (t.readDesc c.2.desc.toNat).copies.telbase else t) s

def DivInput.latest (inp : DivInput) (time d : Nat) : Sample :=
  { rails := (List.range 5).map fun r => milliwatts (DivInput.rail inp d r)
    temps := (List.range numRegions).map fun r => DivInput.temperature inp d r
    time := time
    package := milliwatts (DivInput.dieEnergy inp 0 + DivInput.dieEnergy inp 1) }

/-! ## BUDGET_DIVISION -/

/-- A loaded and verified image of the arbiter takes over at a division (R427). -/
def Firm.install (f : Firm) (unit : Nat) : Firm :=
  match f.pending.find? fun p => decide (p.1 = unit) with
  | some (_, v, d) =>
    { f with pending := f.pending.filter (fun p => decide (p.1 ≠ unit)), digests := SMap.set f.digests unit d,
             versions := SMap.set f.versions unit v }
  | none => f

/-- The cores whose region begins or ceases to have a restriction level from s to t. -/
def State.turned (s t : State) : List Nat :=
  let rs := [0, 1].flatMap fun d => (List.range numRegions).filterMap fun r =>
    if decide (1 ≤ s.levelOf (d, r)) != decide (1 ≤ t.levelOf (d, r)) then some (d, r) else none
  if rs.isEmpty then [] else (List.range numCores).filter fun g => rs.contains (dieOf g, regionOf (quadOf g))

/-- BUDGET_DIVISION at the next TIME that is a multiple of 10,000 ns. -/
def execBudgetDivision (inp : DivInput) (s : State) : Step :=
  let seq := s.power.divisions + 1
  let time := 10000 * seq
  if nsOf s.clock < time then .next s
  else
    let s := s.idleUp (s.turned (s.sampleRegions inp (time * unitsPerNs)))
    let t := ((s.sampleRegions inp (time * unitsPerNs)).ladderStep inp)
    let t := s.takeEffect { t with power := { t.power with divisions := seq } }
    let t := [0, 1].foldl (fun t d => t.updDie d fun x => { x with sample := DivInput.latest inp time d }) t
    .next { t.telemetry inp time seq with firm := t.firm.install 1 }

/-! ## SLEW_STEP (R403) -/

/-- SLEW_STEP. -/
def execSlewStep (dom : Nat) (s : State) : Step :=
  .next (s.slewNow dom)

/-! ## The arbiter's registers (R397, R405) -/

def pwrctlWord (p : Power) : Word := BitVec.ofNat 64 (p.err <<< 44 + p.nextMode <<< 40 + p.plim)

/-- A write of PWRCTL: PLIM and, where the written half holds it, MODE for the next division; or nothing at all. -/
def State.putPwrctl (s : State) (v : Word) (mode : Bool) : State :=
  let plim := fld v 11 0
  let p := s.power
  if plim < 1500 ∨ 3000 < plim then { s with power := { p with err := 1 } }
  else { s with power := { p with err := 0, plim := plim, nextMode := if mode then fld v 41 40 else p.nextMode, moded := p.moded || mode } }

/-- PWRCTL_WRITE. -/
def execPwrctlWrite (v : Word) (s : State) : Step := .next (s.putPwrctl v true)

/-- TCTL_WRITE: ignored where it leaves TCRIT < THOT + 128. -/
def execTctlWrite (die : Nat) (v : Word) (s : State) : Step :=
  if fld v 31 16 < fld v 15 0 + 128 then .next s
  else .next (s.updDie die fun d => { d with tctl := v &&& 0xFFFFFFFF })

/-- RAMPTBL_WRITE: QPS of each layer, and SLEN where it is not 0. -/
def execRamptblWrite (die : Nat) (v : Word) (s : State) : Step :=
  .next (s.updDie die fun d =>
    { d with ramptbl := (List.range 4).foldl (fun t k =>
        let t := setFld t (16 * k + 3) (16 * k) (fld v (16 * k + 3) (16 * k))
        let n := fld v (16 * k + 11) (16 * k + 8)
        if n = 0 then t else setFld t (16 * k + 11) (16 * k + 8) n) d.ramptbl })

end Sys2Proof.Machine
end

