-- ==== Sys2Proof/Machine/Signature.lean ====
section
/-! DEFINITION. The signatures of the package: SHA-384, and ECDSA on brainpoolP384r1 in its random form (R1, R427, R428).
The spec names the algorithms; their constants and steps are those of FIPS 180-4, FIPS 186 and RFC 5639 (PRESUMED, log entry
11). -/

namespace Sys2Proof.Machine

/-- Big-endian bytes. -/
def beBytes (n v : Nat) : List Byte := (leBytes n v).reverse
/-- The number that big-endian bytes spell. -/
def beValue (l : List Byte) : Nat := leValue l.reverse

/-! ## SHA-384 -/

/-- The greatest r below 2^70 whose k-th power is at most n. -/
def rootOf (k n : Nat) : Nat := (List.range 70).foldr (fun i r => if (r + 2 ^ i) ^ k ≤ n then r + 2 ^ i else r) 0

/-- The first 80 primes. -/
def shaPrimes : List Nat :=
  (List.range 410).filter fun n => decide (2 ≤ n) && (List.range 21).all fun d => decide (d < 2) || decide (n ≤ d) || decide (n % d ≠ 0)

/-- The first 64 bits of the fractional part of a prime's k-th root. -/
def rootBits (k p : Nat) : Word := BitVec.ofNat 64 (rootOf k (p <<< (64 * k)))

/-- The 80 round constants: of the cube roots of the first 80 primes. -/
def shaK : List Word := shaPrimes.map (rootBits 3)
/-- The words a digest starts from: of the square roots of the ninth to the sixteenth prime. -/
def shaIv : List Word := ((shaPrimes.drop 8).take 8).map (rootBits 2)

/-- The message with its padding: a one bit, zeros, and its length in bits over 16 bytes. -/
def shaPad (l : List Byte) : List Byte :=
  l ++ 0x80 :: (List.replicate ((128 - (l.length + 17) % 128) % 128) 0 ++ beBytes 16 (8 * l.length))

/-- A list cut into pieces of n. -/
def chunks {α : Type} (n : Nat) : Nat → List α → List (List α)
  | 0, _ => []
  | f + 1, l => if l.isEmpty then [] else l.take n :: chunks n f (l.drop n)

def shaSig0 (x : Word) : Word := x.rotateRight 1 ^^^ x.rotateRight 8 ^^^ x >>> 7
def shaSig1 (x : Word) : Word := x.rotateRight 19 ^^^ x.rotateRight 61 ^^^ x >>> 6

/-- The schedule, latest word first: n more words. -/
def shaSchedule : Nat → List Word → List Word
  | 0, w => w
  | n + 1, w =>
    let i (k : Nat) : Word := (w[k]?).getD 0
    shaSchedule n ((shaSig1 (i 1) + i 6 + shaSig0 (i 14) + i 15) :: w)

/-- One round on the eight working words. -/
def shaRound (h : List Word) (kw : Word × Word) : List Word :=
  match h with
  | [a, b, c, d, e, f, g, x] =>
    let t1 := x + (e.rotateRight 14 ^^^ e.rotateRight 18 ^^^ e.rotateRight 41) + ((e &&& f) ^^^ (~~~e &&& g)) + kw.1 + kw.2
    let t2 := (a.rotateRight 28 ^^^ a.rotateRight 34 ^^^ a.rotateRight 39) + ((a &&& b) ^^^ (a &&& c) ^^^ (b &&& c))
    [t1 + t2, a, b, c, d + t1, e, f, g]
  | l => l

/-- One block of 128 bytes. -/
def shaBlock (h : List Word) (block : List Byte) : List Word :=
  let w := shaSchedule 64 ((chunks 8 16 block).map fun b => BitVec.ofNat 64 (beValue b)).reverse
  ((h.zip ((shaK.zip w.reverse).foldl shaRound h)).map fun p => p.1 + p.2)

/-- SHA-384 as the number its big-endian bytes spell. -/
def sha384 (l : List Byte) : BitVec 384 :=
  let m := shaPad l
  let h := (chunks 128 (m.length / 128) m).foldl shaBlock shaIv
  BitVec.ofNat 384 ((h.take 6).foldl (fun v w => v <<< 64 + w.toNat) 0)

/-! ## brainpoolP384r1 -/

def curveP : Nat := 0x8CB91E82A3386D280F5D6F7E50E641DF152F7109ED5456B412B1DA197FB71123ACD3A729901D1A71874700133107EC53
def curveA : Nat := 0x7BC382C63D8C150C3C72080ACE05AFA0C2BEA28E4FB22787139165EFBA91F90F8AA5814A503AD4EB04A8C7DD22CE2826
def curveB : Nat := 0x04A8C7DD22CE28268B39B55416F0447C2FB77DE107DCD2A62E880EA53EEB62D57CB4390295DBC9943AB78696FA504C11
def curveN : Nat := 0x8CB91E82A3386D280F5D6F7E50E641DF152F7109ED5456B31F166E6CAC0425A7CF3AB6AF6B7FC3103B883202E9046565

/-- A point of the curve, `none` the one at infinity. -/
abbrev Point := Option (Nat × Nat)

def curveG : Point :=
  some (0x1D1C64F068CF45FFA2A63A81B7C13F6B8847A3E77EF14FE3DB7FCAFE0CBD10E8E826E03436D646AAEF87B2E247D4AF1E,
        0x8ABE1D7520F9C2A45CB1EB8E95CFD55262B70B29FEEC5864E19C054FF99129280E4646217791811142820341263C5315)

/-- b to the power e modulo m, for e below 2 to the fuel. -/
def powMod (m : Nat) : Nat → Nat → Nat → Nat
  | 0, _, _ => 1
  | f + 1, b, e => if e % 2 = 1 then b * powMod m f (b * b % m) (e / 2) % m else powMod m f (b * b % m) (e / 2)

/-- The inverse modulo a prime of 384 bits. -/
def invMod (m a : Nat) : Nat := powMod m 384 (a % m) (m - 2)

def Point.onCurve (q : Point) : Bool :=
  match q with
  | none => false
  | some (x, y) => decide (x < curveP) && decide (y < curveP) && decide (y * y % curveP = (x * x * x + curveA * x + curveB) % curveP)

/-- The point with a slope from one of two points. -/
def Point.along (slope x1 y1 x2 : Nat) : Point :=
  let x := (slope * slope + 2 * curveP - x1 - x2) % curveP
  some (x, (slope * (x1 + curveP - x) + curveP - y1) % curveP)

def Point.add (a b : Point) : Point :=
  match a, b with
  | none, q => q
  | q, none => q
  | some (x1, y1), some (x2, y2) =>
    if x1 = x2 then
      if (y1 + y2) % curveP = 0 then none
      else Point.along ((3 * x1 * x1 + curveA) * invMod curveP (2 * y1) % curveP) x1 y1 x2
    else Point.along ((y2 + curveP - y1) * invMod curveP (x2 + curveP - x1) % curveP) x1 y1 x2

/-- k times a point, for k below 2 to the fuel. -/
def Point.times : Nat → Nat → Point → Point
  | 0, _, _ => none
  | f + 1, k, q => if k % 2 = 1 then Point.add q (Point.times f (k / 2) (Point.add q q)) else Point.times f (k / 2) (Point.add q q)

def Point.x (q : Point) : Nat := match q with | some p => p.1 | none => 0
def Point.y (q : Point) : Nat := match q with | some p => p.2 | none => 0

/-! ## ECDSA -/

/-- A signature (r, s) of a digest under a public key. -/
def ecdsaOk (key : Point) (z r s : Nat) : Bool :=
  let w := invMod curveN s
  let q := Point.add (Point.times 384 (z * w % curveN) curveG) (Point.times 384 (r * w % curveN) key)
  key.onCurve && decide (1 ≤ r) && decide (r < curveN) && decide (1 ≤ s) && decide (s < curveN) && q.isSome && decide (q.x % curveN = r)

/-- A number reduced to a scalar from 1 to the order less one. -/
def scalarOf (v : Nat) : Nat := 1 + v % (curveN - 1)

/-- The signature of a digest with a secret scalar and a nonce. -/
def ecdsaSign (secret z k : Nat) : Nat × Nat :=
  let r := (Point.times 384 k curveG).x % curveN
  (r, invMod curveN k * (z + r * secret) % curveN)

/-- An image of header, body and signature passes under the vendor key (R427). -/
def signatureOk (image : List Byte) : Bool :=
  let m := image.take (image.length - 96)
  let sig := image.drop (image.length - 96)
  ecdsaOk (some (Config.vendorKey.toNat / 2 ^ 384, Config.vendorKey.toNat % 2 ^ 384)) (sha384 m).toNat (beValue (sig.take 48)) (beValue (sig.drop 48))

/-- The device's secret scalar and its public key (R428). -/
def identitySecret : Nat := scalarOf Config.identitySecret.toNat
def identityPoint : Point := Point.times 384 identitySecret curveG

/-- The identity signature of some bytes: r and s, big-endian. -/
def identitySign (m : List Byte) (nonce : BitVec 384) : List Byte :=
  let q := ecdsaSign identitySecret (sha384 m).toNat (scalarOf nonce.toNat)
  beBytes 48 q.1 ++ beBytes 48 q.2

end Sys2Proof.Machine
end

