-- ==== Sys2Proof/Machine/Service.lean ====
section
/-! DEFINITION. Containment and self-test, retirement of quads, debug halt, firmware and attestation (R411 to R428). -/

namespace Sys2Proof.Machine

/-! ## Containment (R411 to R417) -/

/-- CORE_CONTAINMENT of an error that core g meets itself: one it consumes, or a failed test of its own. Double traps and
a pair's partner are contained where they arise (R117, R415). -/
def execCoreContainment (g : Nat) (why : FailReason) (pa : Nat) (s : State) : Step :=
  if numCores ≤ g ∨ (s.core g).contained = true then .next s
  else
    match why with
    | .uncorrectable => .next ((s.countUe (dieOf g) pa).contain g 1 0 pa)
    | .selfTest => .next (s.contain g 4 0 pa)
    | .doubleTrap | .pairPartner => .next s

/-- The third containment of a core within 1 s of TIME. -/
def Core.thirdFailure (c : Core) : Bool :=
  match c.failures with
  | a :: _ :: z :: _ => decide (nsOf a - nsOf z ≤ 1000000000)
  | _ => false

/-! ## Retirement (R18, R426) -/

/-- Spares of a layer of a die that are in use or promised to a quad that moves. -/
def State.sparesUsed (s : State) (die k : Nat) : Nat :=
  (s.quads.map fun p =>
    if quadDie p.1 = die ∧ quadLayer p.1 = k then p.2.oldPhys.length + (if p.2.retSt = 1 then 1 else 0) else 0).sum

/-- The running strands of a quad are pre-empted, members of a barrier domain included. -/
def State.preemptQuad (s : State) (q : Nat) : State :=
  (List.range 4).foldl (fun s c => s.updCore (4 * q + c) fun x =>
    { x with strand := x.strand.map fun t => { t with preempt := true } }) s

/-- A quad is retired: to a spare, or out of service where none is left. -/
def State.retire (s : State) (q : Nat) : State :=
  if (s.quad q).retSt ≠ 0 then s
  else
    let s := s.idleUp ((List.range 4).map (4 * q + ·))
    if sparesIn (quadLayer q) ≤ s.sparesUsed (quadDie q) (quadLayer q) then s.updQuad q fun x => { x with retSt := 3 }
    else (s.updQuad q fun x => { x with retSt := 1 }).preemptQuad q

/-- QUAD_RETIRE: RETCTL.GO. -/
def execQuadRetire (quad : Nat) (s : State) : Step := .next (s.retire quad)

/-- A core returns to service: its queues open (R309, R417). -/
def State.restore (s : State) (g : Nat) : State :=
  if (s.core g).contained then
    let s := s.chargeIdle g
    (s.unsealCore g).updCore g fun c => { c with contained := false }
  else s

/-- A quad's present physical number (R19). The spec says only that the highest numbers of a layer are the spares; that a quad
which has not been retired has its logical index for PHYS is the model's choice (DESIGN CHOICE, log entry 88). -/
def State.physOf (s : State) (q : Nat) : Nat := (s.quad q).phys.getD (quadIdx q)

/-- The spare takes over the quad's identity; its cores are in service, whatever the old ones' failures. Which of a layer's unused
spares it is the spec does not say: the model takes the lowest (R18; DESIGN CHOICE, log entry 88). -/
def State.takeSpare (s : State) (q : Nat) : State :=
  let k := quadLayer q
  let spare := quadsIn k + (s.sparesUsed (quadDie q) k - (List.filter (fun (p : Nat × Quad) =>
    decide (quadDie p.1 = quadDie q) && decide (quadLayer p.1 = k) && decide (p.2.retSt = 1)) s.quads).length)
  let old := s.physOf q
  let s := s.idleUp ((List.range 4).map (4 * q + ·))
  let s := s.updQuad q fun x => { x with retSt := 0, phys := some spare, oldPhys := x.oldPhys ++ [old] }
  (List.range 4).foldl (fun s c => (s.restore (4 * q + c)).updCore (4 * q + c) fun x => { x with failures := [] }) s

/-- RETIREMENT_COMPLETE: once no strand is left. A pre-emption that was dropped for want of a spill area is asked for again. -/
def execRetirementComplete (quad : Nat) (s : State) : Step :=
  if (s.quad quad).retSt ≠ 1 then .next s
  else if (List.range 4).any fun c => (s.core (4 * quad + c)).strand.isSome then .next (s.preemptQuad quad)
  else .next (s.takeSpare quad)

/-- SELF_TEST_COMPLETE: the core returns to service, or its quad is retired. -/
def execSelfTestComplete (g : Nat) (pass : Bool) (s : State) : Step :=
  if (s.core g).contained = false then .next s
  else if pass && !(s.core g).thirdFailure then .next (s.restore g)
  else .next (s.retire (quadOf g))

/-! ## Debug halt (R321, R423, R424) -/

/-- Every watchdog of a domain on either die starts or stops counting as its quads are halted. -/
def State.rewatchAll (s : State) : State :=
  [0, 1].foldl (fun s d => (List.range 32).foldl (fun s n => s.rewatch d n) s) s

/-- DBGCTL.HALTED. -/
def State.halted (s : State) (q : Nat) : Bool :=
  (s.quad q).dbg && (List.range 4).all fun c => !(s.core (4 * q + c)).midBundle

/-- DEBUG_HALT: DBGCTL.HALT written 1. -/
def execDebugHalt (quad : Nat) (s : State) : Step :=
  if (s.quad quad).dbg then .next s
  else
    let s := (List.range 4).foldl (fun s c => s.bringUp (4 * quad + c)) s
    .next ((s.updQuad quad fun q => { q with dbg := true, dbgSince := s.clock }).rewatchAll)

/-- DEBUG_RESUME: DBGCTL.HALT written 0. The strand watchdogs did not count. -/
def execDebugResume (quad : Nat) (s : State) : Step :=
  if !(s.quad quad).dbg then .next s
  else
    let past := s.clock - (s.quad quad).dbgSince
    let s := (List.range 4).foldl (fun s c =>
      (s.bringUp (4 * quad + c)).updCore (4 * quad + c) fun x =>
        { x with strand := x.strand.map fun t => { t with retired := t.retired + past } }) s
    .next ((s.updQuad quad fun q => { q with dbg := false }).rewatchAll)

/-- The core that holds a core's registers in the model: the odd core of a pair, which runs the same instructions on the same
values, has those of the even one (R209, R229, log entry 62). -/
def State.twin (s : State) (g : Nat) : Nat := if s.dual (g / 2 * 2) then g / 2 * 2 else g

/-- The spill layout's words of a halted core (R424). A write that would set the cores of a pair apart is left out (log
entry 62). -/
def State.haltedRead (s : State) (q c i : Nat) : Word :=
  let x := s.core (s.twin (4 * q + c))
  if !s.halted q then 0
  else if spillLaidOut i then x.landEvery.arch.spillWord (quadLayer q) i
  else Config.openSpill (x.cycle * numCores + 4 * q + c) i
def State.haltedWrite (s : State) (q c i : Nat) (v : Word) : State :=
  if s.halted q && decide (s.twin (4 * q + c) = 4 * q + c) then
    s.updCore (4 * q + c) fun x => x.landEvery.updArch fun a => a.putSpillWord i v
  else s

/-! ## Firmware (R427) -/

def fwctlWord (f : Firm) : Word := BitVec.ofNat 64 (f.res <<< 62 + fld f.pa 51 12 <<< 12)

/-- FWCTL with a unit starts verification of the image at PA. -/
def State.fwLoad (s : State) (unit : Nat) (pa : Word) : State := { s with firm := { s.firm with pa := pageField pa, unit := unit } }
def execFwLoadArbiter (pa : Word) (s : State) : Step := .next (s.fwLoad 1 pa)
def execFwLoadDispensers (pa : Word) (s : State) : Step := .next (s.fwLoad 2 pa)
def execFwLoadLink (pa : Word) (s : State) : Step := .next (s.fwLoad 3 pa)

/-- A version floor and the digest of the active image of a unit. -/
def Firm.floor (f : Firm) (unit : Nat) : Nat := SMap.get f.versions (Config.factoryFloor unit).toNat unit
def Firm.digest (f : Firm) (unit : Nat) : BitVec 384 := SMap.get f.digests (Config.factoryDigest unit) unit

/-- Bytes of device memory that the package's own units read. -/
def State.bytesAt (s : State) (pa n : Nat) : List Byte := (List.range n).map fun i => s.hwByte (pa + i)

/-- FW_VERIFY_COMPLETE: RES, and a verified image waits to take over. -/
def execFwVerifyComplete (s : State) : Step :=
  let f := s.firm
  let head := s.bytesAt f.pa.toNat 64
  let version := leValue (head.take 4)
  let len := leValue ((head.drop 4).take 4)
  let image := s.bytesAt f.pa.toNat (64 + len)
  let good := decide (len % 64 = 0) && decide (leValue ((head.drop 8).take 2) = f.unit) && (head.drop 10).all (fun b => decide (b = 0))
    && signatureOk (s.bytesAt f.pa.toNat (64 + len + 96))
  if f.unit = 0 then .next s
  else if !good then .next { s with firm := { f with res := 2, unit := 0 } }
  else if version < f.floor f.unit then .next { s with firm := { f with res := 3, unit := 0 } }
  else
    .next { s with firm := { f with res := 1, unit := 0,
                                    pending := f.pending.filter (fun p => decide (p.1 ≠ f.unit)) ++ [(f.unit, version, sha384 image)] } }

/-- FW_TAKEOVER: dispensers between two placements, link controllers in their link states; the arbiter's takes over at
a division. -/
def execFwTakeover (s : State) : Step := .next { s with firm := (s.firm.install 2).install 3 }

/-! ## Attestation (R428) -/

/-- ATTEST_NONCE: a write of the nonce starts a report, or starts it again. -/
def execAttestNonce (nonce : BitVec 384) (s : State) : Step :=
  .next { s with firm := { s.firm with nonce := nonce, asked := true, complete := false } }

/-- Bytes 0x300 to 0x3CF of a report. -/
def Firm.claims (f : Firm) : List Byte :=
  leBytes 48 f.nonce.toNat ++ ([1, 2, 3].flatMap fun u => beBytes 48 (f.digest u).toNat) ++ ([1, 2, 3].flatMap fun u => leBytes 4 (f.floor u))
    ++ [0, 0, 0, 0]

/-- ATTEST_REPORT_COMPLETE. -/
def execAttestReportComplete (s : State) : Step :=
  let f := s.firm
  if !f.asked then .next s
  else
    let (stamp, s) := s.fresh
    let sig := identitySign f.claims (Config.signNonce stamp)
    .next { s with firm := { f with asked := false, complete := true,
                                    report := f.claims ++ sig } }

end Sys2Proof.Machine
end

