-- ==== Sys2Proof/Machine/Atomic.lean ====
section
/-! DEFINITION. Atomics at their sites: where they execute, what they compute, and the replay caches of those that cross
links (R147 to R149, R382, R389 to R391, R393, R394). -/

namespace Sys2Proof.Machine

/-! ## Sites (R148) -/

def Link.up (l : Link) : Bool := decide (l.st = .up) || decide (l.st = .degraded)

/-- The table of R148. -/
def amoSupported (k : Nat) (r : AmoReq) : Bool :=
  if isSpad k then true
  else if isHost k then
    decide (32 ≤ r.t.width) && r.tok.isNone && (match r.op with | none => true | some .add => true | some .swap => true | _ => false)
  else !isControl k

/-- The host completes the AtomicOp (R394). -/
def hostPerforms (k : Nat) (r : AmoReq) : Bool :=
  !isHost k || Config.hostAtomic (homeOffset k) (match r.op with | some .add => 0 | some _ => 1 | none => 2)

/-! ## What an atomic computes (R147) -/

/-- The new value. -/
def amoNew (r : AmoReq) (old : Nat) : Nat :=
  let w := r.t.width
  let b := r.b % 2 ^ w
  let less (x y : Nat) : Bool := decide (intVal r.t.signed w x < intVal r.t.signed w y)
  match r.op with
  | none => if old = r.d % 2 ^ w then b else old
  | some .add => (old + b) % 2 ^ w
  | some .and => old &&& b
  | some .or => old ||| b
  | some .xor => old ^^^ b
  | some .min => if less b old then b else old
  | some .max => if less old b then b else old
  | some .swap => b

/-- The old value as x[d] receives it. -/
def amoResult (t : IType) (old : Nat) : Word := if t.signed then sextWord t.width old else BitVec.ofNat 64 old

def AmoReq.bytes (r : AmoReq) : Nat := r.t.width / 8
def AmoReq.keys (r : AmoReq) : List Nat := (List.range r.bytes).map (r.pa + ·)

/-- The stores that are home before the atomic: those of the issuer's die to its bytes; on a host page in device bias, which the
host port writes back first, those of both dies to its 32-byte sector (R393). -/
def State.siteStores (s : State) (g : Nat) (r : AmoReq) : Bool :=
  let sector := (List.range 32).map (r.pa / 32 * 32 + ·)
  s.inPast (dieOf g) r.keys
  || (isHost r.pa && decide (SMap.get? s.bias (r.pa / 4096) = some .device) && (s.inPast 0 sector || s.inPast 1 sector))

/-- What the site waits for: an engine's ownership, a moving page, earlier stores, or the reserve. -/
def State.siteFree (s : State) (g : Nat) (exempt : Bool) (r : AmoReq) : Bool :=
  (s.ownWait g none r.keys).isNone && r.keys.all (fun k => !s.moving k) && !s.siteStores g r
  && s.canWrite exempt (r.keys.map fun k => (k, 0))

/-- The atomic is performed at its site, and yields the old value. -/
def State.performAmo (s : State) (exempt : Bool) (r : AmoReq) : State × Nat :=
  let old := s.mem.le r.pa r.bytes
  (s.homeWrite exempt (cellsOf r.pa r.bytes (amoNew r old)) (wordsOf r.pa r.bytes), old)

/-! ## Replay caches (R389, R391) -/

/-- Where an atomic's cache is, as (die, port): the CXL root port of its tier, or the bridge endpoint of the other die. -/
def cacheOf (die k : Nat) : Option (Nat × Nat) :=
  match (if isSpad k then Range.dram 0 else rangeOf k) with
  | .cxl p => some (p / 2, 2 + p % 2)
  | .host => none
  | _ => if siteDie k = die then none else some (siteDie k, 0)

def cacheKey (port g : Nat) : Nat := port * 4096 + g
def State.cacheFor (s : State) (die port g : Nat) : List Replay := SMap.get (s.die die).replay [] (cacheKey port g)

/-- The entry of a token recorded within 1 ms. -/
def State.recorded (s : State) (die port g tok : Nat) : Option Replay :=
  (s.cacheFor die port g).find? fun e => decide (e.tok = tok) && decide (nsOf s.clock - e.time ≤ 1000000)

/-- A new entry takes the place of the source's oldest, of 256. -/
def State.record (s : State) (die port g : Nat) (e : Replay) : State :=
  s.updDie die fun d => { d with replay := SMap.set d.replay (cacheKey port g) ((e :: SMap.get d.replay [] (cacheKey port g)).take 256) }

/-- The entry's PA, width, operation and operands equal the request's (R389). x[d] is an operand of CAS alone (R147). -/
def Replay.same (e : Replay) (r : AmoReq) : Bool :=
  decide (e.pa = r.pa) && decide (e.t.width = r.t.width) && decide (e.op = r.op) && decide (e.b = r.b)
  && (r.op.isSome || decide (e.d = r.d))

/-- The request of core g reaches its target. -/
def State.reach (s : State) (g : Nat) (exempt : Bool) (r : AmoReq) : State × AmoSt :=
  match r.tok, cacheOf (dieOf g) r.pa with
  | some tok, some (die, port) =>
    match s.recorded die port g tok with
    | some e => (s, if e.same r then .got e.old else .refused)
    | none =>
      let o := s.performAmo exempt r
      (o.1.record die port g { tok := tok, pa := r.pa, t := r.t, op := r.op, b := r.b, d := r.d, old := o.2, time := nsOf s.clock },
        .got o.2)
  | _, _ => let o := s.performAmo exempt r; (o.1, .got o.2)

/-- The request of an atomic under its key in the core's waits. -/
def Core.amoSt (c : Core) (key : Nat) : Option AmoSt := SMap.get? c.arch.wait.amo key
def Core.setAmo (c : Core) (key : Nat) (st : AmoSt) : Core :=
  c.updArch fun a => { a with wait := { a.wait with amo := SMap.set a.wait.amo key st } }
def Core.delAmo (c : Core) (key : Nat) : Core :=
  c.updArch fun a => { a with wait := { a.wait with amo := SMap.del a.wait.amo key } }

/-- Translated through a region outside the cut (R336). -/
def State.amoExempt (s : State) (g : Nat) (r : AmoReq) : Bool :=
  match s.xlate g r.ea.toNat .atomic with | .ok x => x.snapx | .error _ => false

def dropAt {α : Type} (l : List α) (i : Nat) : List α := l.take i ++ l.drop (i + 1)

/-- The atomic behind load i of core g is lost to a link: performed at its site exactly once or not at all (R149). -/
def State.loseAmo (s : State) (g i : Nat) : State :=
  match (s.core g).loads[i]? with
  | none => s
  | some l =>
    match l.held with
    | none => s
    | some key =>
      match (s.core g).amoSt key with
      | some (.sent r) =>
        let (st, s) := s.fresh
        let exempt := s.amoExempt g r
        let s := if bitAt (Config.openWord st) 0 && s.siteFree g exempt r then (s.reach g exempt r).1 else s
        s.updCore g fun c => { (c.setAmo key .lost) with loads := dropAt c.loads i }
      | _ => s.updCore g fun c => { c with loads := dropAt c.loads i }

/-- Every atomic that waits across one of the endpoints is lost. -/
def State.loseAmos (s : State) (ends : List (Nat × Nat)) : State :=
  (SMap.keys s.cores).foldl (fun s g =>
    ((List.range (s.core g).loads.length).reverse).foldl (fun s i =>
      match (s.core g).loads[i]? with
      | some l => if l.held.isSome && (linksTo (dieOf g) l.pa).any ends.contains then s.loseAmo g i else s
      | none => s) s) s

end Sys2Proof.Machine
end

