-- ==== Sys2Proof/Machine/Links.lean ====
section
/-! DEFINITION. The ports: link states and what a failing link does to its traffic (R379 to R382), and peer launch
packets (R293 to R295, R392). -/

namespace Sys2Proof.Machine

/-! ## Ports (R379, R380) -/

def lmax (port : Nat) : Nat := if port < 4 then 16 else 8
def portExists (die port : Nat) : Bool := decide (die < 2) && decide (port ≤ 8) && !(decide (die = 1) && decide (port = 1))
def allLanes (port : Nat) : BitVec 32 := BitVec.ofNat 32 (2 ^ lmax port - 1)
def popcount (w : BitVec 32) : Nat := ((List.range 32).filter fun i => bitAt w i).length

def State.updLink (s : State) (die port : Nat) (f : Link → Link) : State :=
  s.updDie die fun d => { d with links := SMap.set d.links port (f (d.link port)) }
def State.linkOf (s : State) (die port : Nat) : Link := (s.die die).link port

def linkCode : LinkState → Nat
  | .down => 0 | .training => 1 | .up => 2 | .degraded => 3 | .lost => 4

def lnkstWord (port : Nat) (l : Link) : Word :=
  BitVec.ofNat 64 ((l.epoch.toNat % 256) <<< 32 + (l.retry.toNat % 65536) <<< 16 + popcount l.lact <<< 11 + lmax port <<< 6 + linkCode l.st)
def lnkctlWord (l : Link) : Word := BitVec.ofNat 64 ((l.lsel.toNat % 65536) <<< 32 + l.peer.toNat <<< 16)

/-! ## Traffic of a link that fails (R382) -/

def pastTo (die port : Nat) (p : PastStore) : Bool := p.ent.bytes.any fun c => (linksTo 0 c.1).any fun e => decide (e = (die, port))

/-- Unacknowledged writes to a CXL tier poison their sectors at the root port, as uncorrectable errors. -/
def State.loseCxl (s : State) (die port : Nat) : State :=
  let hit := [0, 1].flatMap fun d => (s.die d).past.filter (pastTo die port)
  let sectors := (hit.flatMap fun p => p.ent.bytes.map fun c => c.1 / 32).eraseDups
  let s := sectors.foldl (fun s i => (s.setPoison i).countUe die (32 * i)) s
  [0, 1].foldl (fun s d => s.updDie d fun x => { x with past := x.past.filter fun p => !pastTo die port p }) s

/-- Posted writes to the host are lost, and every LIVE context is torn down. -/
def State.loseHost (s : State) : State :=
  let s := [0, 1].foldl (fun s d => s.updDie d fun x => { x with past := x.past.filter fun p => !p.ent.bytes.any fun c => isHost c.1 }) s
  (s.tornBy .hostPort).foldl State.tear s

/-- A collective loses what is in flight on its link: of the tokens it has handed to the link, those from some SEQ on. How far
the peer had taken them nothing on this side tells: a free value (R388, log entry 91). -/
def GraphRun.lose (r : GraphRun) (free : Nat) : GraphRun :=
  { r with lost := some (Nat.min (r.lost.getD r.next) (free % (r.next + 1))) }

/-- Collectives that use the link lose what is in flight (R388). -/
def State.loseGraphs (s : State) (die port : Nat) : State :=
  let st := s.stamp
  { s with stamp := st + 128 }.updDie die fun d => { d with graphs := SMap.mapVals d.graphs fun i x =>
    if i / 8 = port then { x with run := x.run.map (GraphRun.lose · (Config.openWord (st + i)).toNat) } else x }

def State.loseTraffic (s : State) (die port : Nat) : State :=
  if port = 0 then s.loseAmos [(0, 0), (1, 0)]
  else if port = 1 then (s.loseAmos [(die, 1)]).loseHost
  else if port < 4 then (s.loseAmos [(die, port)]).loseCxl die port
  else s.loseGraphs die port

/-- A link is DOWN, and its traffic fares as R382 says; a drain into its tier fails (R341). A bridge that reaches DOWN tears down
every LIVE context (R381, R418). -/
def State.linkDown (s : State) (die port : Nat) : State :=
  let s := ((s.loseTraffic die port).updLink die port fun l => { l with st := .down, lact := 0 }).checkImage
  if port = 0 then (s.tornBy .bridge).foldl State.tear s else s

/-! ## Link events (R381) -/

/-- LINK_ENABLE: CMD 1. -/
def execLinkEnable (die port : Nat) (s : State) : Step :=
  .next (if portExists die port && decide ((s.linkOf die port).st = .down) then
      s.updLink die port fun l => { l with st := .training, since := s.clock }
    else s)

/-- LINK_DISABLE: CMD 2. -/
def execLinkDisable (die port : Nat) (s : State) : Step :=
  .next (if portExists die port && decide ((s.linkOf die port).st ≠ .down) then s.linkDown die port else s)

/-- LINK_RETIRE_LANES: CMD 3, ignored where fewer than half the lanes would be left. -/
def execLinkRetireLanes (die port : Nat) (s : State) : Step :=
  let l := s.linkOf die port
  let left := l.lact &&& ~~~l.lsel
  .next (if portExists die port && l.up && decide (lmax port / 2 ≤ popcount left) then
      s.updLink die port fun l => { l with st := .degraded, lact := left }
    else s)

/-- LINK_RESTORE_LANES: CMD 4, with the lanes that pass. -/
def execLinkRestoreLanes (die port pass : Nat) (s : State) : Step :=
  let l := s.linkOf die port
  let lact := l.lact ||| (l.lsel &&& BitVec.ofNat 32 pass &&& allLanes port)
  .next (if portExists die port && decide (l.st = .degraded) then
      s.updLink die port fun l => { l with st := if lact = allLanes port then .up else .degraded, lact := lact }
    else s)

/-- Clock units of the 10 ms that a training may take. -/
def trainingTime : Nat := 10000000 * unitsPerNs

/-- LINK_TRAINING_DONE, with the lanes that pass within 10 ms. -/
def execLinkTrainingDone (die port pass : Nat) (s : State) : Step :=
  let ok := if s.clock - (s.linkOf die port).since < trainingTime then BitVec.ofNat 32 pass &&& allLanes port else 0
  .next (if !(portExists die port && decide ((s.linkOf die port).st = .training)) then s
    else if ok = allLanes port then (s.updLink die port fun l => { l with st := .up, lact := ok }).servePosts fun _ => true
    else if lmax port / 2 ≤ popcount ok then (s.updLink die port fun l => { l with st := .degraded, lact := ok }).servePosts fun _ => true
    else s.linkDown die port)

/-- LINK_TRAINING_TIMEOUT: too few lanes pass, or 10 ms elapse. -/
def execLinkTrainingTimeout (die port : Nat) (s : State) : Step :=
  .next (if portExists die port && decide ((s.linkOf die port).st = .training) then s.linkDown die port else s)

/-- RETRY counts replays of flits, which the spec leaves to the line: a free value after an event that made some (log
entry 23). -/
def State.replays (s : State) (die port : Nat) : State :=
  let (st, s) := s.fresh
  s.updLink die port fun l => { l with retry := (Config.openWord st).setWidth 32 }

/-- LANE_ERROR_LIMIT: the lane is retired and its flits are replayed on the others. -/
def execLaneErrorLimit (die port lane : Nat) (s : State) : Step :=
  let l := s.linkOf die port
  .next (if portExists die port && decide (l.st = .up) && decide (lane < lmax port) then
      (s.updLink die port fun l => { l with st := .degraded, lact := setBit l.lact lane false }).replays die port
    else s)

/-- LINK_LOST: EPOCH counts it, in-flight traffic fares as R382 says, and training starts at once. -/
def execLinkLost (die port : Nat) (s : State) : Step :=
  .next (if portExists die port && (s.linkOf die port).up then
      (((s.loseTraffic die port).replays die port).updLink die port fun l =>
        { l with st := .training, lact := 0, epoch := l.epoch + 1, since := s.clock }).checkImage
    else s)

/-- REMOTE_RESPONSE_TIMEOUT: the response that load i of core g waits for is not back within ATO. Across the bridge only
atomics are given up; other requests there just wait. -/
def execRemoteResponseTimeout (g i : Nat) (s : State) : Step :=
  match (s.core g).loads[i]? with
  | none => .next s
  | some l =>
    let ato := fld (s.die (dieOf g)).linkcfg 31 0 * 1000 * unitsPerNs
    .next (if l.held.isSome && decide (ato ≤ s.clock - l.since) then s.loseAmo g i else s)

/-! ## Peer launch packets (R293 to R295, R392) -/

structure LaunchHead where
  graph : Word
  peer : Nat
  layer : Nat
  pri : Nat
  die : Nat
  bad : Bool
  seq : Nat
  deriving DecidableEq, Repr

/-- The header, its PEER stamped by the receiving port. -/
def launchHead (pkt : BitVec 640) (peer : Nat) : LaunchHead :=
  let lo : Word := pkt.setWidth 64
  { graph := (pkt >>> 64).setWidth 64, peer := peer, layer := fld lo 47 46, pri := fld lo 45 39, die := fld lo 38 38,
    bad := decide (fld lo 37 32 ≠ 0), seq := fld lo 31 0 }

/-- The record of a packet. -/
def launchRec (pkt : BitVec 640) : Rec :=
  recOf fun i n => BitVec.ofNat 64 ((pkt.toNat >>> (128 + 8 * i)) % 2 ^ (8 * n))

/-- An access-control entry that admits the packet (R294). -/
def admits (e : Word) (h : LaunchHead) (n : Nat) : Bool :=
  bitAt e 63 && decide (fld e 15 0 = h.peer) && decide (fld e 47 32 = n) && bitAt e (52 + h.layer) && decide (h.pri ≤ fld e 62 56)

/-- The status of a packet that has not been seen before. -/
def State.launchStatus (s : State) (h : LaunchHead) (r : Rec) : Nat :=
  let n := fld h.graph 55 40
  let c := s.ctx n
  let graphOk := match c.named n h.graph with
    | some id => decide (fld h.graph 63 61 = 2) && (match c.obj? id with | some o => decide (o.lvl = 2) && !o.done && !o.canc | none => false)
    | none => false
  let cap := match c.d with | some d => d.cap | none => 0
  if !(List.range 256).any (fun i => admits (SMap.get (s.die h.die).access 0 i) h n) then 1
  else if !graphOk then 2
  else if c.st ≠ .live then 3
  else if poolSlots ≤ s.slotsUsed n then 4
  else if !recOk cap r then 5
  else if h.bad then 6
  else 0

/-- Acceptance: a launch of one strand in the graph, and its record in the ring. -/
def State.acceptLaunch (s : State) (h : LaunchHead) (r : Rec) : State :=
  let n := fld h.graph 55 40
  let gr := fld h.graph 39 0
  match s.newObj n (Obj.new 1 gr 1) with
  | none => s
  | some (id, s) =>
    let s := match (s.ctx n).obj? gr with | some o => s.setObj n gr { o with count := o.count + 1 } | none => s
    let r : Rec := { r with launch := id, index := 0, pri := h.pri, lmask := BitVec.ofNat 4 (2 ^ h.layer), pl := false, kind := 0,
                            spl := false, spix := 0, age := 0, afv := false, cx := false }
    s.enqueue n h.die h.layer (s.freeSlot n) r none

/-- A launch completion goes to the sending peer (R392). -/
def State.answer (s : State) (die port peer seq st : Nat) : State :=
  s.updDie die fun d => { d with completions := d.completions ++ [(port, peer, seq, st)] }

/-- PEER_LAUNCH_PACKET at a scale-up port, where the bridge lets a packet for the other die be checked there. The port keeps the
last 256 SEQ of a peer with their statuses, and answers a repeated one as before. An accepted packet waits while the object
entry of the next ID is busy (R278). -/
def execPeerLaunchPacket (die port : Nat) (pkt : BitVec 640) (s : State) : Step :=
  let l := s.linkOf die port
  let h := launchHead pkt l.peer.toNat
  let key := port * 65536 + h.peer
  let log := SMap.get (s.die die).launchLog [] key
  if die < 2 ∧ 4 ≤ port ∧ port ≤ 7 ∧ l.up = true ∧ s.crossWaits die h.die = false then
    match log.find? fun e => decide (e.1 = h.seq) with
    | some e => .next (s.answer die port h.peer h.seq e.2)
    | none =>
      let r := launchRec pkt
      let st := s.launchStatus h r
      if st = 0 && (s.newObj (fld h.graph 55 40) (Obj.new 1 0 1)).isNone then .next s
      else
        let s := (if st = 0 then s.acceptLaunch h r else s).answer die port h.peer h.seq st
        .next (s.updDie die fun d => { d with launchLog := SMap.set d.launchLog key (((h.seq, st) :: log).take 256) })
  else .next s

end Sys2Proof.Machine
end

