-- ==== Sys2Proof/Machine/Graph.lean ====
section
/-! DEFINITION. Fabric graphs of the scale-up and Ethernet ports: their slots, the tokens their nodes make, and
collectives (R384 to R388). -/

namespace Sys2Proof.Machine

/-! ## Slots (R384, R385) -/

def graphPort (die port slot : Nat) : Bool := decide (die < 2) && decide (4 ≤ port) && decide (port ≤ 8) && decide (slot < 8)
def State.updGraph (s : State) (die port slot : Nat) (f : Graph → Graph) : State :=
  s.updDie die fun d => { d with graphs := SMap.set d.graphs (port * 8 + slot) (f (d.graph port slot)) }

/-- A node word's fields. -/
structure Node where
  kind : Nat
  in0 : Nat
  in1 : Nat
  tin : EType
  tout : EType
  rnd : Nat
  inf : Bool
  rop : Nat
  k : Nat
  bad : Bool

def nodeOf (w : Word) : Node :=
  { kind := fld w 63 60, in0 := fld w 59 56, in1 := fld w 55 52, tin := EType.ofCode (fld w 51 48), tout := EType.ofCode (fld w 47 44),
    rnd := fld w 43 41, inf := bitAt w 40, rop := fld w 39 38, k := fld w 31 0, bad := decide (fld w 37 32 ≠ 0) }

def Node.source (n : Node) : Bool := decide (n.kind < 2)
def Node.sink (n : Node) : Bool := decide (n.kind = 6) || decide (n.kind = 7)
/-- The nodes a node takes its tokens from. -/
def Node.inputs (n : Node) : List Nat := if n.source then [] else if n.kind = 2 then [n.in0, n.in1] else [n.in0]

/-- The nodes of a header, by index. -/
def nodesOf (header : Word) (words : SMap Word) : List Node :=
  (List.range (fld header 7 4 + 1)).map fun i => nodeOf (SMap.get words 0 i)

/-- A header write with V = 1 passes the check (R385). -/
def graphOk (header : Word) (words : SMap Word) : Bool :=
  let ns := nodesOf header words
  let at' := (List.range ns.length).zip ns
  decide (fld header 62 60 = 0) && decide (fld header 31 8 = 0) && decide (fld header 3 0 = 0)
  && at'.all (fun p =>
    let n := p.2
    decide (n.kind < 8) && !(decide (n.kind = 2) && decide (n.rop = 3)) && !n.bad
    && n.inputs.all (fun i => decide (i < p.1) && (match ns[i]? with | some m => decide (m.tout = n.tin) | none => false))
    && (n.sink || at'.any fun q => q.2.inputs.contains p.1))
  && decide ((ns.filter Node.sink).length ≤ 2) && ns.any Node.source

def headerKeep (v : Word) : Word := v &&& 0x8FFFFFFF000000F0#64

/-- GRAPH_HEADER_WRITE. -/
def execGraphHeaderWrite (die port slot : Nat) (v : Word) (s : State) : Step :=
  .next (if graphPort die port slot then
      s.updGraph die port slot fun x =>
        { x with header := if bitAt v 63 && !graphOk v x.nodes then setBit (headerKeep v) 63 false else headerKeep v }
    else s)

/-- GRAPH_NODE_WRITE: with V = 1, V becomes 0. -/
def execGraphNodeWrite (die port slot node : Nat) (v : Word) (s : State) : Step :=
  .next (if graphPort die port slot && decide (node < 16) then
      s.updGraph die port slot fun x => { x with nodes := SMap.set x.nodes node v, header := setBit x.header 63 false }
    else s)

/-! ## A collective's accesses -/

/-- The strand a collective's accesses belong to. -/
def graphStrand (n : Nat) : Strand :=
  let r : Rec :=
    { pc := 0, me := false, pl := false, launch := 0, index := 0, afq := 0, afv := false, age := 0, cx := false, spl := false, kind := 0,
      pr := false, lmask := 1, pri := 0, spix := 0, xs := [], bad := false }
  { sid := 0, ctx := n, r := r, last := r, slot := 0, pri := 0, since := 0, die := 0, layer := 0, cancel := none, preempt := false, pend := false, retired := 0,
    watchdog := none, spilling := false }

def GraphRun.ctx (r : GraphRun) : Nat := fld r.header 59 48

/-- The package with the issuer's translation in the place of its core's own. -/
def GraphRun.view (r : GraphRun) (s : State) : State :=
  s.updCore r.core fun c =>
    { Core.reset with arch := { Arch.reset with copies := r.copies, status := if r.pl then 2 else 0 },
                      strand := some (graphStrand r.ctx), tlb := c.tlb }

/-- What bytes within one page come to for a graph: they cannot be reached now, the access fails, or their keys with
whether they lie outside the cut, and the translations, whose pages record their bias at the first access (R330). -/
inductive Reach | blocked | failed (cause : Nat) | keys (ks : List Nat) (exempt : Bool) (tr : List (Nat × Xlated))

/-- The die of a graph slot. -/
def Eng.graphDie : Eng → Nat
  | .graph d _ _ => d
  | _ => 0

def GraphRun.touch (r : GraphRun) (s : State) (me : Eng) (va n : Nat) (k : XKind) : Reach :=
  match (r.view s).xlate r.core (va % 2 ^ 64) k with
  | .error e => .failed e
  | .ok x =>
    let ks := (List.range n).map (x.pa + ·)
    if isControl x.pa || decide (s.window x.pa = .shut) then .failed cPROT
    else if decide (s.window x.pa = .waits) || ks.any s.moving || ks.any (s.linksWait me.graphDie)
      || (r.view s).walkWaits (s.linksWait me.graphDie) r.core (va % 2 ^ 64) n k then .blocked
    else if ks.any (fun k => match s.owner k with | none => false | some e => decide (e ≠ me)) then .blocked
    else .keys ks x.snapx [(va % 2 ^ 64, x)]

/-- The keys of a range, page by page. -/
def GraphRun.range (r : GraphRun) (s : State) (me : Eng) (va n : Nat) (k : XKind) : Reach :=
  (pieces va n).foldl (fun acc p =>
    match acc with
    | .keys ks e tr =>
      match r.touch s me p.1 p.2 k with
      | .keys ls f t => .keys (ks ++ ls) (e || f) (tr ++ t)
      | o => o
    | o => o) (.keys [] false [])

/-- Bytes that a graph reads (R135): blocked, a cause, or the bytes. -/
def GraphRun.read (r : GraphRun) (s : State) (die : Nat) (me : Eng) (va n : Nat) : Option (State × Except Nat (List Byte)) :=
  match r.range s me va n .eread with
  | .blocked => none
  | .failed e => some (s, .error e)
  | .keys ks _ tr =>
    let s := ((s.recordBiases tr).fireKeys me.graphDie false ks).1
    if ks.any s.poisoned then some (s, .error cPOISON) else some (s, .ok (ks.map (s.dieByte die)))

/-! ## Tokens and nodes (R386) -/

/-- Types whose blocks carry a scale byte. -/
def scaledType : EType → Bool
  | .e4m3 => true | .e5m2 => true | .e2m1 => true | _ => false
/-- Bytes of a token's elements. -/
def tokenBytes (t : EType) : Nat := 4 * EType.bits t

/-- A node's result: a token's elements and scale with the flags raised on its way, a fault, or nothing yet. -/
inductive Flowing
  | wait
  | fault (cause : Nat)
  | token (elems : List Nat) (scale : Nat) (fl : FpFlags)

def tokenOf (t : EType) (bs : List Byte) : List Nat :=
  (List.range 32).map fun e => (leValue bs >>> (e * EType.bits t)) % 2 ^ EType.bits t
def bytesOfToken (t : EType) (elems : List Nat) : List Byte :=
  leBytes (tokenBytes t) (packElems 4096 (EType.bits t) elems).toNat

/-- An element's exact value under its block's scale (R86). -/
def tokenValue (tab : SMap TabEntry) (t : EType) (scale code : Nat) : FV × FpFlags :=
  let v := srcValue tab t code
  if scaledType t then (scaled scale v.1, v.2) else v

/-- The rounding of a node; the draws of .sr, and what the codes 5 to 7 do, the spec leaves open: free draws (log entry 24). -/
def nodeRnd : Nat → Rnd
  | 0 => .rne | 1 => .rtz | 2 => .rup | 3 => .rdn | _ => .sr

/-- The exact sum of two values. -/
def sumValue (m : Rnd) (a b : FV) : FV × FpFlags :=
  if a.isNaN || b.isNaN then (.nan (a.isSig || b.isSig), 0)
  else
    match a, b with
    | .inf n, .inf k => if n = k then (a, 0) else (.nan false, fNV)
    | .inf _, _ => (a, 0)
    | _, .inf _ => (b, 0)
    | _, _ =>
      let t := sumInt [a, b]
      if t.1 = 0 then (.fin (zeroSumNeg m [a, b]) 0 0, 0) else (.fin (decide (t.1 < 0)) t.1.natAbs t.2, 0)

/-- Minimum or maximum (R77): NaN wins, and −0 is below +0. -/
def minMaxValue (mx : Bool) (a b : FV) : FV × FpFlags :=
  if a.isNaN || b.isNaN then (.nan (a.isSig || b.isSig), 0)
  else
    let less := a.lt b || (a.eqv b && a.isNeg && !b.isNeg)
    (if less != mx then a else b, 0)

/-- An exact value in a node's output type: IEEE rounding into the arithmetic formats, Narrow into the others. -/
def Node.into (n : Node) (tab : SMap TabEntry) (rnd : Nat) (v : FV) : Nat × FpFlags :=
  match n.tout with
  | .f64 | .f32 | .f16 | .bf16 => roundFV (fkOf n.tout) (nodeRnd n.rnd) rnd v
  | t => toType tab t n.inf (nodeRnd n.rnd) rnd v

/-- RED on one pair of elements. Integers wrap. -/
def Node.red (n : Node) (tab : SMap TabEntry) (rnd : Nat) (sa a sb b : Nat) : Nat × FpFlags :=
  match n.tin, n.tout with
  | .int t, .int u =>
    let x := intVal t.signed t.width a
    let y := intVal t.signed t.width b
    (intBits false u.signed u.width (if n.rop = 0 then x + y else if n.rop = 1 then min x y else max x y), 0)
  | _, _ =>
    let x := tokenValue tab n.tin sa a
    let y := tokenValue tab n.tin sb b
    let v := if n.rop = 0 then sumValue (nodeRnd n.rnd) x.1 y.1 else minMaxValue (decide (n.rop = 2)) x.1 y.1
    let o := n.into tab rnd v.1
    (o.1, x.2 ||| y.2 ||| v.2 ||| o.2)

/-- CONV on one element; integers saturate under .sat and wrap under .inf. -/
def Node.conv (n : Node) (tab : SMap TabEntry) (rnd : Nat) (scale a : Nat) : Nat × FpFlags :=
  match n.tin, n.tout with
  | .int t, .int u => (intBits (!n.inf) u.signed u.width (intVal t.signed t.width a), 0)
  | _, _ =>
    let x := tokenValue tab n.tin scale a
    let o := toType tab n.tout n.inf (nodeRnd n.rnd) rnd x.1
    (o.1, x.2 ||| o.2)

/-- SCALE on one element. -/
def Node.scale (n : Node) (tab : SMap TabEntry) (rnd : Nat) (scale a : Nat) : Nat × FpFlags :=
  let x := tokenValue tab n.tin scale a
  let p := FV.mul x.1 (decodeF .f32 n.k)
  let o := n.into tab rnd p.1
  (o.1, x.2 ||| p.2 ||| o.2)

/-- COMP on a block. -/
def Node.comp (n : Node) (tab : SMap TabEntry) (free : Int) (rnds : List Nat) (scale : Nat) (elems : List Nat) : Flowing :=
  let xs := elems.map (tokenValue tab n.tin scale)
  let o := scaleBlock tab free n.tout (nodeRnd n.rnd) ((xs.map Prod.fst).zip rnds)
  .token o.2.1 o.1 (orFlags (xs.map Prod.snd) ||| o.2.2)

/-- A scale of one, for outputs whose block scale no rule computes. -/
def unitScale : Nat := 127

/-- The output of a node that is no source, from the outputs of the nodes before it. -/
def Node.eval (n : Node) (tab : SMap TabEntry) (free : Int) (rnds : List Nat) (outs : List Flowing) : Flowing :=
  let arg (i : Nat) : Flowing := (outs[i]?).getD .wait
  match arg n.in0, (if n.kind = 2 then arg n.in1 else .token [] 0 0) with
  | .wait, _ => .wait
  | _, .wait => .wait
  | .fault c, _ => .fault c
  | _, .fault c => .fault c
  | .token a sa fa, .token b sb fb =>
    let each (f : Nat → Nat → Nat × FpFlags) : Flowing :=
      let o := collect ((a.zip rnds).map fun p => f p.2 p.1)
      .token o.1 unitScale (fa ||| fb ||| o.2)
    if n.kind = 2 then
      let o := collect (((a.zip b).zip rnds).map fun p => n.red tab p.2 sa p.1.1 sb p.1.2)
      .token o.1 unitScale (fa ||| fb ||| o.2)
    else if n.kind = 3 then each fun r x => n.conv tab r sa x
    else if n.kind = 4 then each fun r x => n.scale tab r sa x
    else if n.kind = 5 then (match n.comp tab free rnds sa a with | .token e sc f => .token e sc (fa ||| f) | o => o)
    else .token a sa fa

/-- SRCM's token. -/
def GraphRun.srcm (r : GraphRun) (s : State) (die : Nat) (me : Eng) (n : Node) : State × Flowing :=
  let w := tokenBytes n.tout
  let data := r.read s die me (r.src.toNat + r.next * w) w
  match data with
  | none => (s, .wait)
  | some (s, .error e) => (s, .fault e)
  | some (s, .ok bs) =>
    if scaledType n.tout then
      match r.read s die me (r.src.toNat + r.ntok * w + r.next) 1 with
      | none => (s, .wait)
      | some (s, .error e) => (s, .fault e)
      | some (s, .ok sc) => (s, .token (tokenOf n.tout bs) (leValue sc) 0)
    else (s, .token (tokenOf n.tout bs) unitScale 0)

/-- The tokens held that came from the header's PEER. -/
def GraphRun.takes (r : GraphRun) (t : Nat × Token) : Bool := decide (t.1 = fld r.header 47 32)

/-- SRCL's token: the one of the next SEQ that arrived from the header's PEER. -/
def GraphRun.srcl (r : GraphRun) (x : Graph) : Flowing :=
  match x.held.find? fun t => r.takes t && decide (t.2.seq = r.next) with
  | some (_, t) =>
    match t.fault with
    | some c => .fault c
    | none => .token ((List.range 32).map fun i => (t.elems[i]?).getD 0) t.scale 0
  | none => if r.lost.isSome then .fault cLINK else .wait

/-- The outputs of all nodes for the next SEQ. `stamp` names the free draws. -/
def GraphRun.outputs (r : GraphRun) (s : State) (die port slot stamp : Nat) : State × List Flowing :=
  let me := Eng.graph die port slot
  let x := (s.die die).graph port slot
  (nodesOf r.header r.nodes).foldl (fun acc n =>
    let i := acc.2.length
    let rnds := (List.range 32).map fun e => (Config.openWord (stamp + 32 * i + e)).toNat % 2 ^ 32
    if n.kind = 0 then let o := r.srcm acc.1 die me n; (o.1, acc.2 ++ [o.2])
    else if n.kind = 1 then (acc.1, acc.2 ++ [r.srcl x])
    else (acc.1, acc.2 ++ [n.eval r.tab (Config.openWord (stamp + 32 * i)).toInt rnds acc.2])) (s, [])

/-! ## Starting a collective (R387) -/

/-- The sink nodes with their indices. -/
def GraphRun.sinks (r : GraphRun) : List (Nat × Node) :=
  ((List.range 16).zip (nodesOf r.header r.nodes)).filter fun p => p.2.sink

/-- The ranges a SINKM writes: elements and scales. -/
def GraphRun.dstRanges (r : GraphRun) (n : Node) : List (Nat × Nat) :=
  let w := tokenBytes n.tin
  (r.dst.toNat, r.ntok * w) :: (if scaledType n.tin then [(r.dst.toNat + r.ntok * w, r.ntok)] else [])

/-- Every SINKM's pages that translate: an address, its translation, and the bytes there. -/
def GraphRun.dstPages (r : GraphRun) (s : State) : List (Nat × Xlated × Nat) :=
  (r.sinks.filter fun p => decide (p.2.kind = 6)).flatMap fun p => (r.dstRanges p.2).flatMap fun q => (pieces q.1 q.2).flatMap fun c =>
    match (r.view s).xlate r.core (c.1 % 2 ^ 64) .ewrite with
    | .ok x => if isControl x.pa then [] else [(c.1, x, c.2)]
    | .error _ => []

/-- The keys of every SINKM's lines that translate. -/
def GraphRun.dstKeys (r : GraphRun) (s : State) : List Nat :=
  (r.dstPages s).flatMap fun p => (List.range p.2.2).map (p.2.1.pa + ·)

/-- STATUS. -/
def statusWord (flt : Bool) (cause : Nat) (f : FpFlags) (fseq : Nat) : Nat :=
  2 ^ 63 + flt.toNat <<< 62 + cause <<< 56 + ((f &&& fNV ≠ 0 : Bool).toNat <<< 51) + ((f &&& fOVF ≠ 0 : Bool).toNat <<< 50)
    + ((f &&& fUF ≠ 0 : Bool).toNat <<< 49) + ((f &&& fNX ≠ 0 : Bool).toNat <<< 48) + fseq

/-- STATUS is written where its block's address translates; `none` while it cannot be reached, or its block waits for the reserve
(R337). -/
def GraphRun.putStatus (r : GraphRun) (s : State) (me : Eng) (v : Nat) : Option State :=
  match r.range s me (r.block.toNat + 0x38) 8 .ewrite with
  | .keys ks exempt tr =>
    let cs := sortCells (ks.zip (leBytes 8 v))
    if s.canWrite exempt cs then some ((s.recordBiases tr).homeWrite exempt cs (fullWords ks)) else none
  | .failed _ => some s
  | .blocked => none

/-- A doorbell is rung with the address of a command block. -/
def State.ring (s : State) (die port slot : Nat) (va cb : Word) : Step :=
  let x := (s.die die).graph port slot
  if !bitAt x.header 63 || decide (fld x.header 59 48 ≠ s.me.ctxNum) then trapStep s cPROT va
  else if x.run.isSome || !s.accessesDone s.cur then s.hold cMEM
  else
    let me := Eng.graph die port slot
    let a := s.me.arch
    let r : GraphRun :=
      { header := x.header, nodes := x.nodes, src := 0, dst := 0, ntok := 0, block := cb, core := s.cur, copies := a.copies, pl := a.pl,
        tab := a.tab, next := 0, flg := 0, stopped := [], lost := none }
    let bad (s : State) : Step :=
      match r.putStatus s me (statusWord true cENGINE 0 0) with | some s => .next s | none => s.hold cMEM
    if cb.toNat % 64 ≠ 0 then bad s
    else
      match r.read s (dieOf s.cur) me cb.toNat 64 with
      | none => s.hold cMEM
      | some (s, .error _) => bad s
      | some (s, .ok bs) =>
        let f (o n : Nat) : Nat := leValue ((bs.drop o).take n)
        let r := { r with src := BitVec.ofNat 64 (f 0 8), dst := BitVec.ofNat 64 (f 8 8), ntok := f 0x10 4 }
        if r.ntok = 0 ∨ f 0x14 36 ≠ 0 then bad s
        else
          let ks := r.dstKeys s
          if (s.ownWait s.cur none ks).isSome || ks.any s.moving || s.inPast 0 ks || s.inPast 1 ks then s.hold cMEM
          else
            let s := s.recordBiases ((r.dstPages s).map fun p => (p.1, p.2.1))
            .next ((s.takeLines me ks).updGraph die port slot fun x => { x with run := some r })

/-- The physical address of a slot's doorbell (R379). -/
def doorbellPa (die port slot : Nat) : Nat := 0xF000000000000 + die <<< 44 + 4 <<< 40 + 0x10000 * port + 0x900 + 8 * slot

/-- COLLECTIVE_START: the doorbell store of the core at work, through its physical address. -/
def execCollectiveStart (die port slot : Nat) (a : Reg) (s : State) : Step :=
  if graphPort die port slot then s.ring die port slot (BitVec.ofNat 64 (doorbellPa die port slot)) (s.me.x a) else .next s

/-! ## Arrivals, commits, and the end (R386, R388) -/

/-- GRAPH_TOKEN_ARRIVAL: held at the port, under the PEER that the port stamps, until its graph takes it, up to 256 of a slot;
beyond that the link is back-pressured. A token of another peer is refused. -/
def execGraphTokenArrival (die port slot : Nat) (t : Token) (s : State) : Step :=
  let x := (s.die die).graph port slot
  let l := s.linkOf die port
  let fits := decide (x.held.length < 256) && !x.held.any (fun u => decide (u.1 = l.peer.toNat) && decide (u.2.seq = t.seq))
    && (!bitAt x.header 63 || decide (fld x.header 47 32 = l.peer.toNat))
  .next (if graphPort die port slot && l.up && fits then
      s.updGraph die port slot fun x => { x with held := x.held ++ [(l.peer.toNat, t)] }
    else s)

/-- A sink takes the token of the next SEQ: `none` while it must wait. -/
def GraphRun.commit (r : GraphRun) (s : State) (die port slot : Nat) (p : Nat × Node) (v : Flowing) : Option (State × GraphRun) :=
  let me := Eng.graph die port slot
  let n := p.2
  let stopAt (s : State) (q c : Nat) : State × GraphRun := (s, { r with stopped := SMap.set r.stopped p.1 (q, c) })
  let stop (s : State) (c : Nat) : State × GraphRun := stopAt s r.next c
  let send (s : State) (t : Token) : State := s.updGraph die port slot fun x => { x with sent := x.sent ++ [(n.in1, t)] }
  match v with
  | .wait => none
  | .fault c =>
    let t : Token := { seq := r.next, elems := [], scale := 0, fault := some c }
    some (stop (if n.kind = 7 then send s t else s) c)
  | .token e sc f =>
    if n.kind = 7 then
      match r.lost with
      | some q => some (stopAt (send s { seq := q, elems := [], scale := 0, fault := some cLINK }) q cLINK)
      | none =>
        if !(s.linkOf die port).up then none
        else some (send s { seq := r.next, elems := e, scale := sc, fault := none }, { r with flg := r.flg ||| f })
    else
      let w := tokenBytes n.tin
      let put (s : State) (va : Nat) (bs : List Byte) (k : State → State × GraphRun) : Option (State × GraphRun) :=
        match r.range s me va bs.length .ewrite with
        | .blocked => none
        | .failed c => some (stop s c)
        | .keys ks exempt tr =>
          if !s.canWrite exempt (ks.zip bs) then none
          else some (k ((s.recordBiases tr).engineWrite exempt (ks.zip bs)))
      let done (s : State) : State × GraphRun := (s, { r with flg := r.flg ||| f })
      let dst := r.dst.toNat
      if scaledType n.tin then
        -- both parts are reachable before either is written
        match r.range s me (dst + r.next * w) w .ewrite, r.range s me (dst + r.ntok * w + r.next) 1 .ewrite with
        | .failed c, _ => some (stop s c)
        | .blocked, _ => none
        | _, .failed c => some (stop s c)
        | _, .blocked => none
        | .keys ks e1 t1, .keys ls e2 t2 =>
          let bs := bytesOfToken n.tin e
          if !s.canWrite e1 (ks.zip bs) || !s.canWrite e2 (ls.map fun k => (k, 0)) then none
          else some (done (((s.recordBiases (t1 ++ t2)).engineWrite e1 (ks.zip bs)).engineWrite e2 (ls.zip [BitVec.ofNat 8 sc])))
      else put s (dst + r.next * w) (bytesOfToken n.tin e) done

/-- Every sink that goes on takes the next token. -/
def GraphRun.commitAll (r : GraphRun) (s : State) (die port slot : Nat) (outs : List Flowing) : Option (State × GraphRun) :=
  r.sinks.foldl (fun acc p =>
    match acc with
    | none => none
    | some (s, q) =>
      if (SMap.get? q.stopped p.1).isSome then some (s, q)
      else q.commit s die port slot p ((outs[p.2.in0]?).getD .wait)) (some (s, r))

/-- Every sink has its last token or its first fault. -/
def GraphRun.over (r : GraphRun) : Bool :=
  decide (r.ntok ≤ r.next) || r.sinks.all fun p => (SMap.get? r.stopped p.1).isSome

/-- GRAPH_TOKEN_COMMIT: the next SEQ passes through the nodes, and every sink commits it. -/
def execGraphTokenCommit (die port slot : Nat) (s : State) : Step :=
  let x := (s.die die).graph port slot
  match x.run with
  | none => .next s
  | some r =>
    if r.over then .next s
    else
      let stamp := s.stamp
      let o := r.outputs { s with stamp := s.stamp + 512 } die port slot stamp
      match r.commitAll o.1 die port slot o.2 with
      | none => .next s
      | some (s, r) =>
        .next (s.updGraph die port slot fun x =>
          { x with run := some { r with next := r.next + 1 }, held := x.held.filter fun t => !r.takes t || decide (t.2.seq ≠ r.next) })

/-- What the link lost of the tokens a SINKL had handed to it. -/
def GraphRun.lostFault (r : GraphRun) : List (Nat × Nat) :=
  match r.lost with
  | some q => if q < r.next && r.sinks.any (fun p => decide (p.2.kind = 7)) then [(q, cLINK)] else []
  | none => []

/-- The oldest fault among the sinks. -/
def GraphRun.firstFault (r : GraphRun) : Option (Nat × Nat) :=
  bestBy (fun a b => decide (a.1 < b.1)) (r.stopped.map Prod.snd ++ r.lostFault)

/-- COLLECTIVE_END: STATUS is written as a release once every committed write is performed, and the lines are released. -/
def execCollectiveEnd (die port slot : Nat) (s : State) : Step :=
  let me := Eng.graph die port slot
  match ((s.die die).graph port slot).run with
  | none => .next s
  | some r =>
    if !r.over then .next s
    else
      let v := match r.firstFault with
        | some (q, c) => statusWord true c r.flg q
        | none => statusWord false 0 r.flg r.ntok
      match r.putStatus (s.dropAll me) me v with
      | none => .next s
      | some s => .next (s.updGraph die port slot fun x => { x with run := none, held := x.held.filter fun t => !r.takes t || decide (r.ntok ≤ t.2.seq) })

end Sys2Proof.Machine
end

