-- ==== Sys2Proof/Machine/Package.lean ====
section
/-! DEFINITION. What the outside world does to the package as a whole: reset, the loss of power, and the host's accesses to
device memory (R9, R125, R241). -/

namespace Sys2Proof.Machine

/-- Memory that is not the device's own: the CXL tier and the host's (R9). -/
def outside (k : Nat) : Bool := match (if isSpad k then Range.control else rangeOf k) with | .cxl _ => true | .host => true | _ => false

/-- Every state of the device at its reset value. The CXL tier and host memory keep their bytes, the fused floors are fuses,
and the model's agenda and counter go on. -/
def State.cleared (s : State) (powered : Bool) : State :=
  { State.reset with
    powered := powered
    agenda := s.agenda
    stamp := s.stamp
    mem := s.mem.filter fun c => outside c.1
    poison := s.poison.filter fun p => outside (32 * p.1)
    firm := { Firm.reset with versions := s.firm.versions } }

/-- PACKAGE_RESET (R125). -/
def execPackageReset (s : State) : Step := .next (s.cleared true)

/-- POWER_REMOVAL (R9). -/
def execPowerRemoval (s : State) : Step := .next (s.cleared false)

/-- A key the host reaches coherently through the host port: DRAM, the CXL tier, and host pages in device bias (R241). -/
def State.hostReaches (s : State) (k : Nat) : Bool :=
  s.hasMemory k
  && match rangeOf k with
    | .dram _ => true
    | .cxl _ => true
    | .host => (match SMap.get? s.bias (k / 4096) with | some .device => true | _ => false)
    | _ => false

/-- Memory of the host's own, in host bias or never touched by the device: the host needs no port to reach it (R241). -/
def State.hostOwn (s : State) (k : Nat) : Bool :=
  isHost k && Config.hostAnswers (homeOffset k) && (match SMap.get? s.bias (k / 4096) with | none => true | some .host => true | _ => false)

/-- HOST_MEMORY_ACCESS: it waits for lines that an engine owns. A read takes nothing from the package but fires an armed error;
its bytes go to the host. -/
def execHostMemoryAccess (write : Bool) (pa : BitVec 52) (bytes : List Byte) (s : State) : Step :=
  let keys := (List.range bytes.length).map fun i => unalias (pa.toNat + i)
  let mayReach (k : Nat) : Bool := s.hostOwn k || (s.hostUp && s.hostReaches k && (s.owner k).isNone && !s.moving k)
  if !keys.all mayReach then .next s
  else if !write then .next (s.fireKeys 0 false keys).1
  else if !s.canWrite false (keys.zip bytes) then .next s
  else .next (s.engineWrite false (keys.zip bytes))

end Sys2Proof.Machine
end

