-- ==== Sys2Proof/Machine/ControlSpace.lean ====
section
/-! DEFINITION. Device control space: which words are at which addresses, who may reach them, what they read, and what writing
them does (R5, R26, R66, R170, R191, R247, R248, R277, R284, R294, R300, R306, R311, R332, R345, R348, R349, R379, R380, R397, R419,
R422 to R428). -/

namespace Sys2Proof.Machine

/-! ## Addresses (R26, R66) -/

/-- The words of a quad's window. -/
inductive QuadReg
  | bundle (e b : Nat) | entry (e : Nat) | vshare | mxshare | wdctl | dbgctl | retctl | stash | halted (c i : Nat)
  deriving DecidableEq, Repr

/-- The 8-byte words of control space. -/
inductive CtlReg
  | quad (q : Nat) (r : QuadReg)
  /-- RETCTL of a physical quad that has been retired (R426). -/
  | retired
  | waypart (die sl : Nat) | genctl | genst | scrub (die : Nat)
  | qctl (die : Nat)
  | dispctl (die layer : Nat) | access (die i : Nat) | qmask (die dom i : Nat) | dctl (die dom : Nat) | dstat (die dom : Nat)
  | ctxdesc (n : Nat) | ctxctl (n : Nat) | object (i : Nat)
  | lnkst (die port : Nat) | lnkctl (die port : Nat) | gheader (die port slot : Nat) | gnode (die port slot node : Nat)
  | doorbell (die port slot : Nat) | linkcfg (die : Nat)
  | pwrctl | tctl (die : Nat) | regmax (die : Nat) | ramptbl (die : Nat) | errcnt (die : Nat) | erraddr (die : Nat) | account (i : Nat)
  | fwctl | identity (i : Nat) | complete | report (i : Nat)
  deriving DecidableEq, Repr

/-- The quad of a layer of a die that a physical number names, or whether that quad has been retired. -/
def State.quadByPhys (s : State) (die k phys : Nat) : Option (Nat ⊕ Unit) :=
  let qs := (List.range (quadsIn k)).map fun i => die * 340 + layerBase k / 4 + i
  match qs.find? fun q => decide (s.physOf q = phys) with
  | some q => some (.inl q)
  | none => if qs.any fun q => (s.quad q).oldPhys.contains phys then some (.inr ()) else none

def quadReg (q wo : Nat) : Option QuadReg :=
  let r := wo % 0x100
  if wo < 0x4000 then (if r < 0x80 then some (.bundle (wo / 0x100) (r / 8)) else if r = 0x80 then some (.entry (wo / 0x100)) else none)
  else if wo = 0x4000 then some .vshare
  else if wo = 0x4008 then (if quadCol q % 2 = 0 then some .mxshare else none)
  else if wo = 0x4010 then some .wdctl
  else if wo = 0x4018 then some .dbgctl
  else if wo = 0x4020 then some .retctl
  else if wo = 0x4028 then some .stash
  else if 0x100000 ≤ wo ∧ wo < 0x180000 then some (.halted ((wo - 0x100000) / 0x20000) ((wo - 0x100000) % 0x20000 / 8))
  else none

/-- A port's words (R379). -/
def linkReg (die port o : Nat) : Option CtlReg :=
  if !portExists die port then none
  else if o = 0 then some (.lnkst die port)
  else if o = 8 then some (.lnkctl die port)
  else if port < 4 then none
  else if 0x100 ≤ o ∧ o < 0x900 then
    let i := o % 0x100 / 8
    if i = 0 then some (.gheader die port (o / 0x100 - 1)) else if i ≤ 16 then some (.gnode die port (o / 0x100 - 1) (i - 1)) else none
  else if 0x900 ≤ o ∧ o < 0x940 then some (.doorbell die port ((o - 0x900) / 8))
  else none

/-- The word at an 8-byte aligned control-space address; none where the offset is reserved. R26 names bits 44 and 43:40 and says
nothing of bits 47:45: an address with one of them set is reserved (DESIGN CHOICE, log entry 72). -/
def State.ctlReg (s : State) (pa : Nat) : Option CtlReg :=
  let o := pa - 0xF000000000000
  let die := o / 2 ^ 44
  let cls := (o >>> 40) % 16
  let c := o % 2 ^ 40
  if 2 ≤ die then none
  else if cls = 0 then
    let k := (c >>> 36) % 4
    if c / 2 ^ 38 ≠ 0 ∨ (c >>> 33) % 8 ≠ 0 then none
    else
      match s.quadByPhys die k ((c >>> 24) % 512) with
      | some (.inl q) => (quadReg q (c % 2 ^ 24)).map (CtlReg.quad q)
      | some (.inr _) => if c % 2 ^ 24 = 0x4020 then some .retired else none
      | none => none
  else if cls = 1 then
    if c < 0x20000 then (if c % 0x1000 = 0 then some (.waypart die (c / 0x1000)) else none)
    else if c = 0x100000 then (if die = 0 then some .genctl else none)
    else if c = 0x100008 then (if die = 0 then some .genst else none)
    else if c = 0x100010 then some (.scrub die)
    else none
  else if cls = 2 then (if c = 0 then some (.qctl die) else none)
  else if cls = 3 then
    if c < 0x20 then some (.dispctl die (c / 8))
    else if 0x1000 ≤ c ∧ c < 0x1800 then some (.access die ((c - 0x1000) / 8))
    else if 0x80000 ≤ c ∧ c < 0x81000 then
      let n := (c - 0x80000) / 0x80
      let r := (c - 0x80000) % 0x80
      if r < 0x40 then some (.qmask die n (r / 8)) else if r = 0x40 then some (.dctl die n) else if r = 0x48 then some (.dstat die n) else none
    else if 0x100000 ≤ c ∧ c < 0x110000 then
      let n := (c - 0x100000) / 16
      if die ≠ 0 ∨ n = 0 then none else if c % 16 = 0 then some (.ctxdesc n) else some (.ctxctl n)
    else if 0x200000 ≤ c ∧ c < 0x200030 then some (.object ((c - 0x200000) / 8))
    else none
  else if cls = 4 then (if c = 0xF0000 then some (.linkcfg die) else if c < 0x90000 then linkReg die (c / 0x10000) (c % 0x10000) else none)
  else if cls = 5 then
    if c = 0 then (if die = 0 then some .pwrctl else none)
    else if c = 0x10 then some (.tctl die)
    else if c = 0x18 then some (.regmax die)
    else if c = 0x20 then some (.ramptbl die)
    else if c = 0x40 then some (.errcnt die)
    else if c = 0x48 then some (.erraddr die)
    else if die = 0 ∧ 0x1000 ≤ c ∧ c < 0x1200 then some (.account ((c - 0x1000) / 8))
    else none
  else if cls = 6 ∧ die = 0 then
    if c = 0 then some .fwctl
    else if 0x100 ≤ c ∧ c < 0x168 then some (.identity ((c - 0x100) / 8))
    else if c = 0x2F8 then some .complete
    else if 0x300 ≤ c ∧ c < 0x430 then some (.report ((c - 0x300) / 8))
    else none
  else none

/-- Reaching a word needs privilege: the context table and a halted core's state always; the rest for writes, but words whose
writes have no effect or that strands of every privilege may write (R26, R248, R424). -/
def CtlReg.guarded (write : Bool) : CtlReg → Bool
  | .ctxdesc _ | .ctxctl _ | .quad _ (.halted ..) => true
  | .object _ | .doorbell .. | .account _ | .lnkst .. | .retired | .genst | .errcnt _ | .erraddr _ | .identity _ | .complete
  | .report _ => false
  | _ => write

/-! ## Reads -/

def quadRegWord (s : State) (q : Nat) : QuadReg → Word
  | .bundle e b => (((SMap.get (s.quad q).store { image := [], desc := 0 } e).image)[b]?).getD 0
  | .entry e => (SMap.get (s.quad q).store { image := [], desc := 0 } e).desc
  | .vshare => (s.quad q).vshare
  | .mxshare => (s.quad q).mxshare
  | .wdctl => BitVec.ofNat 64 (s.quad q).wd
  | .dbgctl => BitVec.ofNat 64 ((s.halted q).toNat * 2 + (s.quad q).dbg.toNat)
  | .retctl => BitVec.ofNat 64 ((s.quad q).retSt * 4)
  | .stash => BitVec.ofNat 64 ((s.quad q).stashErr <<< 60 + (s.quad q).spad <<< 32 + (s.quad q).stash)
  | .halted c i => s.haltedRead q c i

def scrubWord (d : Die) : Word := BitVec.ofNat 64 (d.scrubBusy.toNat <<< 63 + d.scrubRes <<< 60) ||| d.scrubPa

/-- DSTAT (R311). -/
def State.dstat (s : State) (die n : Nat) : Word :=
  let d := (s.die die).domain n
  let st := match d.st with
    | .free => 0
    | .broken => 3
    | .armed => if s.gathering die n then 2 else 1
  BitVec.ofNat 64 (d.err <<< 32 + st <<< 29 + (decide (d.st ≠ .free) && s.frozen die n).toNat <<< 28 + d.arrived.length <<< 16 + d.round)

/-- Eight bytes of a list. -/
def wordAt (bs : List Byte) (i : Nat) : Word := BitVec.ofNat 64 (leValue ((bs.drop (8 * i)).take 8))

/-- The public key in uncompressed form (R428). -/
def identityBytes : List Byte := 4 :: (beBytes 48 identityPoint.x ++ beBytes 48 identityPoint.y)

/-- What a word reads. ARMG and ARMP are their loads' own (R277). -/
def State.ctlRead (s : State) : CtlReg → Word
  | .quad q r => quadRegWord s q r
  | .retired => 8
  | .waypart d i => waypartWord ((s.die d).slice i)
  | .genctl => genctlWord s.gen
  | .genst => genstWord s.gen
  | .scrub d => scrubWord (s.die d)
  | .qctl d => (s.die d).qctl
  | .dispctl d k => setBit ((s.die d).dispctl' k) 0 (s.pend d k)
  | .access d i => SMap.get (s.die d).access 0 i
  | .qmask d n i => (((s.die d).domain n).qmask >>> (64 * i)).setWidth 64
  | .dctl d n => setBit ((s.die d).domain n).dctl 63 (decide (((s.die d).domain n).st ≠ .free))
  | .dstat d n => s.dstat d n
  | .ctxdesc n => (s.ctx n).desc
  | .ctxctl n => ctxctlWord (s.ctx n)
  | .object i => if 2 ≤ i then s.myHandle (i - 1) else 0
  | .lnkst d p => lnkstWord p (s.linkOf d p)
  | .lnkctl d p => lnkctlWord (s.linkOf d p)
  | .gheader d p g => ((s.die d).graph p g).header
  | .gnode d p g n => SMap.get ((s.die d).graph p g).nodes 0 n &&& 0xFFFFFFC0FFFFFFFF
  | .doorbell .. => 0
  | .linkcfg d => (s.die d).linkcfg
  | .pwrctl => pwrctlWord s.power
  | .tctl d => (s.die d).tctl
  | .regmax d => (s.die d).regmax
  | .ramptbl d => (s.die d).ramptbl
  | .errcnt d => BitVec.ofNat 64 ((s.die d).errcntUe <<< 32 + (s.die d).errcntCe)
  | .erraddr d => (s.die d).erraddr
  | .account i => BitVec.ofNat 64 (SMap.get s.acct0 0 i)
  | .fwctl => fwctlWord s.firm
  | .identity i => wordAt identityBytes i
  | .complete => BitVec.ofNat 64 s.firm.complete.toNat
  | .report i => wordAt s.firm.report i

/-! ## Writes -/

def State.writeQuadReg (s : State) (q : Nat) (v : Word) : QuadReg → Step
  | .bundle e b =>
    .next (s.updQuad q fun x =>
      let c := SMap.get x.store { image := [], desc := 0 } e
      let im := (List.range 16).map fun i => if i = b then v else (c.image[i]?).getD 0
      { x with store := SMap.set x.store e { c with image := im } })
  | .entry e =>
    .next (s.updQuad q fun x =>
      let c := SMap.get x.store { image := [], desc := 0 } e
      { x with store := SMap.set x.store e { c with desc := v &&& 0x800000000000000F } })
  | .vshare => .next (s.updQuad q fun x => { x with vshare := v &&& 0xFFFF })
  | .mxshare => .next (s.updQuad q fun x => { x with mxshare := v &&& 0xFFFFFFFF })
  | .wdctl => .next (s.updQuad q fun x => { x with wd := fld v 31 0 })
  | .dbgctl => if bitAt v 0 then execDebugHalt q s else execDebugResume q s
  | .retctl => if bitAt v 0 then execQuadRetire q s else .next s
  | .stash => execStashcfgImageWrite q v s
  | .halted c i => .next (s.haltedWrite q c i v)

/-- LNKCTL: LSEL and PEER, then the command. The lanes that pass a restoration are the line's: a free value (log entry 23). -/
def State.writeLnkctl (s : State) (d p : Nat) (v : Word) : Step :=
  let s := s.updLink d p fun l => { l with lsel := BitVec.ofNat 32 (fld v 47 32), peer := BitVec.ofNat 16 (fld v 31 16) }
  match fld v 2 0 with
  | 1 => execLinkEnable d p s
  | 2 => execLinkDisable d p s
  | 3 => execLinkRetireLanes d p s
  | 4 => execLinkRestoreLanes d p (Config.openWord s.stamp).toNat { s with stamp := s.stamp + 1 }
  | _ => .next s

/-- FWCTL: PA, and a unit starts verification. -/
def State.writeFwctl (s : State) (v : Word) : Step :=
  match fld v 1 0 with
  | 1 => execFwLoadArbiter v s
  | 2 => execFwLoadDispensers v s
  | 3 => execFwLoadLink v s
  | _ => .next { s with firm := { s.firm with pa := pageField v } }

/-- A write of a whole word. -/
def State.ctlWrite (s : State) (v : Word) : CtlReg → Step
  | .quad q r => s.writeQuadReg q v r
  | .waypart d i => execWaypartWrite d i v s
  | .genctl => execGenctlWrite v s
  | .scrub d => execScrubStart d v s
  | .qctl d => .next (s.updDie d fun x => { x with qctl := v &&& 0xFFFFFFFF })
  | .dispctl d k => .next (s.updDie d fun x => { x with dispctl := SMap.set x.dispctl k (v &&& 0xFFFF0F00) })
  | .access d i => .next (s.updDie d fun x => { x with access := SMap.set x.access i (v &&& 0xFFF0FFFF0000FFFF) })
  | .qmask d n i => execQmaskWrite d n i v s
  | .dctl d n => if bitAt v 63 then execDomainArm d n v s else execDomainDisarm d n v s
  | .ctxdesc n => execCtxdescWrite (BitVec.ofNat 12 n) v s
  | .ctxctl n => s.ctxCommand n (fld v 3 0)
  | .lnkctl d p => s.writeLnkctl d p v
  | .gheader d p g => execGraphHeaderWrite d p g v s
  | .gnode d p g n => execGraphNodeWrite d p g n v s
  | .linkcfg d => .next (s.updDie d fun x => { x with linkcfg := v &&& 0xFFFFFFFF })
  | .pwrctl => execPwrctlWrite v s
  | .tctl d => execTctlWrite d v s
  | .regmax d => .next (s.updDie d fun x => { x with regmax := v &&& 0xFFFF })
  | .ramptbl d => execRamptblWrite d v s
  | .fwctl => s.writeFwctl v
  | .retired | .genst | .dstat .. | .object _ | .lnkst .. | .doorbell .. | .errcnt _ | .erraddr _ | .account _ | .identity _ | .complete
  | .report _ => .next s

/-- REGISTER_WRITE: the host, which is always privileged, writes an aligned word of control space. -/
def execRegisterWrite (pa : BitVec 52) (v : Word) (s : State) : Step :=
  if isControl pa.toNat && decide (pa.toNat % 8 = 0) then
    match s.ctlReg pa.toNat with
    | some r => s.ctlWrite v r
    | none => .next s
  else .next s

/-- The value a store of n bytes at an address leaves in its word: a half of it keeps the other half. -/
def mergeWord (old : Word) (pa n : Nat) (v : Word) : Word :=
  if n = 8 then v else if pa % 8 = 4 then setFld old 63 32 v.toNat else setFld old 31 0 v.toNat

end Sys2Proof.Machine
end

