-- ==== Sys2Proof/Machine/LoadStore.lean ====
section
/-! DEFINITION. Loads, stores, hints, atomics, fences, and how accesses of cores are performed: the migration of strands, the die
order point, homes, and responses (R135 to R150, R230 to R246, R260, R261, R389, R390, R429). -/

namespace Sys2Proof.Machine

/-! ## Migration (R260, R261) -/

/-- A key is homed on the other die, as the host window is for die 1, or lies in the CXL tier (R21, R260). -/
def remoteHome (die k : Nat) : Bool :=
  match (if isSpad k then Range.hole else rangeOf k) with
  | .dram d => decide (d ≠ die)
  | .cxl _ => true
  | .host => decide (die ≠ 0)
  | _ => false

/-- The address for whose sake an access of core g migrates its strand. -/
def State.migrateKey (s : State) (g : Nat) (tr : List (Nat × Xlated)) : Option Nat :=
  let c := s.core g
  if c.arch.meBit && !c.arch.tm && c.micro.isNone && !c.linkHeld then
    tr.findSome? fun p => if p.2.mig && remoteHome (dieOf g) p.2.pa then some p.2.pa else none
  else none

/-- The bundle at work is a suspension point at its own address, and its record goes to the quad beside the home slice. -/
def State.migrate (s : State) (k : Nat) : Step :=
  let s := s.closeBody s.cur
  match s.suspendWait s.cur with
  | some h => s.hold h
  | none =>
    .next ((s.payXl s.cur s.me.arch.pc).suspendTo s.cur s.me.arch.pc fun s t r =>
      s.enqueue t.ctx (homeDie k) t.layer t.slot { r with afv := true, afq := quadIdx (quadBeside (homeDie k) t.layer (homeSlice k)) } none)

/-! ## Loads and stores (R139, R141, R142) -/

def ldValue (k : LdKind) (bs : List Byte) : Word :=
  if LdKind.sx k then sextWord (8 * LdKind.bytes k) (leValue bs) else BitVec.ofNat 64 (leValue bs)

/-- The first quarantined byte of a store, or the first poisoned byte of a load. -/
def State.poisonAt (s : State) (g : Nat) (write : Bool) (keys : List Nat) : Option Nat :=
  (List.range keys.length).find? fun i =>
    let k := (keys[i]?).getD 0
    if write then blockIs s k .quarantined else s.poisonSeen g k

/-- What precedes every LD, ST, LDP and STP: alignment, the checks of an access, control space, poison, migration. -/
def State.dataAccess (s : State) (ea : Word) (n : Nat) (write aligned ctl : Bool) (onCtl : State → Nat → Step)
    (onMem : State → List (Nat × Xlated) → List Nat → Step) : Step :=
  if aligned && decide (ea.toNat % n ≠ 0) then trapStep s cALIGN ea
  else
    let ctl := ctl && decide (4 ≤ n) && decide (ea.toNat % n = 0)
    Got.step (s.access s.cur ea n (if write then .write else .read) [if write then 3 else 2] (if ctl then .allow else .align)) fun s tr =>
      let keys := keysOf tr ea.toNat n
      if isControl (keys.headD 0) then onCtl s (keys.headD 0)
      else
        match (if write then s.ownWait s.cur none keys else s.readWait s.cur keys) with
        | some c => s.hold c
        | none =>
          match s.poisonAt s.cur write keys with
          | some i => trapStep s cPOISON (ea + BitVec.ofNat 64 i)
          | none =>
            match s.migrateKey s.cur tr with
            | some k => s.migrate k
            | none => onMem s tr keys

/-- A load of control space (R139, R277). -/
def State.ctlLoad (s : State) (d : Reg) (k : LdKind) (pa : Nat) : Step :=
  let half (v : Word) : Word :=
    if LdKind.bytes k = 8 then v else ldValue k ((leBytes 8 v.toNat).drop (pa % 8) |>.take 4)
  match s.ctlReg (pa / 8 * 8) with
  | none => if s.accessesDone s.cur then .next (s.pushLd d 0 pa) else s.hold cMEM
  | some r =>
    if r.guarded false && !s.me.arch.pl then privStep s
    else if !s.accessesDone s.cur then s.hold cMEM
    else
      match r, decide (LdKind.bytes k = 8) with
      | .object 0, true => s.armInto d false
      | .object 1, true => s.armInto d true
      | _, _ => .next (s.pushLd d (half (s.ctlRead r)) pa)

/-- A store to control space (R139, R379). -/
def State.ctlStore (s : State) (ea v : Word) (n pa : Nat) : Step :=
  match s.ctlReg (pa / 8 * 8) with
  | none => if s.accessesDone s.cur then .next s else s.hold cMEM
  | some r =>
    if r.guarded true && !s.me.arch.pl then privStep s
    else if !s.accessesDone s.cur then s.hold cMEM
    else
      match r, decide (n = 8) with
      | .doorbell die port slot, true => s.ring die port slot ea v
      -- the upper half of CTXCTL holds no field (R5, R248)
      | .ctxctl _, false => if pa % 8 = 4 then .next s else s.ctlWrite (mergeWord (s.ctlRead r) pa n v) r
      -- MODE is in the upper half of PWRCTL (R397)
      | .pwrctl, false => .next (s.putPwrctl (mergeWord (s.ctlRead r) pa n v) (decide (pa % 8 = 4)))
      | _, _ => s.ctlWrite (mergeWord (s.ctlRead r) pa n v) r

/-- A load of memory, its results for its registers. Where it crosses a line its two parts are performed in two cycles, the first
of which it holds the issue point (R139, log entry 67). -/
def State.memLoad (s : State) (ea : Word) (n : Nat) (o : MemOrd × Scope) (keys : List Nat) (res : List Byte → List (Nat × Word)) : Step :=
  if MemOrd.isAcq o.1 && s.acquireWait s.cur o.2 keys then s.hold cMEM
  else
    let done (s : State) (bs : List Byte) (pa : Nat) : Step :=
      .next ((s.extraCycles ((pagesOf ea.toNat n).length - 1)).pushLoad
        { dsts := res bs, atomic := false, held := none, since := s.clock, pa := pa })
    let m := 32 - ea.toNat % 32
    if n ≤ m then Got.step (s.coreRead s.cur ea n .read .align) fun s r => done s r.1 r.2
    else
      match s.me.arch.wait.part with
      | none =>
        Got.step (s.coreRead s.cur ea m .read .align) fun s r => (s.updWait fun w => { w with part := some r.1 }).hold cMEM
      | some bs =>
        Got.step (s.coreRead s.cur (ea + BitVec.ofNat 64 m) (n - m) .read .align) fun s r => done s (bs ++ r.1) r.2

def State.memStore (s : State) (ea : Word) (bs : List Byte) (o : MemOrd × Scope) : Step :=
  Got.step (s.coreWrite s.cur ea bs (if MemOrd.isRel o.1 then some o.2 else none) .align) fun s _ =>
    .next (s.extraCycles ((pagesOf ea.toNat bs.length).length - 1))

/-- LD. -/
def execLd (d : Reg) (k : LdKind) (m : MemOp) (s : State) : Step :=
  let n := LdKind.bytes k
  let ea := MemOp.ea s.me n m
  let o := MemOp.ord m
  s.dataAccess ea n false (decide (o.1 ≠ .none)) true (fun s pa => s.ctlLoad d k pa)
    fun s _ keys => s.memLoad ea n o keys fun bs => [(d.toNat, ldValue k bs)]

/-- ST. -/
def execSt (d : Reg) (z : Size) (m : MemOp) (s : State) : Step :=
  let n := Size.bytes z
  let ea := MemOp.ea s.me n m
  let o := MemOp.ord m
  s.dataAccess ea n true (decide (o.1 ≠ .none)) true (fun s pa => s.ctlStore ea (s.me.x d) n pa)
    fun s _ _ => s.memStore ea (leBytes n (s.me.x d).toNat) o

def pairHalf (dbl : Bool) : Nat := if dbl then 8 else 4

/-- LDP: both registers from one access. -/
def execLdp (d : Reg) (dbl : Bool) (m : MemOp) (s : State) : Step :=
  let n := pairHalf dbl
  let ea := MemOp.ea s.me (2 * n) m
  s.dataAccess ea (2 * n) false true false (fun s _ => trapStep s cALIGN ea)
    fun s _ keys => s.memLoad ea (2 * n) (MemOp.ord m) keys fun bs =>
      [(d.toNat, BitVec.ofNat 64 (leValue (bs.take n))), ((d + 1).toNat, BitVec.ofNat 64 (leValue (bs.drop n)))]

/-- STP: both registers by one access. -/
def execStp (d : Reg) (dbl : Bool) (m : MemOp) (s : State) : Step :=
  let n := pairHalf dbl
  let ea := MemOp.ea s.me (2 * n) m
  s.dataAccess ea (2 * n) true true false (fun s _ => trapStep s cALIGN ea)
    fun s _ _ => s.memStore ea (leBytes n (s.me.x d).toNat ++ leBytes n (s.me.x (d + 1)).toNat) (MemOp.ord m)

/-! ## Hints (R143, R144) -/

/-- PREF changes nothing that programs can see. -/
def execPref (_k : BitVec 2) (_m : MemOp) (s : State) : Step := .next s

/-- CFLUSH: translated as a read, then an entry of the store buffer, which changes no value. -/
def execCflush (_k : FlushLevel) (m : MemOp) (s : State) : Step :=
  let ea := MemOp.ea s.me 32 m
  if s.walkHeld ea.toNat .read then s.hold cMEM
  else
  match s.translate s.cur ea.toNat .read with
  | (s, .error e) => .next (s.trap e ea)
  | (s, .ok x) =>
    if isControl x.pa then trapStep s cALIGN ea
    else if isSpad x.pa || (apertureOf x.pa).isSome then .next s
    else
      match s.sbWait s.cur 1 with
      | some c => s.hold c
      | none => .next (s.pushStore s.cur { bytes := [], words := [], rel := none, awaits := none, flush := true, exempt := false })

/-! ## Atomics (R147 to R149, R235) -/

/-- The request's number among the strand's waits: its bundle, and its place in a microprogram. -/
def Core.amoKey (c : Core) : Nat := c.arch.pc.toNat * 32 + c.arch.mop

/-- What an atomic waits for before it is performed or sent: the store buffer, VLDs and VSTs, and what its annotation orders. -/
def State.amoWait (s : State) (g : Nat) (o : MemOrd × Scope) (r : AmoReq) : Bool :=
  let c := s.core g
  !c.sb.isEmpty || !c.vmemDone || (s.dual g && !(s.core (g / 2 * 2)).pair.journal.isEmpty)
  || (MemOrd.isAcq o.1 && s.acquireWait g o.2 r.keys)
  || (MemOrd.isRel o.1 && !s.storesDone g o.2)

/-- An atomic whose site no link separates from the core, performed at once; across a link its request is sent, and its
bundle waits for the response. -/
def State.startAmo (s : State) (d : Reg) (o : MemOrd × Scope) (exempt : Bool) (r : AmoReq) : Step :=
  let g := s.cur
  if s.amoWait g o r then s.hold cMEM
  else if (linksTo (dieOf g) r.pa).isEmpty then
    if !s.siteFree g exempt r then s.hold cMEM
    else
      let f := s.fireKeys (dieOf g) true r.keys
      if f.2 then .next (f.1.contain g 1 0 r.pa)
      else if r.keys.any (f.1.poisonSeen g) then trapStep f.1 cPOISON r.ea
      else
        let w := f.1.performAmo exempt r
        .next (w.1.pushLoad { dsts := [(d.toNat, amoResult r.t w.2)], atomic := true, held := none, since := s.clock, pa := r.pa })
  else
    let key := s.me.amoKey
    ((s.updMe fun c => c.setAmo key (.sent r)).pushLoad
      { dsts := [], atomic := true, held := some key, since := s.clock, pa := r.pa }).hold cMEM

/-- The bundle of an atomic whose request has been sent: its response has come, or it waits. What the link or the target answered
holds, whatever has become of the translation and the window since (R350, R382). -/
def State.amoAnswer (s : State) (d : Reg) (ea : Word) (t : IType) (tokened : Bool) (key : Nat) (a : AmoSt) : Step :=
  match a with
  | .got old => .next ((s.updMe fun c => c.delAmo key).pushXI d (amoResult t old))
  | .refused => trapStep (s.updMe fun c => c.delAmo key) cPROT ea
  | .lost =>
    let s := s.updMe fun c => { c.delAmo key with linkPc := if tokened then some c.arch.pc else c.linkPc }
    trapStep s cLINK ea
  | .sent _ => s.hold cMEM

/-- An atomic meets its target: engines, poison, migration, moving pages, and then it starts. -/
def State.amoTarget (s : State) (d : Reg) (o : MemOrd × Scope) (x : Xlated) (r : AmoReq) : Step :=
  let g := s.cur
  match s.ownWait g none r.keys with
  | some c => s.hold c
  | none =>
    if r.keys.any fun k => s.poisonSeen g k || blockIs s k .quarantined then trapStep s cPOISON r.ea
    else
      match s.migrateKey g [(r.ea.toNat, x)] with
      | some k => s.migrate k
      | none =>
        if s.window x.pa = .waits ∨ s.moving x.pa = true then s.hold cMEM
        else (s.recordBias x.biasd x.pa).startAmo d o x.snapx r

/-- AMO and CAS. -/
def State.atomic (s : State) (d : Reg) (ea : Word) (t : IType) (op : Option AmoOp) (b dv : Word) (tok : Option Nat)
    (o : MemOrd × Scope) : Step :=
  let g := s.cur
  if ea.toNat % (t.width / 8) ≠ 0 then trapStep s cALIGN ea
  else
    match s.me.amoSt s.me.amoKey with
    | some a => s.amoAnswer d ea t tok.isSome s.me.amoKey a
    | none =>
      match s.me.breakHit ea.toNat (t.width / 8) 2 <|> s.me.breakHit ea.toNat (t.width / 8) 3 with
      | some ad => trapStep s cBREAK ad
      | none =>
        if s.walkHeld ea.toNat .atomic then s.hold cMEM
        else
          match s.translate g ea.toNat .atomic with
          | (s, .error e) => .next (s.trap e ea)
          | (s, .ok x) =>
            let r : AmoReq := { ea := ea, pa := x.pa, t := t, op := op, b := b.toNat, d := dv.toNat, tok := tok }
            if !amoSupported x.pa r then trapStep s cATOM ea
            else if !s.hasMemory x.pa || !hostPerforms x.pa r then trapStep s cPROT ea
            else if s.window x.pa = .shut then trapStep s cSPAD ea
            else s.amoTarget d o x r

/-- x[t]<31:0> (R149). -/
def State.token (s : State) (t : Option Reg) : Option Nat := t.map fun r => fld (s.me.x r) 31 0

/-- AMO. -/
def execAmo (d a b : Reg) (t : IType) (op : AmoOp) (c : AtomCtl) (s : State) : Step :=
  s.atomic d (s.me.x a + c.disp.signExtend 64) t (some op) (s.me.x b) (s.me.x d) (s.token c.tok) (c.ord, c.scope)

/-- CAS: without a literal, x[a] with no ordering and no token. -/
def execCas (d a b : Reg) (t : IType) (c : Option AtomCtl) (s : State) : Step :=
  match c with
  | none => s.atomic d (s.me.x a) t none (s.me.x b) (s.me.x d) none (.none, .core)
  | some c => s.atomic d (s.me.x a + c.disp.signExtend 64) t none (s.me.x b) (s.me.x d) (s.token c.tok) (c.ord, c.scope)

/-! ## FENCE (R150, R429) -/

/-- Stores of the core to host-bias pages that the host has still to receive: no die order keeps them before a release (R233,
R236). -/
def State.hostOut (s : State) (g : Nat) : Bool := s.hostStores g || (s.core g).sb.any fun e => e.bytes.any fun c => s.hostBias c.1

def State.fenceWait (s : State) (g : Nat) (o : FenceOrd) (sc : Scope) : Bool :=
  let c := s.core g
  match o with
  | .acq => !c.vmemDone || (Scope.wide sc && !c.loadsDone)
  | .rel => (Scope.wide sc && !(c.loadsDone && s.storesDone g sc)) || (decide (sc ≠ .core) && s.hostOut g)
  | .ar => !c.vmemDone || (Scope.wide sc && !(c.loadsDone && s.storesDone g sc)) || (decide (sc ≠ .core) && s.hostOut g)
  | .sc => !(c.vmemDone && c.loadsDone && s.storesDone g sc)
  | .eng => !c.enginesDone

def execFence (o : FenceOrd) (sc : Scope) (s : State) : Step := if s.fenceWait s.cur o sc then s.hold cMEM else .next s

/-! ## Performing accesses (R232, R233, R429) -/

/-- A release store stays before the die's order point, where its die would see it, while an earlier store of its core is on its way
to a host-bias page (R236, R237). -/
def State.relHeld (s : State) (g : Nat) (e : SbEntry) : Bool :=
  (match e.rel with | some sc => decide (sc ≠ .core) | none => false) && s.hostStores g

/-- The oldest store-buffer entry of a core passes its die's order point. A line that another engine has come to own, and a page
or scratchpad that is moving, keep it. -/
def State.passOrderPoint (s : State) (g : Nat) : State :=
  match (s.core g).sb with
  | [] => s
  | e :: rest =>
    let keys := SMap.keys e.bytes
    if e.awaits.isSome || (s.ownWait g none keys).isSome || keys.any s.moving || s.relHeld g e then s
    else
      let s := s.updCore g fun c => { c with sb := rest }
      if e.flush then s else s.updDie (dieOf g) fun d => { d with past := d.past ++ [{ core := g, ent := e }] }

/-- What a release store follows to its home: at .pkg and .sys every earlier store of its die (R233), and on a host-bias page the
earlier stores of its core to the host window, whatever its scope (R241). -/
def State.relReady (s : State) (before : List PastStore) (p : PastStore) : Bool :=
  match p.ent.rel with
  | none => true
  | some sc =>
    (!Scope.wide sc || before.isEmpty)
    && !((SMap.keys p.ent.bytes).any s.hostBias && before.any fun q => decide (q.core = p.core) && (SMap.keys q.ent.bytes).any isHost)

/-- Entry i of a die's stores may be performed now: earlier stores to its bytes have been, those that a release follows have
been, its blocks and links are ready. -/
def State.homeReady (s : State) (die i : Nat) (p : PastStore) : Bool :=
  let keys := SMap.keys p.ent.bytes
  let before := (s.die die).past.take i
  before.all (fun q => !keys.any q.ent.has) && s.relReady before p
  && s.canWrite p.ent.exempt p.ent.bytes && keys.all (fun k => !s.linksWait die k)

/-- A key in a CXL tier whose port is down, and one at a host that is away (R382). -/
def State.cxlGone (s : State) (k : Nat) : Bool := !isSpad k && match rangeOf k with | .cxl p => !s.cxlUp p | _ => false
def State.hostGone (s : State) (k : Nat) : Bool := isHost k && !s.hostUp

/-- A store is performed at its home: quarantined blocks, and memory that has gone since it was issued, take no write (R332, R344,
R347); a CXL tier that is down poisons (R382). -/
def State.performStore (s : State) (die i : Nat) (p : PastStore) : State :=
  let ok (k : Nat) : Bool := !blockIs s k .quarantined && !s.gone k && !s.cxlGone k && !s.hostGone k
  let lost := ((SMap.keys p.ent.bytes).filter s.cxlGone).map (· / 32) |>.eraseDups
  let s := s.updDie die fun d => { d with past := dropAt d.past i }
  let s := s.homeWrite p.ent.exempt (p.ent.bytes.filter fun c => ok c.1) (p.ent.words.filter ok)
  lost.foldl (fun s x => (s.setPoison x).countUe (homeDie (32 * x)) (32 * x)) s

/-- STORE_PERFORM. -/
def execStorePerform (src : StoreSrc) (s : State) : Step :=
  match src with
  | .orderPoint g => .next (if g < numCores then s.passOrderPoint g else s)
  | .home die i =>
    match (s.die die).past[i]? with
    | none => .next s
    | some p => .next (if s.homeReady die i p then s.performStore die i p else s)

/-- Load i of core g writes its registers. -/
def State.landLoad (s : State) (g i : Nat) (l : LoadP) : State :=
  s.updCore g fun c =>
    { c with arch := l.dsts.foldl (fun a d => a.wx d.1 d.2) c.arch, loads := dropAt c.loads i }

/-- LOAD_COMPLETE: the result of load i of core g arrives. -/
def execLoadComplete (g i : Nat) (s : State) : Step :=
  match (s.core g).loads[i]? with
  | none => .next s
  | some l => .next (if l.atomic || s.linksWait (dieOf g) l.pa then s else s.landLoad g i l)

/-- A request that crosses a link reaches its target, and the response returns. -/
def State.respond (s : State) (g i key : Nat) (r : AmoReq) : State :=
  let exempt := s.amoExempt g r
  if s.linksWait (dieOf g) r.pa || !s.siteFree g exempt r then s
  else
    let f := s.fireKeys (dieOf g) true r.keys
    if f.2 then f.1.contain g 1 0 r.pa
    else if r.keys.any fun k => f.1.poisonSeen g k || blockIs s k .quarantined then
      -- not performed: the bundle finds the poison itself
      f.1.updCore g fun c => { c.delAmo key with loads := dropAt c.loads i }
    else
      let t := f.1.reach g exempt r
      t.1.updCore g fun c => { c.setAmo key t.2 with loads := dropAt c.loads i }

/-- ATOMIC_RESPONSE: the old value of atomic i of core g arrives. -/
def execAtomicResponse (g i : Nat) (s : State) : Step :=
  match (s.core g).loads[i]? with
  | none => .next s
  | some l =>
    if !l.atomic then .next s
    else
      match l.held with
      | none => .next (s.landLoad g i l)
      | some key =>
        match (s.core g).amoSt key with
        | some (.sent r) => .next (s.respond g i key r)
        | _ => .next (s.updCore g fun c => { c with loads := dropAt c.loads i })

end Sys2Proof.Machine
end

