-- ==== Sys2Proof/Machine/Percolator.lean ====
section
/-! DEFINITION. The Percolator: its base step (R368, R369, R375) and the instructions that load, run, read and
save it (R370 to R376). -/

namespace Sys2Proof.Machine

/-! ## The base step -/

/-- The x-source of a patch word. -/
def patchXs (w : Word) : Nat := fld w 60 52
/-- A y-source of a patch word: in use, subtracted, shift, and the source cell of cell n. -/
structure YSource where
  used : Bool
  neg : Bool
  sh : Nat
  src : Nat
  deriving DecidableEq, Repr
def patchYs (w : Word) (n k : Nat) : YSource :=
  let f := fld w (13 * k + 12) (13 * k)
  { used := f.testBit 12, neg := f.testBit 11, sh := (f >>> 6) % 32, src := (((n : Int) + sextNat 6 f) % 256).toNat }

/-- A domain is active in the base step that PSC numbers (R365). -/
def Perc.active (p : Perc) (n : Nat) : Bool := decide (p.psc.toNat % 2 ^ fld p.k (4 * (n / 64) + 3) (4 * (n / 64)) = 0)

/-- What input lane i delivers in this step (R375). -/
def Perc.lane (p : Perc) (i : Nat) : Int :=
  match elemAt p.lanes 2 (16 * p.lpos + i) with
  | 1 => 1
  | 3 => -1
  | _ => 0

/-- dx of an active cell. -/
def Perc.dx (p : Perc) (n : Nat) : Int :=
  let xs := patchXs (p.word n)
  if xs = 0 then 0 else if xs = 273 then 1 else ((p.cell n).ec[0]?).getD 0

/-- z of a cell: its increment in this step; zero when it is not active. -/
def Perc.z (p : Perc) (n : Nat) : Int :=
  if p.active n then (((p.cell n).w : Int) + p.dx n * (p.cell n).y) / 2 ^ 32 else 0

/-- A cell after the step, its counters still to be checked. -/
def Perc.stepCell (p : Perc) (zs : List Int) (n : Nat) : Cell :=
  let c := p.cell n
  let w := p.word n
  let z (i : Nat) : Int := (zs[i]?).getD 0
  let ys := (List.range 4).map fun k => patchYs w n k
  let act := p.active n
  let term (k : Nat) (y : YSource) : Int :=
    if y.used then (if y.neg then -1 else 1) * ((c.ec[k + 1]?).getD 0) * 2 ^ y.sh else 0
  let y' := c.y + (((List.range 4).zip ys).map fun q => term q.1 q.2).sum
  let old := if act then [0, 0, 0, 0, 0] else c.ec
  let xs := patchXs w
  let incX : Int := if 1 ≤ xs ∧ xs ≤ 256 then z (xs - 1) else if 257 ≤ xs ∧ xs ≤ 272 then p.lane (xs - 257) else 0
  let incs := incX :: ys.map fun y => if y.used then z y.src else 0
  let ec := (old.zip incs).map fun q => q.1 + q.2
  if act then
    { y := y', w := (((c.w : Int) + p.dx n * c.y) % 2 ^ 32).toNat, cnt := (((c.cnt : Int) + z n) % 2 ^ 16).toNat, ec := ec }
  else { c with ec := ec }

/-- What is out of range in a stepped cell: 0 for Y, 1 to 5 for its counters (R369). -/
def Cell.bad (c : Cell) : Option Nat :=
  if c.y < -(2 ^ 31) ∨ 2 ^ 31 ≤ c.y then some 0
  else (((List.range 5).zip c.ec).find? fun q => decide (q.2 < -7) || decide (7 < q.2)).map fun q => q.1 + 1

/-- One base step (R368), or the overrun that stops the run (R369). -/
def Perc.step (p : Perc) : Perc :=
  let zs := (List.range 256).map p.z
  let cs := (List.range 256).map fun n => (n, p.stepCell zs n)
  match cs.findSome? fun q => (Cell.bad q.2).map fun f => (q.1, f) with
  | some (n, f) => { p with running := false, flt := true, fltVal := n + f * 256 }
  | none =>
    { p with cells := cs, psc := p.psc + 1, lpos := (p.lpos + 1) % 128, prem := p.prem - 1, running := decide (p.prem ≠ 1) }

/-- A base step of core g's Percolator, while it runs, its quad is not halted and no pre-emption has been taken (R370, R377, R424). -/
def execPercBaseStep (g : Nat) (s : State) : Step :=
  let spilling := match (s.core g).strand with | some t => t.spilling | none => false
  if (s.core g).arch.perc.running && !(s.quad (quadOf g)).dbg && !spilling then
    .next (s.updCore g fun c => c.updArch fun a => { a with perc := { a.perc.step with fltAt := s.clock } })
  else .next s

/-! ## The patch (R366, R372) -/

def patchOk (w : Word) : Bool := decide (fld w 63 61 = 0) && !(decide (274 ≤ patchXs w))

/-- Doubleword i of a patch image passes R372's checks. -/
def patchImageOk (i : Nat) (w : Word) : Bool :=
  if i = 0 then decide (fld w 63 16 = 0) else if i < 8 then decide (w = 0) else patchOk w

/-- The doublewords of an image's bytes. -/
def dwordsOf (n : Nat) (bs : List Byte) : List Word :=
  (List.range n).map fun i => BitVec.ofNat 64 (leValue ((bs.drop (8 * i)).take 8))

def numbered {α : Type} (l : List α) : List (Nat × α) := (List.range l.length).zip l

def Perc.load (p : Perc) (ws : List Word) : Perc :=
  { p with k := ((ws[0]?).getD 0).setWidth 16, patch := numbered (ws.drop 8), psc := 0, lpos := 0,
           cells := (List.range 256).map fun n => (n, { p.cell n with cnt := 0, ec := [0, 0, 0, 0, 0] }) }

/-- The Percolator of the core at work runs: its instructions wait, charged DEP (R370). -/
def State.percBusy (s : State) : Bool := s.me.arch.perc.running
def State.updPerc (s : State) (f : Perc → Perc) : State := s.updArch fun a => { a with perc := f a.perc }

/-- An image of n bytes is read once the Percolator is IDLE, checked by doublewords, and taken over. What can be checked at issue is,
before the wait (R208, R372, R376). -/
def State.percImage (s : State) (ea : Word) (n : Nat) (ok : Nat → Word → Bool) (f : List Word → Perc → Perc) : Step :=
  if ea.toNat % 64 ≠ 0 then trapStep s cALIGN ea
  else if s.percBusy then Got.step (s.access s.cur ea n .read [2] .align) fun s _ => s.hold cDEP
  else Got.step (s.coreRead s.cur ea n .read .align) fun s r =>
    let ws := dwordsOf (n / 8) r.1
    match (numbered ws).find? fun p => !ok p.1 p.2 with
    | some p => trapStep s cENGINE (ea + BitVec.ofNat 64 (8 * p.1))
    | none => .next ((s.extraCycles ((pagesOf ea.toNat n).length - 1)).updPerc (f ws))

def execPpatch (m : MemOp) (s : State) : Step := s.percImage (MemOp.ea s.me 64 m) 2112 patchImageOk fun ws p => p.load ws

/-! ## PSET, PGET (R373) -/

/-- The range of cells an instruction names, or its trap. -/
def State.percRange (s : State) (b : Reg) : Except State (Nat × Nat) :=
  let sh := s.me.arch.vshape
  let f := (s.me.x b).toNat
  if fld sh 1 0 ≠ 2 then .error s.illegal
  else if 256 < f + vElems sh then .error (s.trap cENGINE (s.me.x b))
  else .ok (f, vElems sh)

def execPset (a b : Reg) (w : Bool) (s : State) : Step :=
  match s.percRange b with
  | .error t => .next t
  | .ok (f, n) =>
    Got.step (s.takeV a.toNat) fun t v =>
      -- a strip is consumed only when the cells are written
      if s.percBusy then s.hold cDEP
      else .next (t.updPerc fun p => (List.range n).foldl (fun p e =>
        let c := p.cell (f + e)
        let x := elemAt v 32 e
        p.setCell (f + e) (if w then { c with w := x } else { c with y := sextNat 32 x })) p)

/-- What PGET reads of a cell, as 32 bits. -/
def Cell.pick (c : Cell) : PercSel → Nat
  | .y => (c.y % 2 ^ 32).toNat
  | .w => c.w
  | .cnt => (sextNat 16 c.cnt % 2 ^ 32).toNat

def execPget (d b : Reg) (sel : PercSel) (s : State) : Step :=
  if s.me.bound d.toNat then illegalStep s
  else match s.percRange b with
  | .error t => .next t
  | .ok (f, n) =>
    if s.percBusy then s.hold cDEP
    else
      let p := s.me.arch.perc
      let v : BitVec 4096 := packElems 4096 32 ((List.range n).map fun e => (p.cell (f + e)).pick sel)
      .next (((s.updArch fun a => a.wv d.toNat v).flyV d.toNat 2).printEntry s.cur false (.pget d b sel))

/-! ## PSTEP (R370, R374, R375) -/

/-- The byte offset of the first schedule word with an invalid lane code. -/
def badLane (v : BitVec 4096) : Option Nat :=
  ((List.range 128).find? fun i => (List.range 16).any fun l => decide (elemAt v 2 (16 * i + l) = 2)).map (4 * ·)

def Perc.start (p : Perc) (lanes : BitVec 4096) (n : Word) : Perc :=
  { p with lanes := lanes, lpos := 0, prem := n, running := decide (n ≠ 0) }

def execPstep (d a b : Reg) (lanes : Bool) (s : State) : Step :=
  let n := s.me.x a
  let begin' (s : State) (v : BitVec 4096) : Step :=
    match (if lanes then badLane v else none) with
    | some o => .next (s.trap cENGINE (BitVec.ofNat 64 o))
    | none =>
      if s.percBusy then s.hold cDEP
      else .next ((s.updPerc fun p => p.start (if lanes then v else 0) n).pushXI d s.me.arch.perc.prem)
  if lanes then
    match s.takeV b.toNat with
    | (_, .wait c) => s.hold c
    | (_, .trap c v) => .next (s.trap c v)
    | (_, .gone) => .next s
    | (t, .ok v) =>
      -- a strip is consumed only when the run starts
      if (badLane v).isSome || s.percBusy then begin' s v else begin' t v
  else begin' s 0

/-! ## PSAVE, PREST (R376) -/

def execPsave (m : MemOp) (s : State) : Step :=
  let ea := MemOp.ea s.me 64 m
  if ea.toNat % 64 ≠ 0 then trapStep s cALIGN ea
  else if s.percBusy then
    -- every trap is checked before the wait begins (R208)
    Got.step (s.access s.cur ea 8192 .write [3] .align) fun s _ => s.hold cDEP
  else
    -- its stores enter the store buffer as there is room
    Got.step (s.coreWriteWords s.cur ea ((List.range 1024).map s.me.arch.perc.imageWord) s.me.arch.wait.sent) fun s n =>
      if n < 1024 then (s.updWait fun w => { w with sent := n }).hold cMEM
      else .next (s.extraCycles ((pagesOf ea.toNat 8192).length - 1))

/-- Doubleword i of an image passes PREST's checks. -/
def restOk (i : Nat) (w : Word) : Bool :=
  if i < 512 then
    decide (i % 2 = 0) || (decide (fld w 63 36 = 0) && (List.range 5).all fun k => decide (fld w (19 + 4 * k) (16 + 4 * k) ≠ 8))
  else if i < 776 then patchImageOk (i - 512) w
  else if i < 778 then true
  else if i = 778 then decide (fld w 63 20 = 0) && decide (fld w 7 0 ≤ 127)
  else if i < 784 then decide (w = 0)
  else if i < 848 then (List.range 32).all fun l => decide (fld w (2 * l + 1) (2 * l) ≠ 2)
  else decide (w = 0)

def Perc.restore (ws : List Word) : Perc := (numbered ws).foldl (fun p q => p.putWord q.1 q.2) Perc.idle

def execPrest (m : MemOp) (s : State) : Step := s.percImage (MemOp.ea s.me 64 m) 8192 restOk fun ws _ => Perc.restore ws

end Sys2Proof.Machine
end

