-- ==== Sys2Proof/Machine/Dispatch.lean ====
section
/-! DEFINITION. The one dispatch over the opcode table: each arm is one direct call of the meaning of its
instruction or event. -/

namespace Sys2Proof.Machine

def exec (i : Instr) (s : State) : Host.Outcome State Fault Refusal :=
  match i with
  | .nop => Sys2Proof.Machine.execNop s
  | .litx d a lit => Sys2Proof.Machine.execLitx d a lit s
  | .bra q sense off => Sys2Proof.Machine.execBra q sense off s
  | .jmp d a disp => Sys2Proof.Machine.execJmp d a disp s
  | .call q sense off => Sys2Proof.Machine.execCall q sense off s
  | .ret a => Sys2Proof.Machine.execRet a s
  | .loop a n => Sys2Proof.Machine.execLoop a n s
  | .runMacro d a b e => Sys2Proof.Machine.execRunMacro d a b e s
  | .ld d k m => Sys2Proof.Machine.execLd d k m s
  | .st d z m => Sys2Proof.Machine.execSt d z m s
  | .ldp d dbl m => Sys2Proof.Machine.execLdp d dbl m s
  | .stp d dbl m => Sys2Proof.Machine.execStp d dbl m s
  | .pref k m => Sys2Proof.Machine.execPref k m s
  | .cflush k m => Sys2Proof.Machine.execCflush k m s
  | .vld d row m => Sys2Proof.Machine.execVld d row m s
  | .vst d m => Sys2Proof.Machine.execVst d m s
  | .vgath d a b sc => Sys2Proof.Machine.execVgath d a b sc s
  | .vscat d a b sc => Sys2Proof.Machine.execVscat d a b sc s
  | .tld d sc m => Sys2Proof.Machine.execTld d sc m s
  | .tst d m => Sys2Proof.Machine.execTst d m s
  | .amo d a b t op c => Sys2Proof.Machine.execAmo d a b t op c s
  | .cas d a b t c => Sys2Proof.Machine.execCas d a b t c s
  | .fence o sc => Sys2Proof.Machine.execFence o sc s
  | .sbind d m => Sys2Proof.Machine.execSbind d m s
  | .sdrop d => Sys2Proof.Machine.execSdrop d s
  | .acopy d a b c => Sys2Proof.Machine.execAcopy d a b c s
  | .chwait d c => Sys2Proof.Machine.execChwait d c s
  | .bar q dom => Sys2Proof.Machine.execBar q dom s
  | .sstep q dom => Sys2Proof.Machine.execSstep q dom s
  | .send d a n => Sys2Proof.Machine.execSend d a n s
  | .recv d a q ch => Sys2Proof.Machine.execRecv d a q ch s
  | .recvAcc d a q t => Sys2Proof.Machine.execRecvAcc d a q t s
  | .xchg d a q mask => Sys2Proof.Machine.execXchg d a q mask s
  | .restrUp lv a => Sys2Proof.Machine.execRestrUp lv a s
  | .restrTake lv a q mask => Sys2Proof.Machine.execRestrTake lv a q mask s
  | .prolgDown lv a mask => Sys2Proof.Machine.execProlgDown lv a mask s
  | .prolgTake lv a q => Sys2Proof.Machine.execProlgTake lv a q s
  | .wload lv rep m => Sys2Proof.Machine.execWload lv rep m s
  | .cyc lv b => Sys2Proof.Machine.execCyc lv b s
  | .spawn d a e mask => Sys2Proof.Machine.execSpawn d a e mask s
  | .susp a => Sys2Proof.Machine.execSusp a s
  | .exit => Sys2Proof.Machine.execExit s
  | .waitc d a => Sys2Proof.Machine.execWaitc d a s
  | .cancel a force => Sys2Proof.Machine.execCancel a force s
  | .pairOn => Sys2Proof.Machine.execPairOn s
  | .pairOff => Sys2Proof.Machine.execPairOff s
  | .ppatch m => Sys2Proof.Machine.execPpatch m s
  | .pstep d a b lanes => Sys2Proof.Machine.execPstep d a b lanes s
  | .psave m => Sys2Proof.Machine.execPsave m s
  | .prest m => Sys2Proof.Machine.execPrest m s
  | .pset a b w => Sys2Proof.Machine.execPset a b w s
  | .pget d b sel => Sys2Proof.Machine.execPget d b sel s
  | .snap q a => Sys2Proof.Machine.execSnap q a s
  | .genq d item => Sys2Proof.Machine.execGenq d item s
  | .bias d a dev => Sys2Proof.Machine.execBias d a dev s
  | .tlbiVa a => Sys2Proof.Machine.execTlbiVa a s
  | .tlbiAll => Sys2Proof.Machine.execTlbiAll s
  | .fmtld m => Sys2Proof.Machine.execFmtld m s
  | .trap imm => Sys2Proof.Machine.execTrap imm s
  | .rft => Sys2Proof.Machine.execRft s
  | .csrr d n => Sys2Proof.Machine.execCsrr d n s
  | .csrw d a n => Sys2Proof.Machine.execCsrw d a n s
  | .dbrk imm => Sys2Proof.Machine.execDbrk imm s
  | .acctCtx d layer cause => Sys2Proof.Machine.execAcctCtx d layer cause s
  | .acctCore d cause => Sys2Proof.Machine.execAcctCore d cause s
  | .acctMark a => Sys2Proof.Machine.execAcctMark a s
  | .telem d item => Sys2Proof.Machine.execTelem d item s
  | .mode m => Sys2Proof.Machine.execMode m s
  | .modeMe e => Sys2Proof.Machine.execModeMe e s
  | .xlat d a k => Sys2Proof.Machine.execXlat d a k s
  | .icsync => Sys2Proof.Machine.execIcsync s
  | .prio d a imm => Sys2Proof.Machine.execPrio d a imm s
  | .anop => Sys2Proof.Machine.execAnop s
  | .movi d imm half => Sys2Proof.Machine.execMovi d imm half s
  | .add d a b sat t => Sys2Proof.Machine.execAdd d a b sat t s
  | .sub d a b sat t => Sys2Proof.Machine.execSub d a b sat t s
  | .mul d a b sat t => Sys2Proof.Machine.execMul d a b sat t s
  | .mulh d a b t => Sys2Proof.Machine.execMulh d a b t s
  | .div d a b t => Sys2Proof.Machine.execDiv d a b t s
  | .and d a b => Sys2Proof.Machine.execAnd d a b s
  | .or d a b => Sys2Proof.Machine.execOr d a b s
  | .xor d a b => Sys2Proof.Machine.execXor d a b s
  | .shl d a b k => Sys2Proof.Machine.execShl d a b k s
  | .shr d a b t => Sys2Proof.Machine.execShr d a b t s
  | .min d a b t => Sys2Proof.Machine.execMin d a b t s
  | .max d a b t => Sys2Proof.Machine.execMax d a b t s
  | .cmp c q a b t => Sys2Proof.Machine.execCmp c q a b t s
  | .sel d a b sense q => Sys2Proof.Machine.execSel d a b sense q s
  | .bits d a op => Sys2Proof.Machine.execBits d a op s
  | .bfx d a b => Sys2Proof.Machine.execBfx d a b s
  | .pred q a b inv => Sys2Proof.Machine.execPred q a b inv s
  | .lea d a imm => Sys2Proof.Machine.execLea d a imm s
  | .fadd d a b f r => Sys2Proof.Machine.execFadd d a b f r s
  | .fmul d a b f r => Sys2Proof.Machine.execFmul d a b f r s
  | .ffma d a b f r => Sys2Proof.Machine.execFfma d a b f r s
  | .fdiv d a b f r => Sys2Proof.Machine.execFdiv d a b f r s
  | .fcmp c q a b f => Sys2Proof.Machine.execFcmp c q a b f s
  | .fcvt d a ovf sf df r => Sys2Proof.Machine.execFcvt d a ovf sf df r s
  | .fmnx d a b f mx => Sys2Proof.Machine.execFmnx d a b f mx s
  | .vadd d a b t => Sys2Proof.Machine.execVadd d a b t s
  | .vsub d a b t => Sys2Proof.Machine.execVsub d a b t s
  | .vmul d a b t => Sys2Proof.Machine.execVmul d a b t s
  | .vfma d a b f r => Sys2Proof.Machine.execVfma d a b f r s
  | .vmin d a b t => Sys2Proof.Machine.execVmin d a b t s
  | .vmax d a b t => Sys2Proof.Machine.execVmax d a b t s
  | .vlog d a b op => Sys2Proof.Machine.execVlog d a b op s
  | .vsh d a amt right => Sys2Proof.Machine.execVsh d a amt right s
  | .vcmp d a b t c => Sys2Proof.Machine.execVcmp d a b t c s
  | .vsel d a b => Sys2Proof.Machine.execVsel d a b s
  | .vred d a op col t r => Sys2Proof.Machine.execVred d a op col t r s
  | .vscan d a op col t r => Sys2Proof.Machine.execVscan d a op col t r s
  | .vperm d a b => Sys2Proof.Machine.execVperm d a b s
  | .vcvt d a dt st scaled r ovf => Sys2Proof.Machine.execVcvt d a dt st scaled r ovf s
  | .vsfu d a fn f => Sys2Proof.Machine.execVsfu d a fn f s
  | .vmov d a b mode => Sys2Proof.Machine.execVmov d a b mode s
  | .venc d a ovf => Sys2Proof.Machine.execVenc d a ovf s
  | .vdec d a => Sys2Proof.Machine.execVdec d a s
  | .viota d a b t => Sys2Proof.Machine.execViota d a b t s
  | .vrep nb a imm => Sys2Proof.Machine.execVrep nb a imm s
  | .mfmt ta tb sa sb ovr => Sys2Proof.Machine.execMfmt ta tb sa sb ovr s
  | .mma d a b r => Sys2Proof.Machine.execMma d a b r s
  | .mmas d a b r => Sys2Proof.Machine.execMmas d a b r s
  | .mdist d a b r => Sys2Proof.Machine.execMdist d a b r s
  | .mtopk d a b largest => Sys2Proof.Machine.execMtopk d a b largest s
  | .mzero d tile => Sys2Proof.Machine.execMzero d tile s
  | .mopen d => Sys2Proof.Machine.execMopen d s
  | .mclose d => Sys2Proof.Machine.execMclose d s
  | .mtran d a => Sys2Proof.Machine.execMtran d a s
  | .mcvt d a t scaled ovf r => Sys2Proof.Machine.execMcvt d a t scaled ovf r s
  | .mew d a op bcast r => Sys2Proof.Machine.execMew d a op bcast r s
  | .mwait d named => Sys2Proof.Machine.execMwait d named s
  | .vclmp d a b t => Sys2Proof.Machine.execVclmp d a b t s
  | .vabs d a t => Sys2Proof.Machine.execVabs d a t s
  | .vbits d a op => Sys2Proof.Machine.execVbits d a op s
  | .vdot d a b t => Sys2Proof.Machine.execVdot d a b t s
  | .hash d a b => Sys2Proof.Machine.execHash d a b s
  | .ctxCreate n => Sys2Proof.Machine.execCtxCreate n s
  | .ctxStart n => Sys2Proof.Machine.execCtxStart n s
  | .ctxStop n => Sys2Proof.Machine.execCtxStop n s
  | .ctxDestroy n => Sys2Proof.Machine.execCtxDestroy n s
  | .addressSpaceTeardown u => Sys2Proof.Machine.execAddressSpaceTeardown u s
  | .teardownComplete n => Sys2Proof.Machine.execTeardownComplete n s
  | .dispatch die layer => Sys2Proof.Machine.execDispatch die layer s
  | .affinityWindowExpiry rid => Sys2Proof.Machine.execAffinityWindowExpiry rid s
  | .agingPromotion rid => Sys2Proof.Machine.execAgingPromotion rid s
  | .sleepWake rid => Sys2Proof.Machine.execSleepWake rid s
  | .preemption g => Sys2Proof.Machine.execPreemption g s
  | .armg d => Sys2Proof.Machine.execArmg d s
  | .armp d => Sys2Proof.Machine.execArmp d s
  | .asyncTrapTake g => Sys2Proof.Machine.execAsyncTrapTake g s
  | .strandWatchdogExpiry g => Sys2Proof.Machine.execStrandWatchdogExpiry g s
  | .barrierWatchdogExpiry die dom => Sys2Proof.Machine.execBarrierWatchdogExpiry die dom s
  | .barrierArrival g => Sys2Proof.Machine.execBarrierArrival g s
  | .barrierRelease die dom => Sys2Proof.Machine.execBarrierRelease die dom s
  | .spilltoExpiry g => Sys2Proof.Machine.execSpilltoExpiry g s
  | .diversionCellGrant g => Sys2Proof.Machine.execDiversionCellGrant g s
  | .recvTimeout g => Sys2Proof.Machine.execRecvTimeout g s
  | .packetArrival g j => Sys2Proof.Machine.execPacketArrival g j s
  | .interlayerEntryArrival g j => Sys2Proof.Machine.execInterlayerEntryArrival g j s
  | .spillQueueDrain q => Sys2Proof.Machine.execSpillQueueDrain q s
  | .hostDoorbell ctx mb msg => Sys2Proof.Machine.execHostDoorbell ctx mb msg s
  | .pairClaimComplete g => Sys2Proof.Machine.execPairClaimComplete g s
  | .pairExchange g odd => Sys2Proof.Machine.execPairExchange g odd s
  | .storePerform src => Sys2Proof.Machine.execStorePerform src s
  | .loadComplete g j => Sys2Proof.Machine.execLoadComplete g j s
  | .atomicResponse g j => Sys2Proof.Machine.execAtomicResponse g j s
  | .copyEngineGrant g => Sys2Proof.Machine.execCopyEngineGrant g s
  | .vectorBeatGrant quad group => Sys2Proof.Machine.execVectorBeatGrant quad group s
  | .streamPortGrant quad => Sys2Proof.Machine.execStreamPortGrant quad s
  | .sfuService quad => Sys2Proof.Machine.execSfuService quad s
  | .mxuGranuleGrant cluster => Sys2Proof.Machine.execMxuGranuleGrant cluster s
  | .tilePortTransfer cluster => Sys2Proof.Machine.execTilePortTransfer cluster s
  | .biasFlipComplete page => Sys2Proof.Machine.execBiasFlipComplete page s
  | .carafeDrainBlock die => Sys2Proof.Machine.execCarafeDrainBlock die s
  | .drainFail => Sys2Proof.Machine.execDrainFail s
  | .genctlWrite v => Sys2Proof.Machine.execGenctlWrite v s
  | .scrubStart die v => Sys2Proof.Machine.execScrubStart die v s
  | .scrubComplete die good => Sys2Proof.Machine.execScrubComplete die good s
  | .waypartWrite die slice v => Sys2Proof.Machine.execWaypartWrite die slice v s
  | .surrenderComplete die slice => Sys2Proof.Machine.execSurrenderComplete die slice s
  | .reclaimComplete die slice => Sys2Proof.Machine.execReclaimComplete die slice s
  | .stashcfgWrite d a => Sys2Proof.Machine.execStashcfgWrite d a s
  | .stashcfgImageWrite quad v => Sys2Proof.Machine.execStashcfgImageWrite quad v s
  | .percBaseStep g => Sys2Proof.Machine.execPercBaseStep g s
  | .budgetDivision inp => Sys2Proof.Machine.execBudgetDivision inp s
  | .slewStep dom => Sys2Proof.Machine.execSlewStep dom s
  | .pwrctlWrite v => Sys2Proof.Machine.execPwrctlWrite v s
  | .tctlWrite die v => Sys2Proof.Machine.execTctlWrite die v s
  | .ramptblWrite die v => Sys2Proof.Machine.execRamptblWrite die v s
  | .acctFlush g => Sys2Proof.Machine.execAcctFlush g s
  | .acctOverflowRecord g => Sys2Proof.Machine.execAcctOverflowRecord g s
  | .acctctlWrite d a base => Sys2Proof.Machine.execAcctctlWrite d a base s
  | .slottblWrite d a => Sys2Proof.Machine.execSlottblWrite d a s
  | .rafWrite n d a => Sys2Proof.Machine.execRafWrite n d a s
  | .vshapeWrite d a => Sys2Proof.Machine.execVshapeWrite d a s
  | .tshapeWrite n d a => Sys2Proof.Machine.execTshapeWrite n d a s
  | .srseedWrite d a => Sys2Proof.Machine.execSrseedWrite d a s
  | .injArm d a => Sys2Proof.Machine.execInjArm d a s
  | .coreContainment g why pa => Sys2Proof.Machine.execCoreContainment g why pa s
  | .selfTestComplete g pass => Sys2Proof.Machine.execSelfTestComplete g pass s
  | .domainArm die dom v => Sys2Proof.Machine.execDomainArm die dom v s
  | .domainDisarm die dom v => Sys2Proof.Machine.execDomainDisarm die dom v s
  | .qmaskWrite die dom j v => Sys2Proof.Machine.execQmaskWrite die dom j v s
  | .quadRetire quad => Sys2Proof.Machine.execQuadRetire quad s
  | .retirementComplete quad => Sys2Proof.Machine.execRetirementComplete quad s
  | .debugHalt quad => Sys2Proof.Machine.execDebugHalt quad s
  | .debugResume quad => Sys2Proof.Machine.execDebugResume quad s
  | .fwLoadArbiter pa => Sys2Proof.Machine.execFwLoadArbiter pa s
  | .fwLoadDispensers pa => Sys2Proof.Machine.execFwLoadDispensers pa s
  | .fwLoadLink pa => Sys2Proof.Machine.execFwLoadLink pa s
  | .fwVerifyComplete => Sys2Proof.Machine.execFwVerifyComplete s
  | .fwTakeover => Sys2Proof.Machine.execFwTakeover s
  | .attestNonce nonce => Sys2Proof.Machine.execAttestNonce nonce s
  | .attestReportComplete => Sys2Proof.Machine.execAttestReportComplete s
  | .linkEnable die port => Sys2Proof.Machine.execLinkEnable die port s
  | .linkDisable die port => Sys2Proof.Machine.execLinkDisable die port s
  | .linkRetireLanes die port => Sys2Proof.Machine.execLinkRetireLanes die port s
  | .linkRestoreLanes die port pass => Sys2Proof.Machine.execLinkRestoreLanes die port pass s
  | .linkTrainingDone die port pass => Sys2Proof.Machine.execLinkTrainingDone die port pass s
  | .linkTrainingTimeout die port => Sys2Proof.Machine.execLinkTrainingTimeout die port s
  | .laneErrorLimit die port lane => Sys2Proof.Machine.execLaneErrorLimit die port lane s
  | .linkLost die port => Sys2Proof.Machine.execLinkLost die port s
  | .remoteResponseTimeout g j => Sys2Proof.Machine.execRemoteResponseTimeout g j s
  | .graphHeaderWrite die port slot v => Sys2Proof.Machine.execGraphHeaderWrite die port slot v s
  | .graphNodeWrite die port slot node v => Sys2Proof.Machine.execGraphNodeWrite die port slot node v s
  | .collectiveStart die port slot a => Sys2Proof.Machine.execCollectiveStart die port slot a s
  | .graphTokenArrival die port slot t => Sys2Proof.Machine.execGraphTokenArrival die port slot t s
  | .collectiveEnd die port slot => Sys2Proof.Machine.execCollectiveEnd die port slot s
  | .peerLaunchPacket die port pkt => Sys2Proof.Machine.execPeerLaunchPacket die port pkt s
  | .packageReset => Sys2Proof.Machine.execPackageReset s
  | .powerRemoval => Sys2Proof.Machine.execPowerRemoval s
  | .registerWrite pa v => Sys2Proof.Machine.execRegisterWrite pa v s
  | .ctxdescWrite n v => Sys2Proof.Machine.execCtxdescWrite n v s
  | .hostMemoryAccess write pa bytes => Sys2Proof.Machine.execHostMemoryAccess write pa bytes s
  | .graphTokenCommit die port slot => Sys2Proof.Machine.execGraphTokenCommit die port slot s

end Sys2Proof.Machine
end

