-- ==== Sys2Proof/Machine/Images.lean ====
section
/-! DEFINITION. The images that the hardware keeps of its queues in a context's memory: the queue area at QBASE (R273,
R278 to R280) and the mailbox area at MBASE (R302, R303), brought up to date after every step. -/

namespace Sys2Proof.Machine

/-- Doublewords in a row at an address. -/
def wordsAt (pa : Nat) (l : List Word) : List (Nat × Word) := ((List.range l.length).zip l).map fun p => (pa + 8 * p.1, p.2)

/-! ## The queue area (R278, R279) -/

/-- The chain of the link array that an item is in: a ring, a dispenser's sleep list, an object's waiters, a mailbox's list. -/
def Item.chain (it : Item) : Nat × Nat :=
  match it.place with
  | .ring => (0, (it.die * 4 + it.layer) * 128 + effPri it.r)
  | .ref => (0, (it.die * 4 + it.layer) * 128 + effPri it.r)
  | .sleeping _ => (1, it.die * 4 + it.layer)
  | .waiting o _ => (2, o)
  | .parked m => (3, m)

/-- The number of the ring that an item is in. -/
def Item.ring? (it : Item) : Option Nat := if it.queued then some it.chain.2 else none

/-- Two doublewords of a ring's head: its first and last slot and its count. -/
def ringWords (items : List Item) (r : Nat) : List Word :=
  let l := (items.filter fun it => decide (it.ring? = some r)).map (·.slot)
  (List.range 2).map (Config.ringHead (l.headD 0) (l.getLast?.getD 0) l.length)

/-- A link's entry: the next slot of its chain, and the TIME of its entry into its level, or of its waking. -/
def linkWords (next : Option Nat) (it : Item) (pa : Nat) : List (Nat × Word) :=
  let slot : BitVec 20 := match next with | some i => BitVec.ofNat 20 i | none => Config.lastLink
  let time : Option Nat := match it.place with
    | .ring => some (nsOf it.since) | .ref => some (nsOf it.since) | .sleeping w => some w | .waiting .. => none | .parked _ => none
  (pa, Config.linkRest ++ slot) :: (match time with | some t => [(pa + 8, BitVec.ofNat 64 t)] | none => [])

/-- The link array of a context's items, in their order. -/
def linksOf (base : Nat) : List Item → List (Nat × Word)
  | [] => []
  | it :: r => linkWords ((r.find? fun x => decide (x.chain = it.chain)).map (·.slot)) it (base + 16 * it.slot) ++ linksOf base r

/-- The four doublewords of entry e of the object table. -/
def objectWords (c : Ctx) (items : List Item) (e : Nat) : List Word :=
  match c.objs.find? fun p => decide (p.1 % 65536 = e) && !p.2.done with
  | none => List.replicate 4 0
  | some (id, o) =>
    let (head, wv) := match items.find? fun it => decide (it.chain = (2, id)) with | some it => (it.slot, 1) | none => (0, 0)
    let v := o.parent <<< 216 + o.lvl <<< 213 + o.out.toNat <<< 212 + o.canc.toNat <<< 211 + o.armed.toNat <<< 210 + id <<< 168
      + head <<< 148 + wv <<< 147 + o.count % 2 ^ 25
    (List.range 4).map fun i => BitVec.ofNat 64 (v >>> (64 * i))

/-- The line at QBASE + 0x4000. -/
def State.lineWords (s : State) (n : Nat) : List Word :=
  let running := (s.cores.filter fun p => match p.2.strand with | some t => decide (t.ctx = n) | none => false).length
  (List.range 8).map (Config.queueLine (s.ctx n).nextId (2 ^ 20 - s.slotsUsed n) running running)

/-- The record pool: a context's items, its templates, and its running strands' last records. -/
def State.poolWords (s : State) (n : Nat) (d : Desc) : List (Nat × Word) :=
  let rec8 (slot : Nat) (r : Rec) : List (Nat × Word) := wordsAt (d.slotAt slot) ((List.range 8).map (recWord r))
  (s.items.flatMap fun it => if it.ctx = n then rec8 it.slot (s.itemRec it) else [])
  ++ ((s.ctx n).templates.flatMap fun p => rec8 p.2.slot p.2.asRec)
  ++ s.cores.flatMap fun p => match p.2.strand with | some t => if t.ctx = n then rec8 t.slot t.last else [] | none => []

/-- The queue area of context n, for the ring heads and object entries that a step may have changed. -/
def State.queueArea (s : State) (n : Nat) (d : Desc) (rings entries : List Nat) : List (Nat × Word) :=
  let q := d.qbase.toNat
  let items := s.items.filter fun it => decide (it.ctx = n)
  (rings.flatMap fun r => wordsAt (q + 16 * r) (ringWords items r))
  ++ wordsAt (q + 0x4000) (s.lineWords n)
  ++ (entries.flatMap fun e => wordsAt (q + 0x10000 + 32 * e) (objectWords (s.ctx n) items e))
  ++ linksOf (q + 0x400000) items
  ++ s.poolWords n d

/-! ## The mailbox area (R302, R303) -/

/-- A spill queue's head. -/
def spillHead (l : List SpillEntry) : Word :=
  let idx := l.flatMap (·.idx)
  BitVec.ofNat 64 (idx.headD 0 <<< 44 + idx.getLast?.getD 0 <<< 24 + idx.length <<< 3)

/-- The cells of one spill queue: each holds its entry, its tag and the next cell. -/
def cellWords (d : Desc) (l : List SpillEntry) : List (Nat × Word) :=
  let idx := l.flatMap (·.idx)
  let body := l.flatMap fun e => (List.range e.cells).map fun i => ((e.ents[i]?).getD 0, e.tag i)
  ((idx.zip body).zip (idx.drop 1 ++ [Config.lastLink.toNat])).flatMap fun p =>
    let e := p.1.2.1
    wordsAt (d.cellAt p.1.1)
      ((List.range 8).map (fun i => BitVec.ofNat 64 (e.toNat >>> (64 * i)))
        ++ [p.1.2.2, BitVec.ofNat 64 p.2, 0, 0, 0, 0, 0, 0])

/-- The header of mailbox m. -/
def State.mboxWords (s : State) (n m : Nat) : List Word :=
  let b := (s.ctx n).mbox m
  let (first, pv) := match s.items.find? fun it => decide (it.ctx = n) && decide (it.place = .parked m) with | some it => (it.slot, 1) | none => (0, 0)
  let v := first <<< 236 + pv <<< 235 + (spillHead b.spill).toNat <<< 128 + b.drops.toNat <<< 96 + b.sealed.toNat <<< 64 + b.tail.toNat <<< 32
    + b.head.toNat
  (List.range 8).map fun i => BitVec.ofNat 64 (v >>> (64 * i))

/-- The ring slots of the packets that are present in a mailbox. -/
def ringSlots (d : Desc) (m : Nat) : Nat → List RqPacket → List (Nat × Word)
  | _, [] => []
  | i, p :: r =>
    (if p.present then
      ((List.range p.pkt.ents.length).zip p.pkt.ents).flatMap fun e =>
        wordsAt (d.ringAt m (i + e.1)) ((List.range 8).map fun k => BitVec.ofNat 64 (e.2.toNat >>> (64 * k)))
      else [])
    ++ ringSlots d m (i + p.pkt.size) r

/-- The mailbox area of context n, and the heads of its spilled strands' own spill queues, for the core heads that a step may
have changed. -/
def State.mailArea (s : State) (n : Nat) (d : Desc) (cores : List Nat) : List (Nat × Word) :=
  let m := d.mbase.toNat
  let c := s.ctx n
  ((List.range 8).flatMap fun i => wordsAt (m + 64 * i) (s.mboxWords n i))
  ++ ((List.range 8).flatMap fun i => ringSlots d i (c.mbox i).tail.toNat (c.mbox i).ring)
  ++ (cores.flatMap fun g => wordsAt (m + 0x11000 + 8 * g) [spillHead (SMap.get c.spillQ [] g)])
  ++ ((List.range 8).flatMap fun i => cellWords d (c.mbox i).spill)
  ++ (c.spillQ.flatMap fun p => cellWords d p.2)
  ++ c.spilled.flatMap fun p => wordsAt (p.2.base + 0x20000 * p.2.idx + 0x3F8) [spillHead p.2.spill] ++ cellWords d p.2.spill

/-! ## Bringing them up to date -/

/-- What a step writes: the words whose value is new. -/
def State.putWords (s : State) (old new : List (Nat × Word)) : State :=
  new.foldl (fun s p => if old.contains p then s else s.hwWrite p.1 8 p.2.toNat) s

/-- The heads that two states of a context may differ in: ring numbers, object entries, cores. -/
def State.ringsIn (s : State) (n : Nat) : List Nat := s.items.filterMap fun it => if it.ctx = n then it.ring? else none
def Ctx.entriesIn (c : Ctx) : List Nat := c.objs.map (·.1 % 65536)

/-- Context n's areas after a step from `s` to `t`: every head where the areas are new, else what has changed. -/
def State.mirrorCtx (s t : State) (n : Nat) : State :=
  match (t.ctx n).d with
  | none => t
  | some d =>
    let kept := match (s.ctx n).d with | some e => decide (e.qbase = d.qbase) && decide (e.mbase = d.mbase) | none => false
    if kept then
      let rings := (s.ringsIn n ++ t.ringsIn n).eraseDups
      let entries := ((s.ctx n).entriesIn ++ (t.ctx n).entriesIn).eraseDups
      let cores := (SMap.keys (s.ctx n).spillQ ++ SMap.keys (t.ctx n).spillQ).eraseDups
      t.putWords (s.queueArea n d rings entries ++ s.mailArea n d cores) (t.queueArea n d rings entries ++ t.mailArea n d cores)
    else t.putWords [] (t.queueArea n d (List.range 1024) (List.range 65536) ++ t.mailArea n d (List.range numCores))

/-- The areas of every context after a step from `s` to `t`. -/
def State.mirror (s t : State) : State := (SMap.keys t.ctxs).foldl (fun u n => s.mirrorCtx u n) t

end Sys2Proof.Machine
end

