-- ==== Sys2Proof/Machine/Turn.lean ====
section
/-! DEFINITION. A core's turn: time passing at the issue point, asynchronous causes, the fetch, the checks of
a bundle before it issues, its two instructions, microprograms, and the charges (R33, R34, R39 to R49, R66 to
R70, R97, R102, R103, R116, R121, R263 to R267, R318, R322, R323, R430). -/

namespace Sys2Proof.Machine

/-- The pair of a core is exchanging fingerprints. -/
def State.pairIs (s : State) (g : Nat) (st : PairState) : Bool := decide ((s.core (g / 2 * 2)).pair.st = st)

/-! ## Fetching (R39, R121, R132) -/

/-- The bundles of the rest of the 32-byte line at pc, as the fetch buffer takes them in (log entry 59). -/
def State.lineAt (s : State) (die pa : Nat) (pc : Word) : SMap Word :=
  (List.range (4 - pa % 32 / 8)).map fun i => (pc.toNat + 8 * i, BitVec.ofNat 64 (s.dieLe die (pa + 8 * i) 8))

/-- The bundle at the core's PC: from the fetch buffer or the loop buffer, or from memory, with the rest of its line (R39, R133).
A poisoned sector or table traps as R39 and R255 give. -/
def State.fetch (s : State) (g : Nat) : State × Got Word :=
  let c := s.core g
  let pc := c.arch.pc
  if pc.toNat % 8 ≠ 0 then (s, .trap cALIGN pc)
  else
    match SMap.get? c.fetchBuf pc.toNat, SMap.get? c.loopBuf pc.toNat with
    | some w, _ => (s, .ok w)
    | none, some w => (s, .ok w)
    | none, none =>
      if s.walkWaits (s.linksWait (dieOf g)) g pc.toNat 1 .fetch then (s, .wait cFCH)
      else
      match s.translate g pc.toNat .fetch with
      | (s, .error e) => (s, .trap e pc)
      | (s, .ok x) =>
        let keys := (List.range 8).map (x.pa + ·)
        if isControl x.pa || decide (s.window x.pa = .shut) then (s, .trap cFETCH pc)
        else if decide (s.window x.pa = .waits) || s.moving x.pa || (s.ownWait g none keys).isSome || s.linksWait (dieOf g) x.pa then
          (s, .wait cFCH)
        else
          let r := (s.recordBias x.biasd x.pa).fireKeys (dieOf g) true keys
          if r.2 then (r.1.contain g 1 0 x.pa, .gone)
          else if keys.any r.1.poisoned then (r.1, .trap cFETCH pc)
          else
            let l := r.1.lineAt (dieOf g) x.pa pc
            (r.1.updCore g fun c => { c with fetchBuf := l }, .ok ((SMap.get? l pc.toNat).getD 0))

/-- A fetch breakpoint matches the bundle at pc (R121). -/
def Core.fetchBreak (c : Core) (pc : Word) : Bool :=
  !c.arch.bps && ((decide (fld c.arch.bpctl 1 0 = 1) && decide (c.arch.bpad0 = pc))
    || (decide (fld c.arch.bpctl 3 2 = 1) && decide (c.arch.bpad1 = pc)))

/-! ## Checks before the issue -/

/-- Privileged whatever its operands hold (R122, R130, R161). -/
def Instr.privileged : Instr → Bool
  | .mode _ | .tlbiVa _ | .tlbiAll => true
  | .csrr _ n | .csrw _ _ n => csrSup n.toNat
  | _ => false

def RegName.zero : RegName → Bool
  | .x n => decide (n = 0)
  | .q n => decide (n = 0)
  | _ => false

def PDst.name : PDst → RegName
  | .x n => .x n
  | .q n => .q n

/-- The registers an instruction would write now: a CALL that is not taken writes none (R100). -/
def Core.writes (c : Core) (i : Instr) : List RegName :=
  match i with
  | .call q sense _ => if c.q q != sense then i.writes else []
  | i => i.writes

/-- The scoreboard's case for STALL_SHORT (R47). -/
def Core.short (c : Core) (i : Instr) : Bool :=
  c.pend.any fun p =>
    let r := PDst.name p.dst
    !p.inter && decide (c.cycle < p.land) && !RegName.zero r
    && (i.reads.contains r
        || (match i.latency with | some n => (c.writes i).contains r && decide (c.cycle + n < p.land) | none => false))

/-- C instructions that read or write v registers at issue. -/
def Instr.vDirect : Instr → Bool
  | .send .. | .recv .. | .recvAcc .. | .xchg .. | .restrUp .. | .restrTake .. | .prolgDown .. | .prolgTake ..
  | .pstep .. | .pset .. | .pget .. => true
  | _ => false

/-- What an instruction's registers still wait for (R48), as a cause. -/
def Core.interlock (c : Core) (i : Instr) : List Nat :=
  let names := (i.reads ++ c.writes i).filter fun r => !RegName.zero r
  let mem := c.loads.any fun l => l.dsts.any fun d => names.contains (.x d.1)
  let vx := c.arch.vseq.any fun e => match e.ins with | .vmov d _ _ m => decide (m.toNat = 2) && names.contains (.x d.toNat) | _ => false
  let vx := vx || c.arch.vfly.any fun f => f.regs.any fun r => names.contains r && (match r with | .x _ => true | .q _ => true | _ => false)
  let vd := Instr.vDirect i && (i.reads.any (fun r => match r with | .v n => c.arch.vWriter n | _ => false)
    || i.writes.any (fun r => match r with
      | .v n => c.arch.vWriter n || c.arch.vseq.any fun e => e.ins.reads.contains r
      | _ => false))
  let dep := c.pend.any fun p => p.inter && decide (c.cycle < p.land) && names.contains (PDst.name p.dst)
  (if mem then [cMEM] else []) ++ (if vx || vd then [cVSEQ] else []) ++ (if dep then [cDEP] else [])

def worse (a b : Nat) : Nat := if waitRank b < waitRank a then b else a

/-- What an instruction that no register holds back would wait for. -/
def State.heldBy (s : State) (i : Instr) : List Nat :=
  if (s.me.interlock i).isEmpty then
    match exec i s with
    | .next t => (match t.me.flow with | .held h => [h] | _ => [])
    | _ => []
  else []

/-- What a bundle's registers still wait for, as a cause: the first in R265's order of all that holds either instruction. -/
def State.registerWait (s : State) (is : List Instr) : Option Nat :=
  match is.flatMap s.me.interlock with
  | [] => none
  | l => firstWait (l ++ is.flatMap s.heldBy)

/-! ## Issuing (R33, R45, R208) -/

/-- C instructions that take effect once their bundle's A instruction has: a suspension point writes its record, and waits for
what the A instruction put into a queue; RFT leaves the mode in which the A instruction issued (R36, R119, R213). -/
def Instr.afterA : Instr → Bool
  | .susp _ | .waitc .. | .exit | .rft => true
  | _ => false
/-- A bundle that can be parked: it executes again, so that neither instruction has taken effect (R225). -/
def Instr.parks : Instr → Bool
  | .recv .. => true
  | _ => false

/-- The C instruction runs, without an A instruction beside it or before it is known whether it completes. -/
def State.ready (s : State) (npc : Word) : State := s.updMe fun c => { c with flow := .run, npc := npc, taken := false }

/-- v registers that the C instruction wrote, between s0 and s1, keep their old values for the entry that its A instruction has made
since (R33). -/
def State.keepOlds (s0 s1 s : State) (c : Instr) : State :=
  if Instr.vDirect c then
    let olds := c.writes.filterMap fun r => match r with | .v n => some (n, s0.me.arch.rv n) | _ => none
    s.updArch fun a => { a with vseq := a.vseq.map fun e => if s1.stamp ≤ e.stamp then { e with olds := olds } else e }
  else s

/-- The bundle at work goes back to what it was, but for the cycles its translations have taken (R45, R259). -/
def State.unissued (s0 s : State) : State := s0.updMe fun c => { c with xl := s.me.xl }

/-- The A instruction beside a C instruction that has led from s0 to s1. MWAIT waits for earlier entries, not for the one its own
bundle makes (R207). -/
def State.execBeside (s0 s1 : State) (a : Instr) : Step :=
  match a with
  | .mwait .. =>
    match exec a s0 with
    | .next t => (match t.me.flow with | .held h => .next (s1.holding h) | _ => .next s1)
    | o => o
  | _ => exec a s1

/-- The A instruction beside a C instruction that has been performed. -/
def State.issueA (s0 s1 : State) (c a : Instr) : Step :=
  match State.execBeside s0 s1 a with
  | .next s2 =>
    match s2.me.flow with
    | .run => .next (State.keepOlds s0 s1 s2 c)
    | .trapped cause val => .next ((State.unissued s0 s1).trapAt s0.cur cause val s0.me.arch.pc)
    | .held h => .next ((State.unissued s0 s1).holding h)
    | .left => .next s2
  | o => o

/-- The A instruction of the bundle at work has issued, and the C instruction has not completed: it goes on with the x registers it
read as the bundle issued (R33, log entry 57). -/
def State.noteA (s0 s : State) (c : Instr) : State :=
  let xs := c.reads.filterMap fun r => match r with | .x n => some (n, s0.me.arch.rx n) | _ => none
  s.updArch fun a => { a with wait := { a.wait with aDone := (a.tm, a.pc, xs) :: a.wait.aDone } }

/-- A C instruction that comes after its bundle's A instruction: where it has to wait for what that put into a queue, the A
instruction has issued for good. -/
def State.issueAfter (s0 : State) (c a : Instr) : Step :=
  match exec a s0 with
  | .next s2 =>
    match s2.me.flow with
    | .trapped cause val => .next (s0.trapAt s0.cur cause val s0.me.arch.pc)
    | .held k => .next (s0.holding k)
    | _ =>
      match exec c s2 with
      | .next s3 =>
        match s3.me.flow with
        | .held _ => .next (if s0.me.aIssued then s3 else State.noteA s0 s3 c)
        | .trapped cause val => .next (s0.trapAt s0.cur cause val s0.me.arch.pc)
        | _ => .next s3
      | o => o
  | o => o

/-- A bundle's C instruction is held, after which s1 stands: the first in R265's order of what holds either instruction, or the A
instruction's trap. -/
def State.heldWith (s1 : State) (h : Nat) (a : Instr) : Except (Nat × Word) Nat :=
  match exec a (s1.updMe fun c => { c with flow := .run }) with
  | .next s2 =>
    match s2.me.flow with
    | .trapped cause val => .error (cause, val)
    | .held k => .ok (worse h k)
    | _ => .ok h
  | _ => .ok h

/-- Both instructions of a bundle: neither takes effect where one traps or waits, but for what a waiting C
instruction does progressively (R45, R208). An .sr A instruction beside CSRW SRSEED, whose order the spec does not give, draws from
the new seed (DESIGN CHOICE, log entry 75). -/
def State.issue (s : State) (c : Instr) (a : Option Instr) : Step :=
  let s0 := s.ready (s.me.arch.pc + 8)
  match exec c s0, a with
  | .next s1, some a =>
    match s1.me.flow with
    | .trapped .. => .next s1
    | .run => if Instr.afterA c then State.issueAfter s0 c a else State.issueA s0 s1 c a
    | .held h =>
      match State.heldWith s1 h a with
      | .error (cause, val) => .next ((State.unissued s0 s1).trapAt s0.cur cause val s0.me.arch.pc)
      | .ok k => .next (s1.holding k)
    | .left =>
      if Instr.afterA c then State.issueAfter s0 c a
      else if Instr.parks c then
        match exec a s0 with
        | .next s2 => (match s2.me.flow with | .trapped cause val => .next (s0.trapAt s0.cur cause val s0.me.arch.pc) | _ => .next s1)
        | o => o
      else .next s1
  | o, _ => o

/-! ## Pairs (R209, R323, R325) -/

/-- Performed in an interval of its own (R246, R323); suspension points and PAIR.off exchange first (R322). -/
def State.alone (s : State) (i : Instr) : Bool :=
  let control (m : MemOp) (scale : Nat) (k : XKind) : Bool :=
    match s.xlate s.cur (MemOp.ea s.me scale m).toNat k with | .ok x => isControl x.pa | .error _ => false
  let moves (m : MemOp) (n : Nat) (k : XKind) : Bool :=
    match s.xlateRange s.cur (MemOp.ea s.me n m).toNat n k with | .ok tr => (s.migrateKey s.cur tr).isSome | .error _ => false
  let wide (sc : Scope) : Bool := match sc with | .core | .quad => false | _ => true
  match i with
  | .amo .. | .cas .. | .send .. | .recv .. | .recvAcc .. | .xchg .. | .bar .. | .sstep .. | .spawn .. | .cancel .. | .snap ..
  | .bias .. | .tlbiVa .. | .tlbiAll | .mode .. | .wload .. | .cyc .. | .restrUp .. | .restrTake .. | .prolgDown .. | .prolgTake ..
  | .vgath .. | .vscat .. | .tld .. | .tst .. | .acopy .. | .sbind .. | .sdrop .. | .susp .. | .waitc .. | .exit | .pairOff => true
  | .fence o sc => (match o with | .rel | .ar | .sc => wide sc | _ => false)
  | .st _ z m => decide ((MemOp.ord m).1 ≠ .none) || control m (Size.bytes z) .write || moves m (Size.bytes z) .write
  | .stp _ d m => decide ((MemOp.ord m).1 ≠ .none) || moves m (2 * pairHalf d) .write
  | .ld _ k m => control m (LdKind.bytes k) .read || moves m (LdKind.bytes k) .read
  | .ldp _ d m => moves m (2 * pairHalf d) .read
  | _ => false

/-- The 32-byte sectors that n bytes at an address touch. -/
def sectorsOf (ea : Word) (n : Nat) : Nat := ceilDiv (ea.toNat % 32 + n) 32

/-- What a store instruction would hold in the journal: sectors of 32 bytes (R324). -/
def State.storeSectors (s : State) (i : Instr) : Nat :=
  match i with
  | .st _ z m => sectorsOf (MemOp.ea s.me (Size.bytes z) m) (Size.bytes z)
  | .stp _ d m => sectorsOf (MemOp.ea s.me (2 * pairHalf d) m) (2 * pairHalf d)
  | .vst _ m => sectorsOf (MemOp.ea s.me 64 m) (vSize s.me.arch.vshape)
  | .psave m => sectorsOf (MemOp.ea s.me 64 m) 8192
  | _ => 0

def journalSectors (l : List SbEntry) : Nat := (l.map fun e => ((e.bytes.map (·.1 / 32)).eraseDups).length).sum

/-- The words a retired bundle puts into the fingerprint: x values, predicates, then stores (R325). A VST's data follow when its
entry delivers them, with what the interval's entries write (DESIGN CHOICE, log entry 92). -/
def State.bundlePrint (s0 s1 : State) (c : Instr) : List Word :=
  let new := s1.me.pend.drop s0.me.pend.length
  let xs := new.filterMap fun p => match p.dst with | .x _ => some p.val | .q _ => none
  let ld := (s1.me.loads.drop s0.me.loads.length).flatMap fun l => l.dsts.map Prod.snd
  let fly := (s1.me.arch.vfly.drop s0.me.arch.vfly.length).flatMap fun f => f.regs
  let qs := (new.filterMap fun p => match p.dst with | .q _ => some (p.val &&& 1) | .x _ => none)
    ++ fly.filterMap fun r => match r with | .q n => some (BitVec.ofNat 64 (s1.me.arch.rq n).toNat) | _ => none
  let st := match c with
    | .st d z m => [MemOp.ea s0.me (Size.bytes z) m, BitVec.ofNat 64 ((s0.me.x d).toNat % 2 ^ (8 * Size.bytes z))]
    | .stp d w m =>
      let n := if w then 8 else 4
      [MemOp.ea s0.me (2 * n) m, BitVec.ofNat 64 ((s0.me.x d).toNat % 2 ^ (8 * n)), BitVec.ofNat 64 ((s0.me.x (d + 1)).toNat % 2 ^ (8 * n))]
    | .vst _ m => [MemOp.ea s0.me 64 m]
    | .psave m => MemOp.ea s0.me 64 m :: (List.range 1024).map s0.me.arch.perc.imageWord
    | _ => []
  ld ++ xs ++ qs ++ st

/-- After a bundle of a pair: its fingerprint, and the end of the interval. -/
def State.pairRetire (s0 s1 : State) (c : Instr) : State :=
  let g := s1.cur
  if s1.dual s1.cur then
    let s := s1.foldPrint g (State.bundlePrint s0 s1 c)
    let s := s.updCore (g + 1) fun k => { k with arch := { k.arch with copies := s.me.arch.copies } }
    let ends := s0.alone c || decide (1024 ≤ s.me.pair.bundles + 1)
    -- a store held in the journal is performed only by an agreement, so that its interval can be run again
    let solo := s0.alone c && s.me.pair.journal.isEmpty
    s.updMe fun k => { k with pair := { k.pair with bundles := k.pair.bundles + 1, solo := solo, asked := false, st := if ends then .exchanging else k.pair.st } }
  else s1

/-- Suspension points and PAIR.off make an exchange of their own, though no bundle has retired since the last one (R229, R322). -/
def Instr.exchanges : Instr → Bool
  | .susp _ | .waitc .. | .exit | .pairOff => true
  | _ => false

/-- The interval of a pair must end before this bundle (R323). -/
def State.exchangeFirst (s : State) (c : Instr) : Bool :=
  s.dual s.cur
  && ((decide (s.me.pair.bundles ≠ 0) && (s.alone c || decide (1024 < journalSectors s.me.pair.journal + s.storeSectors c)))
      || (Instr.exchanges c && !s.me.pair.asked))
def State.startExchange (s : State) : State :=
  (s.updMe fun k => { k with pair := { k.pair with st := .exchanging, asked := true } }).holding cPAIR

/-! ## A bundle that completes (R34, R44, R97, R102, R103, R265) -/

/-- Bookkeeping of a retired bundle of mode tm, a microprogram's among them: watchdog and waits. -/
def Core.retire (c : Core) (clock : Nat) (tm rft : Bool) : Core :=
  let w := c.arch.wait
  let w := if rft then w else w.cut
  { c with
    strand := c.strand.map fun t => { t with retired := clock }
    arch := { c.arch with wait := { w with amo := if tm then w.amo else [], aDone := w.aDone.filter fun p => p.1 != tm } } }

/-- The bundle at pc is over, a MACRO's with its microprogram: a breakpoint's step (R121) and a tokened retry's hold (R390) end. -/
def Core.completed (c : Core) (pc : Word) (rft : Bool) : Core :=
  { c with
    linkPc := if c.linkPc = some pc ∧ c.arch.tm = false then none else c.linkPc
    arch := { c.arch with status := if rft then c.arch.status else setBit c.arch.status 2 false } }

/-- The loop state after a bundle at pc of mode tm: the next pc, and the FETCH cycles. A taken branch discards the fetch buffer,
and one to a target outside the loop buffer that buffer too; RFT resumes the loop (R97, R102, R103, R133). -/
def Core.loopNext (c : Core) (pc : Word) (tm icsync rft : Bool) : Core × Nat :=
  let held (p : Word) : Bool := (SMap.get? c.loopBuf p.toNat).isSome
  let a := c.arch
  if c.taken && !icsync then
    let pen := if held c.npc then 0 else 2
    let inside := decide (a.lbeg ≤ c.npc) && decide (c.npc ≤ a.lend)
    if rft then ({ c with fetchBuf := [] }, pen)
    else
      ({ c with fetchBuf := [], loopBuf := if held c.npc then c.loopBuf else [],
                arch := if inside || decide (a.lcnt = 0) then a else { a with lcnt := 0 } }, pen)
  else
    let late := if icsync then 2 else 0
    if !tm && decide (a.lcnt ≠ 0) && decide (pc = a.lend) then
      if 1 < a.lcnt.toNat then
        ({ c with npc := a.lbeg, arch := { a with lcnt := a.lcnt - 1 } }, Nat.max late (if (a.lend - a.lbeg).toNat / 8 < 16 then 0 else 2))
      else ({ c with npc := a.lend + 8, arch := { a with lcnt := 0 } }, late)
    else (c, late)

/-- A body of at most 16 bundles is kept in the loop buffer (R103). -/
def Core.bufferLoop (c : Core) (pc w : Word) : Core :=
  let a := c.arch
  if decide (a.lcnt ≠ 0) && !a.tm && decide (a.lbeg ≤ pc) && decide (pc ≤ a.lend) && decide ((a.lend - a.lbeg).toNat / 8 < 16) then
    { c with loopBuf := SMap.set c.loopBuf pc.toNat w }
  else c

/-- The first checkpoint of a pair lies at the bundle after PAIR.on (R229). -/
def State.firstCheckpoint (s : State) : State :=
  if s.dual s.cur && decide (s.me.pair.st = .paired) && s.me.pair.ckpt.isNone then
    s.updMe fun c => { c with pair := { Pair.single with st := .paired, ckpt := some c.landEvery.arch } }
  else s

/-- The bundle at pc has issued and did not start a microprogram: its cycle is charged to pc, the cycles until the
next bundle can issue to that bundle's address (R263). -/
def State.finish (s : State) (tm : Bool) (b : Bundle) (pc w : Word) (stall : Nat) : State :=
  let g := s.cur
  let ic := decide (b.c = .icsync)
  let rft := decide (b.c = .rft)
  let s := s.payXl g pc
  let s := s.updMe fun c => ((if ic then c else c.bufferLoop pc w).retire s.clock tm rft).completed pc rft
  let r := s.me.loopNext pc tm ic rft
  let s := (s.setCore g { r.1 with arch := { r.1.arch with pc := r.1.npc } }).firstCheckpoint
  let s := s.charge g (issueCause (some b.c)) (issueCause b.a) 1 pc
  let s := (s.charge g cFCH cFCH r.2 r.1.npc).charge g cEMPTY cEMPTY stall r.1.npc
  s.spend g (1 + r.2 + stall)

/-- A trap or a suspension point of the claiming core ends the wait of its PAIR.on (R208). -/
def State.endClaim (s : State) (g : Nat) : State :=
  let p := (s.core g).pair
  if p.st = .claiming ∧ p.odd = decide (g % 2 = 1) then s.unclaim g else s

/-- The cause of a wait: where the engine that the core waits for waits itself for a block of the reserve, it is MEM (R337). -/
def State.waitCause (s : State) (g h : Nat) : Nat :=
  if (h = cSTRM ∨ h = cVSEQ ∨ h = cMXQ) ∧ s.engineStarved g = true then cMEM else h

/-- What happened to a bundle that did not complete: a wait; a trap, which leaves no charge but its own and its translations' (R45,
R259); or the strand has left, its cycles charged. -/
def State.settle (s : State) (pc : Word) : State :=
  let g := s.cur
  let s := match s.me.flow with | .trapped .. | .left => s.endClaim g | _ => s
  match s.me.flow with
  | .run => s
  | .held h =>
    let k := s.waitCause g h
    (((s.holding k).payXl g pc).bill g k k 1 pc).spend g 1
  | .trapped .. => if s.me.strand.isNone then s else (s.payXl g pc).pay g cTRAPC 4 pc
  | .left => s

def stallOf (b : Bundle) : Nat := match b.a with | none => b.cs.toNat | some _ => Nat.max b.cs.toNat b.as.toNat

/-! ## Microprograms (R67 to R70) -/

def State.setMop (s : State) (n : Nat) : State := s.updArch fun a => a.setStatus fun st => setFld st 23 19 n

/-- A bundle of the image with MACRO's parameters in place; none for a slot that decodes to nothing. -/
def microBundle (m : Micro) (w : Word) : Option Instr × Option (Option Instr) × Nat :=
  let f := substReg m.d m.a m.b
  let stallC := fld w 30 28
  if bitAt w 31 then
    match decodeBundle w with
    | .ok b => (some (Instr.subst f b.c), some none, stallC)
    | .error _ => (none, some none, stallC)
  else
    ((decodeC (w.setWidth 32) 0).map (Instr.subst f), (decodeA (BitVec.ofNat 32 (w.toNat >>> 32))).map (fun i => some (Instr.subst f i)),
      Nat.max stallC (fld w 63 61))

/-- The A operation reads a register the C operation writes (R68). -/
def microClash (c : Instr) (a : Option (Option Instr)) : Bool :=
  match a with
  | some (some a) => destConflict c a || a.reads.any fun r => !RegName.zero r && c.writes.contains r
  | _ => false

/-- The microprogram ends: everything lands and the program goes on after MACRO (R49, R69). -/
def State.microEnd (s : State) : State :=
  let s := (s.setMop 0).updMe fun c => ({ c.landEvery with micro := none, npc := c.arch.pc + 8, taken := false }).completed c.arch.pc false
  let r := s.me.loopNext s.me.arch.pc s.me.arch.tm false false
  let s := s.setCore s.cur { r.1 with arch := { r.1.arch with pc := r.1.npc } }
  (s.charge s.cur cFCH cFCH r.2 r.1.npc).spend s.cur r.2

/-- A bundle of the microprogram has been performed from its operation `slot` on. -/
def State.microDone (s0 s : State) (m : Micro) (b stall : Nat) (c : Option Instr) (a : Option Instr) : State :=
  let pc := m.pc
  let s := State.pairRetire s0 s (c.getD .nop)
  let s := (s.payXl s.cur pc).updMe fun k => k.retire s.clock k.arch.tm false
  let s := (s.charge s.cur (issueCause c) (issueCause a) 1 pc).charge s.cur cEMPTY cEMPTY stall pc
  let s := s.spend s.cur (1 + stall)
  if m.image.length ≤ b + 1 then s.microEnd else s.setMop (2 * (b + 1))

/-- The A operation, the C operation having been performed. -/
def State.microA (s0 s : State) (m : Micro) (b stall : Nat) (c : Option Instr) (a : Option (Option Instr)) : Step :=
  match a with
  | some none => .next (State.microDone s0 s m b stall c none)
  | none => .next (((s.setMop (2 * b + 1)).illegal).settle m.pc)
  | some (some a) =>
    let s1 := s.setMop (2 * b + 1)
    if !a.wf s.me.arch.tm then .next (s1.illegal.settle m.pc)
    else
      let s1 := s1.updMe fun k => { k with flow := .run }
      match State.execBeside s0 s1 a with
      | .next t =>
        match t.me.flow with
        | .run => .next (State.microDone s0 (match c with | some c => State.keepOlds s0 s1 t c | none => t) m b stall c (some a))
        | .held h => .next (((State.unissued s0 s).holding h).settle m.pc)
        | _ => .next (t.settle m.pc)
      | o => o

/-- The next bundle of a microprogram, from operation STATUS.MOP (R67, R69). Where the entry, read again, has no such bundle
any more, the MACRO is complete; ILLEGAL and STALL_SHORT give the bundle as the entry holds it (log entry 61). A fault of a bundle as
a whole (its A operation reads what its C operation writes, DBRK stands beside another A word, or its A operation alone is
STALL_SHORT) is taken at index 2b, and neither operation is performed: the spec does not say which index it has (DESIGN CHOICE, log
entry 89). -/
def State.microTurn (s : State) (m : Micro) : Step :=
  let mop := s.me.arch.mop
  let b := mop / 2
  match m.image[b]? with
  | none => .next s.microEnd
  | some w =>
    let s := (s.updMe fun c => { c with bundle := w }).ready s.me.arch.pc
    let (c, a, stall) := microBundle m w
    let tm := s.me.arch.tm
    let as := match a with | some (some a) => [a] | _ => []
    if mop % 2 = 1 then
      if c.any fun c => microClash c a then .next (s.illegal.settle m.pc)
      else
        match s.registerWait as with
        | some h => .next ((s.holding h).settle m.pc)
        | none => State.microA s s m b stall none a
    else
      match c with
      | none => .next (s.illegal.settle m.pc)
      | some c =>
        if c.noMicro || !c.wf tm || microClash c a || (c.needsAnop && decide (a ≠ some (some .anop))) then .next (s.illegal.settle m.pc)
        else if Instr.privileged c && !s.me.arch.pl then .next (s.priv.settle m.pc)
        else if s.exchangeFirst c then .next (s.startExchange.settle m.pc)
        else
          match s.registerWait (c :: as) with
          | some h => .next ((s.holding h).settle m.pc)
          | none =>
            if s.me.arch.chk && (s.me.short c || as.any s.me.short) then .next ((s.trap cSTALL w).settle m.pc)
            else
              match exec c s with
              | .next t =>
                match t.me.flow with
                | .run => State.microA s t m b stall (some c) a
                | .held h =>
                  let k := match as with | a :: _ => (match State.heldWith t h a with | .ok k => k | .error _ => h) | [] => h
                  .next ((t.holding k).settle m.pc)
                | _ => .next (t.settle m.pc)
              | o => o

/-! ## The bundle at the issue point (R45, R47, R69) -/

/-- The trap that operation 0 of the microprogram just begun would take at once, outside trap mode: in it, such a trap contains the
core, and nothing of the bundle is left (R117). -/
def State.firstTrap (s : State) : Option (Nat × Word) :=
  match s.me.micro with
  | none => none
  | some m =>
    match (s.updMe fun c => { c.landBy c.cycle with flow := .run }).microTurn m with
    | .next t =>
      if s.me.arch.tm || decide (fld (t.core s.cur).arch.tstat 23 19 ≠ 0) then none
      else (match (t.core s.cur).flow with | .trapped cause val => some (cause, val) | _ => none)
    | _ => none

/-- A MACRO has issued, with the A instruction beside it: its cycle is charged, and operation STATUS.MOP comes next. Where operation
0 traps at once, the MACRO's bundle has had no effect, its A instruction's among them (R45, R69, log entry 57). -/
def State.startMicro (s0 s : State) (b : Bundle) (a : Option Instr) (pc w : Word) : State :=
  let t := (s.payXl s.cur pc).charge s.cur cISSUE (issueCause a) 1 pc
  let t := (t.charge t.cur cEMPTY cEMPTY (stallOf b) pc).spend t.cur (1 + stallOf b)
  let t := State.noteA s0 (t.updMe fun c => c.bufferLoop pc w) b.c
  match (if s0.me.arch.mop = 0 then t.firstTrap else none) with
  | some (cause, val) => ((State.unissued s0 s).trapAt s0.cur cause val pc).settle pc
  | none => t

/-- A checked bundle issues. The A instruction beside a MACRO that restarts, or beside a C instruction that has waited since it
issued, does not issue again (R69, log entry 57). A MACRO reached with STATUS.MOP ≠ 0 other than by RFT, since a handler has changed
TPC, the spec does not speak of: it too starts at operation MOP, without its A instruction (DESIGN CHOICE, log entry 89). STALL_SHORT
is judged when no register of variable latency holds the bundle any longer (R47, log entry 60). -/
def State.go (s : State) (b : Bundle) (pc w : Word) : Step :=
  let a := if s.me.aIssued then none else match b.c with
    | .runMacro .. => if s.me.arch.mop = 0 then b.a else none
    | _ => b.a
  if s.exchangeFirst b.c then .next (s.startExchange.settle pc)
  else
    match s.registerWait (b.c :: a.toList) with
    | some h => .next ((s.holding h).settle pc)
    | none =>
      if s.me.arch.chk && (s.me.short b.c || a.any s.me.short) then .next ((s.trap cSTALL w).settle pc)
      else
        match s.issue b.c a with
        | .next t =>
          match t.me.flow with
          | .run =>
            let t := State.pairRetire s t b.c
            if t.me.micro.isSome then .next (State.startMicro s t b a pc w)
            else .next (t.finish s.me.arch.tm b pc w (stallOf b))
          | _ => .next (t.settle pc)
        | o => o

/-- The bundle w at pc stands at the issue point. BREAK of a fetch breakpoint comes first, then R45's order (log entry 60). -/
def State.present (s : State) (pc w : Word) : Step :=
  let s := s.updMe fun c => { c with bundle := w }
  if s.me.fetchBreak pc then .next ((s.trap cBREAK pc).settle pc)
  else
    match decodeBundle w with
    | .error _ => .next (s.illegal.settle pc)
    | .ok b =>
      if !b.wf s.me.arch.tm then .next (s.illegal.settle pc)
      else if Instr.privileged b.c && !s.me.arch.pl then .next (s.priv.settle pc)
      else s.go b pc w

/-! ## The turn -/

/-- The windows of SLOTTBL are read before a restored strand's first bundle (R318). After a fault in that read the handler runs
without them, and they are read before the bundle that it returns to (DESIGN CHOICE, log entry 81). -/
def State.reread (s : State) (g : Nat) : State × Got Unit :=
  let a := (s.core g).arch
  if fld a.slottbl 4 0 ≠ 0 ∧ a.windows = [] ∧ a.tm = false then
    match s.readWindows g a.slottbl with
    | (s, .ok w) => (s.updCore g fun c => c.updArch fun a => { a with windows := w }, .ok ())
    | (s, .wait c) => (s, .wait c)
    | (s, .trap c v) => (s, .trap c v)
    | (s, .gone) => (s, .gone)
  else (s, .ok ())

/-- The bundle of core g, no asynchronous cause pending. -/
def State.bundleTurn (s : State) (g : Nat) : Step :=
  let pc := (s.core g).arch.pc
  match s.reread g with
  | (s, .wait c) => .next ((s.holding c).settle pc)
  | (s, .trap c v) => .next ((s.trap c v).settle pc)
  | (s, .gone) => .next s
  | (s, .ok _) =>
    match (s.core g).micro with
    | some m => s.microTurn m
    | none =>
      match s.fetch g with
      | (s, .wait c) => .next ((s.holding c).settle pc)
      | (s, .trap c v) => .next ((s.trap c v).settle pc)
      | (s, .gone) => .next s
      | (s, .ok w) =>
        -- the cycles of the fetch's own translation come before the bundle's issue cycle (R125, R128, R259)
        if (s.core g).xl ≠ 0 then .next ((s.holding cMEM).payXl g pc) else s.present pc w


/-- Asynchronous causes, then the bundle. -/
def State.runTurn (s : State) (g : Nat) : Step :=
  let pc := (s.core g).arch.pc
  if s.pairIs g .exchanging then .next ((s.holding cPAIR).settle pc)
  else if (s.core g).midBundle || (s.core g).amoFlying then s.bundleTurn g
  else if s.exchangeForPreempt g then .next (s.startExchange.settle pc)
  else
    match s.takeAsync g with
    | some t => .next (t.settle pc)
    | none => s.bundleTurn g

/-- One turn of core g: what it does in its next cycle. -/
def State.turn (s : State) (g : Nat) : Step :=
  if numCores ≤ g then .next s
  else
    let s := { s with cur := g }
    if (s.core g).strand.isNone then .next (if s.pairIs g .paired || s.pairIs g .exchanging then s else s.chargeIdle g)
    else if (s.quad (quadOf g)).dbg && !(s.core g).midBundle then .next (s.haltedTurn g)
    else
      let s := ((s.catchUp g).sfuReturn g).acceptCmds g
      (s.updCore g fun c => { c.landBy c.cycle with flow := .run, xl := 0 }).runTurn g

/-- What the agenda asks for, or the turn of the core at work. -/
def State.deed (s : State) : Step :=
  if !s.powered then
    match s.agenda with
    | .event .packageReset :: r => exec .packageReset { s with agenda := r }
    | _ => .fault .powerRemoved
  else
    match s.agenda with
    | [] => s.turn s.cur
    | .core g :: r => { s with agenda := r }.turn g
    | .event i :: r => if i.isEvent then exec i { s with agenda := r } else .refused .turnNotEvent
    | .pass ns :: r => .next { s with agenda := r, clock := s.clock + ns * unitsPerNs }
    | .media k n :: r => .next ({ s with agenda := r }.develop k n)

/-- The same, with the contexts' queue and mailbox areas in memory brought up to date. -/
def State.advance (s : State) : Step :=
  match s.deed with
  | .next t => .next (s.mirror t)
  | o => o

/-! ## Placing an instruction where the next step fetches it -/

/-- A strand of context 1 runs on core 0 in supervisor mode at address 0x1000 of region 0, whose first pages the TLB
maps to themselves with every permission. -/
def hostStrand : Strand :=
  let r : Rec :=
    { pc := 0x1000, me := false, pl := true, launch := 0, index := 0, afq := 0, afv := false, age := 0, cx := false, spl := false,
      kind := 0, pr := false, lmask := 15, pri := 0, spix := 0, xs := [], bad := false }
  { sid := 0, ctx := 1, r := r, last := r, slot := 0, pri := 0, since := 0, die := 0, layer := 0, cancel := none, preempt := false, pend := false, retired := 0,
    watchdog := none, spilling := false }

def placeCells (bs : List Byte) : List Host.Cell := ((List.range bs.length).zip bs).map fun p => (0x1000 + p.1, p.2)

/-- Bytes placed at 0x1000, and a core that fetches there. -/
def State.place (s : State) (bs : List Byte) : State :=
  let e : TlbEntry := { ctx := 1, vpage := 0, p := 21, frame := 0, perm := 0xDD, mig := false }
  let s := { s with cur := 0, agenda := [], powered := true, mem := s.mem.wrs (placeCells bs) }
  let s := s.updCtx 1 fun c => { c with st := .live }
  (s.updCore 0 fun c =>
    { c with
      strand := some hostStrand
      tlb := [e]
      fetchBuf := []
      loopBuf := []
      micro := none
      flow := .run
      contained := false
      pair := Pair.single
      arch := { c.arch with pc := 0x1000, status := 2, vfault := none, mfault := none,
                            copies := { c.arch.copies with raf := SMap.set c.arch.copies.raf 0 (2 ^ 63 + 2 ^ 57) } } }).updQuad 0 fun q =>
    { q with dbg := false }

end Sys2Proof.Machine
end

