-- ==== Sys2Proof/Machine/Step.lean ====
section
/-! DEFINITION. One step of the package: what the agenda asks for next, or a turn of the core at work. -/

namespace Sys2Proof.Machine

def step (s : State) : Host.Outcome State Fault Refusal := s.advance

/-- `s` with the instruction whose bits are `w`, least significant first, where the next step fetches. -/
def State.withFetchWord (s : State) (nbits w : Nat) : State := s.place (leBytes 8 (tableBundle nbits w))

end Sys2Proof.Machine
end

