-- ==== Sys2Proof/Safety.lean ====
section
/-! DEFINITION. The terms that statements about this machine are made in: what one instruction may change, the
conditions under which accesses complete, and what a bundle's effect is. -/

namespace Sys2Proof.Machine

/-! ## Integers by their values -/

/-- The low bits of a word, extended as R91 says. -/
def extendTo (t : IType) (z : Word) : Word :=
  if t.signed then (z.setWidth t.width).signExtend 64 else (z.setWidth t.width).setWidth 64

/-- The number that the low bits of a word are in a type. -/
def valueOf (t : IType) (z : Word) : Int :=
  if t.signed then (z.setWidth t.width).toInt else ((z.setWidth t.width).toNat : Int)

/-- The least and the greatest number of a type. -/
def leastOf (t : IType) : Int := if t.signed then -(2 ^ (t.width - 1) : Int) else 0
def greatestOf (t : IType) : Int := if t.signed then 2 ^ (t.width - 1) - 1 else 2 ^ t.width - 1

/-- A word is the extension of a number of a type. -/
def Holds (t : IType) (z : Word) (i : Int) : Prop := valueOf t z = i ∧ z = extendTo t z

/-! ## Frames -/

/-- Outside the core at work nothing has changed, but for the counter that free values and names are drawn from. -/
def OnlyMe (s t : State) : Prop :=
  t.cur = s.cur ∧ (∀ g, g ≠ s.cur → t.core g = s.core g) ∧ { t with cores := s.cores, stamp := s.stamp } = s

/-- No byte of any memory or scratchpad has changed, neither at its home nor as the agents of a die see it. -/
def SameMemory (s t : State) : Prop :=
  (∀ k, t.mem.rd k = s.mem.rd k) ∧ (∀ d k, t.dieByte d k = s.dieByte d k)

/-- Every register and control register of the core at work but its list of results in flight. -/
def OnlyInFlight (s t : State) : Prop :=
  OnlyMe s t ∧ SameMemory s t ∧ { t.me with pend := s.me.pend } = s.me

/-! ## When accesses complete -/

/-- A data access of the core at work of n bytes at ea, read or written, passes every check of its issue (R52, R121, R136, R139,
R141, R260, R344, R352): it ends in state t, with the translations of its pages, in memory, at the given keys. -/
structure Accessible (s : State) (ea : Word) (n : Nat) (write : Bool) (ctl : CtlRule) (t : State) (tr : List (Nat × Xlated)) : Prop where
  passes : s.access s.cur ea n (if write then .write else .read) [if write then 3 else 2] ctl = (t, .ok tr)
  memory : isControl ((keysOf tr ea.toNat n).headD 0) = false
  free : (if write then t.ownWait t.cur none (keysOf tr ea.toNat n) else t.readWait t.cur (keysOf tr ea.toNat n)) = none
  clean : t.poisonAt t.cur write (keysOf tr ea.toNat n) = none
  stays : t.migrateKey t.cur tr = none

/-- Where LD and ST of at least four aligned bytes may reach control space (R139). -/
def ctlRuleOf (n : Nat) (ea : Word) : CtlRule := if 4 ≤ n ∧ ea.toNat % n = 0 then .allow else .align

/-- An annotated access is aligned to its size (R139). -/
def AlignedFor (o : MemOrd × Scope) (n : Nat) (ea : Word) : Prop := o.1 = .none ∨ ea.toNat % n = 0

/-- A load goes on: it may be read, its acquire does not wait, and its bytes are there (R141, R142, R236): those of one line in one
read; of an access that crosses a 32-byte line the first part's, held since the turn before, and then the second part's (R139). -/
structure LoadReady (s : State) (ea : Word) (n : Nat) (o : MemOrd × Scope) (ctl : CtlRule) (t : State) (bs : List Byte) (pa : Nat) : Prop where
  aligned : AlignedFor o n ea
  ready : ∃ u tr, Accessible s ea n false ctl u tr
    ∧ (MemOrd.isAcq o.1 = true → u.acquireWait u.cur o.2 (keysOf tr ea.toNat n) = false)
    ∧ (if n ≤ 32 - ea.toNat % 32 then u.coreRead u.cur ea n .read .align = (t, .ok (bs, pa))
       else ∃ b0 b1, u.me.arch.wait.part = some b0 ∧ bs = b0 ++ b1
         ∧ u.coreRead u.cur (ea + BitVec.ofNat 64 (32 - ea.toNat % 32)) (n - (32 - ea.toNat % 32)) .read .align = (t, .ok (b1, pa)))

/-- The first part of a load that crosses a line is read: b0 in state t, the second part to come (R139). -/
structure LoadSplits (s : State) (ea : Word) (n : Nat) (o : MemOrd × Scope) (ctl : CtlRule) (t : State) (b0 : List Byte) : Prop where
  aligned : AlignedFor o n ea
  crosses : 32 - ea.toNat % 32 < n
  ready : ∃ u tr pa, Accessible s ea n false ctl u tr ∧ u.me.arch.wait.part = none
    ∧ (MemOrd.isAcq o.1 = true → u.acquireWait u.cur o.2 (keysOf tr ea.toNat n) = false)
    ∧ u.coreRead u.cur ea (32 - ea.toNat % 32) .read .align = (t, .ok (b0, pa))

/-- A store goes on: its bytes may be written and the store buffer has room (R141, R142, R429). -/
structure StoreReady (s : State) (ea : Word) (bs : List Byte) (o : MemOrd × Scope) (ctl : CtlRule) (t : State) : Prop where
  aligned : AlignedFor o bs.length ea
  ready : ∃ u tr, Accessible s ea bs.length true ctl u tr
    ∧ u.coreWrite u.cur ea bs (if MemOrd.isRel o.1 then some o.2 else none) .align = (t, .ok ())

end Sys2Proof.Machine
end

