-- ==== Sys2Proof/Certificates/Slice0/Obligations.lean ====
section
/-! DEFINITION. The statements about this model for the provers: the reset state, decoding and stepping, every
instruction's own effect, frames, and what every step keeps. -/

open Sys2Proof Sys2Proof.Machine

/-! ## Scalar instructions -/

/-- For every integer type, ADD, SUB, MUL, MULH, DIV, MIN and MAX complete in every state: each puts one result for x[d] in flight, with the latency of R34 (1, 3 for MUL and MULH, 18 or 34 for DIV), and that result holds, extended by the type's signedness, the exact sum, difference, product, upper half of the product, lesser or greater operand, reduced modulo 2^w, or clamped to the type's range with .sat. DIV truncates toward zero. Division by zero gives all ones; the least signed number by -1 gives itself. -/
def Obligations.IntegerArithmetic : Prop :=
  ∀ (s : State) (d a b : Reg) (t : IType),
    let x := valueOf t (s.me.x a)
    let y := valueOf t (s.me.x b)
    let clamp (i : Int) : Int := max (leastOf t) (min (greatestOf t) i)
    exec (.add d a b false t) s = .next (s.pushX d (extendTo t (s.me.x a + s.me.x b)) 1)
    ∧ exec (.sub d a b false t) s = .next (s.pushX d (extendTo t (s.me.x a - s.me.x b)) 1)
    ∧ exec (.mul d a b false t) s = .next (s.pushX d (extendTo t (s.me.x a * s.me.x b)) 3)
    ∧ (∃ z, Holds t z (clamp (x + y)) ∧ exec (.add d a b true t) s = .next (s.pushX d z 1))
    ∧ (∃ z, Holds t z (clamp (x - y)) ∧ exec (.sub d a b true t) s = .next (s.pushX d z 1))
    ∧ (∃ z, Holds t z (clamp (x * y)) ∧ exec (.mul d a b true t) s = .next (s.pushX d z 3))
    ∧ (∃ z, Holds t z ((x * y) / 2 ^ t.width) ∧ exec (.mulh d a b t) s = .next (s.pushX d z 3))
    ∧ (∃ z, Holds t z (if y = 0 then (if t.signed then -1 else greatestOf t)
          else if x = leastOf t ∧ y = -1 then x else x.tdiv y)
        ∧ exec (.div d a b t) s = .next (s.pushX d z (if t.width = 64 then 34 else 18)))
    ∧ (∃ z, Holds t z (min x y) ∧ exec (.min d a b t) s = .next (s.pushX d z 1))
    ∧ (∃ z, Holds t z (max x y) ∧ exec (.max d a b t) s = .next (s.pushX d z 1))

/-- MOVI, LEA, AND, OR, XOR, SHL, SHR, BITS, BFX, CMP, SEL and PRED complete in every state with one result in flight, of latency 1. MOVI: the immediate, sign-extended, shifted left by 16 with half = 1. LEA: x[a] plus the sign-extended immediate. SHL: by (x[b] + mod) mod 64. SHR: the w-bit operand moved right by x[b]<5:0>, filled by its type. BITS: .popc gives the number of ones, .clz the number of zeros above the highest one, .ctz the number of zeros below the lowest one (64 for zero), .rev the bits in reverse order. BFX: min(x[b]<14:8>, 64 − pos) bits from pos = x[b]<5:0>. CMP: the condition on the two numbers of the type. SEL: x[a] when q XOR sense = 1, else x[b]. PRED: whether x[a] AND x[b] has a bit, XOR invert. -/
def Obligations.MovesLogicAndShifts : Prop :=
  ∀ (s : State) (d a b : Reg) (q p : QReg) (t : IType) (imm : BitVec 16) (off : BitVec 11) (k : BitVec 5) (sense : Bool) (cond : Cond),
    let x := s.me.x a
    let y := s.me.x b
    exec (.movi d imm false) s = .next (s.pushX d (imm.signExtend 64) 1)
    ∧ exec (.movi d imm true) s = .next (s.pushX d (imm.signExtend 64 * 65536) 1)
    ∧ exec (.lea d a off) s = .next (s.pushX d (x + off.signExtend 64) 1)
    ∧ exec (.and d a b) s = .next (s.pushX d (x &&& y) 1)
    ∧ exec (.or d a b) s = .next (s.pushX d (x ||| y) 1)
    ∧ exec (.xor d a b) s = .next (s.pushX d (x ^^^ y) 1)
    ∧ exec (.shl d a b k) s = .next (s.pushX d (BitVec.ofNat 64 (x.toNat * 2 ^ ((y.toNat + k.toNat) % 64))) 1)
    ∧ exec (.shr d a b t) s = .next (s.pushX d (extendTo t
        (if t.signed then ((x.setWidth t.width).sshiftRight (y.toNat % 64)).signExtend 64
         else ((x.setWidth t.width).ushiftRight (y.toNat % 64)).setWidth 64)) 1)
    ∧ (∃ n : Nat, n = ((List.range 64).filter fun i => x.getLsbD i).length
      ∧ exec (.bits d a .popc) s = .next (s.pushX d (BitVec.ofNat 64 n) 1))
    ∧ (∃ n : Nat, n ≤ 64 ∧ (∀ i, i < n → x.getLsbD (63 - i) = false) ∧ (n < 64 → x.getLsbD (63 - n) = true)
      ∧ exec (.bits d a .clz) s = .next (s.pushX d (BitVec.ofNat 64 n) 1))
    ∧ (∃ n : Nat, n ≤ 64 ∧ (∀ i, i < n → x.getLsbD i = false) ∧ (n < 64 → x.getLsbD n = true)
      ∧ exec (.bits d a .ctz) s = .next (s.pushX d (BitVec.ofNat 64 n) 1))
    ∧ (∃ z : Word, (∀ i, i < 64 → z.getLsbD i = x.getLsbD (63 - i)) ∧ exec (.bits d a .rev) s = .next (s.pushX d z 1))
    ∧ (∃ z : Word, (∀ i, i < 64 → z.getLsbD i =
          (decide (i < min (y.toNat / 256 % 128) (64 - y.toNat % 64)) && x.getLsbD (y.toNat % 64 + i)))
        ∧ exec (.bfx d a b) s = .next (s.pushX d z 1))
    ∧ (∃ v, exec (.cmp cond q a b t) s = .next (s.pushQ q v 1)
        ∧ (v = true ↔ match cond with
            | .eq => valueOf t x = valueOf t y | .ne => valueOf t x ≠ valueOf t y
            | .lt => valueOf t x < valueOf t y | .le => valueOf t x ≤ valueOf t y
            | .gt => valueOf t y < valueOf t x | .ge => valueOf t y ≤ valueOf t x
            | .un => False))
    ∧ exec (.sel d a b sense p) s = .next (s.pushX d (if (s.me.q p ^^ sense) = true then x else y) 1)
    ∧ (∃ v, exec (.pred q a b sense) s = .next (s.pushQ q (v ^^ sense) 1)
        ∧ (v = true ↔ ∃ i, i < 64 ∧ x.getLsbD i = true ∧ y.getLsbD i = true))

/-- HASH completes in every state with latency 2. Its result is the remainder that the CRC-64 of ECMA-182, most significant bit first and with no reflection and no inversion, leaves of the state x[a] and the 64 data bits of x[b], byte 0 entering first and each byte's most significant bit first. -/
def Obligations.HashFolds : Prop :=
  ∀ (s : State) (d a b : Reg),
    let x := s.me.x a
    (∃ z : Word,
        z = (List.range 64).foldl (fun (c : Word) i =>
              let fb := c.getLsbD 63 ^^ (s.me.x b).getLsbD (8 * (i / 8) + (7 - i % 8))
              (c <<< 1) ^^^ (if fb then 0x42F0E1EBA9EA3693#64 else 0#64)) x
        ∧ exec (.hash d a b) s = .next (s.pushX d z 2))

/-- FADD, FMUL, FFMA, FDIV, FCMP, FCVT and FMNX complete in every state. Each puts one result in flight with the flags it raises (R79) and the latency of R34: 4 for FADD, FMUL and FFMA, 12 or, for .f64, 24 for FDIV, 2 for FCMP, FCVT and FMNX. An .sr instruction advances SRSEED by one step of R82 and rounds with the value that the step gives; every other instruction leaves SRSEED alone. The values are those of the one-rounding operations of the formats in Flags.lean. -/
def Obligations.ScalarFloats : Prop :=
  ∀ (s : State) (d a b : Reg) (q : QReg) (f g : FFmt) (r : Rnd) (cond : Cond) (mx ovf : Bool),
    let x := (s.me.x a).toNat
    let y := (s.me.x b).toNat
    let k := fkOfScalar f
    let u := (xs s.me.arch.srseed).toNat
    let s' := if r = .sr then s.updMe fun c => { c with arch := { c.arch with srseed := xs c.arch.srseed } } else s
    let out (n : Nat) (v : Nat × FpFlags) : Step := .next (s'.pushXF d (BitVec.ofNat 64 v.1) n v.2)
    exec (.fadd d a b f r) s = out 4 (fAdd k r u x y)
    ∧ exec (.fmul d a b f r) s = out 4 (fMul k r u x y)
    ∧ exec (.ffma d a b f r) s = out 4 (fFma k r u x y (s.me.x d).toNat)
    ∧ exec (.fdiv d a b f r) s = out (match f with | .f64 => 24 | _ => 12) (fDiv k r u x y)
    ∧ exec (.fcvt d a ovf f g r) s = out 2 (fcvt f g ovf r u x)
    ∧ exec (.fmnx d a b f mx) s =
        .next (s.pushXF d (BitVec.ofNat 64 (fMinMax k mx x y).1) 2 (fMinMax k mx x y).2)
    ∧ exec (.fcmp cond q a b f) s =
        .next (s.pushQF q (fCmp cond (decodeF k x) (decodeF k y)).1 2 (fCmp cond (decodeF k x) (decodeF k y)).2)

/-- A result put in flight at core cycle c with latency n is not seen by a reader before cycle c + n, when no other write of the same register is in flight, and is seen from then on: x[d] holds it, except that x0 stays zero, and q0 stays one. Landing one result changes no other x or q register, no v register, no CSR but FPST, which takes the OR of the flags raised. -/
def Obligations.ResultsLand : Prop :=
  ∀ (c : Core) (dst : PDst) (v : Word) (n : Nat) (fl : Option FpFlags), c.pend = [] →
    let c1 := c.push dst v n false fl
    (∀ t, t < c.cycle + n → (c1.landBy t).arch = c.arch)
    ∧ ∀ t, c.cycle + n ≤ t →
      let a := (c1.landBy t).arch
      (c1.landBy t).pend = []
      ∧ (∀ k, a.rx k = match dst with
          | .x m => if k = m ∧ k ≠ 0 then v else c.arch.rx k
          | .q _ => c.arch.rx k)
      ∧ (∀ k, k < 8 → a.rq k = match dst with
          | .q m => if k = m ∧ k ≠ 0 then v.getLsbD 0 else c.arch.rq k
          | .x _ => c.arch.rq k)
      ∧ a.fpst = (match fl with | some f => c.arch.fpst ||| f | none => c.arch.fpst)
      ∧ { a with x := c.arch.x, q := c.arch.q, fpst := c.arch.fpst } = c.arch

/-- When an A-slot scalar instruction gives a next state, no register of any core has changed but the core at work's list of results in flight, which keeps everything it held and grows by at most one entry, and SRSEED where an .sr form draws. No other core, no control register, no accumulator, no byte of memory changes, and the counter of free values does not move. -/
def Obligations.ScalarFrame : Prop :=
  ∀ (s t : State) (i : Instr),
    (match i with
      | .anop | .movi .. | .add .. | .sub .. | .mul .. | .mulh .. | .div .. | .and .. | .or .. | .xor .. | .shl .. | .shr .. | .min .. | .max ..
      | .cmp .. | .sel .. | .bits .. | .bfx .. | .pred .. | .lea .. | .hash .. | .fadd .. | .fmul .. | .ffma .. | .fdiv .. | .fcmp .. | .fcvt ..
      | .fmnx .. | .nop | .litx .. => True
      | _ => False) →
    exec i s = .next t →
      OnlyMe s t ∧ SameMemory s t ∧ t.stamp = s.stamp
      ∧ (∃ l, t.me.pend = s.me.pend ++ l ∧ l.length ≤ 1)
      ∧ { t.me with pend := s.me.pend, arch := { t.me.arch with srseed := s.me.arch.srseed } } = s.me
      ∧ (match i with
          | .fadd _ _ _ _ r | .fmul _ _ _ _ r | .ffma _ _ _ _ r | .fdiv _ _ _ _ r | .fcvt _ _ _ _ _ r =>
            r = .sr ∨ t.me.arch.srseed = s.me.arch.srseed
          | _ => t.me.arch.srseed = s.me.arch.srseed)

/-! ## Control flow, traps, control and status registers -/

/-- BRA, CALL, JMP, RET, LITX, NOP and ANOP complete in every state, and raise no trap of their own. BRA and CALL are taken exactly when q XOR sense = 1, to PC + 8 times the sign-extended 18-bit or 32-bit offset; q0 reads 1, so that BRA q0 with sense 0 always branches and with sense 1 never does. A taken CALL puts PC + 8 in flight to x63, and one that is not taken writes nothing. JMP goes to x[a] plus its sign-extended displacement, computed before it puts PC + 8 in flight to x[d]; RET goes to x[a]. LITX gives the sign-extended literal with a = 0, else x[a]<31:0> above the literal. -/
def Obligations.BranchesAndLiterals : Prop :=
  ∀ (s : State) (q : QReg) (sense : Bool) (n : BitVec 18) (f : BitVec 32) (d a : Reg) (disp : BitVec 10) (lit : BitVec 32),
    let pc := s.me.arch.pc
    let to' (s : State) (p : Word) : State := s.updMe fun c => { c with npc := p, taken := true }
    let near := pc + 8 * n.signExtend 64
    let far := pc + 8 * f.signExtend 64
    ((s.me.q q ^^ sense) = true →
      exec (.bra q sense (.near n)) s = .next (to' s near) ∧ exec (.bra q sense (.far f)) s = .next (to' s far)
      ∧ exec (.call q sense (.near n)) s = .next (to' (s.pushX 63 (pc + 8) 1) near)
      ∧ exec (.call q sense (.far f)) s = .next (to' (s.pushX 63 (pc + 8) 1) far))
    ∧ ((s.me.q q ^^ sense) = false →
      exec (.bra q sense (.near n)) s = .next s ∧ exec (.bra q sense (.far f)) s = .next s
      ∧ exec (.call q sense (.near n)) s = .next s ∧ exec (.call q sense (.far f)) s = .next s)
    ∧ (s.me.q 0 ^^ false) = true ∧ (s.me.q 0 ^^ true) = false
    ∧ exec (.jmp d a (.near disp)) s = .next (to' (s.pushX d (pc + 8) 1) (s.me.x a + disp.signExtend 64))
    ∧ exec (.jmp d a (.far f)) s = .next (to' (s.pushX d (pc + 8) 1) (s.me.x a + f.signExtend 64))
    ∧ exec (.ret a) s = .next (to' s (s.me.x a))
    ∧ exec (.litx d 0 lit) s = .next (s.pushX d (lit.signExtend 64) 1)
    ∧ (a ≠ 0 → exec (.litx d a lit) s = .next (s.pushX d ((((s.me.x a).setWidth 32 : BitVec 32) ++ lit : BitVec 64)) 1))
    ∧ exec .nop s = .next s ∧ exec .anop s = .next s

/-- LOOP outside trap mode and outside a microprogram, with LCNT = 0, completes: for a zero count it transfers control to PC + 8 × (imm10 + 1); for a count n it sets LBEG to PC + 8, LEND to PC + 8 × imm10 and LCNT to n. With LCNT ≠ 0, in trap mode or in a microprogram it traps ILLEGAL. After a bundle at LEND that completed outside trap mode without a taken branch, LCNT > 1 counts down and control goes to LBEG, else LCNT becomes 0 and control goes to LEND + 8. A taken branch, in either mode, to a target outside [LBEG, LEND] sets LCNT to 0, and one inside leaves it; the return of RFT leaves it wherever it goes. -/
def Obligations.CountedLoops : Prop :=
  (∀ (s : State) (a : Reg) (n : BitVec 10), s.me.arch.lcnt = 0 → s.me.arch.tm = false → s.me.micro = none →
    let pc := s.me.arch.pc
    (s.me.x a = 0 → exec (.loop a n) s = .next (s.updMe fun c => { c with npc := pc + 8 * (n.setWidth 64 + 1), taken := true }))
    ∧ (s.me.x a ≠ 0 → exec (.loop a n) s = .next (s.updMe fun c =>
        { c with arch := { c.arch with lbeg := pc + 8, lend := pc + 8 * n.setWidth 64, lcnt := s.me.x a }, loopBuf := [] })))
  ∧ (∀ (s : State) (a : Reg) (n : BitVec 10), (s.me.arch.lcnt ≠ 0 ∨ s.me.arch.tm = true ∨ s.me.micro ≠ none) →
      exec (.loop a n) s = .next (s.trap cILLEGAL s.me.bundle))
  ∧ (∀ c : Core, c.taken = false → c.arch.lcnt ≠ 0 →
      let r := (c.loopNext c.arch.lend false false false).1
      (1 < c.arch.lcnt.toNat → r.npc = c.arch.lbeg ∧ r.arch.lcnt = c.arch.lcnt - 1)
      ∧ (c.arch.lcnt = 1 → r.npc = c.arch.lend + 8 ∧ r.arch.lcnt = 0))
  ∧ (∀ (c : Core) (pc : Word) (tm : Bool), c.taken = true →
      let r := (c.loopNext pc tm false false).1
      r.npc = c.npc
      ∧ (c.arch.lbeg ≤ c.npc ∧ c.npc ≤ c.arch.lend → r.arch = c.arch)
      ∧ (¬ (c.arch.lbeg ≤ c.npc ∧ c.npc ≤ c.arch.lend) → r.arch = { c.arch with lcnt := 0 })
      ∧ (c.loopNext pc tm false true).1.npc = c.npc ∧ (c.loopNext pc tm false true).1.arch = c.arch)

/-- MACRO with a valid entry of the quad's control store, outside a microprogram, completes: the run starts with the entry's first LEN + 1 bundles, a bundle that was never written being zero, and with the fields d, a and b as parameters. With an invalid entry, or inside a microprogram, it traps ILLEGAL. -/
def Obligations.MacroStarts : Prop :=
  ∀ (s : State) (d a b : Reg) (e : MacroSel),
    let n := match e with | .near k => k.toNat | .far k => k.toNat
    let x := SMap.get (s.quad (quadOf s.cur)).store { image := [], desc := 0 } n
    (bitAt x.desc 63 = true → s.me.micro = none →
      exec (.runMacro d a b e) s = .next (s.updMe fun c =>
        { c with micro := some { entry := n, pc := s.me.arch.pc, d := d, a := a, b := b,
                                 image := (List.range (fld x.desc 3 0 + 1)).map fun i => (x.image[i]?).getD 0 } }))
    ∧ ((bitAt x.desc 63 = false ∨ s.me.micro ≠ none) → exec (.runMacro d a b e) s = .next (s.trap cILLEGAL s.me.bundle))

/-- Outside trap mode, TRAP and DBRK take the trap SYSCALL or BREAK of the bundle at work. Trap entry lets every result in flight land, saves STATUS in TSTAT and the bundle's address in TPC, sets TCAUSE to the cause and TVAL to the immediate, zero-extended, sets STATUS.TM and STATUS.PL, clears STATUS.MOP and STATUS.BPS and leaves every other bit of STATUS, and goes to TVEC with its low three bits zero. Nothing else of the core's registers changes but what a cut wait forgets, and no other core and no memory changes. -/
def Obligations.TrapEntry : Prop :=
  ∀ (s : State) (imm : BitVec 10), s.me.arch.tm = false →
    ∀ (i : Instr) (cause : Nat), ((i = .trap imm ∧ cause = 0x11) ∨ (i = .dbrk imm ∧ cause = 0x10)) →
      ∃ t, exec i s = .next t ∧ OnlyMe s t ∧ SameMemory s t
        ∧ (let a := s.me.landEvery.arch
           let b := t.me.arch
           b.tstat = a.status ∧ b.tpc = s.me.arch.pc ∧ b.tcause = BitVec.ofNat 64 cause ∧ b.tval = imm.setWidth 64
           ∧ b.pc = a.copies.tvec &&& ~~~7#64 ∧ t.me.npc = b.pc
           ∧ (∀ k, k < 64 → bitAt b.status k = if k = 0 ∨ k = 1 then true else if k = 2 ∨ (19 ≤ k ∧ k ≤ 23) then false else bitAt a.status k)
           ∧ { b with tstat := a.tstat, tpc := a.tpc, tcause := a.tcause, tval := a.tval, status := a.status, pc := a.pc, wait := a.wait } = a
           ∧ t.me.pend = [] ∧ t.me.micro = none)

/-- In trap mode a synchronous trap takes no trap entry: the core is contained for reason 2 with the cause, its strand stops, and the core holds none from then on. In trap mode no asynchronous cause is pending for the core but a watchdog that expired in that mode. Outside trap mode, the cause that is due is taken before the next bundle with TPC holding its address, and entry writes TPC, TCAUSE, TVAL and TSTAT. -/
def Obligations.DoubleTrap : Prop :=
  (∀ (s : State) (cause : Nat) (val : Word), s.me.arch.tm = true →
      s.trap cause val = (s.contain s.cur 2 cause 0).updCore s.cur (fun c => { c with flow := .trapped cause val })
      ∧ ((s.trap cause val).core s.cur).strand = none ∧ ((s.trap cause val).core s.cur).contained = true)
  ∧ (∀ (c : Core) (clock : Nat), c.arch.tm = true → c.arch.wait.wdTm = none → c.due clock = none)
  ∧ (∀ (c : Core) (clock : Nat) (v : Word), c.arch.tm = true → c.arch.wait.wdTm = some v → c.due clock = some (.trap 0x14 v))
  ∧ (∀ (s : State) (g cause : Nat) (val : Word), (s.core g).due s.clock = some (.trap cause val) → (s.core g).arch.tm = false →
      ∃ t, s.takeAsync g = some t ∧ (t.core g).arch.tpc = (s.core g).arch.pc ∧ (t.core g).arch.tcause = BitVec.ofNat 64 cause
        ∧ (t.core g).arch.tval = val ∧ (t.core g).arch.tm = true ∧ (t.core g).arch.tstat = (s.core g).arch.status)

/-- RFT in trap mode, once no load and no interlocked result is outstanding (neither of a C instruction nor of a VSFU, a VMOV to an x register or a q register that a vector instruction writes) and no open trap-bank batch still has queued entries, completes: every result in flight lands, STATUS becomes TSTAT with TM = 0, control goes to TPC, a queue's head stays held exactly while a fault of that queue is still pending, and the barrier arrival and the exchange that the interrupted bundle had made stand again. A return that leaves no trap-bank batch open changes nothing else; an open batch is closed, and MXFMT is pending. Outside trap mode RFT traps ILLEGAL. -/
def Obligations.ReturnFromTrap : Prop :=
  (∀ s : State, s.me.arch.tm = true → s.me.loads = [] → (∀ p ∈ s.me.pend, p.inter = true → p.land ≤ s.me.cycle) →
      (∀ e ∈ s.me.vwork, e.interlocks = false) → (∀ f ∈ s.me.arch.vfly, ∀ n, RegName.x n ∉ f.regs ∧ RegName.q n ∉ f.regs) →
      (s.me.trapOpen = true → ∀ e ∈ s.me.arch.mxq, e.trap = false) →
      ∃ t, exec .rft s = .next t ∧ OnlyMe s t ∧ t.me.npc = t.me.arch.tpc ∧ t.me.taken = true ∧ t.me.pend = []
        ∧ (let a := s.me.landEvery.arch
           t.me.arch.tpc = a.tpc
           ∧ (∀ k, k < 64 → bitAt t.me.arch.status k = if k = 0 then false else bitAt a.tstat k)
           ∧ (t.me.arch.vheld = true ↔ a.vfault ≠ none) ∧ (t.me.arch.mheld = true ↔ a.mfault ≠ none)
           ∧ { t.me.arch with status := a.status, vheld := a.vheld, mheld := a.mheld, wait := a.wait } = a
           ∧ t.me.arch.wait.bar = a.wait.outer.bar ∧ t.me.arch.wait.barArrived = a.wait.outer.bar.isSome
           ∧ t.me.arch.wait.barDone = a.wait.outer.barDone ∧ t.me.arch.wait.xchg = a.wait.outer.xchg
           ∧ t.me.arch.wait.xchgDone = a.wait.outer.xchgDone)
        ∧ (s.me.trapOpen = false → t.me.tbank = s.me.tbank ∧ t.me.mxfmt = s.me.mxfmt)
        ∧ (s.me.trapOpen = true → t.me.mxfmt = true ∧ t.me.tbank.iopen = []))
  ∧ (∀ s : State, s.me.arch.tm = false → exec .rft s = .next (s.trap cILLEGAL s.me.bundle))

/-- MODE in supervisor mode hands the mode to the next division; in user mode it traps PRIV. MODE.me, at every privilege, writes STATUS.ME and nothing else. ICSYNC with an empty store buffer discards the fetch and loop buffers and fetches the bundle at PC + 8 anew. PRIO puts the old priority in flight to x[d], interlocked, and sets the new one, imm with a = 0 or x[a]<6:0>, in supervisor mode always and in user mode when it is no higher; a user's raise traps PRIV. -/
def Obligations.ModeAndPriority : Prop :=
  ∀ (s : State) (m : BitVec 2) (e : Bool) (d a : Reg) (imm : BitVec 7),
    (s.me.arch.pl = true → exec (.mode m) s = .next { s with power := { s.power with nextMode := m.toNat, moded := true } })
    ∧ (s.me.arch.pl = false → ∃ v, exec (.mode m) s = .next ({ s with stamp := s.stamp + 1 }.trap 0x02 v))
    ∧ exec (.modeMe e) s = .next (s.updMe fun c => { c with arch := { c.arch with status := setBit c.arch.status 17 e } })
    ∧ (s.me.sb = [] → exec .icsync s = .next (s.updMe fun c => { c with fetchBuf := [], loopBuf := [], npc := c.arch.pc + 8, taken := true }))
    ∧ (∀ t, s.me.strand = some t →
        let new := if a = 0 then imm.toNat else (s.me.x a).toNat % 128
        (s.me.arch.pl = true ∨ new ≤ t.pri →
          exec (.prio d a imm) s = .next ((s.updMe fun c => { c with strand := some { t with pri := new } }).pushXI d (BitVec.ofNat 64 t.pri)))
        ∧ (s.me.arch.pl = false → t.pri < new → ∃ v, exec (.prio d a imm) s = .next ({ s with stamp := s.stamp + 1 }.trap 0x02 v)))

/-- CSRR of a number that the map lists, in supervisor mode or for a number the map opens to users, completes with the CSR's value in flight to x[d], interlocked; FPST waits for flags in flight. A number that is not listed traps ILLEGAL, and a supervisor's number in user mode traps PRIV. TIME reads whole nanoseconds, CYCLE the core's own cycle count. -/
def Obligations.CsrReads : Prop :=
  ∀ (s : State) (d : Reg) (n : BitVec 10),
    (csrListed n.toNat = true → (s.me.arch.pl = true ∨ csrSup n.toNat = false) → (n = 0x10 → s.me.flagsPending = false) →
      exec (.csrr d n) s = .next (s.pushXI d (s.csrGet s.cur n.toNat)))
    ∧ (csrListed n.toNat = false → exec (.csrr d n) s = .next (s.trap cILLEGAL s.me.bundle))
    ∧ (csrListed n.toNat = true → s.me.arch.pl = false → csrSup n.toNat = true →
        ∃ v, exec (.csrr d n) s = .next ({ s with stamp := s.stamp + 1 }.trap 0x02 v))
    ∧ s.csrGet s.cur 0x50 = BitVec.ofNat 64 (s.clock / 11088) ∧ s.csrGet s.cur 0x51 = BitVec.ofNat 64 s.me.cycle

/-- CSRW in supervisor mode completes for the CSRs that it writes at once: a write followed by a read gives the value with the bits that the CSR does not hold cleared, the old value goes to x[d], interlocked, when d ≠ 0, and TIME, CYCLE and the identity CSRs keep their values. STATUS takes only CHK. VSHAPE takes a shape within its limits, and another shape traps ILLEGAL. SRSEED takes the low 32 bits, zero stored as 1. -/
def Obligations.CsrSwaps : Prop :=
  ∀ (s : State) (d a : Reg) (n : BitVec 10), s.me.arch.pl = true →
    let v := s.me.x a
    let t := fun u : State => if d = 0 then u else u.pushXI d (s.csrGet s.cur n.toNat)
    (n.toNat ∈ [0x01, 0x02, 0x03, 0x04, 0x05, 0x06, 0x07, 0x08, 0x09, 0x12, 0x13, 0x14, 0x5A, 0x60, 0x69, 0x6A, 0x78, 0x79, 0x7A] →
      ∃ u, exec (.csrw d a n) s = .next (t u) ∧ OnlyMe s u ∧ SameMemory s u
        ∧ u.csrGet s.cur n.toNat = (match n.toNat with
            | 0x01 => v &&& ~~~7#64 | 0x02 => v &&& 0x3F#64 | 0x05 => v &&& 0xFF0006#64
            | 0x5A => telKeep v | 0x60 => v &&& 0x000FFFFFFFFFFFE0#64 | 0x6A => (v.setWidth 32).setWidth 64 | 0x7A => v &&& 15#64
            | _ => v))
    ∧ (n.toNat ∈ [0x50, 0x51, 0x70, 0x71, 0x72] → exec (.csrw d a n) s = .next (t s))
    ∧ (n = 0x00 → ∃ u, exec (.csrw d a n) s = .next (t u) ∧ ∀ k, k < 64 → bitAt (u.csrGet s.cur 0) k = if k = 16 then v.getLsbD 16 else bitAt s.me.arch.status k)
    ∧ (n = 0x11 → ∃ u, exec (.csrw d a n) s = .next (t u) ∧ u.csrGet s.cur 0x11 = if v.setWidth 32 = (0 : BitVec 32) then 1 else (v.setWidth 32 : BitVec 32).setWidth 64)
    ∧ (n = 0x20 →
        let w := v &&& 0x3FF3FF3#64
        (vRows w ≠ 0 → vCols w ≠ 0 → vRows w * vCols w * vBytes w ≤ 512 →
          exec (.csrw d a n) s = .next (t (s.updArch fun x => { x with vshape := w })))
        ∧ ((vRows w = 0 ∨ vCols w = 0 ∨ 512 < vRows w * vCols w * vBytes w) →
          exec (.csrw d a n) s = .next (s.trap cILLEGAL s.me.bundle)))

/-- VSHAPE, TSHAPEn, STASHCFG, RAFn, ACCTCTL and ACCTBASE, SLOTTBL, SRSEED and INJCTL writes by the core at work are CSRW of numbers 0x20, 0x28 + n, 0x30, 0x40 + n, 0x58 and 0x59, 0x68, 0x11 and 0x61. In supervisor mode each completes, with its CSR changed and the old value in flight to x[d] when d ≠ 0, when: the shape is within its limits (and the MXU queue has room, for TSHAPE); the core's earlier accesses are performed (for STASHCFG, RAF and the tensor heap window); the stash size is at most the quad's SRAM and no live journal is in the way; the RAF's page size is not reserved; SLOTTBL names no windows, or the table can be read and its windows are valid. -/
def Obligations.CsrRowsComplete : Prop :=
  ∀ (s : State) (d a : Reg) (n3 : BitVec 3) (n4 : BitVec 4) (base : Bool), s.me.arch.pl = true →
    let v := s.me.x a
    let t := fun (n : Nat) (u : State) => if d = 0 then u else u.pushXI d (s.csrGet s.cur n)
    (vshapeOk (v &&& 0x3FF3FF3#64) = true →
      exec (.vshapeWrite d a) s = .next (t 0x20 (s.updArch fun x => { x with vshape := v &&& 0x3FF3FF3#64 })))
    ∧ (tshapeOk (layerOf s.cur) (v &&& 0x3FFFB#64) = true → s.me.arch.mxq.length < 8 →
      ∃ u, exec (.tshapeWrite n3 d a) s = .next (t (0x28 + n3.toNat) u) ∧ u.csrGet s.cur (0x28 + n3.toNat) = v &&& 0x3FFFB#64
        ∧ u.me.arch.mxq.length = s.me.arch.mxq.length + 1)
    ∧ (fld v 9 0 ≤ sramUnits (quadLayer (quadOf s.cur)) → s.accessesDone s.cur = true →
        (∀ lo, s.journalLow (quadOf s.cur) = some lo → lo ≤ (sramUnits (quadLayer (quadOf s.cur)) - fld v 9 0) * 4096) →
      ∃ u, exec (.stashcfgWrite d a) s = .next (t 0x30 u)
        ∧ (u.quad (quadOf s.cur)).stash = fld v 9 0 ∧ (u.quad (quadOf s.cur)).spad = sramUnits (quadLayer (quadOf s.cur)) - fld v 9 0)
    ∧ (fld v 58 56 < 5 → s.accessesDone s.cur = true →
      ∃ u, exec (.rafWrite n4 d a) s = .next (t (0x40 + n4.toNat) u) ∧ u.csrGet s.cur (0x40 + n4.toNat) = rafKeep v
        ∧ ∀ e ∈ u.me.tlb, e ∈ s.me.tlb ∧ (e.vpage <<< e.p) / 2 ^ 52 ≠ n4.toNat)
    ∧ (∃ u, exec (.acctctlWrite d a base) s = .next (t (if base then 0x59 else 0x58) u)
        ∧ u.csrGet s.cur (if base then 0x59 else 0x58) = (if base then pageField v else acctctlKeep v) ∧ u.me.acct.unflushed = [])
    ∧ (∀ w u, fld (slotKeep v) 4 0 ≤ 16 → s.readWindows s.cur (slotKeep v) = (u, .ok w) →
      exec (.slottblWrite d a) s = .next (t 0x68 ((u.updArch fun x => { x with slottbl := slotKeep v, windows := w }).pay u.cur cMEM
        ((pagesOf ((slotKeep v).toNat / 64 * 64) (16 * fld (slotKeep v) 4 0)).length - 1) u.me.arch.pc)))
    ∧ (∃ u, exec (.srseedWrite d a) s = .next (t 0x11 u) ∧ OnlyMe s u
        ∧ u.me.arch.srseed = if v.setWidth 32 = (0 : BitVec 32) then 1 else v.setWidth 32)
    ∧ (∃ u, exec (.injArm d a) s = .next (t 0x61 u) ∧ OnlyMe s u
        ∧ (bitAt u.me.injctl 0 = true ↔ bitAt v 0 = true ∧ fld v 2 1 ≠ 0 ∧ ∃ die, rangeOf (unalias s.me.injaddr.toNat) = .dram die)
        ∧ fld u.me.injctl 2 1 = fld v 2 1 ∧ bitAt u.me.injctl 3 = (bitAt s.me.injctl 3 && !bitAt v 0))

/-- ACCT of a context's counter gives the account block's count and, for the core's own layer, the core's counts not yet flushed; ACCT of the core gives the core's counter; a mark, of a core that records, ends the open runs of the core and in a pair those of both cores, and is recorded when the ring has space before and after that, and else dropped; of a core that does not record it changes nothing. TELEM gives a field of the die's latest sample: the energy of rail 0 to 4, the temperature of the core's region, the sample's time, the package's energy. XLAT gives the physical address of a translation with memory behind it that the kind may reach (no fetch and no engine reaches control space or a shut slice window), or bit 63 and the cause, FETCH for a fetch that fails in translation, and takes no trap; the address of a scratchpad byte, which the map gives none, is a free value (log entry 8). Its walk waits while the bridge does not carry it. The results are interlocked. -/
def Obligations.AccountsAndProbes : Prop :=
  ∀ (s : State) (d a : Reg) (layer : BitVec 2) (cause : BitVec 4) (item : BitVec 3) (k : XlatKind),
    exec (.acctCore d cause) s = .next (s.pushXI d (BitVec.ofNat 64 (SMap.get s.me.acct.counts 0 cause.toNat)))
    ∧ exec (.acctCtx d layer cause) s = .next (s.pushXI d (BitVec.ofNat 64
        (s.hwLe (s.me.ringBase + 8 * (16 * layer.toNat + cause.toNat)) 8
          + (if layer.toNat = layerOf s.cur then SMap.get s.me.acct.unflushed 0 (s.me.ctxNum * 16 + cause.toNat) else 0))))
    ∧ (s.me.pcrec = false → exec (.acctMark a) s = .next s)
    ∧ (let e1 := s.endRuns s.cur
       let e := if e1.dual e1.cur = true then e1.endRuns (e1.cur + 1) else e1
       s.me.pcrec = true → exec (.acctMark a) s = .next (if s.ringFull s.me = true ∨ e.ringFull e.me = true then e
         else e.ringPut e.me ((s.me.x a).toNat <<< 64 + 1 <<< 60 + e.me.arch.pc.toNat % 2 ^ 56)))
    ∧ (let m := (s.die (dieOf s.cur)).sample
       exec (.telem d item) s = .next (s.pushXI d (
         if item.toNat < 5 then BitVec.ofNat 64 ((m.rails[item.toNat]?).getD 0)
         else if item.toNat = 5 then BitVec.ofInt 64 ((m.temps[regionOf (quadOf s.cur)]?).getD 0)
         else if item.toNat = 6 then BitVec.ofNat 64 m.time else BitVec.ofNat 64 m.package)))
    ∧ (s.walkHeld (s.me.x a).toNat (probeKind k) = true → exec (.xlat d a k) s = .next (s.holding cMEM))
    ∧ (s.walkHeld (s.me.x a).toNat (probeKind k) = false →
        (∀ u x, s.translate s.cur (s.me.x a).toNat (probeKind k) = (u, .ok x) →
          let fault := if u.hasMemory x.pa = true then u.probeFault k x.pa else some 0x06
          (∀ e, fault = some e → exec (.xlat d a k) s = .next (u.pushXI d (BitVec.ofNat 64 (2 ^ 63 + e))))
          ∧ (fault = none → isSpad x.pa = false → exec (.xlat d a k) s = .next (u.pushXI d (BitVec.ofNat 64 x.raw)))
          ∧ (fault = none → isSpad x.pa = true →
              exec (.xlat d a k) s = .next (({ u with stamp := u.stamp + 1 } : State).pushXI d (Config.openWord u.stamp &&& 0xFFFFFFFFFFFFF))))
        ∧ (∀ u e, s.translate s.cur (s.me.x a).toNat (probeKind k) = (u, .error e) →
            exec (.xlat d a k) s = .next (u.pushXI d (BitVec.ofNat 64 (2 ^ 63 + if k = .fetch then 0x04 else e)))))

/-! ## Memory instructions -/

/-- LD and LDP complete whenever their access passes the checks of R141, is in memory, and its bytes are there: no register changes yet, and the results wait in the core's list of loads: for LD the bytes at the effective address, little-endian, zero-extended, or sign-extended for the .sx kinds; for LDP the two halves, for x[d] and x[d + 1]. An LD that crosses a 32-byte line is performed in two parts: a first turn holds the bundle, charged MEM, with the bytes up to the line's end, and the turn after it reads the rest. The effective address is x[base] plus the displacement (scaled in the short form), plus the shifted index in the indexed form. Loads of several pages take a cycle more per further page. -/
def Obligations.LoadsReadMemory : Prop :=
  ∀ (s t : State) (d : Reg) (k : LdKind) (dbl : Bool) (m : MemOp) (bs : List Byte) (pa : Nat),
    (let n := match k with | .b | .bsx => 1 | .h | .hsx => 2 | .w | .wsx => 4 | .d => 8
     let sx := match k with | .bsx | .hsx | .wsx => true | _ => false
     let ea := MemOp.ea s.me n m
     (LoadReady s ea n (MemOp.ord m) (ctlRuleOf n ea) t bs pa →
      exec (.ld d k m) s = .next ((t.extraCycles ((pagesOf ea.toNat n).length - 1)).pushLoad
        { dsts := [(d.toNat, if sx then sextWord (8 * n) (leValue bs) else BitVec.ofNat 64 (leValue bs))], atomic := false, held := none,
          since := t.clock, pa := pa })
      ∧ (LoadSplits s ea n (MemOp.ord m) (ctlRuleOf n ea) t bs →
          exec (.ld d k m) s = .next ((t.updMe fun c => { c with arch := { c.arch with wait := { c.arch.wait with part := some bs } } }).holding cMEM))))
    ∧ (let n := if dbl then 8 else 4
       let ea := MemOp.ea s.me (2 * n) m
       LoadReady s ea (2 * n) (MemOp.ord m) .align t bs pa → ea.toNat % (2 * n) = 0 →
        exec (.ldp d dbl m) s = .next ((t.extraCycles ((pagesOf ea.toNat (2 * n)).length - 1)).pushLoad
          { dsts := [(d.toNat, BitVec.ofNat 64 (leValue (bs.take n))), ((d + 1).toNat, BitVec.ofNat 64 (leValue (bs.drop n)))], atomic := false,
            held := none, since := t.clock, pa := pa }))

/-- ST and STP complete whenever their access passes the checks of R141 and the store buffer has room: their bytes, the low bytes of x[d] (and of x[d + 1] behind them for STP), little-endian, at the keys of the effective address, join the core's stores: in one entry, or, where the access crosses a 32-byte line, in two, that of the lower line first. No byte of memory changes yet. -/
def Obligations.StoresEnterTheBuffer : Prop :=
  ∀ (s t : State) (d : Reg) (z : Size) (dbl : Bool) (m : MemOp),
    (let n := match z with | .b => 1 | .h => 2 | .w => 4 | .d => 8
     let ea := MemOp.ea s.me n m
     StoreReady s ea (leBytes n (s.me.x d).toNat) (MemOp.ord m) (ctlRuleOf n ea) t →
      exec (.st d z m) s = .next (t.extraCycles ((pagesOf ea.toNat n).length - 1)))
    ∧ (let n := if dbl then 8 else 4
       let ea := MemOp.ea s.me (2 * n) m
       let bs := leBytes n (s.me.x d).toNat ++ leBytes n (s.me.x (d + 1)).toNat
       StoreReady s ea bs (MemOp.ord m) .align t → ea.toNat % (2 * n) = 0 →
        exec (.stp d dbl m) s = .next (t.extraCycles ((pagesOf ea.toNat (2 * n)).length - 1)))
    ∧ (∀ (u : State) (va : Word) (bs : List Byte) (rel : Option Scope) (tr : List (Nat × Xlated)),
        s.access s.cur va bs.length .write [3] .align = (u, .ok tr) → s.coreWrite s.cur va bs rel .align = (t, .ok ()) →
        let cells := (keysOf tr va.toNat bs.length).zip bs
        let m := 32 - va.toNat % 32
        ∃ l : List SbEntry, t.storesOf s.cur = u.storesOf s.cur ++ l ∧ SameMemory u t ∧ (∀ e ∈ l, e.rel = rel ∧ e.awaits = none)
          ∧ l.map (·.bytes) = (if bs.length ≤ m then [sortCells cells] else [sortCells (cells.take m), sortCells (cells.drop m)]))

/-- When LD, LDP, ST or STP to memory completes as above, no register of any core, no special register but the accounts and TLBs that its translation and cycles touch, and no byte of memory changes. After the store's entries have joined the core's stores, a byte that the core sees is the stored byte at the keys of the store's address, and what it was before at every other key. -/
def Obligations.StoreFrame : Prop :=
  (∀ (s t : State) (va : Word) (bs : List Byte) (rel : Option Scope) (ctl : CtlRule) (u : State) (tr : List (Nat × Xlated)),
    s.access s.cur va bs.length .write [3] ctl = (u, .ok tr) → s.coreWrite s.cur va bs rel ctl = (t, .ok ()) →
      (∀ k, k ∉ keysOf tr va.toNat bs.length → t.viewByte s.cur k = u.viewByte s.cur k)
      ∧ ((keysOf tr va.toNat bs.length).Nodup → ∀ i, (h : i < bs.length) →
          t.viewByte s.cur ((keysOf tr va.toNat bs.length)[i]'(by simpa [keysOf] using h)) = bs[i])
      ∧ (∀ g, (t.core g).arch = (u.core g).arch) ∧ SameMemory u t)
  ∧ (∀ (s u : State) (g : Nat) (va : Word) (n : Nat) (k : XKind) (bp : List Nat) (ctl : CtlRule) (r : Got (List (Nat × Xlated))),
      s.access g va n k bp ctl = (u, r) → (∀ h, (u.core h).arch = (s.core h).arch) ∧ (∀ k, u.mem.rd k = s.mem.rd k) ∧ u.cur = s.cur)

/-- A core's load of bytes that its youngest overlapping store holds in full reads that store's bytes; when no store of the core overlaps, it reads the bytes as its die sees them: the youngest store past the order point, else memory. When the youngest overlapping store holds only part of the bytes, the load of a core outside a pair waits; in a pair, whose journal cannot drain before the load, it reads each byte from the youngest journal entry that holds it, unless one has no data yet or the store buffer holds a byte, and then it waits. -/
def Obligations.StoreToLoadForwarding : Prop :=
  ∀ (s : State) (g : Nat) (keys : List Nat),
    ((∀ e ∈ s.storesOf g, ∀ k ∈ keys, e.has k = false) → s.loadBytes g keys = some (keys.map (s.dieByte (dieOf g))))
    ∧ (∀ (l r : List SbEntry) (e : SbEntry), s.storesOf g = l ++ e :: r → (∃ k ∈ keys, e.has k = true) →
        (∀ x ∈ r, ∀ k ∈ keys, x.has k = false) →
        ((e.awaits = none ∧ ∀ k ∈ keys, e.has k = true) → s.loadBytes g keys = some (keys.map fun k => SMap.get e.bytes 0 k))
        ∧ ((e.awaits ≠ none ∨ ∃ k ∈ keys, e.has k = false) →
          (s.dual g = false → s.loadBytes g keys = none)
          ∧ (s.dual g = true → (∀ x ∈ (s.core g).sb, ∀ k ∈ keys, x.has k = false) →
              (∀ x ∈ s.storesOf g, (∃ k ∈ keys, x.has k = true) → x.awaits = none) → s.loadBytes g keys = some (keys.map (s.viewByte g)))
          ∧ (s.dual g = true → ((∃ x ∈ (s.core g).sb, ∃ k ∈ keys, x.has k = true)
              ∨ ∃ x ∈ s.storesOf g, (∃ k ∈ keys, x.has k = true) ∧ x.awaits ≠ none) → s.loadBytes g keys = none)))

/-- LD, LDP, ST and STP with an ordering annotation at an address that is not a multiple of their size trap ALIGN, with TVAL the effective address. When the checks of an access end in a trap, the instruction takes exactly that trap; when they end in a wait, its bundle waits with that cause. -/
def Obligations.AccessTraps : Prop :=
  ∀ (s : State) (d : Reg) (k : LdKind) (z : Size) (m : MemOp),
    (let n := LdKind.bytes k
     let ea := MemOp.ea s.me n m
     (¬ AlignedFor (MemOp.ord m) n ea → exec (.ld d k m) s = .next (s.trap 0x03 ea))
     ∧ (AlignedFor (MemOp.ord m) n ea → ∀ u c v, s.access s.cur ea n .read [2] (ctlRuleOf n ea) = (u, .trap c v) →
          exec (.ld d k m) s = .next (u.trap c v))
     ∧ (AlignedFor (MemOp.ord m) n ea → ∀ u c, s.access s.cur ea n .read [2] (ctlRuleOf n ea) = (u, .wait c) →
          exec (.ld d k m) s = .next (u.holding c)))
    ∧ (let n := Size.bytes z
       let ea := MemOp.ea s.me n m
       (¬ AlignedFor (MemOp.ord m) n ea → exec (.st d z m) s = .next (s.trap 0x03 ea))
       ∧ (AlignedFor (MemOp.ord m) n ea → ∀ u c v, s.access s.cur ea n .write [3] (ctlRuleOf n ea) = (u, .trap c v) →
          exec (.st d z m) s = .next (u.trap c v)))

/-- PREF changes nothing, in every state. CFLUSH whose address translates as a read, outside control space, adds an entry without bytes to the core's stores when the store buffer has room, and does nothing for a scratchpad or slice window. FENCE changes nothing: it completes when what its kind and scope name is done, and until then its bundle waits, charged MEM. FENCE.acq and FENCE.ar wait for earlier VLDs and VSTs, FENCE.rel and .ar at .quad and .die for the core's stores to host-bias pages that the host has still to receive, FENCE.rel, .ar and .acq at .core to .die for nothing else, FENCE.sc for the loads, the store buffer and the scope's stores, FENCE.eng for engine accesses. -/
def Obligations.HintsAndFences : Prop :=
  ∀ (s : State) (k : BitVec 2) (l : FlushLevel) (m : MemOp) (o : FenceOrd) (sc : Scope),
    exec (.pref k m) s = .next s
    ∧ (∀ u x, s.walkHeld (MemOp.ea s.me 32 m).toNat .read = false → s.translate s.cur (MemOp.ea s.me 32 m).toNat .read = (u, .ok x) →
        isControl x.pa = false →
        ((isSpad x.pa = true ∨ apertureOf x.pa ≠ none) → exec (.cflush l m) s = .next u)
        ∧ (isSpad x.pa = false → apertureOf x.pa = none → u.sbWait u.cur 1 = none →
            exec (.cflush l m) s = .next (u.pushStore u.cur
              { bytes := [], words := [], rel := none, awaits := none, flush := true, exempt := false })))
    ∧ (let c := s.me
       let narrow := sc = .core ∨ sc = .quad ∨ sc = .die
       let ready := match o with
         | .acq => c.vmemDone = true ∧ (narrow ∨ c.loads = [])
         | .rel => (narrow ∨ (c.loads = [] ∧ s.storesDone s.cur sc = true)) ∧ (sc = .core ∨ s.hostOut s.cur = false)
         | .ar => c.vmemDone = true ∧ (narrow ∨ (c.loads = [] ∧ s.storesDone s.cur sc = true)) ∧ (sc = .core ∨ s.hostOut s.cur = false)
         | .sc => c.vmemDone = true ∧ c.loads = [] ∧ s.storesDone s.cur sc = true
         | .eng => c.enginesDone = true
       (ready → exec (.fence o sc) s = .next s) ∧ (¬ ready → exec (.fence o sc) s = .next (s.holding cMEM)))

/-- AMO and CAS to a location that no link separates from the core complete, once what they wait for is done: the old value, extended by the type, is in flight to x[d], and the location holds the old value plus, AND, OR, XOR, the lesser or greater of it and x[b], or x[b] itself, all modulo 2^w; CAS writes x[b] only when the old value equals x[d]. The bytes of the location change, and no other byte. -/
def Obligations.AtomicsAtOnce : Prop :=
  ∀ (s u v : State) (d a b : Reg) (t : IType) (op : AmoOp) (ctl : AtomCtl) (x : Xlated),
    let g := s.cur
    let n := t.width / 8
    let run := fun (i : Instr) (ea : Word) (r : AmoReq) (o : MemOrd × Scope) =>
      ea.toNat % n = 0 → s.me.breakHit ea.toNat n 2 = none → s.me.breakHit ea.toNat n 3 = none →
      s.me.amoSt s.me.amoKey = none → s.walkHeld ea.toNat .atomic = false → s.translate g ea.toNat .atomic = (u, .ok x) →
      r.ea = ea ∧ r.pa = x.pa ∧ r.t = t ∧ r.b = (s.me.x b).toNat ∧ r.d = (s.me.x d).toNat →
      amoSupported x.pa r = true → u.hasMemory x.pa = true → hostPerforms x.pa r = true → u.window x.pa = .opened → u.moving x.pa = false →
      u.ownWait u.cur none r.keys = none →
      (∀ k ∈ r.keys, u.poisonSeen u.cur k = false ∧ blockIs u k .quarantined = false) → u.migrateKey u.cur [(ea.toNat, x)] = none →
      v = u.recordBias x.biasd x.pa → v.amoWait v.cur o r = false →
      linksTo (dieOf v.cur) r.pa = [] → v.siteFree v.cur x.snapx r = true →
      (∀ w, v.fireKeys (dieOf v.cur) true r.keys = (w, false) → (∀ k ∈ r.keys, w.poisonSeen w.cur k = false) →
        exec i s = .next ((w.performAmo x.snapx r).1.pushLoad
          { dsts := [(d.toNat, amoResult t (w.mem.le x.pa n))], atomic := true, held := none, since := w.clock, pa := x.pa })
        ∧ (∀ k, k ∉ r.keys → (w.performAmo x.snapx r).1.mem.rd k = w.mem.rd k)
        ∧ (w.performAmo x.snapx r).1.mem.le x.pa n = amoNew r (w.mem.le x.pa n) % 2 ^ t.width)
    (∀ r, r.op = some op → r.tok = s.token ctl.tok →
        run (.amo d a b t op ctl) (s.me.x a + ctl.disp.signExtend 64) r (ctl.ord, ctl.scope))
    ∧ (∀ r, r.op = none → r.tok = none → run (.cas d a b t none) (s.me.x a) r (.none, .core))
    ∧ (∀ r, r.op = none → r.tok = s.token ctl.tok →
        run (.cas d a b t (some ctl)) (s.me.x a + ctl.disp.signExtend 64) r (ctl.ord, ctl.scope))

/-- The new value of an atomic on a w-bit location that holds old: the sum, AND, OR or XOR with x[b], each modulo 2^w; the lesser or greater number by the signedness of the type; x[b] for swap; and for CAS x[b] if old equals x[d]<w−1:0>, else old. The result for x[d] is old, sign-extended for .s types and zero-extended for .n types. -/
def Obligations.AtomicValues : Prop :=
  ∀ (r : AmoReq) (old : Nat), old < 2 ^ r.t.width → r.b < 2 ^ 64 → r.d < 2 ^ 64 →
    let w := r.t.width
    let v (n : Nat) : Int := valueOf r.t (BitVec.ofNat 64 n)
    let lo := r.b % 2 ^ w
    amoNew r old < 2 ^ w
    ∧ amoResult r.t old = extendTo r.t (BitVec.ofNat 64 old)
    ∧ (match r.op with
        | none => amoNew r old = if old = r.d % 2 ^ w then lo else old
        | some .add => amoNew r old = (old + r.b) % 2 ^ w
        | some .swap => amoNew r old = lo
        | some .and => ∀ i, (amoNew r old).testBit i = (old.testBit i && lo.testBit i)
        | some .or => ∀ i, (amoNew r old).testBit i = (old.testBit i || lo.testBit i)
        | some .xor => ∀ i, (amoNew r old).testBit i = (old.testBit i ^^ lo.testBit i)
        | some .min => v (amoNew r old) = min (v old) (v lo) ∧ (amoNew r old = old ∨ amoNew r old = lo)
        | some .max => v (amoNew r old) = max (v old) (v lo) ∧ (amoNew r old = old ∨ amoNew r old = lo))

/-- STORE_PERFORM moves the oldest entry of a core's store buffer past its die's order point when it has its bytes and no engine owns, and nothing moves, its lines, and, for a release wider than the core, no earlier store of the core is on its way to a host-bias page; a flush entry leaves without effect. STORE_PERFORM of a store past the order point that is ready writes its bytes at their home, and no other byte of memory changes. LOAD_COMPLETE writes the results of a load to their registers and removes it, unless a link keeps them. ATOMIC_RESPONSE of an atomic performed at once does the same. A request that waits for its response under a key is performed when no link keeps it and its site is free. -/
def Obligations.AccessesArePerformed : Prop :=
  (∀ (s : State) (g : Nat) (e : SbEntry) (rest : List SbEntry), g < numCores → (s.core g).sb = e :: rest → e.awaits = none →
      s.ownWait g none (SMap.keys e.bytes) = none → (∀ k ∈ SMap.keys e.bytes, s.moving k = false) →
      (s.hostStores g = false ∨ e.rel = none ∨ e.rel = some .core) →
      ∃ t : State, exec (.storePerform (.orderPoint g)) s = .next t ∧ (t.core g).sb = rest ∧ (∀ k, t.mem.rd k = s.mem.rd k)
        ∧ (t.die (dieOf g)).past = (s.die (dieOf g)).past ++ (if e.flush then [] else [{ core := g, ent := e }]))
  ∧ (∀ (s : State) (die i : Nat) (p : PastStore), (s.die die).past[i]? = some p → s.homeReady die i p = true →
      ∃ t : State, exec (.storePerform (.home die i)) s = .next t ∧ t = s.performStore die i p
        ∧ (t.die die).past = (s.die die).past.take i ++ (s.die die).past.drop (i + 1)
        ∧ ∀ k, p.ent.has k = false → t.mem.rd k = s.mem.rd k)
  ∧ (∀ (s : State) (g i : Nat) (l : LoadP), (s.core g).loads[i]? = some l → l.atomic = false → s.linksWait (dieOf g) l.pa = false →
      ∃ t : State, exec (.loadComplete g i) s = .next t ∧ (t.core g).loads = (s.core g).loads.take i ++ (s.core g).loads.drop (i + 1)
        ∧ (t.core g).arch = l.dsts.foldl (fun a d => a.wx d.1 d.2) (s.core g).arch ∧ t.mem = s.mem)
  ∧ (∀ (s : State) (g i : Nat) (l : LoadP), (s.core g).loads[i]? = some l → l.atomic = true → l.held = none →
      ∃ t : State, exec (.atomicResponse g i) s = .next t ∧ (t.core g).loads = (s.core g).loads.take i ++ (s.core g).loads.drop (i + 1)
        ∧ (t.core g).arch = l.dsts.foldl (fun a d => a.wx d.1 d.2) (s.core g).arch ∧ t.mem = s.mem)
  ∧ (∀ (s u : State) (g i : Nat) (l : LoadP) (key : Nat) (r : AmoReq), (s.core g).loads[i]? = some l → l.atomic = true → l.held = some key →
      (s.core g).amoSt key = some (.sent r) → s.linksWait (dieOf g) r.pa = false → s.siteFree g (s.amoExempt g r) r = true →
      s.fireKeys (dieOf g) true r.keys = (u, false) → (∀ k ∈ r.keys, u.poisonSeen g k = false ∧ blockIs u k .quarantined = false) →
      exec (.atomicResponse g i) s = .next ((u.reach g (s.amoExempt g r) r).1.updCore g fun c =>
        { c.setAmo key (u.reach g (s.amoExempt g r) r).2 with loads := dropAt c.loads i }))

/-! ## Vector and matrix instructions -/

/-- Every vector A instruction completes at issue when its type fits VSHAPE, its destination is no bound stream register and fewer than 16 entries are in the sequencer: one entry joins the sequencer's end with the instruction, VSHAPE, the scalar operands, and SRSEED from which it draws, and nothing else of the package changes but SRSEED, which is past its draws, and the counter of free values. The scalar operands are x[a] and x[b] for VIOTA, x[b] and x[b + 1] for VCLMP, and those of its mode for VMOV. While a VREP body is open the entry is one of the body's: the body misses one entry fewer, and where its count is zero nothing is drawn; with its last entry the body closes, the draws of its further repetitions are claimed, and a body whose count is zero leaves with its entries. A type that does not fit VSHAPE, a bound destination, and VMOV of mode 10 in an open body trap ILLEGAL; with 16 entries in the sequencer the bundle waits. -/
def Obligations.VectorIssue : Prop :=
  ∀ (s : State) (i : Instr) (xs : List Word),
    (match i with
      | .vadd .. | .vsub .. | .vmul .. | .vfma .. | .vmin .. | .vmax .. | .vlog .. | .vsh .. | .vcmp .. | .vsel .. | .vred .. | .vscan ..
      | .vperm .. | .vcvt .. | .vsfu .. | .venc .. | .vdec .. | .vabs .. | .vbits .. | .vdot .. => xs = []
      | .viota _ a b _ => xs = [s.me.x a, s.me.x b]
      | .vclmp _ _ b _ => xs = [s.me.x b, s.me.x (b + 1)]
      | .vmov _ a b m => xs = (match m with | 0 => [] | 1 => [s.me.x a] | 2 => [s.me.x b] | _ => [s.me.x a, s.me.x b])
      | _ => False) →
    let a := s.me.arch
    let toX := match i with | .vmov _ _ _ m => m = 2 | _ => False
    let n := vDraws a.vshape i
    let e : VEntry :=
      { stamp := s.stamp, ins := i, shape := a.vshape, xs := xs, seed := a.srseed, addrs := [], beats := 0, olds := [],
        body := a.openRep.isSome, hand := a.tm, seen := none, born := s.clock }
    let goes := fun (x : Arch) => exec i s = .next (({ s with stamp := s.stamp + 1 } : State).updMe fun c => { c with arch := x })
    (vShapeOk a.vshape i = true → s.me.writesBound i = false → a.vseq.length < 16 →
      (a.openRep = none → goes { a with vseq := a.vseq ++ [e], srseed := xsN n a.srseed })
      ∧ (∀ r, a.openRep = some r → ¬ toX →
        (1 < r.missing → goes { a with vseq := a.vseq ++ [e], vreps := a.vreps.dropLast ++ [{ r with missing := r.missing - 1, size := r.size + 1 }],
                                       srseed := if r.left = 0 then a.srseed else xsN n a.srseed })
        ∧ (r.missing = 1 → r.left = 0 → goes { a with vseq := (a.vseq ++ [e]).take (a.vseq.length - r.size), vreps := a.vreps.dropLast })
        ∧ (r.missing = 1 → r.left ≠ 0 →
          let d := (((a.vseq ++ [e]).drop (a.vseq.length - r.size)).map fun z => vDraws z.shape z.ins).sum
          goes (Arch.repTurn { a with vseq := a.vseq ++ [e], srseed := xsN ((r.left.toNat - 1) * d) (xsN n a.srseed),
                                      vreps := a.vreps.dropLast ++ [{ r with missing := 0, size := r.size + 1, base := xsN n a.srseed }] }))))
    ∧ ((vShapeOk a.vshape i = false ∨ s.me.writesBound i = true ∨ (toX ∧ a.openRep ≠ none)) → exec i s = .next (s.trap 0x01 s.me.bundle))
    ∧ (vShapeOk a.vshape i = true → s.me.writesBound i = false → ¬ (toX ∧ a.openRep ≠ none) → 16 ≤ a.vseq.length →
        exec i s = .next (s.holding cVSEQ))

/-- VREP completes when no body is open: a body of the next nb + 1 vector A instructions is open, with the count imm11 with a = 0 or x[a], and VREP itself takes no place in the sequencer. While a body is open, VREP and VMOV of mode 10 trap ILLEGAL, and so do VLD, VST, VGATH and VSCAT. -/
def Obligations.VectorRepeat : Prop :=
  ∀ (s : State) (nb : BitVec 4) (a d b : Reg) (imm : BitVec 11) (row : Bool) (m : MemOp) (sc : BitVec 2),
    (s.me.arch.openRep = none →
      exec (.vrep nb a imm) s = .next (s.updMe fun c => { c with arch := { c.arch with vreps := c.arch.vreps ++
        [{ missing := nb.toNat + 1, size := 0, left := if a = 0 then imm.setWidth 64 else s.me.x a, idx := 0, base := 0 }] } }))
    ∧ (s.me.arch.openRep ≠ none →
        let ill : Step := .next (s.trap 0x01 s.me.bundle)
        exec (.vrep nb a imm) s = ill ∧ exec (.vmov d a b 2) s = ill ∧ exec (.vld d row m) s = ill ∧ exec (.vst d m) s = ill
        ∧ exec (.vgath d a b sc) s = ill ∧ exec (.vscat d a b sc) s = ill)

/-- For n elements of w bits within 512 bytes, the result of an entry holds in element e < n: for VADD, VSUB and VMUL of a wrapping integer type the sum, difference and product of the elements modulo 2^w; for VLOG the logic of the two; for VPERM the element of v[a] that element e of v[b] numbers, or zero from n on; for VIOTA x[a] + e × x[b] modulo 2^w; for VMOV of mode 01 x[a]; and every bit from n × w on is zero. No flag is raised. VMOV of mode 00 copies all 512 bytes, and of mode 11 changes only element x[b]. -/
def Obligations.VectorElements : Prop :=
  ∀ (tab : SMap TabEntry) (free : Int) (freeV : BitVec 4096) (sh : Word) (seed : BitVec 32) (p q : Word) (src : VSrc) (d a b : VReg) (x y z : Reg) (t : IType),
    let w := 8 * vBytes sh
    let n := vElems sh
    n * w ≤ 4096 → t.width = w →
    let el (v : BitVec 4096) (e : Nat) : Nat := v.toNat / 2 ^ (w * e) % 2 ^ w
    let out (i : Instr) : VOut := vValue tab free freeV sh seed [p, q] src i
    let isVec (i : Instr) (f : Nat → Nat) : Prop :=
      ∃ v, (out i).v = some v ∧ (out i).v1 = none ∧ (out i).x = none ∧ (out i).fl = 0 ∧ (∀ e, e < n → el v e = f e) ∧ v.toNat < 2 ^ (n * w)
    isVec (.vadd d a b (.int t false)) (fun e => (el src.a e + el src.b e) % 2 ^ w)
    ∧ isVec (.vsub d a b (.int t false)) (fun e => (el src.a e + 2 ^ w - el src.b e) % 2 ^ w)
    ∧ isVec (.vmul d a b (.int t false)) (fun e => el src.a e * el src.b e % 2 ^ w)
    ∧ isVec (.vlog d a b .and) (fun e => el src.a e &&& el src.b e)
    ∧ isVec (.vlog d a b .or) (fun e => el src.a e ||| el src.b e)
    ∧ isVec (.vlog d a b .xor) (fun e => el src.a e ^^^ el src.b e)
    ∧ isVec (.vlog d a b .not) (fun e => 2 ^ w - 1 - el src.a e)
    ∧ isVec (.vperm d a b) (fun e => if el src.b e < n then el src.a (el src.b e) else 0)
    ∧ isVec (.viota x y z t) (fun e => (p.toNat + e * q.toNat) % 2 ^ w)
    ∧ isVec (.vmov x y z 1) (fun _ => p.toNat % 2 ^ w)
    ∧ (out (.vmov x y z 0)).v = some src.a
    ∧ (∃ v, (out (.vmov x y z 3)).v = some v ∧ ∀ e, e * w < 4096 → el v e = if e = q.toNat ∧ q.toNat < n then p.toNat % 2 ^ w else el src.d e)
    ∧ (out (.vmov x y z 2)).v = none
    ∧ (out (.vmov x y z 2)).x = some (if p.toNat < n then BitVec.ofNat 64 (el src.a p.toNat) else 0)

/-- With no body open, an address aligned to the element width, an access that passes its checks and a free place, VLD and VST complete: an entry with the element addresses joins the sequencer, and VST's bytes have their places in the core's stores, which await the data: one entry, or one for the keys of each kind where a store is exempt from the cut in part. VGATH and VSCAT complete when their index register is at hand (a bound stream register's next strip, which has come without a fault, with no entry before it in the sequencer), every element address is aligned and translates outside control space, and, for VSCAT, the core's stores are out of the way and no other engine owns the lines: the entry joins with the element addresses x[a] + index × sc, and VSCAT owns its lines from then on; host pages touched for the first time have their bias recorded. The destination is no bound stream register. -/
def Obligations.VectorTransfersIssue : Prop :=
  ∀ (s u : State) (d a b : Reg) (row : Bool) (m : MemOp) (sc : BitVec 2) (tr : List (Nat × Xlated)) (addrs : List (Nat × Nat)),
    let sh := s.me.arch.vshape
    let w := vBytes sh
    let ea := MemOp.ea s.me 64 m
    s.me.arch.openRep = none →
    (let n := if row then vCols sh else vElems sh
     s.me.writesBound (.vld d row m) = false → ea.toNat % w = 0 → s.access s.cur ea (n * w) .read [2] .align = (u, .ok tr) →
        u.me.arch.vseq.length < 16 →
        exec (.vld d row m) s = .next ((u.extraCycles (tr.length - 1)).enterV (.vld d row m) [] (packedAddrs tr ea.toNat n w)))
    ∧ (ea.toNat % w = 0 → s.access s.cur ea (vSize sh) .write [3] .align = (u, .ok tr) →
        let keys := keysOf tr ea.toNat (vSize sh)
        let es := vstEntries u.stamp ((List.range keys.length).zip keys |>.map fun p => (snapAt tr (ea.toNat + p.1), p.2))
        u.ownWait u.cur none keys = none → u.me.sb.length + es.length ≤ 8 → u.me.arch.vseq.length < 16 →
        (∀ e ∈ es, e.awaits = some u.stamp ∧ ∀ k, e.has k = true → k ∈ keys) ∧ (∀ k ∈ keys, ∃ e ∈ es, e.has k = true)
          ∧ exec (.vst d m) s = .next (es.foldl (fun t e => t.pushStore u.cur e)
              ((u.extraCycles (tr.length - 1)).enterV (.vst d m) [] (packedAddrs tr ea.toNat (vElems sh) w))))
    ∧ (let q := s.me.arch.stream b.toNat
       let bnd := s.me.bound b.toNat
       let idx := if bnd = true then (match q.strips with | p :: _ => p.1 | [] => 0) else s.me.arch.rv b.toNat
       let vas := gatherAddrs sh (s.me.x a) sc.toNat idx
       let reach := fun (k : XKind) => ∀ v ∈ vas, v % w = 0 ∧ s.walkWaits (s.linksWait (dieOf s.cur)) s.cur v w k = false
       let pops := fun (x : Bool) (t : State) => if bnd = true ∧ x = true then t.updArch fun z => z.popStream b.toNat else t
       s.me.arch.vWriter b.toNat = false →
       (bnd = true → s.me.arch.vseq = [] ∧ s.me.binding b.toNat = false ∧ ∃ p r, q.strips = (p, none) :: r) →
        (s.me.writesBound (.vgath d a b sc) = false → reach .eread → s.engineAddrs s.cur .eread w vas = (u, .ok addrs) →
          (∀ k ∈ elemKeys w addrs, u.window k ≠ .waits ∧ u.moving k = false) → u.me.arch.vseq.length < 16 →
          exec (.vgath d a b sc) s = .next (((pops true (u.recordHosts .eread (addrs.map Prod.fst))).extraCycles
            ((vas.map (· / 4096)).eraseDups.length - 1)).enterV (.vgath d a b sc) [] addrs))
        ∧ (reach .ewrite → s.engineAddrs s.cur .ewrite w vas = (u, .ok addrs) →
          (∀ k ∈ elemKeys w addrs, u.window k ≠ .waits ∧ u.moving k = false) → u.me.arch.vseq.length < 16 →
          u.me.sb = [] → (∀ e ∈ u.me.vwork, e.isVld = false) →
          (∀ p ∈ (u.die 0).past ++ (u.die 1).past, ∀ k ∈ elemKeys w addrs, p.ent.has k = false) →
          u.ownWait u.cur none (elemKeys w addrs) = none →
          let z := u.recordHosts .ewrite (addrs.map Prod.fst)
          exec (.vscat d a b sc) s = .next (((pops (decide (b ≠ d)) (z.takeLines (.entry z.cur z.stamp) (elemKeys w addrs))).extraCycles
            ((vas.map (· / 4096)).eraseDups.length - 1)).enterV (.vscat d a b sc) [] addrs)))

/-- VECTOR_BEAT_GRANT and STREAM_PORT_GRANT complete, after the sequencers have written what their return slots hold: where one core alone asks for the unit, the entry at work of that core, its sources ready, takes one beat, and with its last beat it is performed; where none asks, nothing but the arbiter's credits changes. SFU_SERVICE queues the VSFU requests and gives the request at the head one cycle: with its last, 16 elements a cycle, the request leaves the queue, and its result lands in the core's return slot, from which the sequencer writes it 8 quad cycles later. -/
def Obligations.VectorUnitsServe : Prop :=
  (∀ (s : State) (quad group c : Nat) (e : VEntry), group < 4 → c < 4 →
      let t := s.sfuReturns quad
      t.vHead (4 * quad + c) .lane = some e → (∀ k, k < 4 → k ≠ c → t.vHead (4 * quad + k) .lane = none) →
      ∃ cr, exec (.vectorBeatGrant quad group) s = .next ((t.updQuad quad fun q => { q with credits := cr }).vBeat (4 * quad + c) e))
  ∧ (∀ (s : State) (quad c : Nat) (e : VEntry), c < 4 →
      let t := s.sfuReturns quad
      t.vHead (4 * quad + c) .port = some e → (∀ k, k < 4 → k ≠ c → t.vHead (4 * quad + k) .port = none) →
      ∃ cr, exec (.streamPortGrant quad) s = .next ((t.updQuad quad fun q => { q with portCredits := cr }).vBeat (4 * quad + c) e))
  ∧ (∀ (s : State) (quad group : Nat), group < 4 →
      let t := s.sfuReturns quad
      ((∀ k, k < 4 → t.vHead (4 * quad + k) .lane = none) →
        ∃ cr, exec (.vectorBeatGrant quad group) s = .next (t.updQuad quad fun q => { q with credits := cr }))
      ∧ ((∀ k, k < 4 → t.vHead (4 * quad + k) .port = none) →
        ∃ cr, exec (.streamPortGrant quad) s = .next (t.updQuad quad fun q => { q with portCredits := cr })))
  ∧ (∀ (s : State) (g : Nat) (e : VEntry), e.beatsNeeded ≤ e.beats + 1 → s.vHalf g = false → s.vBeat g e = s.vPerform g e)
  ∧ (∀ (s : State) (quad : Nat) (r : SfuReq) (rest : List SfuReq),
      let t := (s.sfuReturns quad).sfuRequests quad
      (t.quad quad).sfuQ = r :: rest → t.vHalf r.core = false → r.drop = false →
      (r.cycles + 1 < (r.elems + 15) / 16 → exec (.sfuService quad) s =
        .next (t.updQuad quad fun q => { q with sfuQ := { r with cycles := r.cycles + 1 } :: rest }))
      ∧ ((r.elems + 15) / 16 ≤ r.cycles + 1 → exec (.sfuService quad) s =
        .next ((t.updQuad quad fun q => { q with sfuQ := rest }).sfuLand r.core)))
  ∧ (∀ (s : State) (g i : Nat) (e : VEntry) (r : SfuRet), (s.core g).arch.vAt = some (i, e) →
      ((s.core g).arch.streamFault e.ins = none →
        ∃ v : SfuRet, ((s.sfuLand g).core g).arch.sfu = some v ∧ v.land = s.clock + 8 * s.periodOf g)
      ∧ ((s.core g).arch.sfu = some r → s.clock < r.land → s.sfuReturn g = s)
      ∧ ((s.core g).arch.sfu = some r → r.land ≤ s.clock →
        ((s.sfuReturn g).core g).arch.sfu = none ∧ ((s.sfuReturn g).core g).arch.rv (vFields e.ins).1 = r.val
        ∧ ((s.sfuReturn g).core g).arch.fpst = (s.core g).arch.fpst ||| r.fl))

/-- A matrix instruction completes and joins the MXU queue with SRSEED, which then moves past its draws, when the conditions of its entry hold and fewer than eight entries are queued; with eight its bundle waits. The conditions are: for MMA, MMAS and MDIST an open accumulator, operand tiles of the format context's widths and of orientations and sizes that agree; for MZERO of an accumulator, MOPEN, MTOPK, MCVT and MEW a closed one; for MCLOSE an open one; for MTRAN transposed shapes; for MCVT, MEW and MTOPK a tile whose shape fits; for MFMT a consistent context. MFMT, MOPEN and MCLOSE change the issue side at once. Where a condition fails the instruction traps MXFMT with the register's number above the code: 1 for a closed accumulator of MMA, MMAS and MDIST, 2 for MOPEN of an open one, 3 for MCLOSE of a closed one, 4 for a reader of an open one, 5 for a tile that does not fit, 6 for MFMT. (That the batch states are checked before the shapes is the model's choice, log entry 87.) -/
def Obligations.MatrixIssue : Prop :=
  ∀ (s : State) (d a b : Reg) (ta tb : MType) (sa sb ovr : Bool) (r : Rnd) (t : EType) (sc bc largest : Bool) (ov : McvtOvf) (op : MewOp),
    let bank := s.me.bank
    let f := bank.ifmt
    let sh := fun n : Reg => s.ishape n.toNat
    let isOpen := fun n : Reg => n.toNat ∈ bank.iopen
    let joins := fun (i : Instr) (xs : List Word) (draws : Nat) (g : Bank → Bank) => exec i s = .next
      (if 8 ≤ s.me.arch.mxq.length then s.holding cMXQ
       else (((s.updMe fun c => { c with arch := { c.arch with srseed := xsN draws c.arch.srseed } }).updBank g).pushMxq i s.me.arch.tm xs
         s.me.arch.srseed []))
    let fmtTrap := fun (i : Instr) (n code : Nat) => exec i s = .next (s.trap 0x0B (BitVec.ofNat 64 (16 * n + code)))
    let fitsA := fld (sh a) 1 0 = MType.wCode f.ta ∧ tKax (sh a) = false ∧ (f.sa = true → tCols (sh a) % 32 = 0)
    let fitsB := fld (sh b) 1 0 = MType.wCode f.tb ∧ tKax (sh b) = true ∧ (f.sb = true → tRows (sh b) % 32 = 0)
    (mfmtOk ta tb sa sb = true → joins (.mfmt ta tb sa sb ovr) [] 0 fun x => { x with ifmt := { ta := ta, tb := tb, sa := sa, sb := sb, ovr := ovr } })
    ∧ (mfmtOk ta tb sa sb = false → fmtTrap (.mfmt ta tb sa sb ovr) 0 6)
    ∧ (∀ i, (i = .mma d a b r ∨ i = .mmas d a b r ∨ i = .mdist d a b r) →
        (¬ isOpen d → fmtTrap i d.toNat 1)
        ∧ (isOpen d → ¬ fitsA → fmtTrap i a.toNat 5)
        ∧ (isOpen d → fitsA → ¬ (fitsB ∧ tCols (sh a) = tRows (sh b)) → fmtTrap i b.toNat 5)
        ∧ (isOpen d → fitsA → fitsB → tCols (sh a) = tRows (sh b) →
            joins i [] (if r = .sr then tRows (sh a) * tCols (sh b) * ceilDiv (tCols (sh a)) (MType.chunk f.ta) else 0) id))
    ∧ joins (.mzero d true) [] 0 id
    ∧ (¬ isOpen d → joins (.mzero d false) [] 0 id ∧ (joins (.mopen d) [] 0 fun x => { x with iopen := d.toNat :: x.iopen })
        ∧ fmtTrap (.mclose d) d.toNat 3)
    ∧ (isOpen d → fmtTrap (.mzero d false) d.toNat 4 ∧ fmtTrap (.mopen d) d.toNat 2
        ∧ joins (.mclose d) [] 0 fun x => { x with iopen := x.iopen.filter (· ≠ d.toNat) })
    ∧ (let fits := tRows (sh d) = tCols (sh a) ∧ tCols (sh d) = tRows (sh a) ∧ fld (sh d) 1 0 = fld (sh a) 1 0 ∧ tKax (sh d) ≠ tKax (sh a)
       (fits → joins (.mtran d a) [] 0 id) ∧ (¬ fits → fmtTrap (.mtran d a) d.toNat 5))
    ∧ (let fits := fld (sh d) 1 0 = mcvtW t ∧ (sc = true → EType.narrow t = true ∧ tK (sh d) % 32 = 0) ∧ (sc = false → t ≠ .e2m1)
       (isOpen a → fmtTrap (.mcvt d a t sc ov r) a.toNat 4)
       ∧ (¬ isOpen a → ¬ fits → fmtTrap (.mcvt d a t sc ov r) d.toNat 5)
       ∧ (¬ isOpen a → fits → joins (.mcvt d a t sc ov r) [] (if r = .sr then tElems (sh d) else 0) id))
    ∧ (let fits := op = .relu ∨ fld (sh a) 1 0 = 3 ∨ fld (sh a) 1 0 = MType.wCode f.ta
       (isOpen d → fmtTrap (.mew d a op bc r) d.toNat 4)
       ∧ (¬ isOpen d → ¬ fits → fmtTrap (.mew d a op bc r) a.toNat 5)
       ∧ (¬ isOpen d → fits → joins (.mew d a op bc r) [] (if r = .sr then tElems (sh a) else 0) id))
    ∧ (let n := (s.me.x b).toNat
       let fits := fld (sh d) 1 0 = 2 ∧ tCols (sh d) ≤ 16 ∧ 1 ≤ n ∧ n ≤ side (layerOf s.cur)
       (isOpen a → fmtTrap (.mtopk d a b largest) a.toNat 4)
       ∧ (¬ isOpen a → ¬ fits → fmtTrap (.mtopk d a b largest) d.toNat 5)
       ∧ (¬ isOpen a → fits → joins (.mtopk d a b largest) [s.me.x b] 0 id))

/-- MWAIT changes nothing: it completes when no entry that it names is in the queue, and waits while one is: any entry without a name; TSTs and entries of the named accumulator of the bank in use, and in trap mode the strand's entries too. TLD and TST at a 64-byte aligned address, whose pages all translate outside control space, complete when the queue has room and, for TST, the core's stores are out of the way and its lines are free: the bias of host pages touched for the first time is recorded, the transfer joins the MXU queue with its pages, and a TST owns its lines. An address that is not aligned traps ALIGN; TLD.sc of a tile whose K is not a multiple of 32 traps MXFMT code 5. -/
def Obligations.TileTransfersAndWaits : Prop :=
  ∀ (s u : State) (d : Reg) (sc named : Bool) (m : MemOp) (pages : List (Nat × Nat)),
    let sh := s.ishape d.toNat
    let ea := MemOp.ea s.me 64 m
    let names := fun (e : MEntry) => named = false ∨ e.isTst = true ∨ (s.me.arch.tm = true ∧ e.trap = false)
      ∨ (e.trap = s.me.arch.tm ∧ accOf e.ins = some d.toNat)
    let reach := fun (k : XKind) (sc : Bool) => ∀ p ∈ tilePages sh ea.toNat sc, s.walkWaits (s.linksWait (dieOf s.cur)) s.cur p 1 k = false
    ((∀ e ∈ s.me.arch.mxq, ¬ names e) → exec (.mwait d named) s = .next s)
    ∧ ((∃ e ∈ s.me.arch.mxq, names e) → exec (.mwait d named) s = .next (s.holding cMXQ))
    ∧ (ea.toNat % 64 ≠ 0 → exec (.tld d sc m) s = .next (s.trap 0x03 ea) ∧ exec (.tst d m) s = .next (s.trap 0x03 ea))
    ∧ (sc = true → ea.toNat % 64 = 0 → tK sh % 32 ≠ 0 → exec (.tld d sc m) s = .next (s.trap 0x0B (BitVec.ofNat 64 (16 * d.toNat + 5))))
    ∧ (ea.toNat % 64 = 0 → (sc = true → tK sh % 32 = 0) → reach .eread sc →
        s.tileXlate s.cur .eread (tilePages sh ea.toNat sc) = (u, .ok pages) →
        (∀ o ∈ tileOffsets sh sc, u.window (pageKey pages (ea.toNat + o)) ≠ .waits ∧ u.moving (pageKey pages (ea.toNat + o)) = false) →
        let z := u.recordHosts .eread (pages.map Prod.fst)
        (u.me.arch.mxq.length < 8 →
          exec (.tld d sc m) s = .next ((z.extraCycles (pages.length - 1)).pushMxq (.tld d sc m) z.me.arch.tm [ea] 0 pages))
        ∧ (8 ≤ u.me.arch.mxq.length → exec (.tld d sc m) s = .next (u.holding cMXQ)))
    ∧ (ea.toNat % 64 = 0 → reach .ewrite false → s.tileXlate s.cur .ewrite (tilePages sh ea.toNat false) = (u, .ok pages) →
        let keys := (tileOffsets sh false).map fun o => pageKey pages (ea.toNat + o)
        (∀ k ∈ keys, u.window k ≠ .waits ∧ u.moving k = false) → u.me.arch.mxq.length < 8 → u.me.sb = [] →
        (∀ e ∈ u.me.vwork, e.isVld = false) → (∀ p ∈ (u.die 0).past ++ (u.die 1).past, ∀ k ∈ keys, p.ent.has k = false) →
        u.ownWait u.cur none keys = none →
        let z := u.recordHosts .ewrite (pages.map Prod.fst)
        exec (.tst d m) s = .next (((z.takeLines (.entry z.cur z.stamp) keys).extraCycles (pages.length - 1)).pushMxq (.tst d m)
          z.me.arch.tm [ea] 0 pages))

/-- The array's entries on a bank: MFMT sets the format context; MZERO of a tile clears its elements and poison and sets every scale byte to 0x7F; MZERO of an accumulator makes every element +0; MOPEN opens a chain at the accumulator's value, MCLOSE commits the chain's value and ends it, so that MOPEN and MCLOSE with nothing between leave the value; a write of TSHAPEn sets that shape. None of them raises a flag or touches another tile, accumulator or shape. MXU_GRANULE_GRANT and TILE_PORT_TRANSFER complete in every state and are the cycles of the array and of the tile port. -/
def Obligations.MatrixEntries : Prop :=
  (∀ (b : Bank) (tab : SMap TabEntry) (free : Int) (k : Nat) (seed : BitVec 32) (d x y : Reg) (ta tb : MType) (sa sb ovr : Bool) (n3 : BitVec 3) (v : Word),
    let st := fun (i : Instr) => b.step tab free k seed [v] i
    (st (.mfmt ta tb sa sb ovr)).1 = { b with fmt := { ta := ta, tb := tb, sa := sa, sb := sb, ovr := ovr } }
    ∧ (let r := (st (.mzero d true)).1.tile d.toNat
       r.data = 0 ∧ r.poison = [] ∧ ∀ i, i < 128 → fld r.scales (8 * i + 7) (8 * i) = 0x7F)
    ∧ (let r := (st (.mzero d false)).1.acc d.toNat
       r.chain = none ∧ ∀ i, SMap.get r.val 0 i = 0)
    ∧ (let r := (st (.mopen d)).1.acc d.toNat
       r.val = (b.acc d.toNat).val ∧ r.chain = some (b.acc d.toNat).val)
    ∧ (let r := (st (.mclose d)).1.acc d.toNat
       r.chain = none ∧ r.val = (b.acc d.toNat).cur)
    ∧ ((b.acc d.toNat).chain = none → (((st (.mopen d)).1.step tab free k seed [v] (.mclose d)).1.acc d.toNat) = b.acc d.toNat)
    ∧ SMap.get (st (.tshapeWrite n3 x y)).1.tshape 0 n3.toNat = v
    ∧ (∀ i, i ∈ [Instr.mfmt ta tb sa sb ovr, .mzero d true, .mzero d false, .mopen d, .mclose d, .tshapeWrite n3 x y] →
        (st i).2 = 0
        ∧ (∀ n, n ≠ d.toNat → (st i).1.tile n = b.tile n ∧ (st i).1.acc n = b.acc n)
        ∧ (∀ n, n ≠ n3.toNat → SMap.get (st i).1.tshape 0 n = SMap.get b.tshape 0 n)))
  ∧ (∀ (s : State) (m : Nat), exec (.mxuGranuleGrant m) s = .next ((s.shapeWrites m).arrayCycle m)
      ∧ exec (.tilePortTransfer m) s = .next (((s.shapeWrites m).portJoin m).portCycle m))

/-- SBIND of an aligned, readable, valid descriptor completes when the engine's queue has room and no entry uses the register: the bind enters the queue. An address that is not aligned traps ALIGN, an invalid descriptor STREAM with the address; a full queue holds the bundle, charged STRM, and an entry that uses the register, charged VSEQ (the model's choice, log entry 85). SDROP ends a bound stream that no bind and no entry still needs, and v[d] then holds the last strip popped; of a register that is not bound it changes nothing. ACOPY of fewer than 2^32 bytes, of none too, completes when the queue has room and its destination lines are free: the bias of destination pages touched for the first time is recorded, it owns the lines and the copy enters the queue; a longer one traps ENGINE with the length. CHWAIT completes when the channel is neither at work nor queued, and puts CHSTAT in flight to x[d]; else it waits, charged STRM. COPY_ENGINE_GRANT accepts what the queue holds and moves one sector for the next client of the rotation that need not wait; with none, it only accepts. -/
def Obligations.StreamsAndCopies : Prop :=
  ∀ (s u : State) (d a b : Reg) (c : BitVec 2) (m : MemOp) (bs : List Byte) (pa : Nat),
    let ea := MemOp.ea s.me 32 m
    let queued := fun (t : State) (x : Cmd) => t.updMe fun k => { k with cmds := k.cmds ++ [x] }
    (ea.toNat % 32 ≠ 0 → exec (.sbind d m) s = .next (s.trap 0x03 ea))
    ∧ (ea.toNat % 32 = 0 → s.coreRead s.cur ea 32 .read .align = (u, .ok (bs, pa)) →
        let t := streamOf bs u.me.arch.vshape
        (t.ok = false → exec (.sbind d m) s = .next (u.trap 0x15 ea))
        ∧ (t.ok = true → 2 ≤ u.me.cmds.length → exec (.sbind d m) s = .next (u.holding cSTRM))
        ∧ (t.ok = true → u.me.cmds.length < 2 → u.me.arch.vUses d.toNat = true → exec (.sbind d m) s = .next (u.holding cVSEQ))
        ∧ (t.ok = true → u.me.cmds.length < 2 → u.me.arch.vUses d.toNat = false →
            exec (.sbind d m) s = .next (queued u (.bind d.toNat { t with after := u.stamp, born := u.clock }))))
    ∧ (s.me.binding d.toNat = true → exec (.sdrop d) s = .next (s.holding cSTRM))
    ∧ (s.me.binding d.toNat = false →
        let q := s.me.arch.stream d.toNat
        (q.bound = false → exec (.sdrop d) s = .next s)
        ∧ (q.bound = true → s.me.arch.vUses d.toNat = true → exec (.sdrop d) s = .next (s.holding cVSEQ))
        ∧ (q.bound = true → s.me.arch.vUses d.toNat = false →
            exec (.sdrop d) s = .next (s.updMe fun k => { k with arch := { k.arch with
              streams := SMap.del k.arch.streams d.toNat, v := SMap.set k.arch.v d.toNat q.last } })))
    ∧ (let len := (s.me.x b).toNat
       let keys := s.destKeys s.cur (s.me.x d).toNat len
       let clear := s.me.sb = [] ∧ (∀ e ∈ s.me.vwork, e.isVld = false) ∧ ∀ p ∈ (s.die 0).past ++ (s.die 1).past, ∀ k ∈ keys, p.ent.has k = false
       (2 ^ 32 ≤ len → exec (.acopy d a b c) s = .next (s.trap 0x17 (s.me.x b)))
       ∧ (len < 2 ^ 32 → 2 ≤ s.me.cmds.length → exec (.acopy d a b c) s = .next (s.holding cSTRM))
       ∧ (len < 2 ^ 32 → s.me.cmds.length < 2 → ¬ clear → exec (.acopy d a b c) s = .next (s.holding cMEM))
       ∧ (len < 2 ^ 32 → s.me.cmds.length < 2 → clear → ∀ h, s.ownWait s.cur none keys = some h → exec (.acopy d a b c) s = .next (s.holding h))
       ∧ (len < 2 ^ 32 → s.me.cmds.length < 2 → clear → s.ownWait s.cur none keys = none →
          let z := s.recordDest (s.me.x d).toNat len
          exec (.acopy d a b c) s = .next (queued (({ z with stamp := z.stamp + 1 } : State).takeLines (.chan z.cur c.toNat z.stamp) keys)
            (.copy c.toNat { dst := z.me.x d, src := z.me.x a, len := len, pos := 0, flt := false, cause := 0, first := 0, stamp := z.stamp,
                             born := z.clock }))))
    ∧ (s.me.chanBusy c.toNat = false →
        exec (.chwait d c) s = .next (if d = 0 then s else s.pushXI d (SMap.get s.me.arch.chstat 0 c.toNat)))
    ∧ (s.me.chanBusy c.toNat = true → exec (.chwait d c) s = .next (s.holding cSTRM))
    ∧ (∀ g,
        let z := s.acceptCmds g
        let client := fun (j : Nat) => ((z.core g).grant + 1 + j) % 12
        (∀ j t, j < 12 → z.engineClient g (client j) = some t → (∀ k, k < j → z.engineClient g (client k) = none) →
          exec (.copyEngineGrant g) s = .next (t.updCore g fun k => { k with grant := client j }))
        ∧ ((∀ j, j < 12 → z.engineClient g (client j) = none) → exec (.copyEngineGrant g) s = .next z))

/-! ## Messages, levels, barriers, strands, pairs, the Percolator -/

/-- SEND to a valid destination that is not sealed, whose schedule allows it, with its packet at hand (v[a], or the next strip of a bound stream), the core's earlier stores out of its buffer and its sequencer's transfers performed, completes: where the receiver runs a strand of the context (or is a mailbox), no earlier packet of the sender waits there or is on its way behind a departed receiver, and the whole packet fits, the packet of mod + 1 blocks claims its entries among those of this cycle in their order, not yet present, and the sender has one packet more outstanding. Where the packet must be diverted, or the receiver is full and the SEND is checked against a schedule or has waited for SPILLTO, it joins the receiver's spill queue as soon as the bridge carries it and cells are at hand. A destination word that names nothing traps PROT and a sealed receiver SEALED, with the word in TVAL. SPILLTO_EXPIRY ends a wait that has run out, and DIVERSION_CELL_GRANT gives cells to a waiting diversion. -/
def Obligations.SendDelivers : Prop :=
  (∀ (s : State) (d a : Reg) (n : BitVec 3),
    let w := s.me.x d
    let ctx := s.me.ctxNum
    (destOf ctx w = none → exec (.send d a n) s = .next (s.trap 0x06 w))
    ∧ ∀ dst, destOf ctx w = some dst →
      (s.isSealed ctx dst = true → exec (.send d a n) s = .next (s.trap 0x0C w))
      ∧ (s.sendTrap w dst = none → s.me.sb = [] → s.me.vmemDone = true → s.behindPost s.cur dst = false →
          ∀ (t : State) (v : BitVec 4096), s.takeV a.toNat = (t, .ok v) →
          let p := packetOf s.cur (n.toNat + 1) v
          let z := s.updWait fun y => { y with checked := true, since := y.since <|> some s.clock }
          let away := s.mustDivert ctx s.cur dst
          (away = false → s.hasRoom dst p.size = true →
            exec (.send d a n) s = .next ((t.claim ctx dst p false true (if s.scheduled = true then 2 + s.cur else 2 + 2720 + s.cur)).updMe
              fun c => { c with outstanding := c.outstanding + 1 }))
          ∧ ((away = true ∨ (s.hasRoom dst p.size = false ∧ (s.scheduled = true ∨ z.sendExpired s.cur = true))) →
            s.crossWaits (dieOf s.cur) (s.destDie dst) = false → ∀ r, z.cellsNow ctx s.cur p.size = some r →
            exec (.send d a n) s = .next (t.divert ctx s.cur dst p r))))
  ∧ (∀ (s : State) (g : Nat) (b : Bundle) (d a : Reg) (n : BitVec 3), let u := s.servePosts fun x => decide (x.holder = g)
      decodeBundle (u.core g).bundle = .ok b → b.c = .send d a n → (u.core g).flow = .held cMSG →
      ((u.core g).arch.wait.since.isSome = true → u.sendExpired g = true →
        ∃ t : State, exec (.spilltoExpiry g) s = .next t ∧ (t.core g).arch.wait.expired = true ∧ t.mem = s.mem)
      ∧ (∀ dst r, destOf (u.core g).ctxNum ((u.core g).x d) = some dst → (u.mustDivert (u.core g).ctxNum g dst = true ∨ u.sendExpired g = true) →
          (u.core g).arch.wait.cells = none → u.cellsFor (u.core g).ctxNum g (n.toNat + 1) false = some r →
          ∃ t : State, exec (.diversionCellGrant g) s = .next t ∧ (t.core g).arch.wait.cells = some (n.toNat + 1, r)))

/-- RECV to an unbound register, once the VLDs before it have their bytes, completes when the oldest packet of its channel has been present since before this cycle, the limit has not passed and, for a host message, the core's earlier accesses are performed as an acquire at .sys needs: v[d] holds its blocks, zero above, the packet leaves its queue whole, and q is true, or false for an error token. With the limit passed and no packet that came before it did, a RECV of the receive queue, and in trap mode one of a mailbox, completes with q false and takes nothing. RECV.acc with RCNT = 0 completes with q true; a packet at the head with RCNT = 1 is added element by element to v[d], RCNT falls to 0, q is true, and the packets behind it stay in the queue. RECV_TIMEOUT ends the wait of a RECV whose limit is reached with its channel empty. -/
def Obligations.ReceivesTake : Prop :=
  (∀ (s u : State) (d a : Reg) (q : QReg) (ch : RecvCh) (p : Packet), s.me.bound d.toNat = false → s.fixVlds s.cur = some u →
      (u.recvExpired (u.chFirst ch) (u.me.x a) = false → u.chHead ch = some p → (p.host = true → u.acquireWait u.cur .sys [] = false) →
        exec (.recv d a q ch) s = .next (((u.chPop ch).updArch fun x => x.wv d.toNat p.toV).pushQI q (!p.tok)))
      ∧ (u.recvExpired (u.chFirst ch) (u.me.x a) = true → (ch = .rq ∨ u.me.arch.tm = true) → exec (.recv d a q ch) s = .next (u.pushQI q false)))
  ∧ (∀ (s u : State) (d a : Reg) (q : QReg) (t : VType), s.me.bound d.toNat = false → s.fixVlds s.cur = some u →
      (u.me.arch.rcnt = 0 → exec (.recvAcc d a q t) s = .next (u.pushQI q true))
      ∧ (∀ p, u.me.arch.rcnt = 1 → u.recvExpired (u.chFirst .rq) (u.me.x a) = false → u.chHead .rq = some p → p.tok = false →
        ∃ v : State, exec (.recvAcc d a q t) s = .next (v.pushQI q true)
          ∧ v.me.arch.rv d.toNat = (addPacket t (u.me.arch.rv d.toNat) p).1
          ∧ v.me.arch.rcnt = 0 ∧ (∀ x ∈ u.me.rq.drop 1, x ∈ v.me.rq) ∧ v.me.arch.fpst = u.me.arch.fpst ||| (addPacket t (u.me.arch.rv d.toNat) p).2))
  ∧ (∀ (s : State) (g : Nat) (b : Bundle) (d a : Reg) (q : QReg) (ch : RecvCh) (n : Nat), decodeBundle (s.core g).bundle = .ok b → b.c = .recv d a q ch →
      (s.core g).flow = .held cMSG → (s.core g).arch.wait.since = some n → (s.core g).x a ≠ 0xFFFFFFFFFFFFFFFF#64 →
      (s.core g).now + (((s.core g).x a).toNat + n) * s.periodOf g ≤ s.clock + (s.core g).cycle * s.periodOf g →
      ({ s with cur := g } : State).chFirst ch = none →
      ∃ t : State, exec (.recvTimeout g) s = .next t ∧ (t.core g).arch.wait.expired = true ∧ t.mem = s.mem)

/-- XCHG traps ILLEGAL when its mask does not name the core or v[d] is a bound stream register. An XCHG whose meeting is complete completes: v[d] holds the result, q whether no participant failed, and the wait ends. A first XCHG of a core that is its mask's only participant completes at once with q true, v[d] holding the core's own quarter of v[a] in its place and zero elsewhere. Participant c's result holds, in quarter i, quarter c of participant i's register. -/
def Obligations.ExchangeMeets : Prop :=
  ∀ (s : State) (d a : Reg) (q : QReg) (mask : BitVec 4),
    ((mask.toNat.testBit (coreIn s.cur) = false ∨ s.me.bound d.toNat = true) → exec (.xchg d a q mask) s = .next (s.trap 0x01 s.me.bundle))
    ∧ (mask.toNat.testBit (coreIn s.cur) = true → s.me.bound d.toNat = false →
        (∀ st r, s.me.arch.wait.xchg = some st → s.me.arch.wait.xchgDone = some r →
          ∃ t : State, exec (.xchg d a q mask) s = .next (t.pushQI q r.2) ∧ OnlyMe s t ∧ t.me.arch.rv d.toNat = r.1
            ∧ t.me.arch.wait.xchg = none ∧ t.me.arch.wait.xchgDone = none)
        ∧ (s.me.arch.wait.xchg = none → s.me.bound a.toNat = false → mask.toNat = 2 ^ coreIn s.cur →
            SMap.get (s.quad (quadOf s.cur)).xchg [] mask.toNat = [] → s.me.contained = false →
          ∃ t : State, exec (.xchg d a q mask) s = .next (t.pushQI q true)
            ∧ t.me.arch.rv d.toNat = BitVec.ofNat 4096 (elemAt (s.me.arch.rv a.toNat) 1024 (coreIn s.cur) <<< (1024 * coreIn s.cur))
            ∧ t.me.arch.wait.xchg = none))
    ∧ (∀ (l : List (Nat × Nat × BitVec 4096 × Bool)) (c i st : Nat) (v : BitVec 4096), c < 4 → i < 4 →
        l.find? (fun e => decide (e.1 = i)) = some (i, st, v, false) →
        elemAt (xchgResult c l).1 1024 i = elemAt v 1024 c)

/-- With elements of 32 bits, a path between the bound levels and, for a take, an unbound destination: RESTR.up and PROLG.down, with their register at hand, complete when no destination was sealed at issue, the core's stores are performed, and every destination that is still to be served takes the entry, or its diversion, which it needs or the wait for SPILLTO allows, finds cells, in which state each holds it; a folded transfer takes eight cycles more, charged MSG. While one cannot, the others have theirs and the bundle waits, charged MSG. RESTR.take and PROLG.take complete when the heads of all their sources have been present since before this cycle, with the right tag: the sources' heads leave their queues (what is ready enters behind), v[d] holds the weighted sums under VSHAPE and q is true, both to be read 12 cycles later, and FPST takes the flags. WLOAD of an aligned readable image, and CYC, complete once the core's accesses are performed for the package, and write the level's entry. INTERLAYER_ENTRY_ARRIVAL makes a claimed entry present, unless it still has to cross a bridge that carries nothing now. -/
def Obligations.LevelsMove : Prop :=
  ∀ (s t u : State) (lv a : Reg) (q : QReg) (mask : BitVec 4) (rep : Bool) (m : MemOp) (b : Bind) (p : LvPath) (slots : List Nat) (bs : List Byte)
    (v : BitVec 4096) (pa g i : Nat),
    let l := lv.toNat
    let ctx := s.me.ctxNum
    let ent := fun (port : Nat) => ({ port := port, tag := l, shape := s.me.arch.vshape, data := v, src := s.cur, tok := false, present := false, since := 0, ctx := ctx, strand := 0 } : IlEntry)
    let z := s.updWait fun w => { w with since := w.since <|> some s.clock }
    let late := z.sendExpired s.cur
    let sends := fun (i : Instr) (dests : List (Nat × Nat)) => s.sealedDest dests = none → s.takeV a.toNat = (t, .ok v) →
      s.me.sb = [] → s.me.vmemDone = true →
      let r := t.sendAll ctx dests ent late
      let n := if p = .folded ∨ (p = .crown ∧ ∃ d ∈ dests, d.1 = s.cur) then 8 else 0
      (r.2 = 2 ^ dests.length - 1 →
        exec i s = .next (let w := r.1.updWait fun w => { w with told := 0 }; w.pay s.cur cMSG n w.me.arch.pc))
      ∧ (r.2 ≠ 2 ^ dests.length - 1 → ∃ w : State, exec i s = .next w ∧ w.me.flow = .held cMSG
        ∧ w.me.arch.wait.told = (z.sendAll ctx dests ent late).2)
    let takes := fun (i : Instr) (up : Bool) (entry tag : Nat) (srcs : List (Nat × Nat)) (hs : List IlEntry) =>
      srcs.map (fun x => s.me.ilHead x.1) = hs.map some → (∀ e ∈ hs, e.tok = false ∧ e.tag = tag) →
      let v := levelValue (s.weight ctx entry (if up then 0x40 else 0x90)) (s.levelRep ctx entry) up (hs.zip (srcs.map Prod.snd)) s.me.arch.vshape
      ∃ (w : State) (more : List IlEntry), exec i s = .next w ∧ w.cur = s.cur ∧ w.me.arch.rv a.toNat = v.1 ∧ w.me.arch.rq q.toNat = true
        ∧ w.me.arch.fpst = s.me.arch.fpst ||| v.2 ∧ w.me.ilq = srcs.foldl (fun l x => ilPop x.1 l) s.me.ilq ++ more
        ∧ ∃ f ∈ w.me.arch.vfly, RegName.v a.toNat ∈ f.regs ∧ RegName.q q.toNat ∈ f.regs ∧ f.land = s.clock + 12 * s.periodOf s.cur
    (vBytes s.me.arch.vshape = 4 →
      (s.levelPath ctx l true = .ok p → sends (.restrUp lv a) [upDest s.cur p])
      ∧ (s.levelPath ctx l false = .ok p → maskSlots p mask.toNat = some slots → sends (.prolgDown lv a mask) (slots.map (downDest s.cur p)))
      ∧ (s.me.bound a.toNat = false → s.levelPath ctx l false = .ok p → maskSlots p mask.toNat = some slots →
          ∀ hs, takes (.restrTake lv a q mask) true l (l - 1) (slots.map fun i => (upSource p i, i)) hs)
      ∧ (s.me.bound a.toNat = false → s.levelPath ctx l true = .ok p →
          ∀ hs, takes (.prolgTake lv a q) false (l + 1) (l + 1) [downSource s.cur p] hs))
    ∧ (let ea := MemOp.ea s.me 64 m
       ea.toNat % 64 = 0 → s.coreRead s.cur ea 160 .read .align = (u, .ok (bs, pa)) → u.pkgDone u.cur = true →
        exec (.wload lv rep m) s = .next ((u.putWeights u.me.ctxNum l bs rep).extraCycles ((pagesOf ea.toNat 160).length - 1)))
    ∧ (s.pkgDone s.cur = true → exec (.cyc lv b) s = .next (s.hwWrite (s.levelAt ctx l) 8
        (s.hwLe (s.levelAt ctx l) 8 / 8 % 2 * 8
          + (match b with | .l0 => 0 | .l1 => 1 | .l2 => 2 | .l3 => 3 | .crown => 4 | .unbound => 7))))
    ∧ (∀ e0, (s.core g).ilq[i]? = some e0 → e0.present = false → s.crossWaits (dieOf e0.src) (dieOf g) = false →
        ∃ t : State, exec (.interlayerEntryArrival g i) s = .next t ∧ (t.core g).ilq.length = (s.core g).ilq.length
        ∧ ∀ (j : Nat) (e : IlEntry), (s.core g).ilq[j]? = some e →
            (t.core g).ilq[j]? = some (if j = i then { e with present := true, since := s.clock } else e))

/-- BAR and SSTEP of a domain that the strand may arrive at and that is not armed complete with q false; once their domain has released or broken they complete with what it gave. A core that is no member, or whose context is not the domain's, traps PROT with the domain's number. BARRIER_ARRIVAL of a waiting member whose stores are performed adds it to the arrived. BARRIER_RELEASE of a domain that is armed, gathering and complete gives true to every waiting member, starts the next round and forgets the arrivals. BARRIER_WATCHDOG_EXPIRY at the limit breaks a domain that is not complete, and its waiting members take WATCHDOG with 0x100 + its number, which in trap mode is a double trap. -/
def Obligations.BarrierRounds : Prop :=
  (∀ (s : State) (q : QReg) (dom : BitVec 5) (i : Instr), i = .bar q dom ∨ i = .sstep q dom →
      let die := dieOf s.cur
      let w := s.me.arch.wait
      (w.bar.map (fun b => (b.1, b.2.1)) ≠ some (die, dom.toNat) → s.mayArrive dom.toNat = true → ((s.die die).domain dom.toNat).st ≠ .armed →
        ∃ t : State, exec i s = .next (t.pushQI q false) ∧ OnlyMe s t ∧ t.me.arch.wait.bar = none)
      ∧ (∀ k b, w.bar = some (die, dom.toNat, k) → w.barDone = some b →
        ∃ t : State, exec i s = .next (t.pushQI q b) ∧ OnlyMe s t ∧ t.me.arch.wait.bar = none ∧ t.me.arch.wait.barArrived = false)
      ∧ (w.bar.map (fun b => (b.1, b.2.1)) ≠ some (die, dom.toNat) → s.mayArrive dom.toNat = false → exec i s = .next (s.trap 0x06 (BitVec.ofNat 64 dom.toNat))))
  ∧ (∀ (s : State) (g die n : Nat) (k : Bool), (s.core g).arch.wait.bar = some (die, n, k) → (s.core g).strand ≠ none →
      (s.core g).arch.wait.barArrived = false → ((s.die die).domain n).st = .armed → g ∉ ((s.die die).domain n).arrived →
      s.storesDone g (s.barScope die n) = true →
      ∃ t : State, exec (.barrierArrival g) s = .next t ∧ ((t.die die).domain n).arrived = ((s.die die).domain n).arrived ++ [g]
        ∧ (t.core g).arch.wait.barArrived = true)
  ∧ (∀ (s : State) (die n : Nat), s.releasable die n = true →
      ∃ t : State, exec (.barrierRelease die n) s = .next t ∧ ((t.die die).domain n).arrived = []
        ∧ ((t.die die).domain n).round = (((s.die die).domain n).round + 1) % 2 ^ 16
        ∧ ∀ g, (s.core g).arch.wait.bar.map (fun b => (b.1, b.2.1)) = some (die, n) → (s.core g).arch.wait.barArrived = true →
            (s.core g).arch.wait.barDone = none → (t.core g).arch.wait.barDone = some true)
  ∧ (∀ (s : State) (die n : Nat), ((s.die die).domain n).st = .armed → fld ((s.die die).domain n).dctl 31 0 ≠ 0 → s.gathering die n = true →
      fld ((s.die die).domain n).dctl 31 0 * 1000 * 11088 ≤ s.watched die n → s.releasable die n = false →
      ∃ t : State, exec (.barrierWatchdogExpiry die n) s = .next t ∧ ((t.die die).domain n).st = .broken
        ∧ ∀ g, (s.core g).arch.wait.bar.map (fun b => (b.1, b.2.1)) = some (die, n) → (s.core g).arch.wait.barArrived = true →
            (s.core g).arch.wait.barDone = none →
            (t.core g).arch.wait.barDone = some false
            ∧ (if (s.core g).arch.tm = true then (t.core g).arch.wait.wdTm else (t.core g).arch.wait.barWd) = some (BitVec.ofNat 64 (0x100 + n)))

/-- A write of DCTL with EN = 1 to a half that is not armed, with a valid descriptor, arms it: round 0, no arrival, ERR 0, and its watchdog runs from now where the other half already holds arrivals; to an armed half it sets ERR 1 and to an invalid descriptor ERR 2, and nothing else. A write with EN = 0 frees the half, releasing its waiting members with false, and keeps the descriptor's bits. A write of a doubleword of QMASK is taken while the half is not armed, and refused with ERR 1 while it is. -/
def Obligations.DomainControl : Prop :=
  ∀ (s : State) (die n i : Nat) (v : Word),
    let d := (s.die die).domain n
    (d.st ≠ .armed → s.domainOk die n v = true →
      ∃ t : State, exec (.domainArm die n v) s = .next t ∧ ((t.die die).domain n) =
        { d with dctl := v, err := 0, st := .armed, round := 0, arrived := [], sstep := false, counted := 0,
                 started := if t.gathering die n = true ∧ t.frozen die n = false ∧ fld v 31 0 ≠ 0 then some s.clock else none })
    ∧ (d.st = .armed → exec (.domainArm die n v) s = .next (s.updDomain die n fun d => { d with err := 1 }))
    ∧ (d.st ≠ .armed → s.domainOk die n v = false → exec (.domainArm die n v) s = .next (s.updDomain die n fun d => { d with err := 2 }))
    ∧ (∃ t : State, exec (.domainDisarm die n v) s = .next t ∧ ((t.die die).domain n).st = .free ∧ ((t.die die).domain n).err = 0
        ∧ ((t.die die).domain n).dctl = v &&& 0x7F000FFFFFFFFFFF#64)
    ∧ (d.st ≠ .armed → exec (.qmaskWrite die n i v) s =
        .next (s.updDomain die n fun d => { d with err := 0, qmask := setFld d.qmask (64 * i + 63) (64 * i) v.toNat }))
    ∧ (d.st = .armed → exec (.qmaskWrite die n i v) s = .next (s.updDomain die n fun d => { d with err := 1 }))

/-- On a strand that is not cancelled, on a core that is no pair's and outside an open vector body: with nothing outstanding, a SUSP outside trap mode with no armed graph, a WAITC there of an incomplete object that is not above or at its launch, and an EXIT complete: the core holds no strand. SUSP and WAITC leave a new record of the strand with PC + 8, the values of x1 to x5, its priority, launch and index: in the ring of the strand's die and layer for SUSP without a wake time or with one that has passed, asleep until it otherwise, waiting on the object with its destination for WAITC. Their operand is x[a] as it was when the bundle's A instruction issued, which is x[a] itself while that has not. In trap mode SUSP and WAITC trap ILLEGAL; WAITC of a handle that names no object, or an object the strand is part of, traps PROT with the handle. -/
def Obligations.SuspensionPoints : Prop :=
  ∀ (s : State) (t : Strand) (d a : Reg), s.me.strand = some t → t.r.cx = false → s.me.arch.openRep = none → s.dual s.cur = false →
    let xa := s.me.xAt a
    (s.me.issuedA = none → xa = s.me.x a)
    ∧ (s.me.arch.tm = true → exec (.susp a) s = .next (s.trap 0x01 s.me.bundle) ∧ exec (.waitc d a) s = .next (s.trap 0x01 s.me.bundle))
    ∧ (s.me.arch.tm = false → (s.ctx t.ctx).named t.ctx xa = none → exec (.waitc d a) s = .next (s.trap 0x06 xa))
    ∧ (∀ id, s.me.arch.tm = false → (s.ctx t.ctx).named t.ctx xa = some id → (s.ctx t.ctx).under id t.r.launch = true →
        exec (.waitc d a) s = .next (s.trap 0x06 xa))
    ∧ (s.suspendWait s.cur = none →
      (∃ u : State, exec .exit s = .next u ∧ (u.core s.cur).strand = none ∧ (u.core s.cur).flow = .left)
      ∧ (s.me.arch.tm = false → s.me.arch.arming = 0 →
        let left := fun (u : State) (p : Place) => (u.core s.cur).strand = none ∧ ∃ it, it ∈ u.items ∧ it.rid = s.stamp ∧ it.ctx = t.ctx
          ∧ it.die = t.die ∧ it.layer = t.layer ∧ it.r.pc = s.me.arch.pc + 8 ∧ it.r.pri = t.pri ∧ it.r.launch = t.r.launch
          ∧ it.r.index = t.r.index ∧ it.r.xs = (s.recordOf s.cur t 0).xs ∧ it.place = p
        (∃ u : State, exec (.susp a) s = .next u ∧ left u (if a = 0 ∨ xa.toNat ≤ s.clock / 11088 then .ring else .sleeping xa.toNat))
        ∧ (∀ id, (s.ctx t.ctx).named t.ctx xa = some id → (s.ctx t.ctx).under id t.r.launch = false →
            (s.ctx t.ctx).outcome s.stamp id = none →
          ∃ u : State, exec (.waitc d a) s = .next u ∧ left u (.waiting id d.toNat))))

/-- SPAWN that no check of its launch word and entry traps, with the core's stores performed, room in the pool and a free object entry completes: a launch joins the strand's graph (or its armed one) and its handle is in flight to x[d], interlocked. A launch word with reserved bits or more than 2^24 strands traps ENGINE with the word. CANCEL of a handle that names an object completes with that object and everything below it cancelled; another handle traps PROT. -/
def Obligations.SpawnAndCancel : Prop :=
  ∀ (s u : State) (t : Strand) (d a : Reg) (e : SpawnTo) (mask : BitVec 4) (force : Bool) (id : Nat), s.me.strand = some t →
    let w := s.me.x a
    let lmask := if mask = 0 then t.r.lmask else mask
    let entry := match e with | .reg b => s.me.x b | .label o => s.me.arch.pc + 8 * o.signExtend 64
    let r : Rec :=
      { pc := entry, me := false, pl := t.r.pl, launch := 0, index := 0, afq := 0, afv := false, age := 0, cx := false, spl := false, kind := 4,
        pr := false, lmask := lmask, pri := if bitAt w 39 then fld w 38 32 else t.pri, spix := 0,
        xs := [0, s.me.x 2, s.me.x 3, s.me.x 4, s.me.x 5], bad := false }
    (s.spawnTrap w t e = none → s.storesDone s.cur .pkg = true → s.slotsUsed t.ctx + 1 + (launchPlaces lmask).length ≤ 2 ^ 20 →
      s.newLaunch t.ctx ((s.ctx t.ctx).spawnGraph t s.me.arch.arming) r (fld w 24 0) = some (id, u) →
      exec (.spawn d a e mask) s = .next ((u.updArch fun x => { x with arming := 0 }).pushXI d (handleWord 1 t.ctx id)))
    ∧ ((fld w 63 40 ≠ 0 ∨ fld w 31 25 ≠ 0 ∨ 2 ^ 24 < fld w 24 0) → exec (.spawn d a e mask) s = .next (s.trap 0x17 w))
    ∧ ((s.ctx t.ctx).named t.ctx w = some id → exec (.cancel a force) s = .next (s.cancelObj t.ctx id force w))
    ∧ ((s.ctx t.ctx).named t.ctx w = none → exec (.cancel a force) s = .next (s.trap 0x06 w))

/-- PAIR.on on a strand that is paired completes and changes nothing; on another, where the scratchpad has no room for the journal it traps PROT with the size, and else, where no claim is under way, it claims the partner and waits, charged PAIR. PAIR_CLAIM_COMPLETE with a free partner makes the pair: STATUS.PR is 1 on the even core, both cores are paired, and the strand runs there. PAIR.off ends it: PR is 0 and both cores are single. PAIR_EXCHANGE takes eight cycles; of equal fingerprints it moves the journal to the store buffer, in order, and takes the state as the next checkpoint; of different ones, the first and second time, it restores the checkpoint (the state as it stands, after an operation in an interval of its own), discards the journal and counts the failure. -/
def Obligations.PairsAgree : Prop :=
  (∀ s : State, s.dual s.cur = true → exec .pairOn s = .next s)
  ∧ (∀ s : State, s.dual s.cur = false → (s.journalFits s.cur).2 = false →
      exec .pairOn s = .next (s.trap 0x06 (BitVec.ofNat 64 ((s.quad (quadOf s.cur)).spad * 4096))))
  ∧ (∀ s : State, s.dual s.cur = false → (s.journalFits s.cur).2 = true → s.me.pair.st ≠ .claiming →
      exec .pairOn s = (s.claimPair s.cur).hold cPAIR)
  ∧ (∀ s : State, s.dual s.cur = true →
      ∃ t : State, exec .pairOff s = .next t ∧ (t.core s.cur).arch.pr = false ∧ (t.core s.cur).pair.st = .single ∧ (t.core (s.cur + 1)).pair.st = .single)
  ∧ (∀ (s : State) (e : Nat), e % 2 = 0 → (s.core e).pair.st = .claiming → (s.core e).pair.odd = false → s.partnerFree (e + 1) = true →
      (s.core e).strand ≠ none →
      ∃ t : State, exec (.pairClaimComplete e) s = .next t ∧ (t.core e).arch.pr = true ∧ (t.core e).pair.st = .paired ∧ (t.core (e + 1)).pair.st = .paired)
  ∧ (∀ (s : State) (e : Nat) (odd : Word), e % 2 = 0 → (s.core e).pair.st = .exchanging → (s.core e).intervalDone = true →
      let c := s.core e
      let now := ((s.exchangeCycles e).core e).landEvery.arch
      (c.pair.late.foldl crcWord c.pair.print = odd →
        ∃ t : State, exec (.pairExchange e odd) s = .next t ∧ (t.core e).sb = c.sb ++ c.pair.journal ∧ (t.core e).pair.journal = []
          ∧ (t.core e).pair.fails = 0 ∧ (t.core e).pair.ckpt = some now ∧ (t.core e).pair.st = .paired)
      ∧ (∀ k, c.pair.late.foldl crcWord c.pair.print ≠ odd → c.pair.fails < 2 → c.pair.ckpt = some k →
        ∃ t : State, exec (.pairExchange e odd) s = .next t ∧ (t.core e).arch = (if c.pair.solo = true then now else k) ∧ (t.core e).pair.journal = []
          ∧ (t.core e).pair.fails = c.pair.fails + 1 ∧ (t.core e).sb = c.sb))

/-- While the Percolator does not run: PPATCH of an aligned, readable, valid patch loads it and clears counts, counters and positions; PSET and PGET of 32-bit elements within the 256 cells write and read them; PSTEP starts a run of x[a] steps with its lanes and puts the old PREM in flight to x[d] (PSET's elements and PSTEP's lanes are v[a] and v[b], or the next strip of a bound stream); PSAVE of an aligned writable place stores the 8 KiB image as 1,024 doublewords, which enter the store buffer as it has room, and completes with the last; PREST of an aligned, readable, valid image replaces all of its state. While it runs a PSTEP waits, charged DEP. A base step of a running Percolator whose quad is not halted and whose strand is not being pre-empted is one step of R368. -/
def Obligations.PercolatorWorks : Prop :=
  ∀ (s u : State) (d a b : Reg) (w : Bool) (sel : PercSel) (m : MemOp) (bs : List Byte) (pa g : Nat),
    let ea := MemOp.ea s.me 64 m
    let f := (s.me.x b).toNat
    let n := vElems s.me.arch.vshape
    (ea.toNat % 64 = 0 → s.percBusy = false →
      (s.coreRead s.cur ea 2112 .read .align = (u, .ok (bs, pa)) → (∀ p ∈ numbered (dwordsOf 264 bs), patchImageOk p.1 p.2 = true) →
        exec (.ppatch m) s = .next ((u.extraCycles ((pagesOf ea.toNat 2112).length - 1)).updPerc fun p => p.load (dwordsOf 264 bs)))
      ∧ (s.coreRead s.cur ea 8192 .read .align = (u, .ok (bs, pa)) → (∀ p ∈ numbered (dwordsOf 1024 bs), restOk p.1 p.2 = true) →
        exec (.prest m) s = .next ((u.extraCycles ((pagesOf ea.toNat 8192).length - 1)).updPerc fun _ => Perc.restore (dwordsOf 1024 bs))))
    ∧ (ea.toNat % 64 = 0 → s.percBusy = false →
        ∀ k, s.coreWriteWords s.cur ea ((List.range 1024).map s.me.arch.perc.imageWord) s.me.arch.wait.sent = (u, .ok k) →
        (1024 ≤ k → exec (.psave m) s = .next (u.extraCycles ((pagesOf ea.toNat 8192).length - 1)))
        ∧ (k < 1024 → exec (.psave m) s =
            .next ((u.updMe fun c => { c with arch := { c.arch with wait := { c.arch.wait with sent := k } } }).holding cMEM)))
    ∧ (s.percBusy = false → fld s.me.arch.vshape 1 0 = 2 → f + n ≤ 256 →
        (∀ z v, s.takeV a.toNat = (z, .ok v) → ∃ t : State, exec (.pset a b w) s = .next t ∧ OnlyMe s t ∧
          ∀ k, k < 256 → let old := s.me.arch.perc.cell k; t.me.arch.perc.cell k =
            if f ≤ k ∧ k < f + n then
              (let x := elemAt v 32 (k - f)
               if w then { old with w := x } else { old with y := sextNat 32 x }) else old)
        ∧ (s.me.bound d.toNat = false → n ≤ 128 → ∃ t : State, exec (.pget d b sel) s = .next t ∧ OnlyMe s t ∧
          ∀ k, k < n → elemAt (t.me.arch.rv d.toNat) 32 k = (s.me.arch.perc.cell (f + k)).pick sel % 2 ^ 32))
    ∧ (s.percBusy = false →
        exec (.pstep d a b false) s = .next ((s.updPerc fun p => p.start 0 (s.me.x a)).pushXI d s.me.arch.perc.prem)
        ∧ (∀ z v, s.takeV b.toNat = (z, .ok v) → badLane v = none →
          exec (.pstep d a b true) s = .next ((z.updPerc fun p => p.start v (s.me.x a)).pushXI d s.me.arch.perc.prem)))
    ∧ (s.percBusy = true → exec (.pstep d a b false) s = .next (s.holding cDEP))
    ∧ ((s.core g).arch.perc.running = true → (s.quad (quadOf g)).dbg = false → (∀ t, (s.core g).strand = some t → t.spilling = false) →
        exec (.percBaseStep g) s = .next (s.updCore g fun c => { c with arch := { c.arch with perc := { c.arch.perc.step with fltAt := s.clock } } }))

/-- PACKET_ARRIVAL makes a claimed packet of a receive queue present, and no other, unless it still has to cross a bridge that carries nothing now; a mailbox's packet likewise, and the slots it has claimed are those that HEAD already counts. SPILL_QUEUE_DRAIN of a queue whose receiver runs a strand of the context and is not sealed, or of a mailbox that is not sealed, offers it what is ready: the head of its spill queue, as its cells hold it, moves into the queue when it fits, ahead of what others have put there in this very cycle, and so on. HOST_DOORBELL of an open mailbox that is not sealed puts the host's message into the ring, present, when there is room and nothing waits in its spill queue; a sealed mailbox drops it, counts the drop and keeps its ring. -/
def Obligations.QueuesDeliver : Prop :=
  ∀ (s : State) (g i n m : Nat) (p : RqPacket) (ctx : BitVec 12) (mb : BitVec 3) (msg : BitVec 512),
    (g < numCores → (s.core g).rq[i]? = some p → s.crosses (dieOf g) p = true →
      ∃ u : State, exec (.packetArrival g i) s = .next u ∧ (u.core g).rq[i]? = some { p with present := true, since := s.clock }
        ∧ (∀ j, j ≠ i → (u.core g).rq[j]? = (s.core g).rq[j]?))
    ∧ (n < 4096 → m < 8 → ((s.ctx n).mbox m).ring[i]? = some p → s.crosses (s.mboxDie n) p = true →
      ∃ u : State, exec (.packetArrival (numCores + 8 * n + m) i) s = .next u
        ∧ ((u.ctx n).mbox m).ring[i]? = some { p with present := true, since := s.clock }
        ∧ ((u.ctx n).mbox m).head = ((s.ctx n).mbox m).head)
    ∧ (∀ (pk : Packet) (b c : Bool) (r : Nat),
        (((s.claim n (.mbox n m) pk b c r).ctx n).mbox m).head = ((s.ctx n).mbox m).head + BitVec.ofNat 32 (Nat.max 1 pk.ents.length))
    ∧ (s.resident g n = true → (s.core g).rqSealed = false → exec (.spillQueueDrain (.core g n)) s = .next (s.offer g))
    ∧ (((s.ctx n).mbox m).sealed = false → exec (.spillQueueDrain (.mailbox n m)) s = .next (s.offerMbox n m))
    ∧ (∀ (e : SpillEntry) (r : List SpillEntry) (k : Packet), SMap.get (s.ctx n).spillQ [] g = e :: r → (s.fromCells n e).pkt = some k →
        occupied (s.core g).rq + k.size ≤ 16 →
        ∃ (t : State) (x : RqPacket), s.drainCore g n = some t ∧ SMap.get (t.ctx n).spillQ [] g = r
          ∧ x.pkt = k ∧ x.present = true ∧ (t.core g).rq = insertRq (s.core g).rq x
          ∧ ((∀ y ∈ (s.core g).rq, y.born ≠ s.clock) → (t.core g).rq = (s.core g).rq ++ [x]))
    ∧ (let b := (s.ctx ctx.toNat).mbox mb.toNat
       let pk : Packet := { src := 0, host := true, tok := false, ents := [msg] }
       (b.sealed = false → (s.ctx ctx.toNat).isOpen = true → occupied b.ring + 1 ≤ 128 → b.spill = [] →
        exec (.hostDoorbell ctx mb msg) s =
          .next ((s.claim ctx.toNat (.mbox ctx.toNat mb.toNat) pk true false rankHost).releaseParked ctx.toNat mb.toNat))
       ∧ (b.sealed = true → ∃ u : State, exec (.hostDoorbell ctx mb msg) s = .next u ∧ ((u.ctx ctx.toNat).mbox mb.toNat).drops = b.drops + 1
          ∧ ((u.ctx ctx.toNat).mbox mb.toNat).ring = b.ring))

/-! ## Contexts, dispensers, pages, divided memories -/

/-- For a context other than 0. CTXDESC_WRITE writes bits 51:9 in FREE, and in any other state only sets ERR 1. CTX_CREATE in FREE with a valid descriptor makes it READY with ERR 0 and the descriptor's image; with an invalid one it sets ERR 2; in any other state ERR 1. CTX_START in READY makes it LIVE: the job, one phase, one graph and a launch of one strand have IDs 1, 2, 3 and 4, none of them done, NEXTID is 5, and the resident record is enqueued with LAUNCH 4 and INDEX 0 in the ring of die 0 for the lowest layer of its LMASK at its PRI; when the job completes the context is still LIVE, and a STOP of a LIVE context with no strands and no records takes it to READY at once. CTX_STOP in LIVE leaves it STOPPING or READY; CTX_DESTROY in READY or DEAD makes it FREE, its descriptor's address kept and none of its records left; in other states they set ERR 1. ADDRESS_SPACE_TEARDOWN makes every context it names that is LIVE or STOPPING TEARING, with no strand on any core. TEARDOWN_COMPLETE of a TEARING context with nothing left makes it DEAD with ERR 3. -/
def Obligations.ContextsMove : Prop :=
  ∀ (s : State) (n : BitVec 12) (v : Word) (fu : FailUnit), n ≠ 0 →
    let k := n.toNat
    let c := s.ctx k
    let err := fun e => s.updCtx k fun c => { c with err := e }
    (c.st = .free → exec (.ctxdescWrite n v) s = .next (s.updCtx k fun c => { c with desc := v &&& 0x000FFFFFFFFFFE00#64 }))
    ∧ (c.st ≠ .free → exec (.ctxdescWrite n v) s = .next (err 1) ∧ exec (.ctxCreate n) s = .next (err 1))
    ∧ (c.st = .free → s.descValid c.desc.toNat = false → exec (.ctxCreate n) s = .next (err 2))
    ∧ (c.st = .free → s.descValid c.desc.toNat = true → ∃ t : State, exec (.ctxCreate n) s = .next t ∧ (t.ctx k).st = .ready
        ∧ (t.ctx k).err = 0 ∧ (t.ctx k).d = some (s.readDesc c.desc.toNat))
    ∧ (∀ d, c.st = .ready → c.d = some d → ∃ t : State, exec (.ctxStart n) s = .next t ∧ (t.ctx k).st = .live ∧ (t.ctx k).nextId = 5
        ∧ (t.ctx k).objs = [(1, Obj.new 4 0 1), (2, Obj.new 3 1 1), (3, Obj.new 2 2 1), (4, Obj.new 1 3 1)]
        ∧ ∃ it, it ∈ t.items ∧ it.rid = s.stamp ∧ it.ctx = k ∧ it.die = 0 ∧ it.place = .ring ∧ it.r.launch = 4 ∧ it.r.index = 0
          ∧ it.r.pri = d.res.pri ∧ it.r.pc = d.res.pc
          ∧ (d.res.lmask ≠ 0 → d.res.lmask.toNat.testBit it.layer = true ∧ ∀ j, j < it.layer → d.res.lmask.toNat.testBit j = false))
    ∧ (c.st ≠ .ready → exec (.ctxStart n) s = .next (err 1))
    ∧ (c.st = .live → (State.completeObj 4 s k 1).ctx k = { c with objs := ((State.completeObj 4 s k 1).ctx k).objs })
    ∧ (c.st = .live → ∃ t : State, exec (.ctxStop n) s = .next t ∧ (t.ctx k).err = 0 ∧ ((t.ctx k).st = .stopping ∨ (t.ctx k).st = .ready)
        ∧ ((∀ g u, (g, u) ∈ s.cores → ∀ r, u.strand = some r → r.ctx ≠ k) → (∀ it ∈ s.items, it.ctx ≠ k) → (t.ctx k).st = .ready))
    ∧ (c.st ≠ .live → exec (.ctxStop n) s = .next (err 1))
    ∧ (c.st = .ready ∨ c.st = .dead → ∃ t : State, exec (.ctxDestroy n) s = .next t ∧ (t.ctx k).st = .free ∧ (t.ctx k).desc = c.desc
        ∧ (t.ctx k).d = none ∧ ∀ it ∈ t.items, it.ctx ≠ k)
    ∧ (c.st ≠ .ready → c.st ≠ .dead → exec (.ctxDestroy n) s = .next (err 1))
    ∧ (∃ t : State, exec (.addressSpaceTeardown fu) s = .next t ∧ ∀ m, m ∈ s.tornBy fu → (s.ctx m).st = .live ∨ (s.ctx m).st = .stopping →
        (t.ctx m).st = .tearing ∧ ∀ g u, (t.core g).strand = some u → u.ctx ≠ m)
    ∧ (c.st = .tearing → s.ctxEmpty k = true → exec (.teardownComplete n) s =
        .next (s.updCtx k fun c => { c with st := .dead, err := 3, msi := true }))

/-- DISPATCH places the ring's head, whose record, read from its pool slot, passes its check and is neither a launch reference nor spilled nor paired, on the core found for it: that core holds its strand with its PC, x1 to x5 and priority, and the record has left. AFFINITY_WINDOW_EXPIRY clears AFV 2,000 ns after the record was enqueued; AGING_PROMOTION moves an aged record to its ring's tail with AGE one higher; SLEEP_WAKE moves a sleeping record whose time has come to the ring's tail. PREEMPTION of a core marks its strand for pre-emption, with the dispenser's PEND, where it is the dispenser's victim, and else changes nothing. ASYNC_TRAP_TAKE of a strand outside trap mode with a pending cause and no atomic's response under way takes it: TPC is the PC, TCAUSE and TVAL the cause's, and the PC TVEC. STRAND_WATCHDOG_EXPIRY makes a WATCHDOG with 0x200 pending and counts anew. A load of ARMG or ARMP, with object entries free, puts the new object's handle on its way to x[d] and arms it. ACCT_FLUSH after 4,096 cycles of the layer flushes a core's counts; ACCT_OVERFLOW_RECORD puts an overflow count into the ring. -/
def Obligations.DispensersWork : Prop :=
  (∀ (s : State) (g : Nat), s.victim (dieOf g) (layerOf g) = some g →
    exec (.preemption g) s = .next (s.updCore g fun c => { c with strand := c.strand.map fun t => { t with preempt := true, pend := true } }))
  ∧ (∀ (s : State) (g : Nat), s.victim (dieOf g) (layerOf g) ≠ some g → exec (.preemption g) s = .next s)
  ∧ (∀ (s : State) (die layer g : Nat) (it : Item), s.headOf die layer = some it → s.placeFor die layer it = some g → it.place = .ring → it.out = none →
      let r := s.slotRec it.ctx it.slot (s.itemRec it)
      r.kind ≠ 5 → r.pr = false → r.spl = false → recOk (match (s.ctx it.ctx).d with | some x => x.cap | none => 0) r = true →
      ∃ t : State, exec (.dispatch die layer) s = .next t ∧ (t.core g).arch.pc = r.pc
        ∧ (∀ i, i < 5 → (t.core g).arch.rx (i + 1) = (r.xs[i]?).getD 0)
        ∧ (∃ u, (t.core g).strand = some u ∧ u.ctx = it.ctx ∧ u.pri = r.pri ∧ u.die = it.die ∧ u.layer = it.layer)
        ∧ ∀ x ∈ t.items, x.rid ≠ it.rid)
  ∧ (∀ (s : State) (rid : Nat), exec (.affinityWindowExpiry rid) s = .next { s with items := s.items.map fun x =>
      if x.rid = rid then (if x.r.afv = true ∧ 2000 ≤ s.clock / 11088 - x.born / 11088 then { x with r := { x.r with afv := false } } else x) else x })
  ∧ (∀ (s : State) (rid : Nat) (it : Item), s.items.find? (fun x => decide (x.rid = rid)) = some it →
      (it.place = .ring ∨ it.place = .ref → effPri it.r < 127 → it.r.age < 16 →
        (let q := fld (SMap.get (s.die it.die).dispctl dispctlReset it.layer) 31 16
         q ≠ 0 ∧ q * 1000 ≤ s.clock / 11088 - it.since / 11088) →
        exec (.agingPromotion rid) s = .next { s with stamp := s.stamp + 1, items := s.items.filter (fun x => decide (x.rid ≠ rid))
          ++ [{ it with since := s.clock, seq := s.stamp, was := some (s.clock, it.r.age, it.since, it.seq), r := { it.r with age := it.r.age + 1 } }] })
      ∧ (∀ wake, it.place = .sleeping wake → wake ≤ s.clock / 11088 →
        exec (.sleepWake rid) s = .next (s.toRing it) ∧ (s.toRing it).items = s.items.filter (fun x => decide (x.rid ≠ it.rid))
          ++ [{ it with place := .ring, since := s.clock, born := s.clock, seq := s.stamp, was := none, r := { it.r with kind := 0, age := 0 } }]))
  ∧ (∀ (s : State) (g cause : Nat) (val : Word),
      let c := s.core g
      c.strand ≠ none → (s.quad (quadOf g)).dbg = false → (s.core (g / 2 * 2)).pair.st ≠ .exchanging → c.micro = none → c.amoFlying = false →
        c.arch.tm = false → c.due s.clock = some (.trap cause val) →
        ∃ t : State, exec (.asyncTrapTake g) s = .next t ∧ (t.core g).arch.tpc = c.arch.pc ∧ (t.core g).arch.tcause = BitVec.ofNat 64 cause
          ∧ (t.core g).arch.tval = val ∧ (t.core g).arch.tm = true ∧ (t.core g).arch.pc = tvecKeep c.arch.copies.tvec)
  ∧ (∀ (s : State) (g : Nat) (t : Strand), (s.core g).strand = some t → (s.quad (quadOf g)).wd ≠ 0 → s.watchStopped g = false →
      (s.quad (quadOf g)).wd * 1000 * 11088 ≤ s.clock - t.retired →
      exec (.strandWatchdogExpiry g) s = .next (s.updCore g fun c =>
        if (s.core g).arch.tm = true then
          { c with strand := some { t with retired := s.clock }, arch := { c.arch with wait := { c.arch.wait with wdTm := some 0x200 } } }
        else { c with strand := some { t with watchdog := some 0x200, retired := s.clock } }))
  ∧ (∀ (s u : State) (d : Reg) (h : Word),
      (s.arm false = some (h, u) → exec (.armg d) s = .next (u.pushLd d h (objectPa (dieOf s.cur) 0)) ∧ u.me.arch.arming = h)
      ∧ (s.arm true = some (h, u) → exec (.armp d) s = .next (u.pushLd d h (objectPa (dieOf s.cur) 1)) ∧ u.me.arch.arming = h))
  ∧ (∀ (s : State) (g : Nat),
      (4096 ≤ (s.core g).acct.cycles + (s.clock - (s.core g).now) / s.periodOf g - (s.core g).acct.lastFlush →
        exec (.acctFlush g) s = .next ((s.bringUp g).flushAcct g) ∧ (((s.bringUp g).flushAcct g).core g).acct.unflushed = []
        ∧ (((s.bringUp g).flushAcct g).core g).acct.lastFlush = ((s.bringUp g).core g).acct.cycles)
      ∧ ((s.core g).strand ≠ none → (s.core g).pcrec = true → exec (.acctOverflowRecord g) s = .next (s.putOverflow g)))

/-- SNAP of an image that is not 4 KiB aligned traps ALIGN, of one that cannot hold an image PROT; while an image drains, or for another context's generations, it gives q false; else, with the core's accesses performed, the generation is cut and q is true. GENQ 0 to 2 put the bytes still to drain, the generation, and the bytes of the reserve in flight to x[d]. BIAS of a page that is none of the host's traps PROT; with the core's accesses performed and no flip or earlier BIAS of the page in its way, it completes with the bias asked for where the page already has it, and begins the flip where not; once its own flip is complete it completes with the bias before. BIAS_FLIP_COMPLETE ends a flip, and completes the BIASes that wait for it. TLBI.va and TLBI.all in supervisor mode, once nothing that uses the TLBs is unperformed, drop the context's entries; in user mode they trap PRIV. FMTLD of an aligned readable image, with no entry that reads the table, loads it. CARAFE_DRAIN_BLOCK drains the next block, and ends the drain when none is left; DRAIN_FAIL ends it with LAST 2. GENCTL_WRITE changes the reserve region, what it newly takes in reading zero, or sets ERR 1 while an image drains or ERR 2 above 16. -/
def Obligations.PagesAndGenerations : Prop :=
  ∀ (s u : State) (q : QReg) (d a : Reg) (x : Xlated) (dev : Bool) (m : MemOp) (bs : List Byte) (pa die page : Nat) (v : Word),
    let y := s.me.x a
    let n := s.me.ctxNum
    (y.toNat % 4096 ≠ 0 → exec (.snap q a) s = .next (s.trap 0x03 y))
    ∧ (y.toNat % 4096 = 0 → s.walkHeld y.toNat .write = false → s.translate s.cur y.toNat .write = (u, .ok x) →
      (u.imageOk x.pa = false → exec (.snap q a) s = .next (u.trap 0x06 y))
      ∧ (u.imageOk x.pa = true → (u.gen.draining = true ∨ (u.gen.ctx ≠ 0 ∧ u.gen.ctx ≠ u.me.ctxNum)) → exec (.snap q a) s = .next (u.pushQI q false))
      ∧ (u.imageOk x.pa = true → u.gen.draining = false → (u.gen.ctx = 0 ∨ u.gen.ctx = u.me.ctxNum) → u.me.loadsDone = true →
          u.storesDone u.cur .sys = true → u.me.vmemDone = true → (u.die 0).past = [] → (u.die 1).past = [] → exec (.snap q a) s = .next ((u.cut x.pa).pushQI q true)
            ∧ (u.cut x.pa).gen.gen = u.gen.gen + 1 ∧ (u.cut x.pa).gen.draining = true ∧ (u.cut x.pa).gen.image = x.pa))
    ∧ (exec (.genq d 0) s = .next (s.pushXI d (BitVec.ofNat 64 (if s.gen.draining then 4096 * s.gen.left else 0)))
      ∧ exec (.genq d 1) s = .next (s.pushXI d (BitVec.ofNat 64 s.gen.gen))
      ∧ exec (.genq d 2) s = .next (s.pushXI d (BitVec.ofNat 64 (4096 * (s.gen.free 0 + s.gen.free 1)))))
    ∧ (s.walkHeld y.toNat .write = false → s.translate s.cur y.toNat .write = (u, .ok x) →
      (isHost x.pa = false → exec (.bias d a dev) s = .next (u.trap 0x06 y))
      ∧ (isHost x.pa = true →
        let w := u.recordBias x.biasd x.pa
        let now := SMap.get w.bias .host (x.pa / 4096)
        (w.me.arch.wait.bias = none → w.moving x.pa = false → w.biasBehind (x.pa / 4096) = false → w.accessesDone u.cur = true →
          let w := w.updWait fun z => { z with biasAt := none }
          (biasDev now = dev → exec (.bias d a dev) s = .next (w.pushXI d (BitVec.ofNat 64 dev.toNat)))
          ∧ (biasDev now ≠ dev → exec (.bias d a dev) s = .next (({ w.updWait fun z => { z with bias := some (x.pa / 4096, !dev), biasDone := false } with
              bias := SMap.set w.bias (x.pa / 4096) (if dev then .toDevice else .toHost) } : State).holding cMEM)))
        ∧ (w.me.arch.wait.bias = some (x.pa / 4096, !dev) → w.me.arch.wait.biasDone = true →
            exec (.bias d a dev) s = .next ((w.updWait fun z => { z with bias := none, biasDone := false }).pushXI d (BitVec.ofNat 64 (!dev).toNat)))))
    ∧ ((∀ e p, (e = 0 ∨ e = 1) → p ∈ (s.die e).past → ∀ c ∈ p.ent.bytes, c.1 / 4096 ≠ page) →
        let waits := fun (u : State) (g : Nat) => ∃ prev, (u.core g).arch.wait.bias = some (page, prev)
        ∀ k : Bool, SMap.get? s.bias page = some (if k then .toDevice else .toHost) →
          ∃ u : State, exec (.biasFlipComplete page) s = .next u ∧ u.bias = SMap.set s.bias page (if k then .device else .host) ∧ u.mem = s.mem
            ∧ ∀ g, (waits s g → (u.core g).arch.wait = { (s.core g).arch.wait with biasDone := true })
              ∧ (¬ waits s g → (u.core g).arch.wait = (s.core g).arch.wait))
    ∧ (s.me.arch.pl = false → exec (.tlbiVa a) s = .next s.priv ∧ exec .tlbiAll s = .next s.priv)
    ∧ (s.me.arch.pl = true → s.storesHome s.cur = true → (∀ g ∈ s.coresOfCtx n, s.usesTlb g = false) →
        exec (.tlbiVa a) s = .next (s.dropTlb fun e => decide (e.ctx = n) && decide (y.toNat >>> e.p = e.vpage))
        ∧ ((∀ g ∈ s.coresOfCtx n, s.accessesDone g = true) →
            exec .tlbiAll s = .next ((s.dropTlb fun e => decide (e.ctx = n)).reloadCopies n)))
    ∧ (let ea := MemOp.ea s.me 64 m
       ea.toNat % 64 = 0 → s.coreRead s.cur ea 1024 .read .align = (u, .ok (bs, pa)) → u.me.arch.vseq.any (fun e => vUsesTab e.ins) = false →
       u.me.mUsesTab = false → exec (.fmtld m) s = .next ((u.updArch fun z => { z with tab := tabOf bs }).extraCycles ((pagesOf ea.toNat 1024).length - 1)))
    ∧ (s.gen.draining = true → s.imageUp = true →
        (∀ b, s.nextBlock die = some b → exec (.carafeDrainBlock die) s = .next (s.drainBlock b))
        ∧ (s.nextBlock die = none → s.gen.left = 0 → ∃ t : State, exec (.carafeDrainBlock die) s = .next t ∧ t.gen.draining = false ∧ t.gen.last = 1))
    ∧ (s.gen.draining = true → ∃ t : State, exec .drainFail s = .next t ∧ t.gen.draining = false ∧ t.gen.last = 2)
    ∧ (let r := fld v 4 0
       (s.gen.draining = true → r ≠ s.gen.rsv → exec (.genctlWrite v) s = .next { s with gen := { s.gen with ctx := fld v 43 32, err := 1 } })
       ∧ ((s.gen.draining = false ∨ r = s.gen.rsv) → 16 < r → exec (.genctlWrite v) s = .next { s with gen := { s.gen with ctx := fld v 43 32, err := 2 } })
       ∧ ((s.gen.draining = false ∨ r = s.gen.rsv) → r ≤ 16 → ∃ t : State, exec (.genctlWrite v) s = .next t ∧ t.gen.rsv = r ∧ t.gen.err = 0
          ∧ t.gen.ctx = fld v 43 32 ∧ t.gen.retired = s.gen.retired
          ∧ ∀ k, k < 2 ^ 37 → (64 - r) * 2 ^ 30 ≤ k % 2 ^ 36 → k % 2 ^ 36 < (64 - s.gen.rsv) * 2 ^ 30 → t.mem.rd k = 0))

/-- SCRUB_START takes its address and sets BUSY, and does nothing while BUSY. SCRUB_COMPLETE of a block that is no quarantined block of the die gives RES 3; a block whose media tests good is ZERO, its bytes read zero and RES is 1; one that does not takes a block of the die's reserve, for one more retired (RES 2), or with none left RES is 4. WAYPART_WRITE above 8 sets ERR 2, while a move is under way ERR 1; more ways start a surrender, with the new window's bytes zero, fewer ways take the window back at once and start a reclaim. SURRENDER_COMPLETE ends a surrender with CUR at the ways asked for, and RECLAIM_COMPLETE ends a reclaim; with none under way each changes nothing. STASHCFG_IMAGE_WRITE of a stash that fits, with no live journal in the way, sets the stash and the scratchpad to the rest of the SRAM with ERR 0; of one that does not fit, ERR 1 and no change. -/
def Obligations.MemoriesAreDivided : Prop :=
  (∀ (s : State) (die : Nat) (v : Word),
    ((s.die die).scrubBusy = false → exec (.scrubStart die v) s = .next (s.updDie die fun d => { d with scrubBusy := true, scrubPa := pageField v }))
    ∧ ((s.die die).scrubBusy = true → exec (.scrubStart die v) s = .next s))
  ∧ (∀ (s : State) (die : Nat) (good : Bool), (s.die die).scrubBusy = true →
      let k := unalias (s.die die).scrubPa.toNat
      ((blockOf k = none ∨ blockIs s k .quarantined = false) →
        exec (.scrubComplete die good) s = .next (s.updDie die fun d => { d with scrubBusy := false, scrubRes := 3 }))
      ∧ (∀ b, blockOf k = some b → blockIs s k .quarantined = true → b / 2 ^ 24 = die →
        (good = true → ∃ t : State, exec (.scrubComplete die good) s = .next t ∧ SMap.get? t.gen.blocks b = none
          ∧ (∀ i, i < 4096 → t.mem.rd (4096 * b + i) = 0) ∧ (t.die die).scrubRes = 1 ∧ (t.die die).scrubBusy = false)
        ∧ (good = false → 0 < s.gen.free die → ∃ t : State, exec (.scrubComplete die good) s = .next t ∧ SMap.get? t.gen.blocks b = none
          ∧ SMap.get t.gen.retired 0 die = SMap.get s.gen.retired 0 die + 1 ∧ (t.die die).scrubRes = 2 ∧ (t.die die).scrubBusy = false)
        ∧ (good = false → s.gen.free die = 0 →
          exec (.scrubComplete die good) s = .next (s.updDie die fun d => { d with scrubBusy := false, scrubRes := 4 }))))
  ∧ (∀ (s : State) (die sl : Nat) (v : Word),
      let x := (s.die die).slice sl
      let put := fun f => s.updSlice die sl f
      (8 < fld v 3 0 → exec (.waypartWrite die sl v) s = .next (put fun x => { x with err := 2 }))
      ∧ (fld v 3 0 ≤ 8 → x.st ≠ 0 → exec (.waypartWrite die sl v) s = .next (put fun x => { x with err := 1 }))
      ∧ (fld v 3 0 ≤ 8 → x.st = 0 →
        (fld v 3 0 = x.cur → exec (.waypartWrite die sl v) s = .next (put fun x => { x with err := 0, sw := fld v 3 0 }))
        ∧ (fld v 3 0 < x.cur → exec (.waypartWrite die sl v) s = .next (put fun x => { x with err := 0, sw := fld v 3 0, cur := fld v 3 0, st := 2 }))
        ∧ (x.cur < fld v 3 0 → ∃ t : State, exec (.waypartWrite die sl v) s = .next t ∧ (t.die die).slice sl = { x with err := 0, sw := fld v 3 0, st := 1 }
            ∧ ∀ i, x.cur * 2 ^ 20 ≤ i → i < fld v 3 0 * 2 ^ 20 → t.mem.rd (apertureBase die sl + i) = 0)))
  ∧ (∀ (s : State) (die sl : Nat),
      let x := (s.die die).slice sl
      (x.st = 1 → exec (.surrenderComplete die sl) s = .next (s.updSlice die sl fun x => { x with st := 0, cur := x.sw }))
      ∧ (x.st ≠ 1 → exec (.surrenderComplete die sl) s = .next s)
      ∧ (x.st = 2 → s.windowBusy die sl = false → ∃ t : State, exec (.reclaimComplete die sl) s = .next t ∧ (t.die die).slice sl = { x with st := 0 })
      ∧ (x.st ≠ 2 ∨ s.windowBusy die sl = true → exec (.reclaimComplete die sl) s = .next s))
  ∧ (∀ (s : State) (quad : Nat) (v : Word),
      (fld v 9 0 ≤ sramUnits (quadLayer quad) → s.journalLow quad = none →
        ∃ t : State, exec (.stashcfgImageWrite quad v) s = .next t ∧ (t.quad quad).stash = fld v 9 0
          ∧ (t.quad quad).spad = sramUnits (quadLayer quad) - fld v 9 0 ∧ (t.quad quad).stashErr = 0)
      ∧ (sramUnits (quadLayer quad) < fld v 9 0 → exec (.stashcfgImageWrite quad v) s = .next (s.updQuad quad fun q => { q with stashErr := 1 })))

/-! ## Power, service, links, graphs, the package -/

/-- BUDGET_DIVISION before its TIME changes nothing. At it the count of divisions rises; when MODE has been written since the last division, the new mode is in force, both positions are 0 and no step is taken; else die i's position goes down by one step, at most to the ladder's bottom, when one of its regions counts as CRIT or the energy of its rails over the 10 µs exceeds share_i = PLIM/2 + max(0, PLIM/2 − P_j), up by one step, at most to 0, when the energy is at most 15/16 of share_i, and else stays. PWRCTL_WRITE with PLIM outside 1,500 to 3,000 only sets ERR 1; else PLIM and MODE are written. TCTL_WRITE is ignored where TCRIT would be below THOT + 128. RAMPTBL_WRITE writes each layer's QPS, and SLEN where it is not 0. A SLEW_STEP that is due takes one step of its domain's MXUs within their caps; one that is not changes nothing. -/
def Obligations.PowerIsDivided : Prop :=
  (∀ (s : State) (inp : DivInput),
    let seq := s.power.divisions + 1
    (s.clock / 11088 < 10000 * seq → exec (.budgetDivision inp) s = .next s)
    ∧ (10000 * seq ≤ s.clock / 11088 → ∃ t : State, exec (.budgetDivision inp) s = .next t ∧ t.power.divisions = seq
        ∧ (s.power.moded = true → t.power.mode = s.power.nextMode ∧ t.power.moded = false ∧ (t.die 0).ladder = 0 ∧ (t.die 1).ladder = 0)
        ∧ (s.power.moded = false → t.power.mode = s.power.mode ∧ ∀ i, i < 2 →
            let half := s.power.plim * 10000 / 2
            let share := half + (half - DivInput.dieEnergy inp (1 - i))
            let mine := DivInput.dieEnergy inp i
            let pos := (s.die i).ladder
            (t.die i).ladder =
              if (((s.sampleRegions inp (10000 * seq * 11088)).die i).crit = true ∨ share < mine) then min (pos + 1) (ladderBottom s.power.mode)
              else if 16 * mine ≤ 15 * share then pos - 1 else pos)))
  ∧ (∀ (s : State) (v : Word),
      ((fld v 11 0 < 1500 ∨ 3000 < fld v 11 0) → exec (.pwrctlWrite v) s = .next { s with power := { s.power with err := 1 } })
      ∧ (1500 ≤ fld v 11 0 → fld v 11 0 ≤ 3000 → exec (.pwrctlWrite v) s =
          .next { s with power := { s.power with err := 0, plim := fld v 11 0, nextMode := fld v 41 40, moded := true } }))
  ∧ (∀ (s : State) (die : Nat) (v : Word),
      (fld v 31 16 < fld v 15 0 + 128 → exec (.tctlWrite die v) s = .next s)
      ∧ (fld v 15 0 + 128 ≤ fld v 31 16 → exec (.tctlWrite die v) s = .next (s.updDie die fun d => { d with tctl := v &&& 0xFFFFFFFF#64 }))
      ∧ ∃ t : State, exec (.ramptblWrite die v) s = .next t ∧ ∀ k, k < 4 →
          fld (t.die die).ramptbl (16 * k + 3) (16 * k) = fld v (16 * k + 3) (16 * k)
          ∧ fld (t.die die).ramptbl (16 * k + 11) (16 * k + 8) =
            if fld v (16 * k + 11) (16 * k + 8) = 0 then fld (s.die die).ramptbl (16 * k + 11) (16 * k + 8) else fld v (16 * k + 11) (16 * k + 8))
  ∧ (∀ (s : State) (dom : Nat),
      let x := (SMap.get s.slews Slew.reset dom).step (s.slewCaps dom) (s.qps (dom / 22) (slewLayer dom))
      ((44 ≤ dom ∨ s.slewDue dom = false) → exec (.slewStep dom) s = .next s)
      ∧ (dom < 44 → s.slewDue dom = true → ∃ t : State, exec (.slewStep dom) s = .next t
          ∧ (x.quiescent = true → SMap.get? t.slews dom = none)
          ∧ (x.quiescent = false → SMap.get? t.slews dom =
              some { x with since := some s.clock, slen := fld (s.die (dom / 22)).ramptbl (16 * slewLayer dom + 11) (16 * slewLayer dom + 8) })))

/-- CORE_CONTAINMENT of an error of a core in service contains it: it holds no strand. SELF_TEST_COMPLETE of a contained core that passes, and is not at its third failure within 1 s, returns it to service; else its quad is retired as QUAD_RETIRE does: with no spare left the quad goes out of service (RETCTL 3), else it moves (1); a quad that is moved or out of service stays as it is. RETIREMENT_COMPLETE of a quad with no strand left ends the move. DEBUG_HALT sets HALT, DEBUG_RESUME clears it, and each changes nothing where it holds already. FW_LOAD of the arbiter, the dispensers and the links takes PA and unit 1, 2 or 3. FW_VERIFY_COMPLETE gives RES 2 for an image whose header or signature is bad, 3 for one below the version floor, and 1 otherwise, with the image pending; FW_TAKEOVER puts the pending images of units 2 and 3 in force. ATTEST_NONCE takes the nonce and starts a report; ATTEST_REPORT_COMPLETE completes it: the claims and their signature. -/
def Obligations.ServiceEvents : Prop :=
  (∀ (s : State) (g pa : Nat), g < numCores → (s.core g).contained = false →
    (∃ t : State, exec (.coreContainment g .uncorrectable pa) s = .next t ∧ (t.core g).contained = true ∧ (t.core g).strand = none)
    ∧ ∃ t : State, exec (.coreContainment g .selfTest pa) s = .next t ∧ (t.core g).contained = true ∧ (t.core g).strand = none)
  ∧ (∀ (s : State) (g : Nat) (pass : Bool), (s.core g).contained = true →
      (pass = true → (s.core g).thirdFailure = false → ∃ t : State, exec (.selfTestComplete g pass) s = .next t ∧ (t.core g).contained = false)
      ∧ ((pass = false ∨ (s.core g).thirdFailure = true) → exec (.selfTestComplete g pass) s = exec (.quadRetire (quadOf g)) s))
  ∧ (∀ (s : State) (q : Nat),
      ((s.quad q).retSt ≠ 0 → exec (.quadRetire q) s = .next s)
      ∧ ((s.quad q).retSt = 0 → ∃ t : State, exec (.quadRetire q) s = .next t ∧ (t.quad q).retSt =
          if sparesIn (quadLayer q) ≤ s.sparesUsed (quadDie q) (quadLayer q) then 3 else 1)
      ∧ ((s.quad q).retSt = 1 → (∀ c, c < 4 → (s.core (4 * q + c)).strand = none) →
          ∃ t : State, exec (.retirementComplete q) s = .next t ∧ (t.quad q).retSt = 0 ∧ (t.quad q).oldPhys = (s.quad q).oldPhys ++ [s.physOf q])
      ∧ ((s.quad q).dbg = false → (∃ t : State, exec (.debugHalt q) s = .next t ∧ (t.quad q).dbg = true) ∧ exec (.debugResume q) s = .next s)
      ∧ ((s.quad q).dbg = true → (∃ t : State, exec (.debugResume q) s = .next t ∧ (t.quad q).dbg = false) ∧ exec (.debugHalt q) s = .next s))
  ∧ (∀ (s : State) (pa : Word),
      let load := fun (u : Nat) => { s with firm := { s.firm with pa := pa &&& 0x000FFFFFFFFFF000#64, unit := u } }
      exec (.fwLoadArbiter pa) s = .next (load 1) ∧ exec (.fwLoadDispensers pa) s = .next (load 2) ∧ exec (.fwLoadLink pa) s = .next (load 3))
  ∧ (∀ s : State,
      let f := s.firm
      let at' := fun (o n : Nat) => leValue (s.bytesAt (f.pa.toNat + o) n)
      let good := at' 4 4 % 64 = 0 ∧ at' 8 2 = f.unit ∧ at' 10 54 = 0 ∧ signatureOk (s.bytesAt f.pa.toNat (64 + at' 4 4 + 96)) = true
      (f.unit ≠ 0 → ¬ good → exec .fwVerifyComplete s = .next { s with firm := { f with res := 2, unit := 0 } })
      ∧ (f.unit ≠ 0 → good → at' 0 4 < f.floor f.unit → exec .fwVerifyComplete s = .next { s with firm := { f with res := 3, unit := 0 } })
      ∧ (f.unit ≠ 0 → good → f.floor f.unit ≤ at' 0 4 → ∃ t : State, exec .fwVerifyComplete s = .next t ∧ t.firm.res = 1 ∧ t.firm.unit = 0
          ∧ (f.unit, at' 0 4, sha384 (s.bytesAt f.pa.toNat (64 + at' 4 4))) ∈ t.firm.pending)
      ∧ exec .fwTakeover s = .next { s with firm := (f.install 2).install 3 })
  ∧ (∀ (s : State) (n : BitVec 384),
      exec (.attestNonce n) s = .next { s with firm := { s.firm with nonce := n, asked := true, complete := false } }
      ∧ (s.firm.asked = true → ∃ t : State, exec .attestReportComplete s = .next t ∧ t.firm.complete = true ∧ t.firm.asked = false
          ∧ t.firm.report.take 208 = s.firm.claims))

/-- For a port that exists. LINK_ENABLE of a DOWN link starts training. LINK_DISABLE of a link that is not DOWN leaves it DOWN with no lanes. LINK_TRAINING_DONE of a training link within 10 ms gives UP when all lanes pass, DEGRADED with the lanes that pass when half of them or more do, the messages that waited for the link going on, else DOWN, and after 10 ms DOWN; LINK_TRAINING_TIMEOUT gives DOWN. LINK_RETIRE_LANES of a link that is UP or DEGRADED takes the selected lanes out, where at least half stay; LINK_RESTORE_LANES of a DEGRADED link takes the selected lanes that pass back, and is UP with all of them. LANE_ERROR_LIMIT of a lane of an UP link takes the lane out. LINK_LOST of a link that is UP or DEGRADED counts EPOCH and starts training. REMOTE_RESPONSE_TIMEOUT gives up a held atomic after ATO. PEER_LAUNCH_PACKET at a scale-up port that is up: a SEQ that its peer's log holds is answered with the status recorded there, and nothing else happens; another is answered and logged with its status, and with any status but 0 nothing is launched. A packet for the other die waits while the bridge does not carry it, and one that is to be accepted while the next object's entry is busy. -/
def Obligations.LinksChange : Prop :=
  (∀ (s : State) (die port lane pass : Nat), portExists die port = true →
    let l := s.linkOf die port
    let put := fun f => s.updLink die port f
    let good := BitVec.ofNat 32 pass &&& allLanes port
    let ok := if s.clock - l.since < 10000000 * 11088 then good else 0
    (l.st = .down → exec (.linkEnable die port) s = .next (put fun l => { l with st := .training, since := s.clock }))
    ∧ (l.st ≠ .down → ∃ t : State, exec (.linkDisable die port) s = .next t ∧ (t.linkOf die port).st = .down ∧ (t.linkOf die port).lact = 0)
    ∧ (l.st = .training →
        (ok = allLanes port → exec (.linkTrainingDone die port pass) s = .next ((put fun l => { l with st := .up, lact := ok }).servePosts fun _ => true))
        ∧ (ok ≠ allLanes port → lmax port / 2 ≤ popcount ok →
          exec (.linkTrainingDone die port pass) s = .next ((put fun l => { l with st := .degraded, lact := ok }).servePosts fun _ => true))
        ∧ (ok ≠ allLanes port → popcount ok < lmax port / 2 → ∃ t : State, exec (.linkTrainingDone die port pass) s = .next t ∧ (t.linkOf die port).st = .down)
        ∧ (∃ t : State, exec (.linkTrainingTimeout die port) s = .next t ∧ (t.linkOf die port).st = .down))
    ∧ ((l.st = .up ∨ l.st = .degraded) →
        (lmax port / 2 ≤ popcount (l.lact &&& ~~~l.lsel) →
          exec (.linkRetireLanes die port) s = .next (put fun l => { l with st := .degraded, lact := l.lact &&& ~~~l.lsel }))
        ∧ (popcount (l.lact &&& ~~~l.lsel) < lmax port / 2 → exec (.linkRetireLanes die port) s = .next s)
        ∧ ∃ t : State, exec (.linkLost die port) s = .next t ∧ (t.linkOf die port).st = .training ∧ (t.linkOf die port).lact = 0
          ∧ (t.linkOf die port).epoch = l.epoch + 1)
    ∧ (l.st = .degraded → ∃ t : State, exec (.linkRestoreLanes die port pass) s = .next t
        ∧ (t.linkOf die port).lact = l.lact ||| (l.lsel &&& good)
        ∧ (t.linkOf die port).st = if l.lact ||| (l.lsel &&& good) = allLanes port then .up else .degraded)
    ∧ (l.st = .up → lane < lmax port → ∃ t : State, exec (.laneErrorLimit die port lane) s = .next t
        ∧ (t.linkOf die port).st = .degraded ∧ (t.linkOf die port).lact = setBit l.lact lane false))
  ∧ (∀ (s : State) (g i : Nat) (l : LoadP), (s.core g).loads[i]? = some l → l.held ≠ none →
      fld (s.die (dieOf g)).linkcfg 31 0 * 1000 * 11088 ≤ s.clock - l.since → exec (.remoteResponseTimeout g i) s = .next (s.loseAmo g i))
  ∧ (∀ (s : State) (die port : Nat) (pkt : BitVec 640), die < 2 → 4 ≤ port → port ≤ 7 → (s.linkOf die port).up = true →
      let h := launchHead pkt (s.linkOf die port).peer.toNat
      let key := port * 65536 + h.peer
      let log := SMap.get (s.die die).launchLog [] key
      let st := s.launchStatus h (launchRec pkt)
      (s.crossWaits die h.die = true → exec (.peerLaunchPacket die port pkt) s = .next s)
      ∧ (s.crossWaits die h.die = false → ∀ e, log.find? (fun e => decide (e.1 = h.seq)) = some e →
          exec (.peerLaunchPacket die port pkt) s = .next (s.updDie die fun d => { d with completions := d.completions ++ [(port, h.peer, h.seq, e.2)] }))
      ∧ (s.crossWaits die h.die = false → (∀ e ∈ log, e.1 ≠ h.seq) →
          (st = 0 → (s.newObj (fld h.graph 55 40) (Obj.new 1 0 1)).isNone = true → exec (.peerLaunchPacket die port pkt) s = .next s)
          ∧ ((st = 0 → (s.newObj (fld h.graph 55 40) (Obj.new 1 0 1)).isNone = false) →
            ∃ t : State, exec (.peerLaunchPacket die port pkt) s = .next t
              ∧ SMap.get (t.die die).launchLog [] key = ((h.seq, st) :: log).take 256
              ∧ (t.die die).completions = (s.die die).completions ++ [(port, h.peer, h.seq, st)]
              ∧ (st ≠ 0 → t.items = s.items ∧ t.ctxs = s.ctxs))))

/-- For a slot of a graph port. GRAPH_HEADER_WRITE keeps the header's fields and its V only where the graph passes the check; GRAPH_NODE_WRITE writes a node's word and clears V. COLLECTIVE_START of a slot that is not valid or is another context's traps PROT with the doorbell's address; of an idle one, with the core's accesses performed, an aligned and readable command block with tokens to do and zeros in its reserved bytes, and lines that are free, it completes with the collective running as the block says. GRAPH_TOKEN_ARRIVAL over a link that is up holds the token under the peer it came from. GRAPH_TOKEN_COMMIT whose sinks can all go on commits the next SEQ and counts it. COLLECTIVE_END of a running collective whose sinks are all over, and whose STATUS can be written, writes it and ends the collective. -/
def Obligations.GraphsRun : Prop :=
  ∀ (s : State) (die port slot node : Nat) (a : Reg) (v : Word) (tk : Token), graphPort die port slot = true →
    let x := (s.die die).graph port slot
    let me := Eng.graph die port slot
    let kept := v &&& 0x8FFFFFFF000000F0#64
    exec (.graphHeaderWrite die port slot v) s = .next (s.updGraph die port slot fun x =>
      { x with header := if bitAt v 63 && !graphOk v x.nodes then setBit kept 63 false else kept })
    ∧ (node < 16 → exec (.graphNodeWrite die port slot node v) s =
        .next (s.updGraph die port slot fun x => { x with nodes := SMap.set x.nodes node v, header := setBit x.header 63 false }))
    ∧ ((bitAt x.header 63 = false ∨ fld x.header 59 48 ≠ s.me.ctxNum) → exec (.collectiveStart die port slot a) s =
        .next (s.trap 0x06 (BitVec.ofNat 64 (0xF000000000000 + die * 2 ^ 44 + 4 * 2 ^ 40 + 0x10000 * port + 0x900 + 8 * slot))))
    ∧ (∀ (u : State) (bs : List Byte) (ntok : Nat), bitAt x.header 63 = true → fld x.header 59 48 = s.me.ctxNum → x.run = none →
        s.accessesDone s.cur = true → (s.me.x a).toNat % 64 = 0 →
        let r : GraphRun :=
          { header := x.header, nodes := x.nodes, src := 0, dst := 0, ntok := 0, block := s.me.x a, core := s.cur, copies := s.me.arch.copies,
            pl := s.me.arch.pl, tab := s.me.arch.tab, next := 0, flg := 0, stopped := [], lost := none }
        r.read s (dieOf s.cur) me (s.me.x a).toNat 64 = some (u, .ok bs) → ntok = leValue ((bs.drop 16).take 4) → ntok ≠ 0 →
        leValue ((bs.drop 20).take 36) = 0 →
        let go := { r with src := BitVec.ofNat 64 (leValue (bs.take 8)), dst := BitVec.ofNat 64 (leValue ((bs.drop 8).take 8)), ntok := ntok }
        let ks := go.dstKeys u
        u.ownWait u.cur none ks = none → ks.any u.moving = false → u.inPast 0 ks = false → u.inPast 1 ks = false →
        ∃ t : State, exec (.collectiveStart die port slot a) s = .next t ∧ ((t.die die).graph port slot).run = some go)
    ∧ (let peer := (s.linkOf die port).peer.toNat
       (s.linkOf die port).up = true → x.held.length < 256 → (∀ y ∈ x.held, ¬ (y.1 = peer ∧ y.2.seq = tk.seq)) →
        (bitAt x.header 63 = true → fld x.header 47 32 = peer) →
        exec (.graphTokenArrival die port slot tk) s = .next (s.updGraph die port slot fun x => { x with held := x.held ++ [(peer, tk)] }))
    ∧ (∀ (r r' : GraphRun) (u : State), x.run = some r → r.over = false →
        (let o := r.outputs { s with stamp := s.stamp + 512 } die port slot s.stamp
         r.commitAll o.1 die port slot o.2 = some (u, r')) →
        ∃ t : State, exec (.graphTokenCommit die port slot) s = .next t ∧ ((t.die die).graph port slot).run = some { r' with next := r'.next + 1 })
    ∧ (∀ (r : GraphRun) (u : State), x.run = some r → r.over = true →
        r.putStatus (s.dropAll me) me (match r.firstFault with
          | some e => statusWord true e.2 r.flg e.1
          | none => statusWord false 0 r.flg r.ntok) = some u →
        ∃ t : State, exec (.collectiveEnd die port slot) s = .next t ∧ ((t.die die).graph port slot).run = none ∧ t.mem = u.mem)

/-- PACKAGE_RESET and POWER_REMOVAL leave TIME 0, no core, die, context or record but in its reset state, and every byte of the device's own memory zero; the CXL tier and the host's memory keep every byte; power is on after the one, off after the other. A host write to memory that the host reaches, whose blocks can take it, is performed at its home, and a host read completes; REGISTER_WRITE of an aligned word of control space writes its register: REGMAX, QCTL, LINKCFG and VSHARE take their bits, and a register that the host cannot change, or an address with no register, changes nothing. -/
def Obligations.PackageEvents : Prop :=
  (∀ (s : State) (i : Instr) (on : Bool), (i = .packageReset ∧ on = true ∨ i = .powerRemoval ∧ on = false) →
    ∃ t : State, exec i s = .next t ∧ t.powered = on ∧ t.clock = 0 ∧ t.cores = [] ∧ t.quads = [] ∧ t.dies = [] ∧ t.ctxs = [] ∧ t.items = []
      ∧ t.own = [] ∧ t.bias = [] ∧ t.gen = State.reset.gen ∧ t.power = State.reset.power
      ∧ ∀ k, t.mem.rd k = if outside k = true then s.mem.rd k else 0)
  ∧ (∀ (s : State) (pa : BitVec 52) (bs : List Byte),
      let keys := (List.range bs.length).map fun i => unalias (pa.toNat + i)
      (∀ k ∈ keys, s.hostOwn k = true ∨ (s.hostUp = true ∧ s.hostReaches k = true ∧ s.owner k = none ∧ s.moving k = false)) →
      exec (.hostMemoryAccess false pa bs) s = .next (s.fireKeys 0 false keys).1
      ∧ (s.canWrite false (keys.zip bs) = true → exec (.hostMemoryAccess true pa bs) s = .next (s.engineWrite false (keys.zip bs))))
  ∧ (∀ (s : State) (pa : BitVec 52) (v : Word) (r : CtlReg) (d q : Nat), isControl pa.toNat = true → pa.toNat % 8 = 0 →
      (s.ctlReg pa.toNat = none → exec (.registerWrite pa v) s = .next s)
      ∧ (s.ctlReg pa.toNat = some r →
        (r = .regmax d → exec (.registerWrite pa v) s = .next (s.updDie d fun x => { x with regmax := v &&& 0xFFFF#64 }))
        ∧ (r = .qctl d → exec (.registerWrite pa v) s = .next (s.updDie d fun x => { x with qctl := v &&& 0xFFFFFFFF#64 }))
        ∧ (r = .linkcfg d → exec (.registerWrite pa v) s = .next (s.updDie d fun x => { x with linkcfg := v &&& 0xFFFFFFFF#64 }))
        ∧ (r = .quad q .vshare → exec (.registerWrite pa v) s = .next (s.updQuad q fun x => { x with vshare := v &&& 0xFFFF#64 }))
        ∧ ((r = .retired ∨ r = .genst ∨ r = .complete ∨ r = .errcnt d ∨ r = .erraddr d ∨ r = .account d ∨ r = .identity d ∨ r = .report d) →
            exec (.registerWrite pa v) s = .next s)))

/-! ## Reset, decoding, stepping, and what every step keeps -/

/-- At reset TIME is 0, power is on, no core holds a strand, every STATUS is 0, VSHAPE is 4 rows of 32 elements of 32 bits, VSHARE and MXSHARE give every queue the weight 4, every watchdog is 1,000 µs, every context is FREE with no error, AGEQ is 100 and PTHR 8, SPILLTO is 4,096, the reserve is 4 GiB a die, no slice way is surrendered, no link is up, PLIM is 2,400 W and MODE AUTUMN, THOT is 6,080 and TCRIT 6,720, ATO is 100. The memory is in its canonical form with nothing listed, so that every byte reads zero (the spec leaves open what power-on leaves in DRAM that is not ZERO: zero is the model's choice, log entry 3). -/
def Obligations.ResetLeaves : Prop :=
  let s := State.reset
  s.powered = true ∧ s.clock / 11088 = 0 ∧ s.mem.wf = true ∧ (∀ k, s.mem.rd k = 0)
  ∧ (∀ g, (s.core g).strand = none ∧ (s.core g).arch.status = 0 ∧ (s.core g).contained = false ∧ (s.core g).rq = []
      ∧ fld (s.core g).arch.vshape 25 16 = 4 ∧ fld (s.core g).arch.vshape 13 4 = 32 ∧ fld (s.core g).arch.vshape 1 0 = 2)
  ∧ (∀ q, s.ctlRead (.quad q .vshare) = 0x4444#64 ∧ s.ctlRead (.quad q .mxshare) = 0x44444444#64 ∧ s.ctlRead (.quad q .wdctl) = 1000#64
      ∧ s.ctlRead (.quad q .dbgctl) = 0#64 ∧ s.ctlRead (.quad q .retctl) = 0#64)
  ∧ (∀ n, s.ctlRead (.ctxctl n) = 0#64 ∧ s.ctlRead (.ctxdesc n) = 0#64)
  ∧ (∀ d k, fld (s.ctlRead (.dispctl d k)) 31 16 = 100 ∧ fld (s.ctlRead (.dispctl d k)) 11 8 = 8 ∧ bitAt (s.ctlRead (.dispctl d k)) 0 = false)
  ∧ (∀ d, s.ctlRead (.qctl d) = 4096#64 ∧ s.ctlRead (.linkcfg d) = 100#64 ∧ s.ctlRead (.errcnt d) = 0#64
      ∧ fld (s.ctlRead (.tctl d)) 15 0 = 6080 ∧ fld (s.ctlRead (.tctl d)) 31 16 = 6720 ∧ s.ctlRead (.regmax d) = 0#64)
  ∧ (∀ d i, s.ctlRead (.waypart d i) = 0#64 ∧ s.ctlRead (.dctl d i) = 0#64 ∧ s.ctlRead (.dstat d i) = 0#64 ∧ (s.linkOf d i).st = .down)
  ∧ fld (s.ctlRead .genctl) 4 0 = 4 ∧ bitAt (s.ctlRead .genst) 63 = false
  ∧ fld (s.ctlRead .pwrctl) 11 0 = 2400 ∧ fld (s.ctlRead .pwrctl) 41 40 = 1

/-- Every bundle that has an encoding is what its doubleword decodes to, with every field at every value that the encoding admits; and every doubleword that decodes is the encoding of the bundle it decodes to, so that no bit of it is dropped and every reserved bit is zero. -/
def Obligations.EncodingRoundTrip : Prop :=
  (∀ (b : Bundle) (w : Word), encode b = some w → decodeBundle w = .ok b)
  ∧ (∀ (w : Word) (b : Bundle), decodeBundle w = .ok b → encode b = some w)

/-- One word of each of several families, its fields written out one by one, decodes to the instruction that the encoding gives: CSRR x9, TIME; LD.w x3, [x4 + disp]; BRA on q2; AMO with a control word; ADD.s32.sat; MOVI; SHL; VADD.f32; MMA. A C opcode word with a reserved field set, and the reserved orderings of a memory literal, decode to no instruction. -/
def Obligations.DecodeWords : Prop :=
  decodeC (0x0DC90050#32) 0#32 = some (.csrr 9#6 0x050#10)
  ∧ decodeC (0#1 ++ 0#3 ++ 0x08#6 ++ 3#6 ++ 4#6 ++ 2#3 ++ 5#7) 0#32 = some (.ld 3#6 .w (.short 4#6 5#7))
  ∧ decodeC (0#1 ++ 1#3 ++ 0x02#6 ++ 2#3 ++ 1#1 ++ 0x3FFFE#18) 0#32 = some (.bra 2#3 true (.near 0x3FFFE#18))
  ∧ decodeC (1#1 ++ 0#3 ++ 0x14#6 ++ 7#6 ++ 8#6 ++ 9#6 ++ 0#4) (3#3 ++ 4#3 ++ 0#1 ++ 6#4 ++ 0#3 ++ 0#2 ++ 0#6 ++ 16#10)
      = some (.amo 7#6 8#6 9#6 .n32 .add ⟨.ar, .sys, none, 16#10⟩)
  ∧ decodeA (0#3 ++ 0x02#6 ++ 1#6 ++ 2#6 ++ 3#6 ++ 1#1 ++ 2#4) = some (.add 1#6 2#6 3#6 true .s32)
  ∧ decodeA (0#3 ++ 0x01#6 ++ 5#6 ++ 0xFFFF#16 ++ 0#1) = some (.movi 5#6 0xFFFF#16 false)
  ∧ decodeA (0#3 ++ 0x0A#6 ++ 1#6 ++ 2#6 ++ 0#6 ++ 7#5) = some (.shl 1#6 2#6 0#6 7#5)
  ∧ decodeA (0#3 ++ 0x1B#6 ++ 0#1 ++ 4#5 ++ 0#1 ++ 5#5 ++ 0#1 ++ 6#5 ++ 0#1 ++ 9#4) = some (.vadd 4#5 5#5 6#5 (.flt .f32 .rne))
  ∧ decodeA (0#3 ++ 0x30#6 ++ 1#6 ++ 2#6 ++ 3#6 ++ 0#2 ++ 0#3) = some (.mma 1#6 2#6 3#6 .rne)
  ∧ decodeC (0#1 ++ 0#3 ++ 0x00#6 ++ 1#22) 0#32 = none
  ∧ decodeC (1#1 ++ 0#3 ++ 0x08#6 ++ 3#6 ++ 4#6 ++ 2#3 ++ 0#7) (4#3 ++ 0#3 ++ 0#1 ++ 0#25) = none

/-- A turn of the core at work whose strand has no cause pending and whose fetch gives the doubleword w: the cycles that the fetch's translation takes come first, a turn of their own. With none left, and no breakpoint matching w: where w decodes to no bundle, or to one whose encoding checks fail, the step traps ILLEGAL and settles the trap; where it decodes to a well-formed bundle that the core's mode may run and that needs no exchange of its pair first, it waits while a register holds it back, and else, where it starts no microprogram, and its C instruction, and after it its A instruction where it has one (before it for RFT), answer next states in which the core goes on, the step is that state with the bundle retired: the PC moves to the next bundle, and the cycles are charged. With an event at the head of the agenda a step is the event's exec, and an instruction there is refused; a turn of time only moves the clock, and an error that a sector's media develops is only recorded. After each of these the contexts' areas in memory are as their queues are. With the power removed a step stops, but for a reset. -/
def Obligations.StepRunsTheBundle : Prop :=
  (∀ (s u v : State) (w : Word), s.powered = true → s.agenda = [] → s.cur < numCores → (s.core s.cur).strand ≠ none →
    (s.quad (quadOf s.cur)).dbg = false →
    let g := s.cur
    let s1 := (((s.catchUp g).sfuReturn g).acceptCmds g).updCore g fun c => { c.landBy c.cycle with flow := .run, xl := 0 }
    let pc := (s1.core g).arch.pc
    let p := v.updMe fun c => { c with bundle := w }
    let after := fun (t : State) => step s = .next (s.mirror t)
    s1.pairIs g .exchanging = false → (s1.core g).midBundle = false → (s1.core g).amoFlying = false → s1.exchangeForPreempt g = false →
    s1.takeAsync g = none → s1.reread g = (u, .ok ()) → (u.core g).micro = none → u.fetch g = (v, .ok w) →
    ((v.core g).xl ≠ 0 → after ((v.holding cMEM).payXl g pc))
    ∧ ((v.core g).xl = 0 → p.me.fetchBreak pc = false →
      (∀ e, decodeBundle w = .error e → after (p.illegal.settle pc))
      ∧ (∀ b, decodeBundle w = .ok b →
        (b.wf p.me.arch.tm = false → after (p.illegal.settle pc))
        ∧ (b.wf p.me.arch.tm = true → (Instr.privileged b.c = true → p.me.arch.pl = true) → p.exchangeFirst b.c = false → p.me.aIssued = false →
          (∀ d a x e, b.c ≠ .runMacro d a x e) →
          (∀ h, p.registerWait (b.c :: b.a.toList) = some h → after ((p.holding h).settle pc))
          ∧ (p.registerWait (b.c :: b.a.toList) = none → (p.me.arch.chk && (p.me.short b.c || b.a.any p.me.short)) = false →
            let r := p.ready (p.me.arch.pc + 8)
            let done := fun (t : State) => t.me.flow = .run → (State.pairRetire p t b.c).me.micro = none →
              after ((State.pairRetire p t b.c).finish p.me.arch.tm b pc w (stallOf b))
            ∀ t, exec b.c r = .next t → t.me.flow = .run →
              (b.a = none → done t)
              ∧ (∀ a t2, b.a = some a → Instr.afterA b.c = false → State.execBeside r t a = .next t2 → t2.me.flow = .run → done (State.keepOlds r t t2 b.c))
              ∧ (∀ a t2 t3, b.a = some a → Instr.afterA b.c = true → exec a r = .next t2 → t2.me.flow = .run → exec b.c t2 = .next t3 → done t3))))))
  ∧ (∀ (s : State) (i : Instr) (r : List Turn), s.powered = true → s.agenda = .event i :: r → i.isEvent = true →
      step s = (match exec i { s with agenda := r } with | .next t => .next (s.mirror t) | o => o))
  ∧ (∀ (s : State) (i : Instr) (r : List Turn), s.powered = true → s.agenda = .event i :: r → i.isEvent = false →
      step s = .refused .turnNotEvent)
  ∧ (∀ (s : State) (n : Nat) (r : List Turn), s.powered = true → s.agenda = .pass n :: r →
      step s = .next (s.mirror { s with agenda := r, clock := s.clock + n * 11088 }))
  ∧ (∀ (s : State) (k n : Nat) (r : List Turn), s.powered = true → s.agenda = .media k n :: r →
      step s = .next (s.mirror (({ s with agenda := r } : State).develop k n)))
  ∧ (∀ (s : State) (r : List Turn), s.powered = false → s.agenda = .event .packageReset :: r →
      ∃ t : State, exec .packageReset { s with agenda := r } = .next t ∧ step s = .next (s.mirror t))
  ∧ (∀ s : State, s.powered = false → (∀ r, s.agenda ≠ .event .packageReset :: r) → step s = .fault .powerRemoved)

/-- Whatever a step does (a bundle, an event, time going by), if the memory before it is a list of rising addresses with no zero byte listed, so is the memory after it: equal memories are equal data in every state that a step reaches. -/
def Obligations.MemoryStaysCanonical : Prop :=
  ∀ s t : State, s.mem.wf = true → step s = .next t → t.mem.wf = true
end

