-- ==== Sys2Proof/Laws/Map.lean ====
section
/-! SUPPORT. The laws of the sparse map that holds register files, memory and tables: what a read gives after a
write, and that writes keep the keys strictly rising. -/

namespace Sys2Proof.SMap
variable {α : Type}

@[simp] theorem get_nil (d : α) (n : Nat) : SMap.get ([] : SMap α) d n = d := rfl
@[simp] theorem get?_nil (n : Nat) : SMap.get? ([] : SMap α) n = none := rfl

@[simp] theorem get_set_same (m : SMap α) (d a : α) (n : Nat) : SMap.get (SMap.set m n a) d n = a := by
  induction m with
  | nil => simp [SMap.set, SMap.get]
  | cons p r ih =>
    obtain ⟨k, v⟩ := p
    simp only [SMap.set]
    split_ifs with h1 h2
    · simp [SMap.get]
    · simp [SMap.get]
    · simp [SMap.get, ih, Ne.symm h2]

theorem get_set_other (m : SMap α) (d a : α) {n k : Nat} (h : k ≠ n) : SMap.get (SMap.set m n a) d k = SMap.get m d k := by
  induction m with
  | nil => simp [SMap.set, SMap.get, Ne.symm h]
  | cons p r ih =>
    obtain ⟨j, v⟩ := p
    simp only [SMap.set]
    split_ifs with h1 h2
    · simp [SMap.get, Ne.symm h]
    · subst h2; simp [SMap.get, Ne.symm h]
    · simp only [SMap.get, ih]

/-- A read after a write, whatever the two numbers. -/
theorem get_set (m : SMap α) (d a : α) (n k : Nat) : SMap.get (SMap.set m n a) d k = if k = n then a else SMap.get m d k := by
  split_ifs with h
  · subst h; simp
  · exact get_set_other m d a h

@[simp] theorem get?_set_same (m : SMap α) (a : α) (n : Nat) : SMap.get? (SMap.set m n a) n = some a := by
  induction m with
  | nil => simp [SMap.set, SMap.get?]
  | cons p r ih =>
    obtain ⟨k, v⟩ := p
    simp only [SMap.set]
    split_ifs with h1 h2
    · simp [SMap.get?]
    · simp [SMap.get?]
    · simp [SMap.get?, ih, Ne.symm h2]

theorem get?_set_other (m : SMap α) (a : α) {n k : Nat} (h : k ≠ n) : SMap.get? (SMap.set m n a) k = SMap.get? m k := by
  induction m with
  | nil => simp [SMap.set, SMap.get?, Ne.symm h]
  | cons p r ih =>
    obtain ⟨j, v⟩ := p
    simp only [SMap.set]
    split_ifs with h1 h2
    · simp [SMap.get?, Ne.symm h]
    · subst h2; simp [SMap.get?, Ne.symm h]
    · simp only [SMap.get?, ih]

@[simp] theorem get_del_same (m : SMap α) (d : α) (n : Nat) : SMap.get (SMap.del m n) d n = d := by
  induction m with
  | nil => rfl
  | cons p r ih =>
    obtain ⟨k, v⟩ := p
    simp only [SMap.del, List.filter_cons] at ih ⊢
    by_cases h : k = n
    · simp [h]; simpa using ih
    · simp [h, SMap.get]; simpa using ih

theorem get_del_other (m : SMap α) (d : α) {n k : Nat} (h : k ≠ n) : SMap.get (SMap.del m n) d k = SMap.get m d k := by
  induction m with
  | nil => rfl
  | cons p r ih =>
    obtain ⟨j, v⟩ := p
    simp only [SMap.del, List.filter_cons] at ih ⊢
    by_cases hj : j = n
    · subst hj; simp [SMap.get, Ne.symm h]; simpa using ih
    · simp only [ne_eq, hj, not_false_eq_true, decide_true, if_true, SMap.get]
      split_ifs <;> simp_all

@[simp] theorem get_upd_same (m : SMap α) (d : α) (n : Nat) (f : α → α) (e : α) :
    SMap.get (SMap.upd m d n f) e n = f (SMap.get m d n) := by simp [SMap.upd]

theorem get_upd_other (m : SMap α) (d e : α) {n k : Nat} (f : α → α) (h : k ≠ n) :
    SMap.get (SMap.upd m d n f) e k = SMap.get m e k := by simp [SMap.upd, get_set_other, h]

/-- A map over the values maps what a listed key reads as. -/
theorem get?_mapVals (m : SMap α) (f : Nat → α → α) (n : Nat) :
    SMap.get? (SMap.mapVals m f) n = (SMap.get? m n).map (f n) := by
  induction m with
  | nil => rfl
  | cons p r ih =>
    obtain ⟨k, v⟩ := p
    simp only [SMap.mapVals, List.map_cons, SMap.get?] at ih ⊢
    split_ifs with h
    · subst h; rfl
    · exact ih

end Sys2Proof.SMap
end

