-- ==== Sys2Proof/Laws/Memory.lean ====
section
/-! SUPPORT. Memory: what a byte reads as after a write, and that every operation on it keeps its canonical form. -/

namespace Sys2Proof.Machine

@[simp] theorem Memory.rd_nil (k : Nat) : Memory.rd [] k = unwritten := rfl

@[simp] theorem Memory.rd_wr_same (m : Memory) (k : Nat) (b : Byte) : (Memory.wr m k b).rd k = b := by
  unfold Memory.wr Memory.rd
  split_ifs with h <;> simp [h]

theorem Memory.rd_wr_other (m : Memory) {k j : Nat} (b : Byte) (h : j ≠ k) : (Memory.wr m k b).rd j = m.rd j := by
  unfold Memory.wr Memory.rd
  split_ifs
  · exact SMap.get_del_other m _ h
  · exact SMap.get_set_other m _ _ h

/-- Bytes written elsewhere leave a byte alone. -/
theorem Memory.rd_wrs_other (cs : List Host.Cell) (m : Memory) (k : Nat) (h : ∀ c ∈ cs, c.1 ≠ k) : (m.wrs cs).rd k = m.rd k := by
  induction cs generalizing m with
  | nil => rfl
  | cons c r ih =>
    have h1 : c.1 ≠ k := h c (by simp)
    have h2 : ∀ c ∈ r, c.1 ≠ k := fun x hx => h x (by simp [hx])
    simp only [Memory.wrs, List.foldl_cons] at ih ⊢
    rw [ih _ h2, Memory.rd_wr_other _ _ (Ne.symm h1)]

/-- The last of the bytes written at a key is what it reads as. -/
theorem Memory.rd_wrs_append (cs : List Host.Cell) (m : Memory) (k : Nat) (b : Byte) : (m.wrs (cs ++ [(k, b)])).rd k = b := by
  simp [Memory.wrs, List.foldl_append]

/-! ## The canonical form -/

/-- The keys of a canonical list lie above a bound. -/
theorem sortedFrom_lower {p : Option Nat} {q : Nat} {m : Memory} (h : sortedFrom (some q) m = true) (hp : ∀ x, p = some x → x ≤ q) :
    sortedFrom p m = true := by
  cases m with
  | nil => cases p <;> rfl
  | cons c r =>
    obtain ⟨k, b⟩ := c
    simp only [sortedFrom, Bool.and_eq_true, decide_eq_true_eq] at h
    cases p with
    | none => simp [sortedFrom, h]
    | some x =>
      have := hp x rfl
      simp only [sortedFrom, Bool.and_eq_true, decide_eq_true_eq]
      exact ⟨⟨by omega, h.1.2⟩, h.2⟩

theorem sortedFrom_set {p : Option Nat} {m : Memory} {k : Nat} {b : Byte} (hm : sortedFrom p m = true) (hk : ∀ x, p = some x → x < k)
    (hb : b ≠ unwritten) : sortedFrom p (SMap.set m k b) = true := by
  induction m generalizing p with
  | nil =>
    cases p with
    | none => simp [SMap.set, sortedFrom, hb]
    | some x => simp [SMap.set, sortedFrom, hb, hk x rfl]
  | cons c r ih =>
    obtain ⟨j, v⟩ := c
    have hc : v ≠ unwritten ∧ sortedFrom (some j) r = true ∧ (∀ x, p = some x → x < j) := by
      cases p with
      | none => simp [sortedFrom] at hm; exact ⟨hm.1, hm.2, by simp⟩
      | some x => simp [sortedFrom] at hm; exact ⟨hm.1.2, hm.2, by rintro y ⟨⟩; exact hm.1.1⟩
    obtain ⟨hv, hr, hpj⟩ := hc
    simp only [SMap.set]
    split_ifs with h1 h2
    · cases p with
      | none => simp [sortedFrom, hb, hv, hr, h1]
      | some x => simp [sortedFrom, hb, hv, hr, h1, hk x rfl]
    · subst h2
      cases p with
      | none => simp [sortedFrom, hb, hr]
      | some x => simp [sortedFrom, hb, hr, hk x rfl]
    · have := ih (p := some j) hr (by rintro x ⟨⟩; omega)
      cases p with
      | none => simp [sortedFrom, hv, this]
      | some x => simp [sortedFrom, hv, this, hpj x rfl]

theorem sortedFrom_filter {p : Option Nat} {m : Memory} (f : Host.Cell → Bool) (hm : sortedFrom p m = true) :
    sortedFrom p (m.filter f) = true := by
  induction m generalizing p with
  | nil => exact hm
  | cons c r ih =>
    obtain ⟨j, v⟩ := c
    have hc : v ≠ unwritten ∧ sortedFrom (some j) r = true ∧ (∀ x, p = some x → x < j) := by
      cases p with
      | none => simp [sortedFrom] at hm; exact ⟨hm.1, hm.2, by simp⟩
      | some x => simp [sortedFrom] at hm; exact ⟨hm.1.2, hm.2, by rintro y ⟨⟩; exact hm.1.1⟩
    obtain ⟨hv, hr, hpj⟩ := hc
    simp only [List.filter_cons]
    split_ifs
    · cases p with
      | none => simp [sortedFrom, hv, ih hr]
      | some x => simp [sortedFrom, hv, ih hr, hpj x rfl]
    · exact sortedFrom_lower (ih hr) (fun x hx => Nat.le_of_lt (hpj x hx))

theorem Memory.wf_nil : Memory.wf [] = true := rfl

/-- Writing a byte keeps the canonical form. -/
@[simp] theorem Memory.wf_wr {m : Memory} (h : m.wf = true) (k : Nat) (b : Byte) : (m.wr k b).wf = true := by
  unfold Memory.wr
  split_ifs with hb
  · exact sortedFrom_filter _ h
  · exact sortedFrom_set h (by simp) hb

/-- Writing bytes keeps the canonical form. -/
@[simp] theorem Memory.wf_wrs {m : Memory} (h : m.wf = true) (cs : List Host.Cell) : (m.wrs cs).wf = true := by
  induction cs generalizing m with
  | nil => exact h
  | cons c r ih => exact ih (Memory.wf_wr h c.1 c.2)

/-- Dropping bytes keeps the canonical form. -/
@[simp] theorem Memory.wf_filter {m : Memory} (h : m.wf = true) (f : Host.Cell → Bool) : Memory.wf (m.filter f) = true := sortedFrom_filter f h

/-! ## The operations of the machine that write memory -/

@[simp] theorem State.homeWrite_mem (s : State) (e : Bool) (cs : List Host.Cell) (ws : List Nat) :
    (s.homeWrite e cs ws).mem = s.mem.wrs cs := rfl

@[simp] theorem State.homeWrite_wf {s : State} (h : s.mem.wf = true) (e : Bool) (cs : List Host.Cell) (ws : List Nat) :
    (s.homeWrite e cs ws).mem.wf = true := Memory.wf_wrs h cs

@[simp] theorem State.putBytes_wf {s : State} (h : s.mem.wf = true) (k n v : Nat) : (s.putBytes k n v).mem.wf = true :=
  State.homeWrite_wf h _ _ _

@[simp] theorem State.thaw_mem (s : State) (b : Nat) : (s.thaw b).mem = s.mem := by unfold State.thaw; split <;> rfl

/-- A fold of operations that each keep the canonical form keeps it. -/
theorem foldl_mem_wf {α : Type} {f : State → α → State} (hf : ∀ (s : State) (a : α), s.mem.wf = true → (f s a).mem.wf = true)
    (l : List α) {s : State} (h : s.mem.wf = true) : (l.foldl f s).mem.wf = true := by
  induction l generalizing s with
  | nil => exact h
  | cons a r ih => exact ih (hf s a h)

/-- An error in media leaves the bytes of memory. -/
@[simp] theorem State.fireSector_mem (s : State) (die : Nat) (direct : Bool) (k : Nat) : (s.fireSector die direct k).1.mem = s.mem := by
  unfold State.fireSector
  dsimp only
  split_ifs <;> rfl

@[simp] theorem State.fireKeys_mem (s : State) (die : Nat) (direct : Bool) (ks : List Nat) : (s.fireKeys die direct ks).1.mem = s.mem := by
  unfold State.fireKeys
  generalize (ks.map (· / 32)).eraseDups = l
  suffices h : ∀ r : State × Bool, (l.foldl (fun r k => let t := r.1.fireSector die direct k; (t.1, r.2 || t.2)) r).1.mem = r.1.mem from h _
  induction l with
  | nil => exact fun _ => rfl
  | cons a l ih => exact fun r => (ih _).trans (State.fireSector_mem _ _ _ _)

@[simp] theorem State.putCode_wf {s : State} (h : s.mem.wf = true) (b c : Nat) : (s.putCode b c).mem.wf = true := State.putBytes_wf h _ _ _

@[simp] theorem State.drainBlock_wf {s : State} (h : s.mem.wf = true) (b : Nat) : (s.drainBlock b).mem.wf = true := by
  unfold State.drainBlock
  split
  · exact h
  · simp only [State.thaw_mem]
    refine State.putCode_wf (foldl_mem_wf (f := fun s i => s.setPoison _) (fun s _ h => h) _ (State.putBytes_wf ?_ _ _ _)) _ _
    split
    · exact h
    · rw [State.fireKeys_mem]; exact h

@[simp] theorem State.ownWrite_wf {s : State} (h : s.mem.wf = true) (cs : List Host.Cell) (ws : List Nat) :
    (s.ownWrite cs ws).mem.wf = true := by
  refine foldl_mem_wf (fun s b h => ?_) _ h
  dsimp only
  split_ifs
  · exact State.homeWrite_wf (State.drainBlock_wf h b) _ _ _
  · exact State.homeWrite_wf h _ _ _

@[simp] theorem State.hwWrite_wf {s : State} (h : s.mem.wf = true) (pa n v : Nat) : (s.hwWrite pa n v).mem.wf = true := by
  unfold State.hwWrite
  dsimp only
  split_ifs
  · exact State.ownWrite_wf h _ _
  · exact h

@[simp] theorem State.zeroSpad_wf {s : State} (h : s.mem.wf = true) (q lo hi : Nat) : (s.zeroSpad q lo hi).mem.wf = true :=
  Memory.wf_filter h _

/-- After reset nothing is listed. -/
theorem State.reset_mem_wf : State.reset.mem.wf = true := rfl

end Sys2Proof.Machine
end

