-- ==== Sys2Proof/Laws/State.lean ====
section
/-! SUPPORT. The state's fields after each of its updates, so that no proof unfolds one: what changes is read back, and
every other field is as it was. -/

namespace Sys2Proof.Machine

/-! ## Reading back what an update changed -/

@[simp] theorem State.core_setCore_same (s : State) (g : Nat) (c : Core) : (s.setCore g c).core g = c := by
  simp [State.core, State.setCore]
theorem State.core_setCore_other (s : State) {g h : Nat} (c : Core) (n : h ≠ g) : (s.setCore g c).core h = s.core h := by
  simp [State.core, State.setCore, SMap.get_set_other, n]
@[simp] theorem State.core_updCore_same (s : State) (g : Nat) (f : Core → Core) : (s.updCore g f).core g = f (s.core g) := by
  simp [State.updCore]
theorem State.core_updCore_other (s : State) {g h : Nat} (f : Core → Core) (n : h ≠ g) : (s.updCore g f).core h = s.core h :=
  State.core_setCore_other s _ n
@[simp] theorem State.me_updMe (s : State) (f : Core → Core) : (s.updMe f).me = f s.me := by
  simp only [State.me, State.updMe]
  exact State.core_updCore_same s s.cur f
@[simp] theorem State.core_updMe_same (s : State) (f : Core → Core) : (s.updMe f).core s.cur = f s.me :=
  State.core_updCore_same s s.cur f
theorem State.core_updMe_other (s : State) {h : Nat} (f : Core → Core) (n : h ≠ s.cur) : (s.updMe f).core h = s.core h :=
  State.core_updCore_other s f n
@[simp] theorem State.quad_updQuad_same (s : State) (q : Nat) (f : Quad → Quad) : (s.updQuad q f).quad q = f (s.quad q) := by
  simp [State.quad, State.updQuad]
theorem State.quad_updQuad_other (s : State) {q r : Nat} (f : Quad → Quad) (n : r ≠ q) : (s.updQuad q f).quad r = s.quad r := by
  simp [State.quad, State.updQuad, SMap.get_set_other, n]
@[simp] theorem State.die_updDie_same (s : State) (d : Nat) (f : Die → Die) : (s.updDie d f).die d = f (s.die d) := by
  simp [State.die, State.updDie]
theorem State.die_updDie_other (s : State) {d e : Nat} (f : Die → Die) (n : e ≠ d) : (s.updDie d f).die e = s.die e := by
  simp [State.die, State.updDie, SMap.get_set_other, n]
@[simp] theorem State.ctx_updCtx_same (s : State) (n : Nat) (f : Ctx → Ctx) : (s.updCtx n f).ctx n = f (s.ctx n) := by
  simp [State.ctx, State.updCtx]
theorem State.ctx_updCtx_other (s : State) {n m : Nat} (f : Ctx → Ctx) (h : m ≠ n) : (s.updCtx n f).ctx m = s.ctx m := by
  simp [State.ctx, State.updCtx, SMap.get_set_other, h]
@[simp] theorem State.cluster_updCluster_same (s : State) (m : Nat) (f : Cluster → Cluster) :
    (s.updCluster m f).cluster m = f (s.cluster m) := by simp [State.cluster, State.updCluster]

/-! ## Registers -/

@[simp] theorem Arch.rx_zero (a : Arch) : a.rx 0 = 0 := rfl
@[simp] theorem Arch.rx_wx_same (a : Arch) (v : Word) {n : Nat} (h : n ≠ 0) : (a.wx n v).rx n = v := by simp [Arch.rx, Arch.wx, h]
theorem Arch.rx_wx_other (a : Arch) (v : Word) {n m : Nat} (h : m ≠ n) : (a.wx n v).rx m = a.rx m := by
  unfold Arch.rx Arch.wx
  split_ifs <;> simp [SMap.get_set_other, h]
@[simp] theorem Arch.wx_zero (a : Arch) (v : Word) : a.wx 0 v = a := rfl
@[simp] theorem Arch.rq_zero (a : Arch) : a.rq 0 = true := rfl
@[simp] theorem Arch.wq_zero (a : Arch) (b : Bool) : a.wq 0 b = a := rfl
@[simp] theorem Arch.rv_wv_same (a : Arch) (n : Nat) (v : BitVec 4096) : (a.wv n v).rv n = v := by simp [Arch.rv, Arch.wv]
theorem Arch.rv_wv_other (a : Arch) {n m : Nat} (v : BitVec 4096) (h : m ≠ n) : (a.wv n v).rv m = a.rv m := by
  simp [Arch.rv, Arch.wv, SMap.get_set_other, h]
@[simp] theorem Core.updArch_arch (c : Core) (f : Arch → Arch) : (c.updArch f).arch = f c.arch := rfl
@[simp] theorem Core.push_pend (c : Core) (d : PDst) (v : Word) (l : Nat) (i : Bool) (f : Option FpFlags) :
    (c.push d v l i f).pend = c.pend ++ [{ dst := d, val := v, land := c.cycle + l, inter := i, flags := f }] := rfl
@[simp] theorem Core.push_arch (c : Core) (d : PDst) (v : Word) (l : Nat) (i : Bool) (f : Option FpFlags) : (c.push d v l i f).arch = c.arch := rfl
@[simp] theorem Core.push_flow (c : Core) (d : PDst) (v : Word) (l : Nat) (i : Bool) (f : Option FpFlags) : (c.push d v l i f).flow = c.flow := rfl
@[simp] theorem Core.push_loads (c : Core) (d : PDst) (v : Word) (l : Nat) (i : Bool) (f : Option FpFlags) : (c.push d v l i f).loads = c.loads := rfl
@[simp] theorem Core.push_sb (c : Core) (d : PDst) (v : Word) (l : Nat) (i : Bool) (f : Option FpFlags) : (c.push d v l i f).sb = c.sb := rfl
@[simp] theorem Core.push_cycle (c : Core) (d : PDst) (v : Word) (l : Nat) (i : Bool) (f : Option FpFlags) : (c.push d v l i f).cycle = c.cycle := rfl

/-! ## Every other field -/

@[simp] theorem State.setCore_powered (s : State) (g : Nat) (c : Core) : (s.setCore g c).powered = s.powered := rfl
@[simp] theorem State.setCore_clock (s : State) (g : Nat) (c : Core) : (s.setCore g c).clock = s.clock := rfl
@[simp] theorem State.setCore_cur (s : State) (g : Nat) (c : Core) : (s.setCore g c).cur = s.cur := rfl
@[simp] theorem State.setCore_agenda (s : State) (g : Nat) (c : Core) : (s.setCore g c).agenda = s.agenda := rfl
@[simp] theorem State.setCore_stamp (s : State) (g : Nat) (c : Core) : (s.setCore g c).stamp = s.stamp := rfl
@[simp] theorem State.setCore_mem (s : State) (g : Nat) (c : Core) : (s.setCore g c).mem = s.mem := rfl
@[simp] theorem State.setCore_poison (s : State) (g : Nat) (c : Core) : (s.setCore g c).poison = s.poison := rfl
@[simp] theorem State.setCore_latent (s : State) (g : Nat) (c : Core) : (s.setCore g c).latent = s.latent := rfl
@[simp] theorem State.setCore_own (s : State) (g : Nat) (c : Core) : (s.setCore g c).own = s.own := rfl
@[simp] theorem State.setCore_quads (s : State) (g : Nat) (c : Core) : (s.setCore g c).quads = s.quads := rfl
@[simp] theorem State.setCore_clusters (s : State) (g : Nat) (c : Core) : (s.setCore g c).clusters = s.clusters := rfl
@[simp] theorem State.setCore_dies (s : State) (g : Nat) (c : Core) : (s.setCore g c).dies = s.dies := rfl
@[simp] theorem State.setCore_ctxs (s : State) (g : Nat) (c : Core) : (s.setCore g c).ctxs = s.ctxs := rfl
@[simp] theorem State.setCore_items (s : State) (g : Nat) (c : Core) : (s.setCore g c).items = s.items := rfl
@[simp] theorem State.setCore_waitLog (s : State) (g : Nat) (c : Core) : (s.setCore g c).waitLog = s.waitLog := rfl
@[simp] theorem State.setCore_posts (s : State) (g : Nat) (c : Core) : (s.setCore g c).posts = s.posts := rfl
@[simp] theorem State.setCore_acct0 (s : State) (g : Nat) (c : Core) : (s.setCore g c).acct0 = s.acct0 := rfl
@[simp] theorem State.setCore_gen (s : State) (g : Nat) (c : Core) : (s.setCore g c).gen = s.gen := rfl
@[simp] theorem State.setCore_bias (s : State) (g : Nat) (c : Core) : (s.setCore g c).bias = s.bias := rfl
@[simp] theorem State.setCore_power (s : State) (g : Nat) (c : Core) : (s.setCore g c).power = s.power := rfl
@[simp] theorem State.setCore_slews (s : State) (g : Nat) (c : Core) : (s.setCore g c).slews = s.slews := rfl
@[simp] theorem State.setCore_firm (s : State) (g : Nat) (c : Core) : (s.setCore g c).firm = s.firm := rfl
@[simp] theorem State.updCore_powered (s : State) (g : Nat) (f : Core → Core) : (s.updCore g f).powered = s.powered := rfl
@[simp] theorem State.updCore_clock (s : State) (g : Nat) (f : Core → Core) : (s.updCore g f).clock = s.clock := rfl
@[simp] theorem State.updCore_cur (s : State) (g : Nat) (f : Core → Core) : (s.updCore g f).cur = s.cur := rfl
@[simp] theorem State.updCore_agenda (s : State) (g : Nat) (f : Core → Core) : (s.updCore g f).agenda = s.agenda := rfl
@[simp] theorem State.updCore_stamp (s : State) (g : Nat) (f : Core → Core) : (s.updCore g f).stamp = s.stamp := rfl
@[simp] theorem State.updCore_mem (s : State) (g : Nat) (f : Core → Core) : (s.updCore g f).mem = s.mem := rfl
@[simp] theorem State.updCore_poison (s : State) (g : Nat) (f : Core → Core) : (s.updCore g f).poison = s.poison := rfl
@[simp] theorem State.updCore_latent (s : State) (g : Nat) (f : Core → Core) : (s.updCore g f).latent = s.latent := rfl
@[simp] theorem State.updCore_own (s : State) (g : Nat) (f : Core → Core) : (s.updCore g f).own = s.own := rfl
@[simp] theorem State.updCore_quads (s : State) (g : Nat) (f : Core → Core) : (s.updCore g f).quads = s.quads := rfl
@[simp] theorem State.updCore_clusters (s : State) (g : Nat) (f : Core → Core) : (s.updCore g f).clusters = s.clusters := rfl
@[simp] theorem State.updCore_dies (s : State) (g : Nat) (f : Core → Core) : (s.updCore g f).dies = s.dies := rfl
@[simp] theorem State.updCore_ctxs (s : State) (g : Nat) (f : Core → Core) : (s.updCore g f).ctxs = s.ctxs := rfl
@[simp] theorem State.updCore_items (s : State) (g : Nat) (f : Core → Core) : (s.updCore g f).items = s.items := rfl
@[simp] theorem State.updCore_waitLog (s : State) (g : Nat) (f : Core → Core) : (s.updCore g f).waitLog = s.waitLog := rfl
@[simp] theorem State.updCore_posts (s : State) (g : Nat) (f : Core → Core) : (s.updCore g f).posts = s.posts := rfl
@[simp] theorem State.updCore_acct0 (s : State) (g : Nat) (f : Core → Core) : (s.updCore g f).acct0 = s.acct0 := rfl
@[simp] theorem State.updCore_gen (s : State) (g : Nat) (f : Core → Core) : (s.updCore g f).gen = s.gen := rfl
@[simp] theorem State.updCore_bias (s : State) (g : Nat) (f : Core → Core) : (s.updCore g f).bias = s.bias := rfl
@[simp] theorem State.updCore_power (s : State) (g : Nat) (f : Core → Core) : (s.updCore g f).power = s.power := rfl
@[simp] theorem State.updCore_slews (s : State) (g : Nat) (f : Core → Core) : (s.updCore g f).slews = s.slews := rfl
@[simp] theorem State.updCore_firm (s : State) (g : Nat) (f : Core → Core) : (s.updCore g f).firm = s.firm := rfl
@[simp] theorem State.updMe_powered (s : State) (f : Core → Core) : (s.updMe f).powered = s.powered := rfl
@[simp] theorem State.updMe_clock (s : State) (f : Core → Core) : (s.updMe f).clock = s.clock := rfl
@[simp] theorem State.updMe_cur (s : State) (f : Core → Core) : (s.updMe f).cur = s.cur := rfl
@[simp] theorem State.updMe_agenda (s : State) (f : Core → Core) : (s.updMe f).agenda = s.agenda := rfl
@[simp] theorem State.updMe_stamp (s : State) (f : Core → Core) : (s.updMe f).stamp = s.stamp := rfl
@[simp] theorem State.updMe_mem (s : State) (f : Core → Core) : (s.updMe f).mem = s.mem := rfl
@[simp] theorem State.updMe_poison (s : State) (f : Core → Core) : (s.updMe f).poison = s.poison := rfl
@[simp] theorem State.updMe_latent (s : State) (f : Core → Core) : (s.updMe f).latent = s.latent := rfl
@[simp] theorem State.updMe_own (s : State) (f : Core → Core) : (s.updMe f).own = s.own := rfl
@[simp] theorem State.updMe_quads (s : State) (f : Core → Core) : (s.updMe f).quads = s.quads := rfl
@[simp] theorem State.updMe_clusters (s : State) (f : Core → Core) : (s.updMe f).clusters = s.clusters := rfl
@[simp] theorem State.updMe_dies (s : State) (f : Core → Core) : (s.updMe f).dies = s.dies := rfl
@[simp] theorem State.updMe_ctxs (s : State) (f : Core → Core) : (s.updMe f).ctxs = s.ctxs := rfl
@[simp] theorem State.updMe_items (s : State) (f : Core → Core) : (s.updMe f).items = s.items := rfl
@[simp] theorem State.updMe_waitLog (s : State) (f : Core → Core) : (s.updMe f).waitLog = s.waitLog := rfl
@[simp] theorem State.updMe_posts (s : State) (f : Core → Core) : (s.updMe f).posts = s.posts := rfl
@[simp] theorem State.updMe_acct0 (s : State) (f : Core → Core) : (s.updMe f).acct0 = s.acct0 := rfl
@[simp] theorem State.updMe_gen (s : State) (f : Core → Core) : (s.updMe f).gen = s.gen := rfl
@[simp] theorem State.updMe_bias (s : State) (f : Core → Core) : (s.updMe f).bias = s.bias := rfl
@[simp] theorem State.updMe_power (s : State) (f : Core → Core) : (s.updMe f).power = s.power := rfl
@[simp] theorem State.updMe_slews (s : State) (f : Core → Core) : (s.updMe f).slews = s.slews := rfl
@[simp] theorem State.updMe_firm (s : State) (f : Core → Core) : (s.updMe f).firm = s.firm := rfl
@[simp] theorem State.updArch_powered (s : State) (f : Arch → Arch) : (s.updArch f).powered = s.powered := rfl
@[simp] theorem State.updArch_clock (s : State) (f : Arch → Arch) : (s.updArch f).clock = s.clock := rfl
@[simp] theorem State.updArch_cur (s : State) (f : Arch → Arch) : (s.updArch f).cur = s.cur := rfl
@[simp] theorem State.updArch_agenda (s : State) (f : Arch → Arch) : (s.updArch f).agenda = s.agenda := rfl
@[simp] theorem State.updArch_stamp (s : State) (f : Arch → Arch) : (s.updArch f).stamp = s.stamp := rfl
@[simp] theorem State.updArch_mem (s : State) (f : Arch → Arch) : (s.updArch f).mem = s.mem := rfl
@[simp] theorem State.updArch_poison (s : State) (f : Arch → Arch) : (s.updArch f).poison = s.poison := rfl
@[simp] theorem State.updArch_latent (s : State) (f : Arch → Arch) : (s.updArch f).latent = s.latent := rfl
@[simp] theorem State.updArch_own (s : State) (f : Arch → Arch) : (s.updArch f).own = s.own := rfl
@[simp] theorem State.updArch_quads (s : State) (f : Arch → Arch) : (s.updArch f).quads = s.quads := rfl
@[simp] theorem State.updArch_clusters (s : State) (f : Arch → Arch) : (s.updArch f).clusters = s.clusters := rfl
@[simp] theorem State.updArch_dies (s : State) (f : Arch → Arch) : (s.updArch f).dies = s.dies := rfl
@[simp] theorem State.updArch_ctxs (s : State) (f : Arch → Arch) : (s.updArch f).ctxs = s.ctxs := rfl
@[simp] theorem State.updArch_items (s : State) (f : Arch → Arch) : (s.updArch f).items = s.items := rfl
@[simp] theorem State.updArch_waitLog (s : State) (f : Arch → Arch) : (s.updArch f).waitLog = s.waitLog := rfl
@[simp] theorem State.updArch_posts (s : State) (f : Arch → Arch) : (s.updArch f).posts = s.posts := rfl
@[simp] theorem State.updArch_acct0 (s : State) (f : Arch → Arch) : (s.updArch f).acct0 = s.acct0 := rfl
@[simp] theorem State.updArch_gen (s : State) (f : Arch → Arch) : (s.updArch f).gen = s.gen := rfl
@[simp] theorem State.updArch_bias (s : State) (f : Arch → Arch) : (s.updArch f).bias = s.bias := rfl
@[simp] theorem State.updArch_power (s : State) (f : Arch → Arch) : (s.updArch f).power = s.power := rfl
@[simp] theorem State.updArch_slews (s : State) (f : Arch → Arch) : (s.updArch f).slews = s.slews := rfl
@[simp] theorem State.updArch_firm (s : State) (f : Arch → Arch) : (s.updArch f).firm = s.firm := rfl
@[simp] theorem State.updCopies_powered (s : State) (f : Copies → Copies) : (s.updCopies f).powered = s.powered := rfl
@[simp] theorem State.updCopies_clock (s : State) (f : Copies → Copies) : (s.updCopies f).clock = s.clock := rfl
@[simp] theorem State.updCopies_cur (s : State) (f : Copies → Copies) : (s.updCopies f).cur = s.cur := rfl
@[simp] theorem State.updCopies_agenda (s : State) (f : Copies → Copies) : (s.updCopies f).agenda = s.agenda := rfl
@[simp] theorem State.updCopies_stamp (s : State) (f : Copies → Copies) : (s.updCopies f).stamp = s.stamp := rfl
@[simp] theorem State.updCopies_mem (s : State) (f : Copies → Copies) : (s.updCopies f).mem = s.mem := rfl
@[simp] theorem State.updCopies_poison (s : State) (f : Copies → Copies) : (s.updCopies f).poison = s.poison := rfl
@[simp] theorem State.updCopies_latent (s : State) (f : Copies → Copies) : (s.updCopies f).latent = s.latent := rfl
@[simp] theorem State.updCopies_own (s : State) (f : Copies → Copies) : (s.updCopies f).own = s.own := rfl
@[simp] theorem State.updCopies_quads (s : State) (f : Copies → Copies) : (s.updCopies f).quads = s.quads := rfl
@[simp] theorem State.updCopies_clusters (s : State) (f : Copies → Copies) : (s.updCopies f).clusters = s.clusters := rfl
@[simp] theorem State.updCopies_dies (s : State) (f : Copies → Copies) : (s.updCopies f).dies = s.dies := rfl
@[simp] theorem State.updCopies_ctxs (s : State) (f : Copies → Copies) : (s.updCopies f).ctxs = s.ctxs := rfl
@[simp] theorem State.updCopies_items (s : State) (f : Copies → Copies) : (s.updCopies f).items = s.items := rfl
@[simp] theorem State.updCopies_waitLog (s : State) (f : Copies → Copies) : (s.updCopies f).waitLog = s.waitLog := rfl
@[simp] theorem State.updCopies_posts (s : State) (f : Copies → Copies) : (s.updCopies f).posts = s.posts := rfl
@[simp] theorem State.updCopies_acct0 (s : State) (f : Copies → Copies) : (s.updCopies f).acct0 = s.acct0 := rfl
@[simp] theorem State.updCopies_gen (s : State) (f : Copies → Copies) : (s.updCopies f).gen = s.gen := rfl
@[simp] theorem State.updCopies_bias (s : State) (f : Copies → Copies) : (s.updCopies f).bias = s.bias := rfl
@[simp] theorem State.updCopies_power (s : State) (f : Copies → Copies) : (s.updCopies f).power = s.power := rfl
@[simp] theorem State.updCopies_slews (s : State) (f : Copies → Copies) : (s.updCopies f).slews = s.slews := rfl
@[simp] theorem State.updCopies_firm (s : State) (f : Copies → Copies) : (s.updCopies f).firm = s.firm := rfl
@[simp] theorem State.holding_powered (s : State) (h : Nat) : (s.holding h).powered = s.powered := rfl
@[simp] theorem State.holding_clock (s : State) (h : Nat) : (s.holding h).clock = s.clock := rfl
@[simp] theorem State.holding_cur (s : State) (h : Nat) : (s.holding h).cur = s.cur := rfl
@[simp] theorem State.holding_agenda (s : State) (h : Nat) : (s.holding h).agenda = s.agenda := rfl
@[simp] theorem State.holding_stamp (s : State) (h : Nat) : (s.holding h).stamp = s.stamp := rfl
@[simp] theorem State.holding_mem (s : State) (h : Nat) : (s.holding h).mem = s.mem := rfl
@[simp] theorem State.holding_poison (s : State) (h : Nat) : (s.holding h).poison = s.poison := rfl
@[simp] theorem State.holding_latent (s : State) (h : Nat) : (s.holding h).latent = s.latent := rfl
@[simp] theorem State.holding_own (s : State) (h : Nat) : (s.holding h).own = s.own := rfl
@[simp] theorem State.holding_quads (s : State) (h : Nat) : (s.holding h).quads = s.quads := rfl
@[simp] theorem State.holding_clusters (s : State) (h : Nat) : (s.holding h).clusters = s.clusters := rfl
@[simp] theorem State.holding_dies (s : State) (h : Nat) : (s.holding h).dies = s.dies := rfl
@[simp] theorem State.holding_ctxs (s : State) (h : Nat) : (s.holding h).ctxs = s.ctxs := rfl
@[simp] theorem State.holding_items (s : State) (h : Nat) : (s.holding h).items = s.items := rfl
@[simp] theorem State.holding_waitLog (s : State) (h : Nat) : (s.holding h).waitLog = s.waitLog := rfl
@[simp] theorem State.holding_posts (s : State) (h : Nat) : (s.holding h).posts = s.posts := rfl
@[simp] theorem State.holding_acct0 (s : State) (h : Nat) : (s.holding h).acct0 = s.acct0 := rfl
@[simp] theorem State.holding_gen (s : State) (h : Nat) : (s.holding h).gen = s.gen := rfl
@[simp] theorem State.holding_bias (s : State) (h : Nat) : (s.holding h).bias = s.bias := rfl
@[simp] theorem State.holding_power (s : State) (h : Nat) : (s.holding h).power = s.power := rfl
@[simp] theorem State.holding_slews (s : State) (h : Nat) : (s.holding h).slews = s.slews := rfl
@[simp] theorem State.holding_firm (s : State) (h : Nat) : (s.holding h).firm = s.firm := rfl
@[simp] theorem State.updQuad_powered (s : State) (q : Nat) (f : Quad → Quad) : (s.updQuad q f).powered = s.powered := rfl
@[simp] theorem State.updQuad_clock (s : State) (q : Nat) (f : Quad → Quad) : (s.updQuad q f).clock = s.clock := rfl
@[simp] theorem State.updQuad_cur (s : State) (q : Nat) (f : Quad → Quad) : (s.updQuad q f).cur = s.cur := rfl
@[simp] theorem State.updQuad_agenda (s : State) (q : Nat) (f : Quad → Quad) : (s.updQuad q f).agenda = s.agenda := rfl
@[simp] theorem State.updQuad_stamp (s : State) (q : Nat) (f : Quad → Quad) : (s.updQuad q f).stamp = s.stamp := rfl
@[simp] theorem State.updQuad_mem (s : State) (q : Nat) (f : Quad → Quad) : (s.updQuad q f).mem = s.mem := rfl
@[simp] theorem State.updQuad_poison (s : State) (q : Nat) (f : Quad → Quad) : (s.updQuad q f).poison = s.poison := rfl
@[simp] theorem State.updQuad_latent (s : State) (q : Nat) (f : Quad → Quad) : (s.updQuad q f).latent = s.latent := rfl
@[simp] theorem State.updQuad_own (s : State) (q : Nat) (f : Quad → Quad) : (s.updQuad q f).own = s.own := rfl
@[simp] theorem State.updQuad_cores (s : State) (q : Nat) (f : Quad → Quad) : (s.updQuad q f).cores = s.cores := rfl
@[simp] theorem State.updQuad_clusters (s : State) (q : Nat) (f : Quad → Quad) : (s.updQuad q f).clusters = s.clusters := rfl
@[simp] theorem State.updQuad_dies (s : State) (q : Nat) (f : Quad → Quad) : (s.updQuad q f).dies = s.dies := rfl
@[simp] theorem State.updQuad_ctxs (s : State) (q : Nat) (f : Quad → Quad) : (s.updQuad q f).ctxs = s.ctxs := rfl
@[simp] theorem State.updQuad_items (s : State) (q : Nat) (f : Quad → Quad) : (s.updQuad q f).items = s.items := rfl
@[simp] theorem State.updQuad_waitLog (s : State) (q : Nat) (f : Quad → Quad) : (s.updQuad q f).waitLog = s.waitLog := rfl
@[simp] theorem State.updQuad_posts (s : State) (q : Nat) (f : Quad → Quad) : (s.updQuad q f).posts = s.posts := rfl
@[simp] theorem State.updQuad_acct0 (s : State) (q : Nat) (f : Quad → Quad) : (s.updQuad q f).acct0 = s.acct0 := rfl
@[simp] theorem State.updQuad_gen (s : State) (q : Nat) (f : Quad → Quad) : (s.updQuad q f).gen = s.gen := rfl
@[simp] theorem State.updQuad_bias (s : State) (q : Nat) (f : Quad → Quad) : (s.updQuad q f).bias = s.bias := rfl
@[simp] theorem State.updQuad_power (s : State) (q : Nat) (f : Quad → Quad) : (s.updQuad q f).power = s.power := rfl
@[simp] theorem State.updQuad_slews (s : State) (q : Nat) (f : Quad → Quad) : (s.updQuad q f).slews = s.slews := rfl
@[simp] theorem State.updQuad_firm (s : State) (q : Nat) (f : Quad → Quad) : (s.updQuad q f).firm = s.firm := rfl
@[simp] theorem State.updCluster_powered (s : State) (m : Nat) (f : Cluster → Cluster) : (s.updCluster m f).powered = s.powered := rfl
@[simp] theorem State.updCluster_clock (s : State) (m : Nat) (f : Cluster → Cluster) : (s.updCluster m f).clock = s.clock := rfl
@[simp] theorem State.updCluster_cur (s : State) (m : Nat) (f : Cluster → Cluster) : (s.updCluster m f).cur = s.cur := rfl
@[simp] theorem State.updCluster_agenda (s : State) (m : Nat) (f : Cluster → Cluster) : (s.updCluster m f).agenda = s.agenda := rfl
@[simp] theorem State.updCluster_stamp (s : State) (m : Nat) (f : Cluster → Cluster) : (s.updCluster m f).stamp = s.stamp := rfl
@[simp] theorem State.updCluster_mem (s : State) (m : Nat) (f : Cluster → Cluster) : (s.updCluster m f).mem = s.mem := rfl
@[simp] theorem State.updCluster_poison (s : State) (m : Nat) (f : Cluster → Cluster) : (s.updCluster m f).poison = s.poison := rfl
@[simp] theorem State.updCluster_latent (s : State) (m : Nat) (f : Cluster → Cluster) : (s.updCluster m f).latent = s.latent := rfl
@[simp] theorem State.updCluster_own (s : State) (m : Nat) (f : Cluster → Cluster) : (s.updCluster m f).own = s.own := rfl
@[simp] theorem State.updCluster_cores (s : State) (m : Nat) (f : Cluster → Cluster) : (s.updCluster m f).cores = s.cores := rfl
@[simp] theorem State.updCluster_quads (s : State) (m : Nat) (f : Cluster → Cluster) : (s.updCluster m f).quads = s.quads := rfl
@[simp] theorem State.updCluster_dies (s : State) (m : Nat) (f : Cluster → Cluster) : (s.updCluster m f).dies = s.dies := rfl
@[simp] theorem State.updCluster_ctxs (s : State) (m : Nat) (f : Cluster → Cluster) : (s.updCluster m f).ctxs = s.ctxs := rfl
@[simp] theorem State.updCluster_items (s : State) (m : Nat) (f : Cluster → Cluster) : (s.updCluster m f).items = s.items := rfl
@[simp] theorem State.updCluster_waitLog (s : State) (m : Nat) (f : Cluster → Cluster) : (s.updCluster m f).waitLog = s.waitLog := rfl
@[simp] theorem State.updCluster_posts (s : State) (m : Nat) (f : Cluster → Cluster) : (s.updCluster m f).posts = s.posts := rfl
@[simp] theorem State.updCluster_acct0 (s : State) (m : Nat) (f : Cluster → Cluster) : (s.updCluster m f).acct0 = s.acct0 := rfl
@[simp] theorem State.updCluster_gen (s : State) (m : Nat) (f : Cluster → Cluster) : (s.updCluster m f).gen = s.gen := rfl
@[simp] theorem State.updCluster_bias (s : State) (m : Nat) (f : Cluster → Cluster) : (s.updCluster m f).bias = s.bias := rfl
@[simp] theorem State.updCluster_power (s : State) (m : Nat) (f : Cluster → Cluster) : (s.updCluster m f).power = s.power := rfl
@[simp] theorem State.updCluster_slews (s : State) (m : Nat) (f : Cluster → Cluster) : (s.updCluster m f).slews = s.slews := rfl
@[simp] theorem State.updCluster_firm (s : State) (m : Nat) (f : Cluster → Cluster) : (s.updCluster m f).firm = s.firm := rfl
@[simp] theorem State.updDie_powered (s : State) (d : Nat) (f : Die → Die) : (s.updDie d f).powered = s.powered := rfl
@[simp] theorem State.updDie_clock (s : State) (d : Nat) (f : Die → Die) : (s.updDie d f).clock = s.clock := rfl
@[simp] theorem State.updDie_cur (s : State) (d : Nat) (f : Die → Die) : (s.updDie d f).cur = s.cur := rfl
@[simp] theorem State.updDie_agenda (s : State) (d : Nat) (f : Die → Die) : (s.updDie d f).agenda = s.agenda := rfl
@[simp] theorem State.updDie_stamp (s : State) (d : Nat) (f : Die → Die) : (s.updDie d f).stamp = s.stamp := rfl
@[simp] theorem State.updDie_mem (s : State) (d : Nat) (f : Die → Die) : (s.updDie d f).mem = s.mem := rfl
@[simp] theorem State.updDie_poison (s : State) (d : Nat) (f : Die → Die) : (s.updDie d f).poison = s.poison := rfl
@[simp] theorem State.updDie_latent (s : State) (d : Nat) (f : Die → Die) : (s.updDie d f).latent = s.latent := rfl
@[simp] theorem State.updDie_own (s : State) (d : Nat) (f : Die → Die) : (s.updDie d f).own = s.own := rfl
@[simp] theorem State.updDie_cores (s : State) (d : Nat) (f : Die → Die) : (s.updDie d f).cores = s.cores := rfl
@[simp] theorem State.updDie_quads (s : State) (d : Nat) (f : Die → Die) : (s.updDie d f).quads = s.quads := rfl
@[simp] theorem State.updDie_clusters (s : State) (d : Nat) (f : Die → Die) : (s.updDie d f).clusters = s.clusters := rfl
@[simp] theorem State.updDie_ctxs (s : State) (d : Nat) (f : Die → Die) : (s.updDie d f).ctxs = s.ctxs := rfl
@[simp] theorem State.updDie_items (s : State) (d : Nat) (f : Die → Die) : (s.updDie d f).items = s.items := rfl
@[simp] theorem State.updDie_waitLog (s : State) (d : Nat) (f : Die → Die) : (s.updDie d f).waitLog = s.waitLog := rfl
@[simp] theorem State.updDie_posts (s : State) (d : Nat) (f : Die → Die) : (s.updDie d f).posts = s.posts := rfl
@[simp] theorem State.updDie_acct0 (s : State) (d : Nat) (f : Die → Die) : (s.updDie d f).acct0 = s.acct0 := rfl
@[simp] theorem State.updDie_gen (s : State) (d : Nat) (f : Die → Die) : (s.updDie d f).gen = s.gen := rfl
@[simp] theorem State.updDie_bias (s : State) (d : Nat) (f : Die → Die) : (s.updDie d f).bias = s.bias := rfl
@[simp] theorem State.updDie_power (s : State) (d : Nat) (f : Die → Die) : (s.updDie d f).power = s.power := rfl
@[simp] theorem State.updDie_slews (s : State) (d : Nat) (f : Die → Die) : (s.updDie d f).slews = s.slews := rfl
@[simp] theorem State.updDie_firm (s : State) (d : Nat) (f : Die → Die) : (s.updDie d f).firm = s.firm := rfl
@[simp] theorem State.updCtx_powered (s : State) (n : Nat) (f : Ctx → Ctx) : (s.updCtx n f).powered = s.powered := rfl
@[simp] theorem State.updCtx_clock (s : State) (n : Nat) (f : Ctx → Ctx) : (s.updCtx n f).clock = s.clock := rfl
@[simp] theorem State.updCtx_cur (s : State) (n : Nat) (f : Ctx → Ctx) : (s.updCtx n f).cur = s.cur := rfl
@[simp] theorem State.updCtx_agenda (s : State) (n : Nat) (f : Ctx → Ctx) : (s.updCtx n f).agenda = s.agenda := rfl
@[simp] theorem State.updCtx_stamp (s : State) (n : Nat) (f : Ctx → Ctx) : (s.updCtx n f).stamp = s.stamp := rfl
@[simp] theorem State.updCtx_mem (s : State) (n : Nat) (f : Ctx → Ctx) : (s.updCtx n f).mem = s.mem := rfl
@[simp] theorem State.updCtx_poison (s : State) (n : Nat) (f : Ctx → Ctx) : (s.updCtx n f).poison = s.poison := rfl
@[simp] theorem State.updCtx_latent (s : State) (n : Nat) (f : Ctx → Ctx) : (s.updCtx n f).latent = s.latent := rfl
@[simp] theorem State.updCtx_own (s : State) (n : Nat) (f : Ctx → Ctx) : (s.updCtx n f).own = s.own := rfl
@[simp] theorem State.updCtx_cores (s : State) (n : Nat) (f : Ctx → Ctx) : (s.updCtx n f).cores = s.cores := rfl
@[simp] theorem State.updCtx_quads (s : State) (n : Nat) (f : Ctx → Ctx) : (s.updCtx n f).quads = s.quads := rfl
@[simp] theorem State.updCtx_clusters (s : State) (n : Nat) (f : Ctx → Ctx) : (s.updCtx n f).clusters = s.clusters := rfl
@[simp] theorem State.updCtx_dies (s : State) (n : Nat) (f : Ctx → Ctx) : (s.updCtx n f).dies = s.dies := rfl
@[simp] theorem State.updCtx_items (s : State) (n : Nat) (f : Ctx → Ctx) : (s.updCtx n f).items = s.items := rfl
@[simp] theorem State.updCtx_waitLog (s : State) (n : Nat) (f : Ctx → Ctx) : (s.updCtx n f).waitLog = s.waitLog := rfl
@[simp] theorem State.updCtx_posts (s : State) (n : Nat) (f : Ctx → Ctx) : (s.updCtx n f).posts = s.posts := rfl
@[simp] theorem State.updCtx_acct0 (s : State) (n : Nat) (f : Ctx → Ctx) : (s.updCtx n f).acct0 = s.acct0 := rfl
@[simp] theorem State.updCtx_gen (s : State) (n : Nat) (f : Ctx → Ctx) : (s.updCtx n f).gen = s.gen := rfl
@[simp] theorem State.updCtx_bias (s : State) (n : Nat) (f : Ctx → Ctx) : (s.updCtx n f).bias = s.bias := rfl
@[simp] theorem State.updCtx_power (s : State) (n : Nat) (f : Ctx → Ctx) : (s.updCtx n f).power = s.power := rfl
@[simp] theorem State.updCtx_slews (s : State) (n : Nat) (f : Ctx → Ctx) : (s.updCtx n f).slews = s.slews := rfl
@[simp] theorem State.updCtx_firm (s : State) (n : Nat) (f : Ctx → Ctx) : (s.updCtx n f).firm = s.firm := rfl
@[simp] theorem State.pushX_powered (s : State) (d : Reg) (v : Word) (l : Nat) : (s.pushX d v l).powered = s.powered := rfl
@[simp] theorem State.pushX_clock (s : State) (d : Reg) (v : Word) (l : Nat) : (s.pushX d v l).clock = s.clock := rfl
@[simp] theorem State.pushX_cur (s : State) (d : Reg) (v : Word) (l : Nat) : (s.pushX d v l).cur = s.cur := rfl
@[simp] theorem State.pushX_agenda (s : State) (d : Reg) (v : Word) (l : Nat) : (s.pushX d v l).agenda = s.agenda := rfl
@[simp] theorem State.pushX_stamp (s : State) (d : Reg) (v : Word) (l : Nat) : (s.pushX d v l).stamp = s.stamp := rfl
@[simp] theorem State.pushX_mem (s : State) (d : Reg) (v : Word) (l : Nat) : (s.pushX d v l).mem = s.mem := rfl
@[simp] theorem State.pushX_poison (s : State) (d : Reg) (v : Word) (l : Nat) : (s.pushX d v l).poison = s.poison := rfl
@[simp] theorem State.pushX_latent (s : State) (d : Reg) (v : Word) (l : Nat) : (s.pushX d v l).latent = s.latent := rfl
@[simp] theorem State.pushX_own (s : State) (d : Reg) (v : Word) (l : Nat) : (s.pushX d v l).own = s.own := rfl
@[simp] theorem State.pushX_quads (s : State) (d : Reg) (v : Word) (l : Nat) : (s.pushX d v l).quads = s.quads := rfl
@[simp] theorem State.pushX_clusters (s : State) (d : Reg) (v : Word) (l : Nat) : (s.pushX d v l).clusters = s.clusters := rfl
@[simp] theorem State.pushX_dies (s : State) (d : Reg) (v : Word) (l : Nat) : (s.pushX d v l).dies = s.dies := rfl
@[simp] theorem State.pushX_ctxs (s : State) (d : Reg) (v : Word) (l : Nat) : (s.pushX d v l).ctxs = s.ctxs := rfl
@[simp] theorem State.pushX_items (s : State) (d : Reg) (v : Word) (l : Nat) : (s.pushX d v l).items = s.items := rfl
@[simp] theorem State.pushX_waitLog (s : State) (d : Reg) (v : Word) (l : Nat) : (s.pushX d v l).waitLog = s.waitLog := rfl
@[simp] theorem State.pushX_posts (s : State) (d : Reg) (v : Word) (l : Nat) : (s.pushX d v l).posts = s.posts := rfl
@[simp] theorem State.pushX_acct0 (s : State) (d : Reg) (v : Word) (l : Nat) : (s.pushX d v l).acct0 = s.acct0 := rfl
@[simp] theorem State.pushX_gen (s : State) (d : Reg) (v : Word) (l : Nat) : (s.pushX d v l).gen = s.gen := rfl
@[simp] theorem State.pushX_bias (s : State) (d : Reg) (v : Word) (l : Nat) : (s.pushX d v l).bias = s.bias := rfl
@[simp] theorem State.pushX_power (s : State) (d : Reg) (v : Word) (l : Nat) : (s.pushX d v l).power = s.power := rfl
@[simp] theorem State.pushX_slews (s : State) (d : Reg) (v : Word) (l : Nat) : (s.pushX d v l).slews = s.slews := rfl
@[simp] theorem State.pushX_firm (s : State) (d : Reg) (v : Word) (l : Nat) : (s.pushX d v l).firm = s.firm := rfl
@[simp] theorem State.pushQ_powered (s : State) (d : QReg) (b : Bool) (l : Nat) : (s.pushQ d b l).powered = s.powered := rfl
@[simp] theorem State.pushQ_clock (s : State) (d : QReg) (b : Bool) (l : Nat) : (s.pushQ d b l).clock = s.clock := rfl
@[simp] theorem State.pushQ_cur (s : State) (d : QReg) (b : Bool) (l : Nat) : (s.pushQ d b l).cur = s.cur := rfl
@[simp] theorem State.pushQ_agenda (s : State) (d : QReg) (b : Bool) (l : Nat) : (s.pushQ d b l).agenda = s.agenda := rfl
@[simp] theorem State.pushQ_stamp (s : State) (d : QReg) (b : Bool) (l : Nat) : (s.pushQ d b l).stamp = s.stamp := rfl
@[simp] theorem State.pushQ_mem (s : State) (d : QReg) (b : Bool) (l : Nat) : (s.pushQ d b l).mem = s.mem := rfl
@[simp] theorem State.pushQ_poison (s : State) (d : QReg) (b : Bool) (l : Nat) : (s.pushQ d b l).poison = s.poison := rfl
@[simp] theorem State.pushQ_latent (s : State) (d : QReg) (b : Bool) (l : Nat) : (s.pushQ d b l).latent = s.latent := rfl
@[simp] theorem State.pushQ_own (s : State) (d : QReg) (b : Bool) (l : Nat) : (s.pushQ d b l).own = s.own := rfl
@[simp] theorem State.pushQ_quads (s : State) (d : QReg) (b : Bool) (l : Nat) : (s.pushQ d b l).quads = s.quads := rfl
@[simp] theorem State.pushQ_clusters (s : State) (d : QReg) (b : Bool) (l : Nat) : (s.pushQ d b l).clusters = s.clusters := rfl
@[simp] theorem State.pushQ_dies (s : State) (d : QReg) (b : Bool) (l : Nat) : (s.pushQ d b l).dies = s.dies := rfl
@[simp] theorem State.pushQ_ctxs (s : State) (d : QReg) (b : Bool) (l : Nat) : (s.pushQ d b l).ctxs = s.ctxs := rfl
@[simp] theorem State.pushQ_items (s : State) (d : QReg) (b : Bool) (l : Nat) : (s.pushQ d b l).items = s.items := rfl
@[simp] theorem State.pushQ_waitLog (s : State) (d : QReg) (b : Bool) (l : Nat) : (s.pushQ d b l).waitLog = s.waitLog := rfl
@[simp] theorem State.pushQ_posts (s : State) (d : QReg) (b : Bool) (l : Nat) : (s.pushQ d b l).posts = s.posts := rfl
@[simp] theorem State.pushQ_acct0 (s : State) (d : QReg) (b : Bool) (l : Nat) : (s.pushQ d b l).acct0 = s.acct0 := rfl
@[simp] theorem State.pushQ_gen (s : State) (d : QReg) (b : Bool) (l : Nat) : (s.pushQ d b l).gen = s.gen := rfl
@[simp] theorem State.pushQ_bias (s : State) (d : QReg) (b : Bool) (l : Nat) : (s.pushQ d b l).bias = s.bias := rfl
@[simp] theorem State.pushQ_power (s : State) (d : QReg) (b : Bool) (l : Nat) : (s.pushQ d b l).power = s.power := rfl
@[simp] theorem State.pushQ_slews (s : State) (d : QReg) (b : Bool) (l : Nat) : (s.pushQ d b l).slews = s.slews := rfl
@[simp] theorem State.pushQ_firm (s : State) (d : QReg) (b : Bool) (l : Nat) : (s.pushQ d b l).firm = s.firm := rfl
@[simp] theorem State.pushXF_powered (s : State) (d : Reg) (v : Word) (l : Nat) (f : FpFlags) : (s.pushXF d v l f).powered = s.powered := rfl
@[simp] theorem State.pushXF_clock (s : State) (d : Reg) (v : Word) (l : Nat) (f : FpFlags) : (s.pushXF d v l f).clock = s.clock := rfl
@[simp] theorem State.pushXF_cur (s : State) (d : Reg) (v : Word) (l : Nat) (f : FpFlags) : (s.pushXF d v l f).cur = s.cur := rfl
@[simp] theorem State.pushXF_agenda (s : State) (d : Reg) (v : Word) (l : Nat) (f : FpFlags) : (s.pushXF d v l f).agenda = s.agenda := rfl
@[simp] theorem State.pushXF_stamp (s : State) (d : Reg) (v : Word) (l : Nat) (f : FpFlags) : (s.pushXF d v l f).stamp = s.stamp := rfl
@[simp] theorem State.pushXF_mem (s : State) (d : Reg) (v : Word) (l : Nat) (f : FpFlags) : (s.pushXF d v l f).mem = s.mem := rfl
@[simp] theorem State.pushXF_poison (s : State) (d : Reg) (v : Word) (l : Nat) (f : FpFlags) : (s.pushXF d v l f).poison = s.poison := rfl
@[simp] theorem State.pushXF_latent (s : State) (d : Reg) (v : Word) (l : Nat) (f : FpFlags) : (s.pushXF d v l f).latent = s.latent := rfl
@[simp] theorem State.pushXF_own (s : State) (d : Reg) (v : Word) (l : Nat) (f : FpFlags) : (s.pushXF d v l f).own = s.own := rfl
@[simp] theorem State.pushXF_quads (s : State) (d : Reg) (v : Word) (l : Nat) (f : FpFlags) : (s.pushXF d v l f).quads = s.quads := rfl
@[simp] theorem State.pushXF_clusters (s : State) (d : Reg) (v : Word) (l : Nat) (f : FpFlags) : (s.pushXF d v l f).clusters = s.clusters := rfl
@[simp] theorem State.pushXF_dies (s : State) (d : Reg) (v : Word) (l : Nat) (f : FpFlags) : (s.pushXF d v l f).dies = s.dies := rfl
@[simp] theorem State.pushXF_ctxs (s : State) (d : Reg) (v : Word) (l : Nat) (f : FpFlags) : (s.pushXF d v l f).ctxs = s.ctxs := rfl
@[simp] theorem State.pushXF_items (s : State) (d : Reg) (v : Word) (l : Nat) (f : FpFlags) : (s.pushXF d v l f).items = s.items := rfl
@[simp] theorem State.pushXF_waitLog (s : State) (d : Reg) (v : Word) (l : Nat) (f : FpFlags) : (s.pushXF d v l f).waitLog = s.waitLog := rfl
@[simp] theorem State.pushXF_posts (s : State) (d : Reg) (v : Word) (l : Nat) (f : FpFlags) : (s.pushXF d v l f).posts = s.posts := rfl
@[simp] theorem State.pushXF_acct0 (s : State) (d : Reg) (v : Word) (l : Nat) (f : FpFlags) : (s.pushXF d v l f).acct0 = s.acct0 := rfl
@[simp] theorem State.pushXF_gen (s : State) (d : Reg) (v : Word) (l : Nat) (f : FpFlags) : (s.pushXF d v l f).gen = s.gen := rfl
@[simp] theorem State.pushXF_bias (s : State) (d : Reg) (v : Word) (l : Nat) (f : FpFlags) : (s.pushXF d v l f).bias = s.bias := rfl
@[simp] theorem State.pushXF_power (s : State) (d : Reg) (v : Word) (l : Nat) (f : FpFlags) : (s.pushXF d v l f).power = s.power := rfl
@[simp] theorem State.pushXF_slews (s : State) (d : Reg) (v : Word) (l : Nat) (f : FpFlags) : (s.pushXF d v l f).slews = s.slews := rfl
@[simp] theorem State.pushXF_firm (s : State) (d : Reg) (v : Word) (l : Nat) (f : FpFlags) : (s.pushXF d v l f).firm = s.firm := rfl
@[simp] theorem State.pushQF_powered (s : State) (d : QReg) (b : Bool) (l : Nat) (f : FpFlags) : (s.pushQF d b l f).powered = s.powered := rfl
@[simp] theorem State.pushQF_clock (s : State) (d : QReg) (b : Bool) (l : Nat) (f : FpFlags) : (s.pushQF d b l f).clock = s.clock := rfl
@[simp] theorem State.pushQF_cur (s : State) (d : QReg) (b : Bool) (l : Nat) (f : FpFlags) : (s.pushQF d b l f).cur = s.cur := rfl
@[simp] theorem State.pushQF_agenda (s : State) (d : QReg) (b : Bool) (l : Nat) (f : FpFlags) : (s.pushQF d b l f).agenda = s.agenda := rfl
@[simp] theorem State.pushQF_stamp (s : State) (d : QReg) (b : Bool) (l : Nat) (f : FpFlags) : (s.pushQF d b l f).stamp = s.stamp := rfl
@[simp] theorem State.pushQF_mem (s : State) (d : QReg) (b : Bool) (l : Nat) (f : FpFlags) : (s.pushQF d b l f).mem = s.mem := rfl
@[simp] theorem State.pushQF_poison (s : State) (d : QReg) (b : Bool) (l : Nat) (f : FpFlags) : (s.pushQF d b l f).poison = s.poison := rfl
@[simp] theorem State.pushQF_latent (s : State) (d : QReg) (b : Bool) (l : Nat) (f : FpFlags) : (s.pushQF d b l f).latent = s.latent := rfl
@[simp] theorem State.pushQF_own (s : State) (d : QReg) (b : Bool) (l : Nat) (f : FpFlags) : (s.pushQF d b l f).own = s.own := rfl
@[simp] theorem State.pushQF_quads (s : State) (d : QReg) (b : Bool) (l : Nat) (f : FpFlags) : (s.pushQF d b l f).quads = s.quads := rfl
@[simp] theorem State.pushQF_clusters (s : State) (d : QReg) (b : Bool) (l : Nat) (f : FpFlags) : (s.pushQF d b l f).clusters = s.clusters := rfl
@[simp] theorem State.pushQF_dies (s : State) (d : QReg) (b : Bool) (l : Nat) (f : FpFlags) : (s.pushQF d b l f).dies = s.dies := rfl
@[simp] theorem State.pushQF_ctxs (s : State) (d : QReg) (b : Bool) (l : Nat) (f : FpFlags) : (s.pushQF d b l f).ctxs = s.ctxs := rfl
@[simp] theorem State.pushQF_items (s : State) (d : QReg) (b : Bool) (l : Nat) (f : FpFlags) : (s.pushQF d b l f).items = s.items := rfl
@[simp] theorem State.pushQF_waitLog (s : State) (d : QReg) (b : Bool) (l : Nat) (f : FpFlags) : (s.pushQF d b l f).waitLog = s.waitLog := rfl
@[simp] theorem State.pushQF_posts (s : State) (d : QReg) (b : Bool) (l : Nat) (f : FpFlags) : (s.pushQF d b l f).posts = s.posts := rfl
@[simp] theorem State.pushQF_acct0 (s : State) (d : QReg) (b : Bool) (l : Nat) (f : FpFlags) : (s.pushQF d b l f).acct0 = s.acct0 := rfl
@[simp] theorem State.pushQF_gen (s : State) (d : QReg) (b : Bool) (l : Nat) (f : FpFlags) : (s.pushQF d b l f).gen = s.gen := rfl
@[simp] theorem State.pushQF_bias (s : State) (d : QReg) (b : Bool) (l : Nat) (f : FpFlags) : (s.pushQF d b l f).bias = s.bias := rfl
@[simp] theorem State.pushQF_power (s : State) (d : QReg) (b : Bool) (l : Nat) (f : FpFlags) : (s.pushQF d b l f).power = s.power := rfl
@[simp] theorem State.pushQF_slews (s : State) (d : QReg) (b : Bool) (l : Nat) (f : FpFlags) : (s.pushQF d b l f).slews = s.slews := rfl
@[simp] theorem State.pushQF_firm (s : State) (d : QReg) (b : Bool) (l : Nat) (f : FpFlags) : (s.pushQF d b l f).firm = s.firm := rfl
@[simp] theorem State.pushXI_powered (s : State) (d : Reg) (v : Word) : (s.pushXI d v).powered = s.powered := rfl
@[simp] theorem State.pushXI_clock (s : State) (d : Reg) (v : Word) : (s.pushXI d v).clock = s.clock := rfl
@[simp] theorem State.pushXI_cur (s : State) (d : Reg) (v : Word) : (s.pushXI d v).cur = s.cur := rfl
@[simp] theorem State.pushXI_agenda (s : State) (d : Reg) (v : Word) : (s.pushXI d v).agenda = s.agenda := rfl
@[simp] theorem State.pushXI_stamp (s : State) (d : Reg) (v : Word) : (s.pushXI d v).stamp = s.stamp := rfl
@[simp] theorem State.pushXI_mem (s : State) (d : Reg) (v : Word) : (s.pushXI d v).mem = s.mem := rfl
@[simp] theorem State.pushXI_poison (s : State) (d : Reg) (v : Word) : (s.pushXI d v).poison = s.poison := rfl
@[simp] theorem State.pushXI_latent (s : State) (d : Reg) (v : Word) : (s.pushXI d v).latent = s.latent := rfl
@[simp] theorem State.pushXI_own (s : State) (d : Reg) (v : Word) : (s.pushXI d v).own = s.own := rfl
@[simp] theorem State.pushXI_quads (s : State) (d : Reg) (v : Word) : (s.pushXI d v).quads = s.quads := rfl
@[simp] theorem State.pushXI_clusters (s : State) (d : Reg) (v : Word) : (s.pushXI d v).clusters = s.clusters := rfl
@[simp] theorem State.pushXI_dies (s : State) (d : Reg) (v : Word) : (s.pushXI d v).dies = s.dies := rfl
@[simp] theorem State.pushXI_ctxs (s : State) (d : Reg) (v : Word) : (s.pushXI d v).ctxs = s.ctxs := rfl
@[simp] theorem State.pushXI_items (s : State) (d : Reg) (v : Word) : (s.pushXI d v).items = s.items := rfl
@[simp] theorem State.pushXI_waitLog (s : State) (d : Reg) (v : Word) : (s.pushXI d v).waitLog = s.waitLog := rfl
@[simp] theorem State.pushXI_posts (s : State) (d : Reg) (v : Word) : (s.pushXI d v).posts = s.posts := rfl
@[simp] theorem State.pushXI_acct0 (s : State) (d : Reg) (v : Word) : (s.pushXI d v).acct0 = s.acct0 := rfl
@[simp] theorem State.pushXI_gen (s : State) (d : Reg) (v : Word) : (s.pushXI d v).gen = s.gen := rfl
@[simp] theorem State.pushXI_bias (s : State) (d : Reg) (v : Word) : (s.pushXI d v).bias = s.bias := rfl
@[simp] theorem State.pushXI_power (s : State) (d : Reg) (v : Word) : (s.pushXI d v).power = s.power := rfl
@[simp] theorem State.pushXI_slews (s : State) (d : Reg) (v : Word) : (s.pushXI d v).slews = s.slews := rfl
@[simp] theorem State.pushXI_firm (s : State) (d : Reg) (v : Word) : (s.pushXI d v).firm = s.firm := rfl
@[simp] theorem State.pushQI_powered (s : State) (d : QReg) (b : Bool) : (s.pushQI d b).powered = s.powered := rfl
@[simp] theorem State.pushQI_clock (s : State) (d : QReg) (b : Bool) : (s.pushQI d b).clock = s.clock := rfl
@[simp] theorem State.pushQI_cur (s : State) (d : QReg) (b : Bool) : (s.pushQI d b).cur = s.cur := rfl
@[simp] theorem State.pushQI_agenda (s : State) (d : QReg) (b : Bool) : (s.pushQI d b).agenda = s.agenda := rfl
@[simp] theorem State.pushQI_stamp (s : State) (d : QReg) (b : Bool) : (s.pushQI d b).stamp = s.stamp := rfl
@[simp] theorem State.pushQI_mem (s : State) (d : QReg) (b : Bool) : (s.pushQI d b).mem = s.mem := rfl
@[simp] theorem State.pushQI_poison (s : State) (d : QReg) (b : Bool) : (s.pushQI d b).poison = s.poison := rfl
@[simp] theorem State.pushQI_latent (s : State) (d : QReg) (b : Bool) : (s.pushQI d b).latent = s.latent := rfl
@[simp] theorem State.pushQI_own (s : State) (d : QReg) (b : Bool) : (s.pushQI d b).own = s.own := rfl
@[simp] theorem State.pushQI_quads (s : State) (d : QReg) (b : Bool) : (s.pushQI d b).quads = s.quads := rfl
@[simp] theorem State.pushQI_clusters (s : State) (d : QReg) (b : Bool) : (s.pushQI d b).clusters = s.clusters := rfl
@[simp] theorem State.pushQI_dies (s : State) (d : QReg) (b : Bool) : (s.pushQI d b).dies = s.dies := rfl
@[simp] theorem State.pushQI_ctxs (s : State) (d : QReg) (b : Bool) : (s.pushQI d b).ctxs = s.ctxs := rfl
@[simp] theorem State.pushQI_items (s : State) (d : QReg) (b : Bool) : (s.pushQI d b).items = s.items := rfl
@[simp] theorem State.pushQI_waitLog (s : State) (d : QReg) (b : Bool) : (s.pushQI d b).waitLog = s.waitLog := rfl
@[simp] theorem State.pushQI_posts (s : State) (d : QReg) (b : Bool) : (s.pushQI d b).posts = s.posts := rfl
@[simp] theorem State.pushQI_acct0 (s : State) (d : QReg) (b : Bool) : (s.pushQI d b).acct0 = s.acct0 := rfl
@[simp] theorem State.pushQI_gen (s : State) (d : QReg) (b : Bool) : (s.pushQI d b).gen = s.gen := rfl
@[simp] theorem State.pushQI_bias (s : State) (d : QReg) (b : Bool) : (s.pushQI d b).bias = s.bias := rfl
@[simp] theorem State.pushQI_power (s : State) (d : QReg) (b : Bool) : (s.pushQI d b).power = s.power := rfl
@[simp] theorem State.pushQI_slews (s : State) (d : QReg) (b : Bool) : (s.pushQI d b).slews = s.slews := rfl
@[simp] theorem State.pushQI_firm (s : State) (d : QReg) (b : Bool) : (s.pushQI d b).firm = s.firm := rfl
@[simp] theorem State.pushLoad_powered (s : State) (l : LoadP) : (s.pushLoad l).powered = s.powered := rfl
@[simp] theorem State.pushLoad_clock (s : State) (l : LoadP) : (s.pushLoad l).clock = s.clock := rfl
@[simp] theorem State.pushLoad_cur (s : State) (l : LoadP) : (s.pushLoad l).cur = s.cur := rfl
@[simp] theorem State.pushLoad_agenda (s : State) (l : LoadP) : (s.pushLoad l).agenda = s.agenda := rfl
@[simp] theorem State.pushLoad_stamp (s : State) (l : LoadP) : (s.pushLoad l).stamp = s.stamp := rfl
@[simp] theorem State.pushLoad_mem (s : State) (l : LoadP) : (s.pushLoad l).mem = s.mem := rfl
@[simp] theorem State.pushLoad_poison (s : State) (l : LoadP) : (s.pushLoad l).poison = s.poison := rfl
@[simp] theorem State.pushLoad_latent (s : State) (l : LoadP) : (s.pushLoad l).latent = s.latent := rfl
@[simp] theorem State.pushLoad_own (s : State) (l : LoadP) : (s.pushLoad l).own = s.own := rfl
@[simp] theorem State.pushLoad_quads (s : State) (l : LoadP) : (s.pushLoad l).quads = s.quads := rfl
@[simp] theorem State.pushLoad_clusters (s : State) (l : LoadP) : (s.pushLoad l).clusters = s.clusters := rfl
@[simp] theorem State.pushLoad_dies (s : State) (l : LoadP) : (s.pushLoad l).dies = s.dies := rfl
@[simp] theorem State.pushLoad_ctxs (s : State) (l : LoadP) : (s.pushLoad l).ctxs = s.ctxs := rfl
@[simp] theorem State.pushLoad_items (s : State) (l : LoadP) : (s.pushLoad l).items = s.items := rfl
@[simp] theorem State.pushLoad_waitLog (s : State) (l : LoadP) : (s.pushLoad l).waitLog = s.waitLog := rfl
@[simp] theorem State.pushLoad_posts (s : State) (l : LoadP) : (s.pushLoad l).posts = s.posts := rfl
@[simp] theorem State.pushLoad_acct0 (s : State) (l : LoadP) : (s.pushLoad l).acct0 = s.acct0 := rfl
@[simp] theorem State.pushLoad_gen (s : State) (l : LoadP) : (s.pushLoad l).gen = s.gen := rfl
@[simp] theorem State.pushLoad_bias (s : State) (l : LoadP) : (s.pushLoad l).bias = s.bias := rfl
@[simp] theorem State.pushLoad_power (s : State) (l : LoadP) : (s.pushLoad l).power = s.power := rfl
@[simp] theorem State.pushLoad_slews (s : State) (l : LoadP) : (s.pushLoad l).slews = s.slews := rfl
@[simp] theorem State.pushLoad_firm (s : State) (l : LoadP) : (s.pushLoad l).firm = s.firm := rfl
@[simp] theorem State.jump_powered (s : State) (t : Word) : (s.jump t).powered = s.powered := rfl
@[simp] theorem State.jump_clock (s : State) (t : Word) : (s.jump t).clock = s.clock := rfl
@[simp] theorem State.jump_cur (s : State) (t : Word) : (s.jump t).cur = s.cur := rfl
@[simp] theorem State.jump_agenda (s : State) (t : Word) : (s.jump t).agenda = s.agenda := rfl
@[simp] theorem State.jump_stamp (s : State) (t : Word) : (s.jump t).stamp = s.stamp := rfl
@[simp] theorem State.jump_mem (s : State) (t : Word) : (s.jump t).mem = s.mem := rfl
@[simp] theorem State.jump_poison (s : State) (t : Word) : (s.jump t).poison = s.poison := rfl
@[simp] theorem State.jump_latent (s : State) (t : Word) : (s.jump t).latent = s.latent := rfl
@[simp] theorem State.jump_own (s : State) (t : Word) : (s.jump t).own = s.own := rfl
@[simp] theorem State.jump_quads (s : State) (t : Word) : (s.jump t).quads = s.quads := rfl
@[simp] theorem State.jump_clusters (s : State) (t : Word) : (s.jump t).clusters = s.clusters := rfl
@[simp] theorem State.jump_dies (s : State) (t : Word) : (s.jump t).dies = s.dies := rfl
@[simp] theorem State.jump_ctxs (s : State) (t : Word) : (s.jump t).ctxs = s.ctxs := rfl
@[simp] theorem State.jump_items (s : State) (t : Word) : (s.jump t).items = s.items := rfl
@[simp] theorem State.jump_waitLog (s : State) (t : Word) : (s.jump t).waitLog = s.waitLog := rfl
@[simp] theorem State.jump_posts (s : State) (t : Word) : (s.jump t).posts = s.posts := rfl
@[simp] theorem State.jump_acct0 (s : State) (t : Word) : (s.jump t).acct0 = s.acct0 := rfl
@[simp] theorem State.jump_gen (s : State) (t : Word) : (s.jump t).gen = s.gen := rfl
@[simp] theorem State.jump_bias (s : State) (t : Word) : (s.jump t).bias = s.bias := rfl
@[simp] theorem State.jump_power (s : State) (t : Word) : (s.jump t).power = s.power := rfl
@[simp] theorem State.jump_slews (s : State) (t : Word) : (s.jump t).slews = s.slews := rfl
@[simp] theorem State.jump_firm (s : State) (t : Word) : (s.jump t).firm = s.firm := rfl
@[simp] theorem State.ready_powered (s : State) (t : Word) : (s.ready t).powered = s.powered := rfl
@[simp] theorem State.ready_clock (s : State) (t : Word) : (s.ready t).clock = s.clock := rfl
@[simp] theorem State.ready_cur (s : State) (t : Word) : (s.ready t).cur = s.cur := rfl
@[simp] theorem State.ready_agenda (s : State) (t : Word) : (s.ready t).agenda = s.agenda := rfl
@[simp] theorem State.ready_stamp (s : State) (t : Word) : (s.ready t).stamp = s.stamp := rfl
@[simp] theorem State.ready_mem (s : State) (t : Word) : (s.ready t).mem = s.mem := rfl
@[simp] theorem State.ready_poison (s : State) (t : Word) : (s.ready t).poison = s.poison := rfl
@[simp] theorem State.ready_latent (s : State) (t : Word) : (s.ready t).latent = s.latent := rfl
@[simp] theorem State.ready_own (s : State) (t : Word) : (s.ready t).own = s.own := rfl
@[simp] theorem State.ready_quads (s : State) (t : Word) : (s.ready t).quads = s.quads := rfl
@[simp] theorem State.ready_clusters (s : State) (t : Word) : (s.ready t).clusters = s.clusters := rfl
@[simp] theorem State.ready_dies (s : State) (t : Word) : (s.ready t).dies = s.dies := rfl
@[simp] theorem State.ready_ctxs (s : State) (t : Word) : (s.ready t).ctxs = s.ctxs := rfl
@[simp] theorem State.ready_items (s : State) (t : Word) : (s.ready t).items = s.items := rfl
@[simp] theorem State.ready_waitLog (s : State) (t : Word) : (s.ready t).waitLog = s.waitLog := rfl
@[simp] theorem State.ready_posts (s : State) (t : Word) : (s.ready t).posts = s.posts := rfl
@[simp] theorem State.ready_acct0 (s : State) (t : Word) : (s.ready t).acct0 = s.acct0 := rfl
@[simp] theorem State.ready_gen (s : State) (t : Word) : (s.ready t).gen = s.gen := rfl
@[simp] theorem State.ready_bias (s : State) (t : Word) : (s.ready t).bias = s.bias := rfl
@[simp] theorem State.ready_power (s : State) (t : Word) : (s.ready t).power = s.power := rfl
@[simp] theorem State.ready_slews (s : State) (t : Word) : (s.ready t).slews = s.slews := rfl
@[simp] theorem State.ready_firm (s : State) (t : Word) : (s.ready t).firm = s.firm := rfl

/-- Writes of memory at its home change the memory, the poison and the generations. -/
@[simp] theorem State.homeWrite_powered (s : State) (e : Bool) (cs : List Host.Cell) (ws : List Nat) : (s.homeWrite e cs ws).powered = s.powered := rfl
@[simp] theorem State.homeWrite_clock (s : State) (e : Bool) (cs : List Host.Cell) (ws : List Nat) : (s.homeWrite e cs ws).clock = s.clock := rfl
@[simp] theorem State.homeWrite_cur (s : State) (e : Bool) (cs : List Host.Cell) (ws : List Nat) : (s.homeWrite e cs ws).cur = s.cur := rfl
@[simp] theorem State.homeWrite_agenda (s : State) (e : Bool) (cs : List Host.Cell) (ws : List Nat) : (s.homeWrite e cs ws).agenda = s.agenda := rfl
@[simp] theorem State.homeWrite_stamp (s : State) (e : Bool) (cs : List Host.Cell) (ws : List Nat) : (s.homeWrite e cs ws).stamp = s.stamp := rfl
@[simp] theorem State.homeWrite_own (s : State) (e : Bool) (cs : List Host.Cell) (ws : List Nat) : (s.homeWrite e cs ws).own = s.own := rfl
@[simp] theorem State.homeWrite_latent (s : State) (e : Bool) (cs : List Host.Cell) (ws : List Nat) : (s.homeWrite e cs ws).latent = s.latent := rfl
@[simp] theorem State.homeWrite_cores (s : State) (e : Bool) (cs : List Host.Cell) (ws : List Nat) : (s.homeWrite e cs ws).cores = s.cores := rfl
@[simp] theorem State.homeWrite_quads (s : State) (e : Bool) (cs : List Host.Cell) (ws : List Nat) : (s.homeWrite e cs ws).quads = s.quads := rfl
@[simp] theorem State.homeWrite_clusters (s : State) (e : Bool) (cs : List Host.Cell) (ws : List Nat) : (s.homeWrite e cs ws).clusters = s.clusters := rfl
@[simp] theorem State.homeWrite_dies (s : State) (e : Bool) (cs : List Host.Cell) (ws : List Nat) : (s.homeWrite e cs ws).dies = s.dies := rfl
@[simp] theorem State.homeWrite_ctxs (s : State) (e : Bool) (cs : List Host.Cell) (ws : List Nat) : (s.homeWrite e cs ws).ctxs = s.ctxs := rfl
@[simp] theorem State.homeWrite_items (s : State) (e : Bool) (cs : List Host.Cell) (ws : List Nat) : (s.homeWrite e cs ws).items = s.items := rfl
@[simp] theorem State.homeWrite_waitLog (s : State) (e : Bool) (cs : List Host.Cell) (ws : List Nat) : (s.homeWrite e cs ws).waitLog = s.waitLog := rfl
@[simp] theorem State.homeWrite_posts (s : State) (e : Bool) (cs : List Host.Cell) (ws : List Nat) : (s.homeWrite e cs ws).posts = s.posts := rfl
@[simp] theorem State.homeWrite_acct0 (s : State) (e : Bool) (cs : List Host.Cell) (ws : List Nat) : (s.homeWrite e cs ws).acct0 = s.acct0 := rfl
@[simp] theorem State.homeWrite_bias (s : State) (e : Bool) (cs : List Host.Cell) (ws : List Nat) : (s.homeWrite e cs ws).bias = s.bias := rfl
@[simp] theorem State.homeWrite_power (s : State) (e : Bool) (cs : List Host.Cell) (ws : List Nat) : (s.homeWrite e cs ws).power = s.power := rfl
@[simp] theorem State.homeWrite_slews (s : State) (e : Bool) (cs : List Host.Cell) (ws : List Nat) : (s.homeWrite e cs ws).slews = s.slews := rfl
@[simp] theorem State.homeWrite_firm (s : State) (e : Bool) (cs : List Host.Cell) (ws : List Nat) : (s.homeWrite e cs ws).firm = s.firm := rfl

theorem State.die_mem_only (s t : State) (h : t.mem = s.mem) (hd : t.dies = s.dies) (hb : t.bias = s.bias) (d k : Nat) :
    t.dieByte d k = s.dieByte d k := by
  simp [State.dieByte, State.hostBias, State.die, h, hd, hb]

end Sys2Proof.Machine
end

