-- ==== Sys2Proof/Laws/Canonical.lean ====
section
/-! SUPPORT. The shared operations keep memory in its canonical form: one lemma for each, which simp applies with the
form of the state before as its side condition. -/

namespace Sys2Proof.Machine

/-! ## Accounts and time -/

@[simp] theorem State.ringPut_wf {s : State} (h : s.mem.wf = true) (c : Core) (r : Nat) : (s.ringPut c r).mem.wf = true := by
  simp [State.ringPut, h]
@[simp] theorem State.putOverflow_wf {s : State} (h : s.mem.wf = true) (g : Nat) : (s.putOverflow g).mem.wf = true := by
  unfold State.putOverflow; dsimp only; split_ifs
  · exact h
  · split <;> simp [h]
@[simp] theorem State.endRun_wf {s : State} (h : s.mem.wf = true) (g k : Nat) : (s.endRun g k).mem.wf = true := by
  have h2 : ((List.range 32).foldl (fun s _ => State.putOverflow s g) s).mem.wf = true := foldl_mem_wf (fun s _ h => State.putOverflow_wf h g) _ h
  unfold State.endRun; dsimp only
  split
  · exact h
  · split_ifs <;> simp [h, h2]
@[simp] theorem State.extendRun_wf (f : Nat) {s : State} (h : s.mem.wf = true) (g k x c n : Nat) (pc : Word) :
    (State.extendRun f s g k x c n pc).mem.wf = true := by
  induction f generalizing s n with
  | zero => exact h
  | succ f ih =>
    unfold State.extendRun
    dsimp only
    generalize (if k = 0 then (s.core g).acct.runC else (s.core g).acct.runA) = run
    cases run with
    | none =>
      dsimp only
      split_ifs <;> first | exact h | exact ih (by simpa only [State.updCore_mem] using h) _
    | some r =>
      dsimp only
      have h1 := State.endRun_wf h g k
      split_ifs <;> first
        | exact h | exact h1 | exact ih (by simpa only [State.updCore_mem] using h) _ | exact ih (by simpa only [State.updCore_mem] using h1) _
@[simp] theorem State.chargeSlot_wf {s : State} (h : s.mem.wf = true) (g k x c n : Nat) (pc : Word) :
    (s.chargeSlot g k x c n pc).mem.wf = true := State.extendRun_wf _ h g k x c n pc
@[simp] theorem State.charge_wf {s : State} (h : s.mem.wf = true) (g c a n : Nat) (pc : Word) : (s.charge g c a n pc).mem.wf = true := by
  unfold State.charge; dsimp only; split_ifs
  · exact h
  · exact State.chargeSlot_wf (State.chargeSlot_wf (State.chargeSlot_wf (State.chargeSlot_wf h _ _ _ _ _ _) _ _ _ _ _ _) _ _ _ _ _ _) _ _ _ _ _ _
  · exact State.chargeSlot_wf (State.chargeSlot_wf h _ _ _ _ _ _) _ _ _ _ _ _
@[simp] theorem State.flushAcct_wf {s : State} (h : s.mem.wf = true) (g : Nat) : (s.flushAcct g).mem.wf = true := by
  unfold State.flushAcct; dsimp only
  refine foldl_mem_wf (fun s x h => ?_) _ h
  split_ifs <;> simp [h]
@[simp] theorem State.endRuns_wf {s : State} (h : s.mem.wf = true) (g : Nat) : (s.endRuns g).mem.wf = true := by
  simp [State.endRuns, h]
@[simp] theorem State.bill_wf {s : State} (h : s.mem.wf = true) (g c a n : Nat) (pc : Word) : (s.bill g c a n pc).mem.wf = true := by
  unfold State.bill; dsimp only; split_ifs <;> simp [h]
@[simp] theorem State.spend_mem (s : State) (g n : Nat) : (s.spend g n).mem = s.mem := by
  unfold State.spend; dsimp only; split_ifs <;> rfl
@[simp] theorem State.pay_wf {s : State} (h : s.mem.wf = true) (g c n : Nat) (pc : Word) : (s.pay g c n pc).mem.wf = true := by
  simp [State.pay, h]
@[simp] theorem State.catchUp_wf {s : State} (h : s.mem.wf = true) (g : Nat) : (s.catchUp g).mem.wf = true := by
  unfold State.catchUp
  simp only [State.updCore_mem, State.spend_mem]
  exact State.bill_wf h _ _ _ _ _
@[simp] theorem State.haltedTurn_wf {s : State} (h : s.mem.wf = true) (g : Nat) : (s.haltedTurn g).mem.wf = true := State.pay_wf h _ _ _ _
@[simp] theorem State.chargeIdle_wf {s : State} (h : s.mem.wf = true) (g : Nat) : (s.chargeIdle g).mem.wf = true := by
  unfold State.chargeIdle
  dsimp only
  split_ifs
  · exact h
  · simpa using h
  · simpa using State.charge_wf h _ _ _ _ _
  · rw [State.spend_mem]
    exact foldl_mem_wf (fun s p h => State.charge_wf h _ _ _ _ _) _ h
  · simpa using State.charge_wf h _ _ _ _ _
@[simp] theorem State.bringUp_wf {s : State} (h : s.mem.wf = true) (g : Nat) : (s.bringUp g).mem.wf = true := by
  unfold State.bringUp
  generalize (if s.dual (g / 2 * 2) = true then g / 2 * 2 else g) = g
  dsimp only
  split
  · exact State.chargeIdle_wf h _
  · split
    · exact State.haltedTurn_wf h _
    · exact State.catchUp_wf h _

/-! ## The images of the queues (R273, R302) -/

@[simp] theorem State.putWords_wf {s : State} (h : s.mem.wf = true) (old new : List (Nat × Word)) : (s.putWords old new).mem.wf = true := by
  unfold State.putWords
  refine foldl_mem_wf (fun s p h => ?_) _ h
  split
  · exact h
  · exact State.hwWrite_wf h _ _ _
@[simp] theorem State.mirrorCtx_wf (s : State) {t : State} (h : t.mem.wf = true) (n : Nat) : (s.mirrorCtx t n).mem.wf = true := by
  unfold State.mirrorCtx
  split
  · exact h
  · dsimp only
    split_ifs <;> exact State.putWords_wf h _ _
/-- What a step brings up to date in memory keeps the canonical form. -/
@[simp] theorem State.mirror_wf (s : State) {t : State} (h : t.mem.wf = true) : (s.mirror t).mem.wf = true :=
  foldl_mem_wf (fun _ n h => State.mirrorCtx_wf s h n) _ h
/-- A context whose areas no CREATE has given is left alone. -/
theorem State.mirrorCtx_none (s t : State) (n : Nat) (h : (t.ctx n).d = none) : s.mirrorCtx t n = t := by
  simp [State.mirrorCtx, h]

end Sys2Proof.Machine
end

