-- ==== Sys2Proof/Tests/Slice0.lean ====
section
/-! SUPPORT. Tests: words of the spec's own examples and words written from its encodings, ill-formed instructions, and
results that the spec's worked examples give. -/

namespace Sys2Proof.Tests

set_option Elab.async false

open Sys2Proof Sys2Proof.Machine

/-! ## Decoding: one word of every constructor

A word with an example in the spec is that example's (R58 to R60 and the entries); the others are written from the entry's
encoding, field by field. -/

/-- Control (05): NOP ~7; LITX x7; LITX x7, x7; BRA !q1, three back; JMP x1, [x5 - 8]; CALL, ten ahead; RET; LOOP x12, 1; MACRO. -/
theorem test_decode_control :
    decodeC 0x70000000#32 0 = some .nop
    ∧ decodeC 0x80470000#32 0x01234567#32 = some (.litx 7 0 0x01234567#32)
    ∧ decodeC 0x80471C00#32 0x89ABCDEF#32 = some (.litx 7 7 0x89ABCDEF#32)
    ∧ decodeC 0x008FFFFD#32 0 = some (.bra 1 true (.near 0x3FFFD#18))
    ∧ decodeC (0#1 ++ 0#3 ++ 0x03#6 ++ 1#6 ++ 5#6 ++ 0x3F8#10) 0 = some (.jmp 1 5 (.near 0x3F8#10))
    ∧ decodeC 0x0100000A#32 0 = some (.call 0 false (.near 10#18))
    ∧ decodeC 0x0140FC00#32 0 = some (.ret 63)
    ∧ decodeC 0x01803001#32 0 = some (.loop 12 1)
    ∧ decodeC 0x01D45403#32 0 = some (.runMacro 20 21 0 (.near 3)) := by decide +kernel

/-- Loads, stores, hints (06). -/
theorem test_decode_loads :
    decodeC 0x02030902#32 0 = some (.ld 3 .w (.short 2 2))
    ∧ decodeC 0x02030A83#32 0 = some (.ld 3 .hsx (.short 2 3))
    ∧ decodeC 0x82061100#32 0x2C000000#32 = some (.ld 6 .w (.ext 4 .acq .pkg 0))
    ∧ decodeC 0x02492D00#32 0 = some (.st 9 .w (.short 11 0))
    ∧ decodeC 0x82451100#32 0x4C000000#32 = some (.st 5 .w (.ext 4 .rel .pkg 0))
    ∧ decodeC (0#1 ++ 0#3 ++ 0x0A#6 ++ 6#6 ++ 4#6 ++ 2#3 ++ 1#7) 0 = some (.ldp 6 false (.short 4 1))
    ∧ decodeC (1#1 ++ 0#3 ++ 0x08#6 ++ 6#6 ++ 4#6 ++ 3#3 ++ 0#7) (0#3 ++ 0#3 ++ 1#1 ++ 9#6 ++ 3#2 ++ 0x1FFF8#17)
        = some (.ld 6 .d (.idx 4 .none .core 9 3 0x1FFF8#17))
    ∧ decodeC 0x02CA1181#32 0 = some (.stp 10 true (.short 4 1))
    ∧ decodeC 0x03000902#32 0 = some (.pref 2 (.short 2 2))
    ∧ decodeC 0x03400880#32 0 = some (.cflush .stash (.short 2 0)) := by decide +kernel

/-- Vector and tile transfers, atomics, fences, streams, copies (06). -/
theorem test_decode_memory :
    decodeC 0x03815008#32 0 = some (.vld 1 false (.short 20 8))
    ∧ decodeC 0x03C50C01#32 0 = some (.vst 5 (.short 3 1))
    ∧ decodeC 0x04032822#32 0 = some (.vgath 3 10 2 2)
    ∧ decodeC (0#1 ++ 0#3 ++ 0x11#6 ++ 3#6 ++ 10#6 ++ 2#6 ++ 2#4) 0 = some (.vscat 3 10 2 2)
    ∧ decodeC 0x04810C00#32 0 = some (.tld 1 false (.short 3 0))
    ∧ decodeC 0x04C21000#32 0 = some (.tst 2 (.short 4 0))
    ∧ decodeC 0x85062870#32 0x00C00000#32 = some (.amo 6 10 7 .n32 .add ⟨.none, .core, none, 0⟩)
    ∧ decodeC 0x85133CC0#32 0x00540000#32 = some (.amo 19 15 12 .s32 .max ⟨.none, .core, none, 0⟩)
    ∧ decodeC 0x85062870#32 0x6EE02408#32 = some (.amo 6 10 7 .n64 .add ⟨.ar, .pkg, some 9, 8⟩)
    ∧ decodeC 0x05462877#32 0 = some (.cas 6 10 7 .n64 none) := by decide +kernel

theorem test_decode_engines :
    decodeC 0x05800014#32 0 = some (.fence .rel .sys)
    ∧ decodeC 0x0580000C#32 0 = some (.fence .acq .sys)
    ∧ decodeC 0x0580002A#32 0 = some (.fence .eng .die)
    ∧ decodeC 0x05D82800#32 0 = some (.sbind 24 (.short 10 0))
    ∧ decodeC 0x06180000#32 0 = some (.sdrop 24)
    ∧ decodeC 0x06545562#32 0 = some (.acopy 20 21 22 2)
    ∧ decodeC 0x06890002#32 0 = some (.chwait 9 2)
    ∧ decodeC 0x0C011800#32 0 = some (.snap 1 6)
    ∧ decodeC 0x0C470000#32 0 = some (.genq 7 0)
    ∧ decodeC 0x0C883001#32 0 = some (.bias 8 12 true)
    ∧ decodeC 0x0CC03000#32 0 = some (.tlbiVa 12)
    ∧ decodeC 0x0CC00001#32 0 = some .tlbiAll
    ∧ decodeC 0x0D003800#32 0 = some (.fmtld (.short 14 0)) := by decide +kernel

/-- Work, messages, levels, the Percolator (09, 18, 20). -/
theorem test_decode_work :
    decodeC 0x06C10005#32 0 = some (.bar 1 5)
    ∧ decodeC (0#1 ++ 0#3 ++ 0x1C#6 ++ 0#6 ++ 0#6 ++ 3#10) 0 = some (.sstep 0 3)
    ∧ decodeC 0x07481007#32 0 = some (.send 8 4 7)
    ∧ decodeC 0x07831C10#32 0 = some (.recv 3 7 1 .rq)
    ∧ decodeC (0#1 ++ 0#3 ++ 0x1E#6 ++ 3#6 ++ 7#6 ++ 0#3 ++ 1#3 ++ 8#4) 0 = some (.recv 3 7 1 (.mb 7))
    ∧ decodeC 0x07801CA9#32 0 = some (.recvAcc 0 7 2 (.flt .f32))
    ∧ decodeC 0x07C2040F#32 0 = some (.xchg 2 1 0 15)
    ∧ decodeC 0x89051804#32 0x0000002B#32 = some (.spawn 5 6 (.label 0x2B) 4)
    ∧ decodeC 0x09401C00#32 0 = some (.susp 7)
    ∧ decodeC 0x09800000#32 0 = some .exit
    ∧ decodeC 0x09C41400#32 0 = some (.waitc 4 5)
    ∧ decodeC 0x0A001401#32 0 = some (.cancel 5 true)
    ∧ decodeC 0x0A400001#32 0 = some .pairOn
    ∧ decodeC 0x0A400000#32 0 = some .pairOff := by decide +kernel

theorem test_decode_levels :
    decodeC 0x08001400#32 0 = some (.restrUp 0 5)
    ∧ decodeC 0x08010831#32 0 = some (.restrTake 1 2 1 1)
    ∧ decodeC 0x08410401#32 0 = some (.prolgDown 1 1 1)
    ∧ decodeC 0x08402430#32 0 = some (.prolgTake 0 9 1)
    ∧ decodeC 0x08810800#32 0 = some (.wload 1 false (.short 2 0))
    ∧ decodeC 0x08C50004#32 0 = some (.cyc 5 .crown)
    ∧ decodeC 0x0A800800#32 0 = some (.ppatch (.short 2 0))
    ∧ decodeC 0x0AC01841#32 0 = some (.pstep 0 6 4 true)
    ∧ decodeC 0x0AC90000#32 0 = some (.pstep 9 0 0 false)
    ∧ decodeC 0x0B001000#32 0 = some (.psave (.short 4 0))
    ∧ decodeC 0x0B401000#32 0 = some (.prest (.short 4 0))
    ∧ decodeC 0x0B800891#32 0 = some (.pset 2 9 true)
    ∧ decodeC 0x0BC10002#32 0 = some (.pget 1 0 .cnt) := by decide +kernel

/-- Traps, CSRs, system (05). -/
theorem test_decode_system :
    decodeC (0#1 ++ 0#3 ++ 0x35#6 ++ 0#6 ++ 0#6 ++ 5#10) 0 = some (.trap 5)
    ∧ decodeC (0#1 ++ 0#3 ++ 0x36#6 ++ 0#22) 0 = some .rft
    ∧ decodeC 0x0DC90050#32 0 = some (.csrr 9 0x50)
    ∧ decodeC 0x0E001C29#32 0 = some (.csrw 0 7 0x29)
    ∧ decodeC (0#1 ++ 0#3 ++ 0x39#6 ++ 0#6 ++ 0#6 ++ 3#10) 0 = some (.dbrk 3)
    ∧ decodeC (0#1 ++ 0#3 ++ 0x3A#6 ++ 7#6 ++ 0#6 ++ 0#2 ++ 0#2 ++ 2#2 ++ 9#4) 0 = some (.acctCtx 7 2 9)
    ∧ decodeC 0x0E8A0109#32 0 = some (.acctCore 10 9)
    ∧ decodeC (0#1 ++ 0#3 ++ 0x3A#6 ++ 0#6 ++ 3#6 ++ 2#2 ++ 0#8) 0 = some (.acctMark 3)
    ∧ decodeC (0#1 ++ 0#3 ++ 0x3B#6 ++ 4#6 ++ 0#6 ++ 2#10) 0 = some (.telem 4 2)
    ∧ decodeC (0#1 ++ 0#3 ++ 0x3C#6 ++ 0#6 ++ 0#6 ++ 0#2 ++ 2#8) 0 = some (.mode 2)
    ∧ decodeC (0#1 ++ 0#3 ++ 0x3C#6 ++ 0#6 ++ 0#6 ++ 1#2 ++ 1#8) 0 = some (.modeMe true)
    ∧ decodeC (0#1 ++ 0#3 ++ 0x3D#6 ++ 5#6 ++ 6#6 ++ 0#6 ++ 3#4) 0 = some (.xlat 5 6 .atomic)
    ∧ decodeC (0#1 ++ 0#3 ++ 0x3E#6 ++ 0#22) 0 = some .icsync
    ∧ decodeC (0#1 ++ 0#3 ++ 0x3F#6 ++ 3#6 ++ 0#6 ++ 0#3 ++ 40#7) 0 = some (.prio 3 0 40) := by decide +kernel

/-- The scalar A instructions (05). -/
theorem test_decode_scalar :
    decodeA 0x00000000#32 = some .anop
    ∧ decodeA 0x008C1104#32 = some (.movi 6 0x882 false)
    ∧ decodeA 0x00927D01#32 = some (.movi 9 0x3E80 true)
    ∧ decodeA 0x210820A3#32 = some (.add 4 4 5 false .s64)
    ∧ decodeA 0x01A481E3#32 = some (.sub 18 16 15 false .s64)
    ∧ decodeA (0#3 ++ 0x04#6 ++ 1#6 ++ 2#6 ++ 3#6 ++ 1#1 ++ 6#4) = some (.mul 1 2 3 true .n32)
    ∧ decodeA (0#3 ++ 0x05#6 ++ 1#6 ++ 2#6 ++ 3#6 ++ 3#5) = some (.mulh 1 2 3 .s64)
    ∧ decodeA (0#3 ++ 0x06#6 ++ 1#6 ++ 2#6 ++ 3#6 ++ 2#5) = some (.div 1 2 3 .s32)
    ∧ decodeA 0x039030E0#32 = some (.and 8 6 7)
    ∧ decodeA (0#3 ++ 0x08#6 ++ 1#6 ++ 2#6 ++ 3#6 ++ 0#5) = some (.or 1 2 3)
    ∧ decodeA (0#3 ++ 0x09#6 ++ 1#6 ++ 2#6 ++ 3#6 ++ 0#5) = some (.xor 1 2 3)
    ∧ decodeA 0x05223003#32 = some (.shl 17 6 0 3)
    ∧ decodeA 0x059A61C7#32 = some (.shr 13 12 14 .n64) := by decide +kernel

theorem test_decode_scalar_more :
    decodeA (0#3 ++ 0x0C#6 ++ 1#6 ++ 2#6 ++ 3#6 ++ 4#5) = some (.min 1 2 3 .n8)
    ∧ decodeA (0#3 ++ 0x0D#6 ++ 1#6 ++ 2#6 ++ 3#6 ++ 1#5) = some (.max 1 2 3 .s16)
    ∧ decodeA 0x07144003#32 = some (.cmp .ne 2 8 0 .s64)
    ∧ decodeA (0#3 ++ 0x0F#6 ++ 1#6 ++ 2#6 ++ 3#6 ++ 0#1 ++ 1#1 ++ 2#3) = some (.sel 1 2 3 true 2)
    ∧ decodeA (0#3 ++ 0x10#6 ++ 1#6 ++ 2#6 ++ 0#6 ++ 2#5) = some (.bits 1 2 .ctz)
    ∧ decodeA (0#3 ++ 0x11#6 ++ 1#6 ++ 2#6 ++ 3#6 ++ 0#5) = some (.bfx 1 2 3)
    ∧ decodeA (0#3 ++ 0x12#6 ++ 1#6 ++ 2#6 ++ 3#6 ++ 1#5) = some (.pred 1 2 3 true)
    ∧ decodeA 0x09945082#32 = some (.lea 10 10 130)
    ∧ decodeA (0#3 ++ 0x14#6 ++ 1#6 ++ 2#6 ++ 3#6 ++ 3#2 ++ 4#3) = some (.fadd 1 2 3 .bf16 .sr)
    ∧ decodeA (0#3 ++ 0x15#6 ++ 1#6 ++ 2#6 ++ 3#6 ++ 0#2 ++ 2#3) = some (.fmul 1 2 3 .f64 .rup)
    ∧ decodeA 0x0B0C20A9#32 = some (.ffma 6 4 5 .f32 .rtz)
    ∧ decodeA (0#3 ++ 0x17#6 ++ 1#6 ++ 2#6 ++ 3#6 ++ 2#2 ++ 3#3) = some (.fdiv 1 2 3 .f16 .rdn)
    ∧ decodeA (0#3 ++ 0x18#6 ++ 6#3 ++ 1#3 ++ 2#6 ++ 3#6 ++ 1#2 ++ 0#3) = some (.fcmp .un 1 2 3 .f32)
    ∧ decodeA (0#3 ++ 0x19#6 ++ 1#6 ++ 2#6 ++ 0#3 ++ 1#1 ++ 1#2 ++ 2#2 ++ 0#3) = some (.fcvt 1 2 true .f32 .f16 .rne)
    ∧ decodeA (0#3 ++ 0x1A#6 ++ 1#6 ++ 2#6 ++ 3#6 ++ 0#2 ++ 0#2 ++ 1#1) = some (.fmnx 1 2 3 .f64 true)
    ∧ decodeA (0#3 ++ 0x3F#6 ++ 1#6 ++ 2#6 ++ 3#6 ++ 0#5) = some (.hash 1 2 3) := by decide +kernel

/-- The vector A instructions (07): three bits above the 5-bit fields are X, most significant in d. -/
theorem test_decode_vector :
    decodeA 0x0D8824AB#32 = some (.vadd 4 4 5 (.flt .bf16 .rtz))
    ∧ decodeA 0x0E0E3829#32 = some (.vsub 7 7 1 (.flt .f32 .rne))
    ∧ decodeA (0#3 ++ 0x1D#6 ++ 0#1 ++ 1#5 ++ 0#1 ++ 2#5 ++ 0#1 ++ 3#5 ++ 1#1 ++ 5#4) = some (.vmul 1 2 3 (.int .n16 true))
    ∧ decodeA 0x0F00C329#32 = some (.vfma 0 24 25 .f32 .rne)
    ∧ decodeA (0#3 ++ 0x1F#6 ++ 0#1 ++ 1#5 ++ 0#1 ++ 2#5 ++ 0#1 ++ 3#5 ++ 10#5) = some (.vmin 1 2 3 (.flt .f16))
    ∧ decodeA (0#3 ++ 0x20#6 ++ 0#1 ++ 1#5 ++ 0#1 ++ 2#5 ++ 0#1 ++ 3#5 ++ 0#5) = some (.vmax 1 2 3 (.int .s8))
    ∧ decodeA (0#3 ++ 0x21#6 ++ 0#1 ++ 1#5 ++ 1#1 ++ 2#5 ++ 0#1 ++ 3#5 ++ 0#5) = some (.vlog 1 2 3 .xor)
    ∧ decodeA (0#3 ++ 0x22#6 ++ 0#1 ++ 1#5 ++ 0#1 ++ 2#5 ++ 1#1 ++ 0#5 ++ 1#1 ++ 4#4) = some (.vsh 1 2 (.imm 4) true)
    ∧ decodeA (0#3 ++ 0x22#6 ++ 0#1 ++ 1#5 ++ 0#1 ++ 2#5 ++ 0#1 ++ 3#5 ++ 0#5) = some (.vsh 1 2 (.reg 3) false)
    ∧ decodeA 0x118B0842#32 = some (.vcmp 5 1 2 (.int .s32) .lt)
    ∧ decodeA (0#3 ++ 0x24#6 ++ 5#6 ++ 3#6 ++ 4#6 ++ 0#5) = some (.vsel 5 3 4)
    ∧ decodeA (0#3 ++ 0x25#6 ++ 1#1 ++ 1#5 ++ 1#1 ++ 2#5 ++ 0#1 ++ 0#3 ++ 0#2 ++ 9#5) = some (.vred 1 2 .max true (.flt .f32) .rne)
    ∧ decodeA (0#3 ++ 0x26#6 ++ 0#1 ++ 1#5 ++ 0#1 ++ 2#5 ++ 0#1 ++ 4#3 ++ 0#2 ++ 11#5) = some (.vscan 1 2 .add false (.flt .bf16) .sr)
    ∧ decodeA 0x138E0860#32 = some (.vperm 7 1 3) := by decide +kernel

theorem test_decode_vector_more :
    decodeA 0x14040B2E#32 = some (.vcvt 2 1 .e2m1 .f32 true .rne false)
    ∧ decodeA 0x14861009#32 = some (.vsfu 3 2 .exp2 .f32)
    ∧ decodeA 0x150E1902#32 = some (.vmov 7 3 8 2)
    ∧ decodeA 0x150C4801#32 = some (.vmov 6 9 0 1)
    ∧ decodeA (0#3 ++ 0x2B#6 ++ 1#6 ++ 2#6 ++ 0#6 ++ 1#1 ++ 15#4) = some (.venc 1 2 true)
    ∧ decodeA (0#3 ++ 0x2C#6 ++ 1#6 ++ 2#6 ++ 0#6 ++ 0#1 ++ 15#4) = some (.vdec 1 2)
    ∧ decodeA 0x16863906#32 = some (.viota 3 7 8 .n32)
    ∧ decodeA 0x17060008#32 = some (.vrep 3 0 8)
    ∧ decodeA (0#3 ++ 0x3B#6 ++ 1#6 ++ 2#6 ++ 4#6 ++ 2#5) = some (.vclmp 1 2 4 (.int .s32))
    ∧ decodeA (0#3 ++ 0x3C#6 ++ 1#6 ++ 2#6 ++ 0#6 ++ 9#5) = some (.vabs 1 2 (.flt .f32))
    ∧ decodeA (0#3 ++ 0x3D#6 ++ 1#6 ++ 2#6 ++ 0#6 ++ 1#5) = some (.vbits 1 2 .clz)
    ∧ decodeA 0x1F0C084B#32 = some (.vdot 6 1 2 (.flt .bf16 .rne)) := by decide +kernel

/-- The matrix instructions (08). -/
theorem test_decode_matrix :
    decodeA 0x17965800#32 = some (.mfmt .bf16 .bf16 false false false)
    ∧ decodeA 0x179DF010#32 = some (.mfmt .e2m1 .e2m1 true true true)
    ∧ decodeA 0x18000020#32 = some (.mma 0 0 1 .rne)
    ∧ decodeA (0#3 ++ 0x31#6 ++ 0#6 ++ 0#6 ++ 1#6 ++ 2#5) = some (.mmas 0 0 1 .rup)
    ∧ decodeA 0x19021061#32 = some (.mdist 1 2 3 .rtz)
    ∧ decodeA 0x198E0920#32 = some (.mtopk 7 1 9 false)
    ∧ decodeA 0x1A000000#32 = some (.mzero 0 false)
    ∧ decodeA 0x1A0A0001#32 = some (.mzero 5 true)
    ∧ decodeA 0x1A820000#32 = some (.mopen 1)
    ∧ decodeA 0x1B000000#32 = some (.mclose 0)
    ∧ decodeA 0x1B860800#32 = some (.mtran 3 1)
    ∧ decodeA 0x1C04000B#32 = some (.mcvt 2 0 .bf16 false .ctx .rne)
    ∧ decodeA 0x1C080E2C#32 = some (.mcvt 4 1 .e4m3 true .inf .rtz)
    ∧ decodeA 0x1C803010#32 = some (.mew 0 6 .add true .rne)
    ∧ decodeA 0x1D000001#32 = some (.mwait 0 true)
    ∧ decodeA 0x1D000000#32 = some (.mwait 0 false) := by decide +kernel

/-- Whole bundles of the table of 03, in the order of their bytes. -/
theorem test_decode_bundles :
    decodeBytes [0x02, 0x09, 0x03, 0x02, 0xA3, 0x20, 0x08, 0x21]
      = some (⟨0, .ld 3 .w (.short 2 2), 1, some (.add 4 4 5 false .s64)⟩, [])
    ∧ decodeBytes [0x00, 0x00, 0x47, 0x80, 0x00, 0x10, 0x00, 0x00] = some (⟨0, .litx 7 0 0x1000, 0, none⟩, [])
    ∧ decodeBytes [0x00, 0x11, 0x06, 0x82, 0x00, 0x00, 0x00, 0x2C] = some (⟨0, .ld 6 .w (.ext 4 .acq .pkg 0), 0, none⟩, [])
    ∧ decodeBytes [0xFD, 0xFF, 0x8F, 0x00, 0x00, 0x00, 0x00, 0x00] = some (⟨0, .bra 1 true (.near 0x3FFFD), 0, some .anop⟩, []) := by
  decide +kernel

/-- Reserved codes and fields that must be zero (R51, R55): no instruction. -/
theorem test_decode_refuses :
    decodeC 0x00000001#32 0 = none
    ∧ decodeC 0x00470000#32 0 = none
    ∧ decodeC (0#1 ++ 0#3 ++ 0x08#6 ++ 3#6 ++ 4#6 ++ 7#3 ++ 0#7) 0 = none
    ∧ decodeC (1#1 ++ 0#3 ++ 0x08#6 ++ 3#6 ++ 4#6 ++ 2#3 ++ 1#7) 0 = none
    ∧ decodeC (1#1 ++ 0#3 ++ 0x08#6 ++ 3#6 ++ 4#6 ++ 2#3 ++ 0#7) (0#3 ++ 5#3 ++ 0#26) = none
    ∧ decodeC 0x85062870#32 0x00C10000#32 = none
    ∧ decodeC (0#1 ++ 0#3 ++ 0x16#6 ++ 0#6 ++ 0#6 ++ 0#4 ++ 6#3 ++ 0#3) 0 = none
    ∧ decodeA (0#3 ++ 0x02#6 ++ 1#6 ++ 2#6 ++ 3#6 ++ 0#1 ++ 9#4) = none
    ∧ decodeA (0#3 ++ 0x0E#6 ++ 7#3 ++ 0#3 ++ 2#6 ++ 3#6 ++ 0#5) = none
    ∧ decodeA (0#3 ++ 0x14#6 ++ 1#6 ++ 2#6 ++ 3#6 ++ 0#2 ++ 5#3) = none := by decide +kernel

/-! ## Well-formedness: one ill-formed instruction for each check -/

/-- Registers past their class (R54), in and out of trap mode (R118). -/
theorem test_wf_registers :
    Instr.wf false (.vld 32 false (.short 0 0)) = false ∧ Instr.wf false (.vst 32 (.short 0 0)) = false
    ∧ Instr.wf false (.vgath 32 1 1 0) = false ∧ Instr.wf false (.vgath 1 1 32 0) = false
    ∧ Instr.wf false (.vscat 32 1 1 0) = false ∧ Instr.wf false (.vscat 1 1 32 0) = false
    ∧ Instr.wf false (.tld 8 false (.short 0 0)) = false ∧ Instr.wf true (.tld 2 false (.short 0 0)) = false
    ∧ Instr.wf false (.tst 8 (.short 0 0)) = false ∧ Instr.wf false (.sbind 23 (.short 0 0)) = false
    ∧ Instr.wf false (.sdrop 32) = false ∧ Instr.wf false (.send 1 32 0) = false ∧ Instr.wf false (.recv 32 1 0 .rq) = false
    ∧ Instr.wf false (.recvAcc 32 1 0 (.int .s8)) = false ∧ Instr.wf false (.xchg 32 1 0 1) = false
    ∧ Instr.wf false (.xchg 1 32 0 1) = false := by decide

theorem test_wf_levels_and_percolator :
    Instr.wf false (.restrUp 16 1) = false ∧ Instr.wf false (.restrUp 1 32) = false ∧ Instr.wf false (.restrTake 16 1 0 1) = false
    ∧ Instr.wf false (.restrTake 1 32 0 1) = false ∧ Instr.wf false (.prolgDown 16 1 1) = false
    ∧ Instr.wf false (.prolgDown 1 32 1) = false ∧ Instr.wf false (.prolgTake 16 1 0) = false
    ∧ Instr.wf false (.prolgTake 1 32 0) = false ∧ Instr.wf false (.wload 16 false (.short 0 0)) = false
    ∧ Instr.wf false (.cyc 16 .l0) = false ∧ Instr.wf false (.pstep 1 2 32 true) = false ∧ Instr.wf false (.pstep 1 2 1 false) = false
    ∧ Instr.wf false (.pset 32 1 false) = false ∧ Instr.wf false (.pget 32 1 .y) = false := by decide

/-- Pairs of registers, and an ordering where none may stand. -/
theorem test_wf_pairs_and_orderings :
    Instr.wf false (.ldp 3 true (.short 0 0)) = false ∧ Instr.wf false (.stp 63 true (.short 0 0)) = false
    ∧ Instr.wf false (.ld 1 .d (.ext 2 .rel .die 0)) = false ∧ Instr.wf false (.st 1 .d (.ext 2 .acq .die 0)) = false
    ∧ Instr.wf false (.ldp 2 true (.ext 2 .ar .die 0)) = false ∧ Instr.wf false (.stp 2 true (.ext 2 .acq .die 0)) = false
    ∧ Instr.wf false (.pref 0 (.ext 2 .acq .die 0)) = false ∧ Instr.wf false (.cflush .core (.ext 2 .acq .die 0)) = false
    ∧ Instr.wf false (.vld 1 false (.ext 2 .acq .die 0)) = false ∧ Instr.wf false (.vst 1 (.ext 2 .rel .die 0)) = false
    ∧ Instr.wf false (.tld 1 false (.ext 2 .acq .die 0)) = false ∧ Instr.wf false (.tst 1 (.ext 2 .rel .die 0)) = false
    ∧ Instr.wf false (.sbind 24 (.ext 2 .acq .die 0)) = false ∧ Instr.wf false (.wload 1 false (.ext 2 .acq .die 0)) = false
    ∧ Instr.wf false (.ppatch (.ext 2 .acq .die 0)) = false ∧ Instr.wf false (.fmtld (.ext 2 .acq .die 0)) = false
    ∧ Instr.wf false (.psave (.ext 2 .rel .die 0)) = false ∧ Instr.wf false (.prest (.ext 2 .acq .die 0)) = false := by decide

/-- Fields that their entries limit. -/
theorem test_wf_fields :
    Instr.wf false (.loop 1 0) = false ∧ Instr.wf false (.waitc 6 1) = false ∧ Instr.wf false (.genq 1 3) = false
    ∧ Instr.wf false (.csrr 1 0x0A) = false ∧ Instr.wf false (.csrw 1 1 0x0A) = false ∧ Instr.wf false (.prio 1 1 1) = false
    ∧ Instr.wf false (.amo 1 2 3 .n8 .add ⟨.none, .die, none, 0⟩) = false
    ∧ Instr.wf false (.cas 1 2 3 .n64 (some ⟨.none, .die, none, 0⟩)) = false
    ∧ Instr.wf false (.cmp .un 1 2 3 .s64) = false ∧ Instr.wf false (.fcvt 1 2 true .f32 .f64 .rne) = false
    ∧ Instr.wf false (.vlog 1 2 3 .not) = false ∧ Instr.wf false (.vcmp 1 2 3 (.int .s8) .un) = false
    ∧ Instr.wf false (.vcvt 1 2 .e4m3 .e5m2 false .rne false) = false ∧ Instr.wf false (.vcvt 1 2 .f32 .bf16 true .rne false) = false
    ∧ Instr.wf false (.vcvt 1 2 .e2m1 .f32 false .rne false) = false ∧ Instr.wf false (.vcvt 1 2 .tbl8 .f32 false .rtz false) = false
    ∧ Instr.wf false (.vcvt 1 31 .f32 .e4m3 true .rne false) = false ∧ Instr.wf false (.vcvt 31 1 .e4m3 .f32 true .rne false) = false
    ∧ Instr.wf false (.vmov 32 1 0 0) = false
    ∧ Instr.wf false (.vmov 1 1 1 1) = false ∧ Instr.wf false (.vmov 1 32 1 2) = false ∧ Instr.wf false (.vmov 32 1 1 3) = false
    ∧ Instr.wf false (.viota 32 1 1 .s8) = false ∧ Instr.wf false (.vrep 1 1 1) = false
    ∧ Instr.wf false (.vclmp 1 2 3 (.int .s8)) = false := by decide

/-- Tiles and accumulators. -/
theorem test_wf_matrix :
    Instr.wf false (.mma 2 0 1 .rne) = false ∧ Instr.wf true (.mma 1 0 1 .rne) = false ∧ Instr.wf false (.mma 0 8 1 .rne) = false
    ∧ Instr.wf false (.mmas 0 0 8 .rne) = false ∧ Instr.wf false (.mdist 2 0 1 .rne) = false ∧ Instr.wf false (.mtopk 8 0 1 false) = false
    ∧ Instr.wf false (.mtopk 0 2 1 false) = false ∧ Instr.wf false (.mzero 8 true) = false ∧ Instr.wf false (.mzero 2 false) = false
    ∧ Instr.wf false (.mopen 2) = false ∧ Instr.wf false (.mclose 2) = false ∧ Instr.wf false (.mtran 8 0) = false
    ∧ Instr.wf false (.mcvt 8 0 .bf16 false .ctx .rne) = false ∧ Instr.wf false (.mcvt 0 0 .f64 false .ctx .rne) = false
    ∧ Instr.wf false (.mcvt 0 0 .tbl8 false .ctx .rtz) = false ∧ Instr.wf false (.mew 0 1 .relu false .rne) = false
    ∧ Instr.wf false (.mew 0 8 .add false .rne) = false ∧ Instr.wf false (.mwait 2 true) = false ∧ Instr.wf false (.mwait 1 false) = false := by
  decide

/-- Bundles: an ill-formed slot, one destination in both slots (R33), and an A word that must be ANOP (R120, R226). -/
theorem test_wf_bundles :
    Bundle.wf false ⟨0, .loop 1 0, 0, some .anop⟩ = false ∧ Bundle.wf false ⟨0, .nop, 0, some (.mopen 2)⟩ = false
    ∧ Bundle.wf false ⟨0, .csrr 9 0x50, 0, some (.movi 9 1 false)⟩ = false
    ∧ Bundle.wf false ⟨0, .call 0 false (.near 1), 0, some (.movi 63 1 false)⟩ = false
    ∧ Bundle.wf false ⟨0, .trap 1, 0, some (.movi 9 1 false)⟩ = false
    ∧ Bundle.wf false ⟨0, .recvAcc 1 2 0 (.int .s8), 0, some (.movi 9 1 false)⟩ = false
    ∧ Bundle.wf false ⟨0, .csrr 0 0x50, 0, some (.movi 0 1 false)⟩ = true := by decide


/-! ## Results of one instruction, from the spec's examples and by hand from its rules -/

/-- A core at work in supervisor mode with some x registers. -/
def withX (l : List (Nat × Word)) : State :=
  State.reset.updMe fun c => { c with arch := { c.arch with x := l, status := 2, pc := 0x1000 } }

/-- The newest result in flight: its destination, its value, and how long it takes. -/
def newest (r : Step) : Option (PDst × Word × Nat) :=
  match r with
  | .next s => s.me.pend.getLast?.map fun p => (p.dst, p.val, p.land)
  | _ => none

/-- The flags of the newest result. -/
def newestFlags (r : Step) : Option FpFlags :=
  match r with
  | .next s => s.me.pend.getLast?.bind (·.flags)
  | _ => none

/-- What became of control: the cause and value of a trap taken by the core at work, with TPC. -/
def trapOf (r : Step) : Option (Word × Word × Word) :=
  match r with
  | .next s => if s.me.arch.tm then some (s.me.arch.tcause, s.me.arch.tval, s.me.arch.tpc) else none
  | _ => none

/-- The second LITX of the example of R99. -/
theorem test_litx_joins : newest (exec (.litx 7 7 0x89ABCDEF) (withX [(7, 0x01234567)])) = some (.x 7, 0x0123456789ABCDEF, 1) := by decide +kernel

/-- R106 by hand: 127 + 1 in 8 bits wraps to -128, and clamps to 127. -/
theorem test_add_wraps_and_clamps :
    newest (exec (.add 1 2 3 false .s8) (withX [(2, 0x7F), (3, 1)])) = some (.x 1, 0xFFFFFFFFFFFFFF80, 1)
    ∧ newest (exec (.add 1 2 3 true .s8) (withX [(2, 0x7F), (3, 1)])) = some (.x 1, 0x7F, 1) := by decide +kernel
theorem test_sub_wraps_and_clamps :
    newest (exec (.sub 1 2 3 false .n8) (withX [(3, 1)])) = some (.x 1, 0xFF, 1)
    ∧ newest (exec (.sub 1 2 3 true .n8) (withX [(3, 1)])) = some (.x 1, 0, 1) := by decide +kernel
theorem test_mul : newest (exec (.mul 1 2 3 true .s32) (withX [(2, 0x10000), (3, 0x8000)])) = some (.x 1, 0x7FFFFFFF, 3) := by decide +kernel
theorem test_mulh : newest (exec (.mulh 1 2 3 .s64) (withX [(2, 0xFFFFFFFFFFFFFFFF), (3, 2)])) = some (.x 1, 0xFFFFFFFFFFFFFFFF, 3)
    ∧ newest (exec (.mulh 1 2 3 .n64) (withX [(2, 0xFFFFFFFFFFFFFFFF), (3, 2)])) = some (.x 1, 1, 3) := by decide +kernel
/-- -7 / 2 truncates; a zero divisor gives all ones; -128 / -1 stays. -/
theorem test_div :
    newest (exec (.div 1 2 3 .s64) (withX [(2, 0xFFFFFFFFFFFFFFF9), (3, 2)])) = some (.x 1, 0xFFFFFFFFFFFFFFFD, 34)
    ∧ newest (exec (.div 1 2 3 .n16) (withX [(2, 5)])) = some (.x 1, 0xFFFF, 18)
    ∧ newest (exec (.div 1 2 3 .s8) (withX [(2, 0x80), (3, 0xFF)])) = some (.x 1, 0xFFFFFFFFFFFFFF80, 18) := by decide +kernel
theorem test_min_max_by_type :
    newest (exec (.min 1 2 3 .s8) (withX [(2, 0xFF), (3, 1)])) = some (.x 1, 0xFFFFFFFFFFFFFFFF, 1)
    ∧ newest (exec (.max 1 2 3 .n8) (withX [(2, 0xFF), (3, 1)])) = some (.x 1, 0xFF, 1) := by decide +kernel
/-- The shift count is taken modulo 64 after the sum; SHR fills by the type. -/
theorem test_shifts :
    newest (exec (.shl 1 2 3 1) (withX [(2, 5), (3, 63)])) = some (.x 1, 5, 1)
    ∧ newest (exec (.shr 1 2 3 .s8) (withX [(2, 0x180), (3, 1)])) = some (.x 1, 0xFFFFFFFFFFFFFFC0, 1)
    ∧ newest (exec (.shr 1 2 3 .n8) (withX [(2, 0x180), (3, 1)])) = some (.x 1, 0x40, 1) := by decide +kernel
theorem test_bits :
    newest (exec (.bits 1 2 .clz) (withX [])) = some (.x 1, 64, 1) ∧ newest (exec (.bits 1 2 .ctz) (withX [(2, 8)])) = some (.x 1, 3, 1)
    ∧ newest (exec (.bits 1 2 .rev) (withX [(2, 1)])) = some (.x 1, 0x8000000000000000, 1)
    ∧ newest (exec (.bits 1 2 .popc) (withX [(2, 0xF0F)])) = some (.x 1, 8, 1) := by decide +kernel
/-- BFX of 8 bits from position 60 gives four. -/
theorem test_bfx : newest (exec (.bfx 1 2 3) (withX [(2, 0xA000000000000000), (3, 0x83C)])) = some (.x 1, 0xA, 1) := by decide +kernel
theorem test_cmp_by_type :
    newest (exec (.cmp .lt 1 2 3 .s8) (withX [(2, 0x80), (3, 1)])) = some (.q 1, 1, 1)
    ∧ newest (exec (.cmp .lt 1 2 3 .n8) (withX [(2, 0x80), (3, 1)])) = some (.q 1, 0, 1) := by decide +kernel
/-- The example of R110. -/
theorem test_hash : newest (exec (.hash 1 2 3) (withX [(3, 0x0100000000000000)])) = some (.x 1, 0x42F0E1EBA9EA3693, 2) := by decide +kernel
/-- The example of R113: 2^-22 with NX. -/
theorem test_ffma :
    newest (exec (.ffma 6 4 5 .f32 .rtz) (withX [(4, 0x3F800001), (5, 0x3F800001), (6, 0xBF800000)])) = some (.x 6, 0x34800000, 4)
    ∧ newestFlags (exec (.ffma 6 4 5 .f32 .rtz) (withX [(4, 0x3F800001), (5, 0x3F800001), (6, 0xBF800000)])) = some 1 := by decide +kernel
/-- 1 / 0 is +Inf, and a comparison with NaN is unordered. -/
theorem test_fdiv_fcmp :
    newest (exec (.fdiv 1 2 3 .f32 .rne) (withX [(2, 0x3F800000)])) = some (.x 1, 0x7F800000, 12)
    ∧ newest (exec (.fcmp .un 1 2 3 .f64) (withX [(2, 0x7FF8000000000000)])) = some (.q 1, 1, 2) := by decide +kernel
/-- The first draw from SRSEED = 1 (R83's example): 270,369. -/
theorem test_sr_draw : (xs 1#32).toNat = 270369 := by decide +kernel

/-! ## Control -/

/-- LOOP of a zero count skips its body; of 16 it opens it. -/
theorem test_loop :
    (match exec (.loop 12 1) (withX []) with | .next s => some (s.me.npc, s.me.taken) | _ => none) = some (0x1010, true)
    ∧ (match exec (.loop 12 1) (withX [(12, 16)]) with
        | .next s => some (s.me.arch.lbeg, s.me.arch.lend, s.me.arch.lcnt) | _ => none) = some (0x1008, 0x1008, 16) := by decide +kernel
/-- A trap saves the PC and the immediate; CSRW of a read-only CSR changes nothing; an unlisted CSR is illegal. -/
theorem test_traps :
    trapOf (exec (.trap 5) (withX [])) = some (0x11, 5, 0x1000) ∧ trapOf (exec (.dbrk 3) (withX [])) = some (0x10, 3, 0x1000)
    ∧ trapOf (exec .rft (withX [])) = some (1, 0, 0x1000) := by decide +kernel
/-- In user mode MODE and a supervisor's CSR trap PRIV. -/
theorem test_privilege :
    ((trapOf (exec (.mode 2) ((withX []).updArch fun a => { a with status := 0 }))).map fun t => (t.1, t.2.2)) = some (2, 0x1000)
    ∧ ((trapOf (exec (.csrr 1 0x01) ((withX []).updArch fun a => { a with status := 0 }))).map fun t => (t.1, t.2.2)) = some (2, 0x1000)
    ∧ trapOf (exec (.csrr 1 0x50) ((withX []).updArch fun a => { a with status := 0 })) = none := by decide +kernel
theorem test_csr_values :
    newest (exec (.csrr 9 0x50) { withX [] with clock := 11088 * 7 + 5 }) = some (.x 9, 7, 1)
    ∧ newest (exec (.csrr 9 0x70) (withX [])) = some (.x 9, 0, 1)
    ∧ newest (exec (.csrr 9 0x20) (withX [])) = some (.x 9, 0x40202, 1) := by decide +kernel

/-! ## Vectors, matrices, messages, the Percolator -/

def vecOf (w : Nat) (l : List Nat) : BitVec 4096 := BitVec.ofNat 4096 (l.foldr (fun x acc => x + acc * 2 ^ w) 0)

/-- What an entry computes under a shape of rows × columns of 2^code bytes. -/
def vOut (rows cols code : Nat) (xs : List Word) (src : VSrc) (i : Instr) : VOut :=
  vValue [] 0 0 (BitVec.ofNat 64 (rows * 65536 + cols * 16 + code)) 1 xs src i

/-- The example of R154's chapter: VFMA under .rne and .rup. -/
theorem test_vfma :
    (let o := vOut 1 1 2 [] ⟨0x33800000, 0x3F800000, 0x3F800000, 0⟩ (.vfma 0 24 25 .f32 .rne)
     o.v = some 0x3F800000 ∧ o.fl = 1)
    ∧ (vOut 1 1 2 [] ⟨0x33800000, 0x3F800000, 0x3F800000, 0⟩ (.vfma 0 24 25 .f32 .rup)).v = some 0x3F800001 := by decide +kernel
/-- The example of R179: 4.25 and -1. -/
theorem test_vdot :
    (let o := vOut 1 4 1 [] ⟨vecOf 16 [0x3F80, 0x4000, 0xBFC0, 0x3F00], vecOf 16 [0x4040, 0x3F00, 0x4000, 0x4000],
        vecOf 32 [0x3E800000, 0x3F800000], 0⟩ (.vdot 6 1 2 (.flt .bf16 .rne))
     o.v = some (vecOf 32 [0x40880000, 0xBF800000]) ∧ o.fl = 0) := by decide +kernel
/-- The example of R180: a scaled narrowing. -/
theorem test_vcvt_scaled :
    (let o := vOut 1 32 2 [] ⟨vecOf 32 [0x41200000, 0x3F800000, 0xBE99999A], 0, 0, 0⟩ (.vcvt 2 1 .e2m1 .f32 true .rne false)
     o.v = some (vecOf 8 [0x16, 0x08]) ∧ o.v1 = some 0x80 ∧ o.fl &&& 1 = 1) := by decide +kernel
/-- The example of R182: exp2 of 3 and of -Inf. -/
theorem test_vsfu :
    (let o := vOut 1 2 2 [] ⟨vecOf 32 [0x40400000, 0xFF800000], 0, 0, 0⟩ (.vsfu 3 2 .exp2 .f32)
     o.v = some 0x41000000 ∧ o.fl = 0) := by decide +kernel
/-- The worked chunk of 04: the truncated quarter unit keeps 2^20 under .rne. -/
theorem test_chunk :
    (let f (m : Rnd) := accChunk (decodeF .f32 0x49800000)
        ([(0x3E80, 0x3E80), (0x3960, 0x3880), (0xB920, 0x3900), (0x3900, 0x3880)].map fun p =>
          ((decodeF .bf16 p.1).mul (decodeF .bf16 p.2)).1) 0 m 0
     f .rne = (0x49800000, 1) ∧ (f .rup).1 = 0x49800001 ∧ (f .rtz).1 = 0x49800000 ∧ (f .rdn).1 = 0x49800000) := by decide +kernel
/-- The example of R206: 5, 2, 2, NaN has the three smallest at 1, 2 and 0. -/
theorem test_mtopk :
    (let b : Bank := { Bank.reset with tshape := [(7, 0x41A)], accs := [(1, { val := [(0, 0x40A00000), (1, 0x40000000), (2, 0x40000000), (3, 0x7FC00000)], chain := none })] }
     ((b.step [] 0 0 0 [3] (.mtopk 7 1 9 false)).1.tile 7).data.toNat % 2 ^ 48) = 1 + 2 * 2 ^ 16 + 0 * 2 ^ 32 := by decide +kernel
/-- The digest of "abc" that FIPS 180-4's own example gives. -/
theorem test_sha384 : sha384 [0x61, 0x62, 0x63] =
    0xcb00753f45a35e8bb5a03d699ac65007272c32ab0eded1631a8b605a43ff5bed8086072ba1e7cc2358baeca134c825a7 := by decide +kernel
/-- The generator lies on the curve. -/
theorem test_curve : curveG.onCurve = true := by decide +kernel
/-- RECV.acc of R226's problem: 2.0 + 4.0 in the first block. -/
theorem test_add_packet :
    (let p : Packet := { src := 1, host := false, tok := false, ents := [BitVec.ofNat 512 0x40000000] }
     addPacket (.flt .f32) (vecOf 32 [0x40800000]) p) = (vecOf 32 [0x40C00000], 0) := by decide +kernel
/-- One base step of the oscillator of 21: A's W takes 6 units, B's nothing. -/
theorem test_perc_step :
    (let p : Perc := { Perc.idle with patch := [(0, 0x1110000000001F01), (1, 0x111000000000173F)], cells := [(0, { Cell.zero with y := 0x60000000 })], prem := 16, running := true }
     ((p.step.cell 0).w, (p.step.cell 1).w, p.step.psc, p.step.prem)) = (0x60000000, 0, 1, 15) := by decide +kernel

end Sys2Proof.Tests
end

