-- ==== Sys2Proof/Tests/Witness.lean ====
section
/-! SUPPORT. Tests: for every obligation with hypotheses, states and operands that meet them together, clause by clause, at
the ends of their ranges. -/

namespace Sys2Proof.Tests

set_option Elab.async false

open Sys2Proof Sys2Proof.Machine

/-- Core 0 runs a strand of context 1 in supervisor mode at 0x1000; the first 2 MiB are mapped to themselves. -/
def base : State := State.reset.place []
def onMe (f : Core → Core) : State := base.updMe f
def onArch (f : Arch → Arch) : State := base.updArch f
/-- In user mode. -/
def user : State := onArch fun a => { a with status := 0 }
/-- The state of an access or translation, and its answer where it has one. -/
def okOr {α : Type} (d : α) (r : State × Got α) : α := match r.2 with | .ok a => a | _ => d
def okEx {α ε : Type} (d : α) (r : State × Except ε α) : α := match r.2 with | .ok a => a | _ => d
def nextOr (r : Step) : State := match r with | .next s => s | _ => base

/-! ## Scalars, control, system -/

theorem witness_ResultsLand : Core.reset.pend = [] ∧ (0 : Nat) < Core.reset.cycle + 1 ∧ Core.reset.cycle + 1 ≤ (1 : Nat) := by decide +kernel

theorem witness_ScalarFrame : ∃ t, exec (.fadd 1 2 3 .f32 .sr) base = .next t := ⟨_, rfl⟩

theorem witness_BranchesAndLiterals :
    (base.me.q 0 ^^ false) = true ∧ (base.me.q 0 ^^ true) = false ∧ (base.me.q 7 ^^ true) = true ∧ (1 : Reg) ≠ 0 := by decide +kernel

theorem witness_CountedLoops :
    (base.me.arch.lcnt = 0 ∧ base.me.arch.tm = false ∧ base.me.micro = none ∧ base.me.x 63 = 0)
    ∧ (let s := onArch fun a => a.wx 63 0xFFFFFFFFFFFFFFFF
       s.me.arch.lcnt = 0 ∧ s.me.arch.tm = false ∧ s.me.micro = none ∧ s.me.x 63 ≠ 0)
    ∧ (onArch fun a => { a with lcnt := 1 }).me.arch.lcnt ≠ 0
    ∧ (onArch fun a => { a with status := 3 }).me.arch.tm = true
    ∧ (onMe fun c => { c with micro := some ⟨0, 0, 0, 0, 0, []⟩ }).me.micro ≠ none
    ∧ (let c := { Core.reset with arch := { Arch.reset with lcnt := 2 } }
       c.taken = false ∧ c.arch.lcnt ≠ 0 ∧ 1 < c.arch.lcnt.toNat)
    ∧ (let c := { Core.reset with arch := { Arch.reset with lcnt := 1 } }
       c.taken = false ∧ c.arch.lcnt ≠ 0 ∧ c.arch.lcnt = 1)
    ∧ (let c := { Core.reset with taken := true, npc := 8, arch := { Arch.reset with lbeg := 8, lend := 8, lcnt := 1 } }
       c.taken = true ∧ c.arch.lbeg ≤ c.npc ∧ c.npc ≤ c.arch.lend)
    ∧ (let c := { Core.reset with taken := true, npc := 16, arch := { Arch.reset with lbeg := 8, lend := 8, lcnt := 1 } }
       c.taken = true ∧ ¬ (c.arch.lbeg ≤ c.npc ∧ c.npc ≤ c.arch.lend)) := by decide +kernel

theorem witness_MacroStarts :
    (let s := base.updQuad 0 fun q => { q with store := [(63, { image := List.replicate 16 0, desc := 0x800000000000000F })] }
     bitAt (SMap.get (s.quad (quadOf s.cur)).store { image := [], desc := 0 } 63).desc 63 = true ∧ s.me.micro = none)
    ∧ bitAt (SMap.get (base.quad (quadOf base.cur)).store { image := [], desc := 0 } 0).desc 63 = false
    ∧ (onMe fun c => { c with micro := some ⟨0, 0, 0, 0, 0, []⟩ }).me.micro ≠ none := by decide +kernel

theorem witness_TrapEntry : base.me.arch.tm = false ∧ user.me.arch.tm = false := by decide +kernel

theorem witness_DoubleTrap :
    (onArch fun a => { a with status := 3 }).me.arch.tm = true
    ∧ ({ Core.reset with arch := { Arch.reset with status := 1 } } : Core).arch.tm = true
    ∧ (let s := onArch fun a => { a with vfault := some ⟨7, 0x40⟩ }
       (s.core 0).due s.clock = some (.trap 7 0x40) ∧ (s.core 0).arch.tm = false)
    ∧ (let s := onMe fun c => { c with strand := some { hostStrand with cancel := some 5 } }
       (s.core 0).due s.clock = some (.trap 0x13 5) ∧ (s.core 0).arch.tm = false)
    ∧ ({ Core.reset with arch := { Arch.reset with status := 1, wait := { WaitSt.empty with wdTm := some 0x200 } } } : Core).arch.tm = true
    ∧ ({ Core.reset with arch := { Arch.reset with status := 1 } } : Core).arch.wait.wdTm = none := by decide +kernel

theorem witness_ReturnFromTrap :
    (let s := onArch fun a => { a with status := 3 }
     s.me.arch.tm = true ∧ s.me.loads = [] ∧ (∀ p ∈ s.me.pend, p.inter = true → p.land ≤ s.me.cycle)
     ∧ (∀ e ∈ s.me.vwork, e.interlocks = false) ∧ s.me.arch.vfly = [] ∧ s.me.trapOpen = false)
    ∧ (let s := onMe fun c => { c with arch := { c.arch with status := 3 }, tbank := { Bank.reset with iopen := [0] },
                                       pend := [⟨.x 1, 5, 0, true, none⟩] }
       s.me.arch.tm = true ∧ s.me.loads = [] ∧ (∀ p ∈ s.me.pend, p.inter = true → p.land ≤ s.me.cycle)
     ∧ (∀ e ∈ s.me.vwork, e.interlocks = false) ∧ s.me.arch.vfly = [] ∧ s.me.trapOpen = true
       ∧ ∀ e ∈ s.me.arch.mxq, e.trap = false)
    ∧ base.me.arch.tm = false := by decide +kernel

theorem witness_ModeAndPriority :
    base.me.arch.pl = true ∧ user.me.arch.pl = false ∧ base.me.sb = [] ∧ base.me.strand = some hostStrand
    ∧ ((0 : BitVec 7).toNat ≤ hostStrand.pri) ∧ (hostStrand.pri < (127 : BitVec 7).toNat) := by decide +kernel

theorem witness_CsrReads :
    (csrListed (0x000 : BitVec 10).toNat = true ∧ base.me.arch.pl = true)
    ∧ (csrListed (0x010 : BitVec 10).toNat = true ∧ base.me.flagsPending = false)
    ∧ (csrListed (0x083 : BitVec 10).toNat = true ∧ csrSup (0x083 : BitVec 10).toNat = false)
    ∧ csrListed (0x00A : BitVec 10).toNat = false ∧ csrListed (0x3FF : BitVec 10).toNat = false
    ∧ (csrListed (0x001 : BitVec 10).toNat = true ∧ user.me.arch.pl = false ∧ csrSup (0x001 : BitVec 10).toNat = true) := by decide +kernel

theorem witness_CsrSwaps :
    base.me.arch.pl = true ∧ (0x01 : BitVec 10).toNat ∈ [0x01, 0x7A] ∧ (0x72 : BitVec 10).toNat ∈ [0x50, 0x72]
    ∧ (let w := (0x2000010 : Word) &&& 0x3FF3FF3#64
       vRows w ≠ 0 ∧ vCols w ≠ 0 ∧ vRows w * vCols w * vBytes w ≤ 512)
    ∧ vRows (0 &&& 0x3FF3FF3#64) = 0 ∧ vCols (0x10000 &&& 0x3FF3FF3#64) = 0
    ∧ 512 < vRows (0x40203 &&& 0x3FF3FF3#64) * vCols (0x40203 &&& 0x3FF3FF3#64) * vBytes (0x40203 &&& 0x3FF3FF3#64) := by decide +kernel

theorem witness_CsrRowsComplete :
    base.me.arch.pl = true ∧ vshapeOk (0x40202 &&& 0x3FF3FF3#64) = true
    ∧ (tshapeOk (layerOf base.cur) (0x24012 &&& 0x3FFFB#64) = true ∧ base.me.arch.mxq.length < 8)
    ∧ (fld (64 : Word) 9 0 ≤ sramUnits (quadLayer (quadOf base.cur)) ∧ base.accessesDone base.cur = true
        ∧ base.journalLow (quadOf base.cur) = none)
    ∧ (let s := onMe fun c => { c with pair := { Pair.single with st := .paired } }
       s.journalLow (quadOf s.cur) = some 196608 ∧ 196608 ≤ (sramUnits (quadLayer (quadOf s.cur)) - fld (16 : Word) 9 0) * 4096)
    ∧ (fld (0x8400000000000000 : Word) 58 56 < 5 ∧ base.accessesDone base.cur = true)
    ∧ (fld (slotKeep 0) 4 0 ≤ 16 ∧ base.readWindows base.cur (slotKeep 0) = (base, .ok [])) := by decide +kernel

theorem witness_AccountsAndProbes :
    base.me.pcrec = false
    ∧ (let s := onArch fun a => { a with copies := { a.copies with acctctl := 1 } }
       s.me.pcrec = true ∧ s.ringFull s.me = false ∧ (s.endRuns s.cur).ringFull (s.endRuns s.cur).me = false)
    ∧ (let s := onArch fun a => { a with copies := { a.copies with acctctl := 1 } }
       let t := { s with mem := s.mem.wrs (cellsOf (s.me.ringBase + 0x200) 8 s.me.ringSize) }
       t.me.pcrec = true ∧ t.ringFull t.me = true)
    ∧ (let r := base.translate base.cur (0x1FFFFF : Word).toNat (probeKind .write)
       let d : Xlated := ⟨0, 0, false, false, false, false, none⟩
       base.walkHeld (0x1FFFFF : Word).toNat (probeKind .write) = false
       ∧ r = (r.1, .ok (okEx d r)) ∧ r.1.hasMemory (okEx d r).pa = true ∧ r.1.probeFault .write (okEx d r).pa = none ∧ isSpad (okEx d r).pa = false)
    ∧ (let r := base.translate base.cur (0x100000000000000 : Word).toNat (probeKind .read)
       r = (r.1, .error 5)) := by decide +kernel

/-- XLAT of a scratchpad byte, of an engine's access that hits no window, and of a page whose tables lie beyond the bridge, which is down. -/
theorem witness_AccountsAndProbes_xlat :
    (let va := (0x00F0000000000000 : Word).toNat
     let r := base.translate base.cur va (probeKind .read)
     let d : Xlated := ⟨0, 0, false, false, false, false, none⟩
     base.walkHeld va (probeKind .read) = false ∧ r = (r.1, .ok (okEx d r)) ∧ r.1.hasMemory (okEx d r).pa = true
     ∧ r.1.probeFault .read (okEx d r).pa = none ∧ isSpad (okEx d r).pa = true)
    ∧ (let s := onMe fun c => { c with tlb := [⟨1, 0, 21, apertureBase 1 31, 0xDD, false⟩] }
       let r := s.translate s.cur 0x1000 (probeKind .engine)
       let d : Xlated := ⟨0, 0, false, false, false, false, none⟩
       s.walkHeld 0x1000 (probeKind .engine) = false ∧ r = (r.1, .ok (okEx d r))
       ∧ (if r.1.hasMemory (okEx d r).pa = true then r.1.probeFault .engine (okEx d r).pa else some 0x06) = some 0x06)
    ∧ (let s := (onMe fun c => { c with tlb := [] }).updArch fun a =>
         { a with copies := { a.copies with raf := SMap.set a.copies.raf 0 (2 ^ 63 + 2 ^ 57 + 2 ^ 36) } }
       s.walkHeld 0x1000 (probeKind .atomic) = true) := ⟨by decide +kernel, by decide +kernel, by decide +kernel⟩

end Sys2Proof.Tests
end

