-- ==== Sys2Proof/Tests/WitnessLong.lean ====
section
/-! SUPPORT. Tests: states and operands that meet the hypotheses of the obligations about transfers too long to evaluate byte by byte: the Percolator's images. -/

namespace Sys2Proof.Tests

set_option Elab.async false

open Sys2Proof Sys2Proof.Machine

/-! ### Long transfers on a quiet state -/

/-- Nothing is poisoned, owned, armed, buffered or on its way at the home, and no block has left ZERO. -/
abbrev Quiet (s : State) : Prop :=
  s.poison = [] ∧ s.gen.blocks = [] ∧ s.own = [] ∧ s.bias = [] ∧ s.mem = [] ∧ (s.die 0).past = [] ∧ (s.core 0).sb = [] ∧ (s.core 0).vwork = []
  ∧ s.dual 0 = false ∧ (∀ p ∈ s.cores, p.2.injctl = 0) ∧ s.latent = []

/-- Translations by page that are the identity below 2^36. -/
def Flat (tr : List (Nat × Xlated)) (va n : Nat) : Prop := ∀ i, i < n → keyAt tr (va + i) = va + i ∧ va + i < 2 ^ 36

theorem Quiet.poisonSeen {s : State} (h : Quiet s) (k : Nat) : s.poisonSeen 0 k = false := by
  obtain ⟨h1, h2, -, -, -, h6, h7, -, h9, -⟩ := h
  have : dieOf 0 = 0 := rfl
  simp only [State.poisonSeen, State.effPoison, State.storesOf, this, h6, h7, h9, h1, List.foldl_nil, blockIs, State.block, h2]
  cases blockOf k <;> rfl

theorem Quiet.ownWait {s : State} (h : Quiet s) (l : List Nat) : s.ownWait 0 none l = none := by
  obtain ⟨-, -, h3, -⟩ := h
  simp only [State.ownWait, State.owner, h3]
  induction l with
  | nil => rfl
  | cons a r ih => simp [List.findSome?, SMap.get?]

theorem Quiet.armed {s : State} (h : Quiet s) (n : Nat) : s.armed n = [] := by
  simp only [State.armed, List.append_eq_nil_iff, List.filterMap_eq_nil_iff, h.2.2.2.2.2.2.2.2.2.2]
  refine ⟨?_, rfl⟩
  intro p hp
  rw [h.2.2.2.2.2.2.2.2.2.1 p hp]; rfl

theorem Quiet.fireKeys {s : State} (h : Quiet s) (l : List Nat) : s.fireKeys 0 true l = (s, false) := by
  unfold State.fireKeys
  generalize (l.map (· / 32)).eraseDups = m
  induction m with
  | nil => rfl
  | cons a r ih =>
    have e : s.fireSector 0 true a = (s, false) := by simp [State.fireSector, h.armed a]
    simpa [e] using ih

/-- Device memory of die 0 is crossed to over no link. -/
theorem flat_links (s : State) {tr : List (Nat × Xlated)} {va n : Nat} (ht : Flat tr va n) : (keysOf tr va n).any (s.linksWait 0) = false := by
  rw [List.any_eq_false]
  intro k hk
  simp only [keysOf, List.mem_map, List.mem_range] at hk
  obtain ⟨i, hi, rfl⟩ := hk
  obtain ⟨e, hlt⟩ := ht i hi
  rw [e]
  have a : isSpad (va + i) = false := by simp only [isSpad, decide_eq_false_iff_not]; omega
  have b : rangeOf (va + i) = .dram 0 := by simp only [rangeOf, if_pos hlt]
  simp [State.linksWait, siteDie, linksTo, a, b, homeDie, State.crossWaits]

theorem flat_window {s : State} {tr : List (Nat × Xlated)} {va n : Nat} (ht : Flat tr va n) {k : Nat} (hk : k ∈ keysOf tr va n) :
    s.window k = .opened ∧ s.moving k = false := by
  simp only [keysOf, List.mem_map, List.mem_range] at hk
  obtain ⟨i, hi, rfl⟩ := hk
  obtain ⟨e, hlt⟩ := ht i hi
  rw [e]
  refine ⟨?_, ?_⟩
  · have : apertureOf (va + i) = none := by
      unfold apertureOf; rw [if_neg]; omega
    simp [State.window, this]
  · have a : isHost (va + i) = false := by
      have : ¬ 2 ^ 51 ≤ va + i := by omega
      simp only [isHost, decide_eq_false this, Bool.false_and]
    have b : isSpad (va + i) = false := by simp only [isSpad, decide_eq_false_iff_not]; omega
    simp [State.moving, State.spadMoving, a, b]

theorem flat_access {s t : State} {va : Word} {n : Nat} {k : XKind} {bp : List Nat} {tr : List (Nat × Xlated)}
    (hb : bp.findSome? (fun kind => (s.core 0).breakHit va.toNat n kind) = none)
    (hw : s.walkWaits (s.linksWait (dieOf 0)) 0 va.toNat n k = false) (ht : s.translateRange 0 va.toNat n k = (t, .ok tr))
    (hf : Flat tr va.toNat n) (hc : tr.any (fun p => isControl p.2.pa) = false) :
    s.access 0 va n k bp .align = (t.recordBiases tr, .ok tr) := by
  have w : ((List.range n).zip (keysOf tr va.toNat n)).find? (fun p => decide (t.window p.2 = .shut)) = none := by
    rw [List.find?_eq_none]
    intro p hp
    have := (flat_window (s := t) hf (List.of_mem_zip hp).2).1
    simp [this]
  have w1 : (keysOf tr va.toNat n).any (fun k => decide (t.window k = .waits)) = false := by
    rw [List.any_eq_false]
    intro k hk
    simp [(flat_window (s := t) hf hk).1]
  have w2 : (keysOf tr va.toNat n).any t.moving = false := by
    rw [List.any_eq_false]
    intro k hk
    simp [(flat_window (s := t) hf hk).2]
  simp only [State.access, hb, hw, ht, hc, w, w1, w2]
  rfl

theorem Quiet.read {s t : State} {va : Word} {n : Nat} {tr : List (Nat × Xlated)} (h : Quiet t)
    (ha : s.access 0 va n .read [2] .align = (t, .ok tr)) (hf : Flat tr va.toNat n) :
    s.coreRead 0 va n .read .align = (t, .ok (List.replicate n 0, (keysOf tr va.toNat n).headD 0)) := by
  have z : ((List.range n).zip (keysOf tr va.toNat n)).find? (fun p => t.poisonSeen 0 p.2) = none := by
    rw [List.find?_eq_none]; intro p _; simp [h.poisonSeen]
  have so : t.storesOf 0 = [] := by simp [State.storesOf, h.2.2.2.2.2.2.1, h.2.2.2.2.2.2.2.2.1]
  have rd : ∀ k, t.dieByte 0 k = 0 := by
    intro k
    unfold State.dieByte
    split <;> simp [h.2.2.2.2.2.1, h.2.2.2.2.1, pastByte, Memory.rd, SMap.get, unwritten]
  have lb : t.loadBytes 0 (keysOf tr va.toNat n) = some (List.replicate n 0) := by
    simp only [State.loadBytes, so]
    have : dieOf 0 = 0 := rfl
    simp only [this, List.filter_nil, List.getLast?_nil, Option.some.injEq]
    rw [List.eq_replicate_iff]
    refine ⟨by simp [keysOf], fun b hb => ?_⟩
    obtain ⟨k, _, rfl⟩ := List.mem_map.1 hb
    exact rd k
  have av : t.awaitsVld 0 (keysOf tr va.toNat n) = false := by simp [State.awaitsVld, h.2.2.2.2.2.2.2.1]
  have hp : t.hostPast 0 (keysOf tr va.toNat n) = false := by
    have : dieOf 0 = 0 := rfl
    simp [State.hostPast, this, h.2.2.2.2.2.1]
  have fv : t.fixVlds 0 = some t := by simp [State.fixVlds, h.2.2.2.2.2.2.2.1]
  have rw' : t.readWait 0 (keysOf tr va.toNat n) = none := by
    have l := flat_links t hf
    have : dieOf 0 = 0 := rfl
    simp only [State.readWait, h.ownWait, this, l, Bool.and_false, Bool.false_eq_true, if_false]; rfl
  have fw : t.forwarded 0 (keysOf tr va.toNat n) = false := by simp [State.forwarded, so]
  have : dieOf 0 = 0 := rfl
  simp only [State.coreRead, ha, z, rw', av, hp, fv, lb, fw, this, h.fireKeys, Bool.or_self, Bool.false_eq_true, if_false]

/-- A flat translation of two pages from 0x2000. -/
theorem flat_two {tr : List (Nat × Xlated)} (h : tr.map (fun p => (p.1, p.2.pa)) = [(0x2000, 0x2000), (0x3000, 0x3000)]) : Flat tr 0x2000 8192 := by
  intro i hi
  have : keyAt tr (0x2000 + i) = (tr.map (fun p => (p.1, p.2.pa))).foldl (fun acc p => if p.1 ≤ 0x2000 + i then p.2 + (0x2000 + i - p.1) else acc) 0 := by
    rw [List.foldl_map]; rfl
  rw [this, h]
  simp only [List.foldl_cons, List.foldl_nil]
  refine ⟨?_, by omega⟩
  split
  · omega
  · split <;> omega

theorem flat_one {tr : List (Nat × Xlated)} (h : tr.map (fun p => (p.1, p.2.pa)) = [(0x2000, 0x2000)]) : Flat tr 0x2000 2112 := by
  intro i hi
  have : keyAt tr (0x2000 + i) = (tr.map (fun p => (p.1, p.2.pa))).foldl (fun acc p => if p.1 ≤ 0x2000 + i then p.2 + (0x2000 + i - p.1) else acc) 0 := by
    rw [List.foldl_map]; rfl
  rw [this, h]
  simp only [List.foldl_cons, List.foldl_nil]
  refine ⟨?_, by omega⟩
  split <;> omega

theorem zeros_dwords (n m i : Nat) (w : Word) (h : (i, w) ∈ numbered (dwordsOf n (List.replicate m 0))) : i < n ∧ w = 0 := by
  obtain ⟨h1, h2⟩ := List.of_mem_zip h
  refine ⟨?_, ?_⟩
  · simpa [dwordsOf] using List.mem_range.1 h1
  · obtain ⟨j, _, rfl⟩ := List.mem_map.1 h2
    have : ∀ k, leValue (List.replicate k (0 : Byte)) = 0 := by
      intro k; induction k with
      | zero => rfl
      | succ k ih => rw [List.replicate_succ, leValue, ih]; rfl
    rw [List.drop_replicate, List.take_replicate, this]; rfl

theorem Quiet.writeWords {s t : State} {va : Word} {tr : List (Nat × Xlated)} (ws : List Word) (h : Quiet t)
    (ha : s.access 0 va (8 * ws.length) .write [3] .align = (t, .ok tr)) (done : Nat) :
    ∃ u k, s.coreWriteWords 0 va ws done = (u, .ok k) ∧ k = done + min (8 : Nat) (ws.length - done) := by
  have z : ((List.range (8 * ws.length)).zip (keysOf tr va.toNat (8 * ws.length))).find? (fun p => blockIs t p.2 .quarantined) = none := by
    rw [List.find?_eq_none]; intro p _
    simp only [blockIs, State.block, h.2.1]
    cases blockOf p.2 <;> simp [SMap.get?]
  have b : t.sbWait 0 1 = none := by simp [State.sbWait, sbDepth, h.2.2.2.2.2.2.1, h.2.2.2.2.2.2.2.1]
  simp only [State.coreWriteWords, ha, z, h.ownWait, b]
  refine ⟨_, _, rfl, ?_⟩
  simp [sbDepth, h.2.2.2.2.2.2.1, h.2.2.2.2.2.2.2.2.1]

/-- x4 = 0x2000 in pages that nothing has written: an image of zeros. -/
def fresh4 : State := onArch fun a => a.wx 4 0x2000
/-- The state of a translation of n bytes there, and its pages. -/
def far (n : Nat) (k : XKind) : State × List (Nat × Xlated) :=
  let r := fresh4.translateRange 0 0x2000 n k
  (r.1, okEx [] r)

theorem fresh4_access (n kind : Nat) (k : XKind) (hk : kind = 2 ∨ kind = 3)
    (ht : fresh4.translateRange 0 0x2000 n k = ((far n k).1, .ok (far n k).2)) (hf : Flat (far n k).2 0x2000 n)
    (hc : (far n k).2.any (fun p => isControl p.2.pa) = false) (hb : (far n k).1.recordBiases (far n k).2 = (far n k).1)
    (hw : fresh4.walkWaits (fresh4.linksWait (dieOf 0)) 0 0x2000 n k = false) :
    fresh4.access 0 0x2000 n k [kind] .align = ((far n k).1, .ok (far n k).2) := by
  have b : [kind].findSome? (fun kind => (fresh4.core 0).breakHit (0x2000 : Word).toNat n kind) = none := by
    have h1 : (fresh4.core 0).arch.bpctl = 0 := by decide +kernel
    have h2 : bitAt (fresh4.core 0).arch.status 2 = false := by decide +kernel
    have h3 : fld 0#4 1 0 = 0 := by decide +kernel
    have h4 : fld 0#4 3 2 = 0 := by decide +kernel
    rcases hk with rfl | rfl <;> simp [Core.breakHit, h1, h2, h3, h4]
  have := flat_access (va := 0x2000) b hw ht hf hc
  rwa [hb] at this

theorem far_patch :
    fresh4.coreRead 0 0x2000 2112 .read .align
      = ((far 2112 .read).1, .ok (List.replicate 2112 0, (keysOf (far 2112 .read).2 (0x2000 : Word).toNat 2112).headD 0)) :=
  Quiet.read (by decide +kernel) (fresh4_access 2112 2 .read (.inl rfl) (by decide +kernel) (flat_one (by decide +kernel))
    (by decide +kernel) (by decide +kernel) (by decide +kernel)) (flat_one (by decide +kernel))
theorem far_image :
    fresh4.coreRead 0 0x2000 8192 .read .align
      = ((far 8192 .read).1, .ok (List.replicate 8192 0, (keysOf (far 8192 .read).2 (0x2000 : Word).toNat 8192).headD 0)) :=
  Quiet.read (by decide +kernel) (fresh4_access 8192 2 .read (.inl rfl) (by decide +kernel) (flat_two (by decide +kernel))
    (by decide +kernel) (by decide +kernel) (by decide +kernel)) (flat_two (by decide +kernel))

theorem witness_PercolatorWorks_patch : ∃ bs pa,
    (MemOp.ea fresh4.me 64 (.short 4 0)).toNat % 64 = 0 ∧ fresh4.percBusy = false
    ∧ fresh4.coreRead fresh4.cur (MemOp.ea fresh4.me 64 (.short 4 0)) 2112 .read .align = ((far 2112 .read).1, .ok (bs, pa))
    ∧ ∀ p ∈ numbered (dwordsOf 264 bs), patchImageOk p.1 p.2 = true := by
  refine ⟨_, _, by decide +kernel, by decide +kernel, far_patch, fun p hp => ?_⟩
  obtain ⟨hi, hw⟩ := zeros_dwords _ _ p.1 p.2 hp
  rw [hw]
  exact (by decide +kernel : ∀ i, i < 264 → patchImageOk i 0 = true) p.1 hi

theorem witness_PercolatorWorks_restore : ∃ bs pa,
    fresh4.percBusy = false
    ∧ fresh4.coreRead fresh4.cur (MemOp.ea fresh4.me 64 (.short 4 0)) 8192 .read .align = ((far 8192 .read).1, .ok (bs, pa))
    ∧ ∀ p ∈ numbered (dwordsOf 1024 bs), restOk p.1 p.2 = true := by
  refine ⟨_, _, by decide +kernel, far_image, fun p hp => ?_⟩
  obtain ⟨hi, hw⟩ := zeros_dwords _ _ p.1 p.2 hp
  rw [hw]
  exact (by decide +kernel : ∀ i, i < 1024 → restOk i 0 = true) p.1 hi

/-- A PSAVE whose first turn fills the store buffer, and one of whose image 8 doublewords are left. -/
theorem witness_PercolatorWorks_save : fresh4.percBusy = false
    ∧ (∃ u, fresh4.coreWriteWords fresh4.cur (MemOp.ea fresh4.me 64 (.short 4 0)) ((List.range 1024).map fresh4.me.arch.perc.imageWord) 0 = (u, .ok 8))
    ∧ ∃ u, fresh4.coreWriteWords fresh4.cur (MemOp.ea fresh4.me 64 (.short 4 0)) ((List.range 1024).map fresh4.me.arch.perc.imageWord) 1016
      = (u, .ok 1024) := by
  have h : (8 * ((List.range 1024).map fresh4.me.arch.perc.imageWord).length) = 8192 := by simp
  have go := fun done => Quiet.writeWords (t := (far 8192 .write).1) (tr := (far 8192 .write).2) (va := 0x2000) (s := fresh4)
    ((List.range 1024).map fresh4.me.arch.perc.imageWord) (by decide +kernel) (by
      rw [h]
      exact fresh4_access 8192 3 .write (.inr rfl) (by decide +kernel) (flat_two (by decide +kernel)) (by decide +kernel) (by decide +kernel)
        (by decide +kernel)) done
  refine ⟨by decide +kernel, ?_, ?_⟩
  · obtain ⟨u, k, e, hk⟩ := go 0
    refine ⟨u, ?_⟩
    rw [show k = 8 by simpa using hk] at e
    exact e
  · obtain ⟨u, k, e, hk⟩ := go 1016
    refine ⟨u, ?_⟩
    rw [show k = 1024 by simpa using hk] at e
    exact e

end Sys2Proof.Tests
end

