-- ==== Sys2Proof/Tests/WitnessMemory.lean ====
section
/-! SUPPORT. Tests: states and operands that meet the hypotheses of the obligations about loads, stores, atomics and what performs them. -/

namespace Sys2Proof.Tests

set_option Elab.async false

open Sys2Proof Sys2Proof.Machine

/-! ## Memory -/

theorem load_ready (s : State) (ea : Word) (n : Nat) (o : MemOrd × Scope) (ctl : CtlRule)
    (h : let r := s.access s.cur ea n .read [2] ctl
         let tr := okOr [] r
         let q := r.1.coreRead r.1.cur ea n .read .align
         (o.1 = .none ∨ ea.toNat % n = 0) ∧ r = (r.1, .ok tr) ∧ isControl ((keysOf tr ea.toNat n).headD 0) = false
         ∧ r.1.readWait r.1.cur (keysOf tr ea.toNat n) = none
         ∧ r.1.poisonAt r.1.cur false (keysOf tr ea.toNat n) = none ∧ r.1.migrateKey r.1.cur tr = none
         ∧ (MemOrd.isAcq o.1 = true → r.1.acquireWait r.1.cur o.2 (keysOf tr ea.toNat n) = false) ∧ n ≤ 32 - ea.toNat % 32
         ∧ q = (q.1, .ok (okOr ([], 0) q))) :
    ∃ t bs pa, LoadReady s ea n o ctl t bs pa := by
  obtain ⟨h1, h2, h3, h0, h4, h5, h6, h8, h7⟩ := h
  exact ⟨_, _, _, h1, _, _, ⟨h2, h3, h0, h4, h5⟩, h6, by rw [if_pos h8]; exact h7⟩

/-- The same for an access that crosses a line: its first part, and its second part with the first held. -/
theorem load_splits (s : State) (ea : Word) (n : Nat) (o : MemOrd × Scope) (ctl : CtlRule)
    (h : let r := s.access s.cur ea n .read [2] ctl
         let tr := okOr [] r
         let q := r.1.coreRead r.1.cur ea (32 - ea.toNat % 32) .read .align
         (o.1 = .none ∨ ea.toNat % n = 0) ∧ r = (r.1, .ok tr) ∧ isControl ((keysOf tr ea.toNat n).headD 0) = false
         ∧ r.1.readWait r.1.cur (keysOf tr ea.toNat n) = none
         ∧ r.1.poisonAt r.1.cur false (keysOf tr ea.toNat n) = none ∧ r.1.migrateKey r.1.cur tr = none
         ∧ (MemOrd.isAcq o.1 = true → r.1.acquireWait r.1.cur o.2 (keysOf tr ea.toNat n) = false) ∧ 32 - ea.toNat % 32 < n
         ∧ r.1.me.arch.wait.part = none ∧ q = (q.1, .ok (okOr ([], 0) q))) :
    ∃ t b0, LoadSplits s ea n o ctl t b0 := by
  obtain ⟨h1, h2, h3, h0, h4, h5, h6, h8, h9, h7⟩ := h
  exact ⟨_, _, h1, h8, _, _, _, ⟨h2, h3, h0, h4, h5⟩, h9, h6, h7⟩
theorem load_second (s : State) (ea : Word) (n : Nat) (o : MemOrd × Scope) (ctl : CtlRule) (b0 : List Byte)
    (h : let r := s.access s.cur ea n .read [2] ctl
         let tr := okOr [] r
         let q := r.1.coreRead r.1.cur (ea + BitVec.ofNat 64 (32 - ea.toNat % 32)) (n - (32 - ea.toNat % 32)) .read .align
         (o.1 = .none ∨ ea.toNat % n = 0) ∧ r = (r.1, .ok tr) ∧ isControl ((keysOf tr ea.toNat n).headD 0) = false
         ∧ r.1.readWait r.1.cur (keysOf tr ea.toNat n) = none
         ∧ r.1.poisonAt r.1.cur false (keysOf tr ea.toNat n) = none ∧ r.1.migrateKey r.1.cur tr = none
         ∧ (MemOrd.isAcq o.1 = true → r.1.acquireWait r.1.cur o.2 (keysOf tr ea.toNat n) = false) ∧ 32 - ea.toNat % 32 < n
         ∧ r.1.me.arch.wait.part = some b0 ∧ q = (q.1, .ok (okOr ([], 0) q))) :
    ∃ t bs pa, LoadReady s ea n o ctl t bs pa := by
  obtain ⟨h1, h2, h3, h0, h4, h5, h6, h8, h9, h7⟩ := h
  exact ⟨_, _, _, h1, _, _, ⟨h2, h3, h0, h4, h5⟩, h6, by rw [if_neg (by omega)]; exact ⟨_, _, h9, rfl, h7⟩⟩

theorem store_ready (s : State) (ea : Word) (bs : List Byte) (o : MemOrd × Scope) (ctl : CtlRule)
    (h : let r := s.access s.cur ea bs.length .write [3] ctl
         let tr := okOr [] r
         let q := r.1.coreWrite r.1.cur ea bs (if MemOrd.isRel o.1 then some o.2 else none) .align
         (o.1 = .none ∨ ea.toNat % bs.length = 0) ∧ r = (r.1, .ok tr) ∧ isControl ((keysOf tr ea.toNat bs.length).headD 0) = false
         ∧ r.1.ownWait r.1.cur none (keysOf tr ea.toNat bs.length) = none
         ∧ r.1.poisonAt r.1.cur true (keysOf tr ea.toNat bs.length) = none ∧ r.1.migrateKey r.1.cur tr = none ∧ q = (q.1, .ok ())) :
    ∃ t, StoreReady s ea bs o ctl t := by
  obtain ⟨h1, h2, h3, h0, h4, h5, h6⟩ := h
  exact ⟨_, h1, _, _, ⟨h2, h3, h0, h4, h5⟩, h6⟩

/-- x4 = 0x2000 and some data there. -/
def withData : State := { (onArch fun a => a.wx 4 0x2000) with mem := [(0x2000, 0x34#8), (0x2001, 0xF2#8), (0x2FFF, 0x80#8)] }

/-- The same with the byte at 0x2FFF of a load across two pages read. -/
def halfLoaded : State := withData.updArch fun a => { a with wait := { a.wait with part := some [0x80] } }

/-- LD at the top of a page without an ordering, across two pages (both its parts), and with .acq.sys; LDP of 16 bytes. -/
theorem witness_LoadsReadMemory :
    (∃ t bs pa, LoadReady withData (MemOp.ea withData.me 1 (.ext 4 .none .core 0xFFF)) 1 (MemOp.ord (.ext 4 .none .core 0xFFF))
        (ctlRuleOf 1 (MemOp.ea withData.me 1 (.ext 4 .none .core 0xFFF))) t bs pa)
    ∧ (∃ t bs, LoadSplits withData (MemOp.ea withData.me 8 (.ext 4 .none .core 0xFFF)) 8 (MemOp.ord (.ext 4 .none .core 0xFFF))
        (ctlRuleOf 8 (MemOp.ea withData.me 8 (.ext 4 .none .core 0xFFF))) t bs)
    ∧ (∃ t bs pa, LoadReady halfLoaded (MemOp.ea halfLoaded.me 8 (.ext 4 .none .core 0xFFF)) 8 (MemOp.ord (.ext 4 .none .core 0xFFF))
        (ctlRuleOf 8 (MemOp.ea halfLoaded.me 8 (.ext 4 .none .core 0xFFF))) t bs pa)
    ∧ (∃ t bs pa, LoadReady withData (MemOp.ea withData.me 8 (.ext 4 .acq .sys 0)) 8 (MemOp.ord (.ext 4 .acq .sys 0))
        (ctlRuleOf 8 (MemOp.ea withData.me 8 (.ext 4 .acq .sys 0))) t bs pa)
    ∧ (∃ t bs pa, LoadReady withData (MemOp.ea withData.me 16 (.short 4 127)) 16 (MemOp.ord (.short 4 127)) .align t bs pa)
    ∧ (MemOp.ea withData.me 16 (.short 4 127)).toNat % 16 = 0 :=
  ⟨load_ready _ _ _ _ _ (by decide +kernel), load_splits _ _ _ _ _ (by decide +kernel), load_second _ _ _ _ _ [0x80] (by decide +kernel),
    load_ready _ _ _ _ _ (by decide +kernel), load_ready _ _ _ _ _ (by decide +kernel), by decide +kernel⟩

theorem witness_StoresEnterTheBuffer :
    (∃ t, StoreReady withData (MemOp.ea withData.me 1 (.short 4 0)) (leBytes 1 (withData.me.x 5).toNat) (MemOp.ord (.short 4 0))
        (ctlRuleOf 1 (MemOp.ea withData.me 1 (.short 4 0))) t)
    ∧ (∃ t, StoreReady withData (MemOp.ea withData.me 8 (.ext 4 .rel .sys 8)) (leBytes 8 (withData.me.x 5).toNat) (MemOp.ord (.ext 4 .rel .sys 8))
        (ctlRuleOf 8 (MemOp.ea withData.me 8 (.ext 4 .rel .sys 8))) t)
    ∧ (∃ t, StoreReady withData (MemOp.ea withData.me 16 (.short 4 1)) (leBytes 8 (withData.me.x 6).toNat ++ leBytes 8 (withData.me.x 7).toNat)
        (MemOp.ord (.short 4 1)) .align t)
    ∧ (MemOp.ea withData.me 16 (.short 4 1)).toNat % 16 = 0
    ∧ (let bs : List Byte := [1, 2, 3, 4, 5, 6, 7, 8]
       let r := withData.access withData.cur 0x2FFC bs.length .write [3] .align
       let q := withData.coreWrite withData.cur 0x2FFC bs none .align
       r = (r.1, .ok (okOr [] r)) ∧ q = (q.1, .ok ())) :=
  ⟨store_ready _ _ _ _ _ (by decide +kernel), store_ready _ _ _ _ _ (by decide +kernel), store_ready _ _ _ _ _ (by decide +kernel),
    by decide +kernel, by decide +kernel⟩

theorem witness_StoreFrame :
    (let bs : List Byte := [1, 2, 3, 4, 5, 6, 7, 8]
     let r := withData.access withData.cur 0x2FFC bs.length .write [3] .align
     let q := withData.coreWrite withData.cur 0x2FFC bs none .align
     r = (r.1, .ok (okOr [] r)) ∧ q = (q.1, .ok ()) ∧ (keysOf (okOr [] r) 0x2FFC 8).Nodup
     ∧ 0x2FFB ∉ keysOf (okOr [] r) 0x2FFC 8)
    ∧ (let r := withData.access 0 0x2FFC 8 .read [2] .align
       r = (r.1, r.2)) := by decide +kernel

def entryAt (k n v : Nat) : SbEntry :=
  { bytes := cellsOf k n v, words := [], rel := none, awaits := none, flush := false, exempt := false }

theorem witness_StoreToLoadForwarding :
    (let s := onMe fun c => { c with sb := [entryAt 0x2000 8 7] }
     ∀ e ∈ s.storesOf 0, ∀ k ∈ [0x2008, 0x1FFF], e.has k = false)
    ∧ (let s := onMe fun c => { c with sb := [entryAt 0x2000 8 7, entryAt 0x2000 4 9, entryAt 0x2008 4 9] }
       s.storesOf 0 = [entryAt 0x2000 8 7] ++ entryAt 0x2000 4 9 :: [entryAt 0x2008 4 9]
       ∧ (∃ k ∈ [0x2000, 0x2003], (entryAt 0x2000 4 9).has k = true)
       ∧ (∀ x ∈ [entryAt 0x2008 4 9], ∀ k ∈ [0x2000, 0x2003], x.has k = false)
       ∧ (entryAt 0x2000 4 9).awaits = none ∧ (∀ k ∈ [0x2000, 0x2003], (entryAt 0x2000 4 9).has k = true)
       ∧ (∃ k ∈ [0x2003, 0x2004], (entryAt 0x2000 4 9).has k = true) ∧ (∃ k ∈ [0x2003, 0x2004], (entryAt 0x2000 4 9).has k = false)
       ∧ s.dual 0 = false)
    ∧ (let held : SbEntry := { entryAt 0x2000 4 9 with awaits := some 0 }
       let s (sb j : List SbEntry) := onMe fun c => { c with sb := sb, pair := { Pair.single with st := .paired, journal := j } }
       (let t := s [] [entryAt 0x2000 8 7, entryAt 0x2000 4 9]
        t.storesOf 0 = [entryAt 0x2000 8 7] ++ entryAt 0x2000 4 9 :: [] ∧ t.dual 0 = true ∧ (t.core 0).sb = []
        ∧ ∀ x ∈ t.storesOf 0, x.awaits = none)
       ∧ (let t := s [entryAt 0x2004 4 7] [entryAt 0x2000 4 9]
          t.storesOf 0 = [entryAt 0x2004 4 7] ++ entryAt 0x2000 4 9 :: [] ∧ t.dual 0 = true ∧ ∃ x ∈ (t.core 0).sb, ∃ k ∈ [0x2003, 0x2004], x.has k = true)
       ∧ (let t := s [] [held]
          t.storesOf 0 = [] ++ held :: [] ∧ t.dual 0 = true ∧ held.awaits ≠ none ∧ ∃ k ∈ [0x2003, 0x2004], held.has k = true)) := by
  decide +kernel

/-- A core whose one translation leads to the first page of slice 0's window, a surrender of which is under way. -/
def windowed : State :=
  (onMe fun c => { c with arch := c.arch.wx 4 0x2000,
                          tlb := [{ ctx := 1, vpage := 2, p := 12, frame := 0xF018000000000, perm := 0xDD, mig := false }] }).updSlice 0 0
    fun x => { x with st := 1, sw := 8 }

theorem witness_AccessTraps :
    ¬ AlignedFor (MemOp.ord (.ext 4 .acq .die 1)) 2 (MemOp.ea withData.me 2 (.ext 4 .acq .die 1))
    ∧ ¬ AlignedFor (MemOp.ord (.ext 4 .rel .die 7)) 8 (MemOp.ea withData.me 8 (.ext 4 .rel .die 7))
    ∧ AlignedFor (MemOp.ord (.short 0 1)) 8 (MemOp.ea withData.me 8 (.short 0 1))
    ∧ (let s := onArch fun a => a.wx 4 0x0010000000000000
       let r := s.access s.cur (MemOp.ea s.me 8 (.short 4 0)) 8 .read [2] (ctlRuleOf 8 (MemOp.ea s.me 8 (.short 4 0)))
       r = (r.1, .trap 5 0x0010000000000000)
       ∧ (let w := s.access s.cur (MemOp.ea s.me 8 (.short 4 0)) 8 .write [3] (ctlRuleOf 8 (MemOp.ea s.me 8 (.short 4 0)))
          w = (w.1, .trap 5 0x0010000000000000)))
    ∧ (let s := windowed
       let r := s.access s.cur (MemOp.ea s.me 8 (.short 4 0)) 8 .read [2] (ctlRuleOf 8 (MemOp.ea s.me 8 (.short 4 0)))
       r = (r.1, .wait Machine.cMEM)) := by
  simp only [AlignedFor]
  decide +kernel

/-- A fence before whose kinds something is still to be done. -/
def busy : State := onMe fun c => { c with loads := [⟨[(1, 0)], false, none, 0, 0⟩], sb := [entryAt 0x2000 8 7] }

theorem witness_HintsAndFences :
    (let r := withData.translate withData.cur (MemOp.ea withData.me 32 (.short 4 0)).toNat .read
     let d : Xlated := ⟨0, 0, false, false, false, false, none⟩
     withData.walkHeld (MemOp.ea withData.me 32 (.short 4 0)).toNat .read = false
     ∧ r = (r.1, .ok (okEx d r)) ∧ isControl (okEx d r).pa = false ∧ isSpad (okEx d r).pa = false ∧ apertureOf (okEx d r).pa = none
     ∧ r.1.sbWait r.1.cur 1 = none)
    ∧ (let s := onArch fun a => a.wx 4 0x00F0000000000000
       let r := s.translate s.cur (MemOp.ea s.me 32 (.short 4 0)).toNat .read
       let d : Xlated := ⟨0, 0, false, false, false, false, none⟩
       s.walkHeld (MemOp.ea s.me 32 (.short 4 0)).toNat .read = false
       ∧ r = (r.1, .ok (okEx d r)) ∧ isControl (okEx d r).pa = false ∧ isSpad (okEx d r).pa = true)
    ∧ (let s := windowed
       let r := s.translate s.cur (MemOp.ea s.me 32 (.short 4 0)).toNat .read
       let d : Xlated := ⟨0, 0, false, false, false, false, none⟩
       s.walkHeld (MemOp.ea s.me 32 (.short 4 0)).toNat .read = false
       ∧ r = (r.1, .ok (okEx d r)) ∧ isControl (okEx d r).pa = false ∧ apertureOf (okEx d r).pa ≠ none)
    ∧ (base.me.vmemDone = true ∧ base.me.loads = [] ∧ base.storesDone base.cur .sys = true ∧ base.me.enginesDone = true
      ∧ base.hostOut base.cur = false)
    ∧ (busy.me.loads ≠ [] ∧ busy.storesDone busy.cur .sys = false)
    ∧ (onArch fun a => { a with vseq := [⟨1, .vld 1 false (.short 0 0), vshapeReset, [], 0, [], 0, [], false, false, 0, none⟩] }).me.vmemDone = false
    ∧ (onArch fun a => { a with vseq := [⟨1, .vgath 1 0 1 0, vshapeReset, [], 0, [], 0, [], false, false, 0, none⟩] }).me.enginesDone = false := by
  decide +kernel

/-- What AtomicsAtOnce asks of a state, an instruction's address and its request. -/
def atomicHyps (s : State) (ea : Word) (r : AmoReq) (o : MemOrd × Scope) : Bool :=
  let u := s.translate s.cur ea.toNat .atomic
  let x := okEx ⟨0, 0, false, false, false, false, none⟩ u
  let v := u.1.recordBias x.biasd x.pa
  let n := r.t.width / 8
  decide (ea.toNat % n = 0) && decide (s.me.breakHit ea.toNat n 2 = none) && decide (s.me.breakHit ea.toNat n 3 = none)
  && decide (s.me.amoSt s.me.amoKey = none) && !s.walkHeld ea.toNat .atomic && decide (u = (u.1, .ok x)) && decide (r.ea = ea ∧ r.pa = x.pa)
  && amoSupported x.pa r && u.1.hasMemory x.pa && hostPerforms x.pa r && decide (u.1.window x.pa = .opened) && !u.1.moving x.pa
  && decide (u.1.ownWait u.1.cur none r.keys = none) && r.keys.all (fun k => !u.1.poisonSeen u.1.cur k && !blockIs u.1 k .quarantined) && decide (u.1.migrateKey u.1.cur [(ea.toNat, x)] = none)
  && !v.amoWait v.cur o r && decide (linksTo (dieOf v.cur) r.pa = []) && v.siteFree v.cur x.snapx r
  && !(v.fireKeys (dieOf v.cur) true r.keys).2 && r.keys.all (fun k => !(v.fireKeys (dieOf v.cur) true r.keys).1.poisonSeen v.cur k)

theorem witness_AtomicsAtOnce :
    atomicHyps withData 0x2001 { ea := 0x2001, pa := 0x2001, t := .n8, op := some .swap, b := 0, d := 0, tok := none } (.none, .core) = true
    ∧ atomicHyps withData 0x1FFFF8 { ea := 0x1FFFF8, pa := 0x1FFFF8, t := .s64, op := some .max, b := 0, d := 0, tok := none } (.ar, .sys) = true
    ∧ atomicHyps withData 0x2000 { ea := 0x2000, pa := 0x2000, t := .n32, op := none, b := 0, d := 0, tok := none } (.none, .core) = true
    ∧ withData.token none = none := by decide +kernel

theorem witness_AtomicValues :
    let r : AmoReq := { ea := 0, pa := 0, t := .s8, op := some .min, b := 2 ^ 64 - 1, d := 0, tok := none }
    (0xFF : Nat) < 2 ^ r.t.width ∧ r.b < 2 ^ 64 ∧ r.d < 2 ^ 64 := by decide +kernel

theorem witness_AccessesArePerformed :
    (let s := onMe fun c => { c with sb := [entryAt 0x2000 8 7] }
     0 < numCores ∧ (s.core 0).sb = entryAt 0x2000 8 7 :: [] ∧ (entryAt 0x2000 8 7).awaits = none
     ∧ s.ownWait 0 none (SMap.keys (entryAt 0x2000 8 7).bytes) = none ∧ (∀ k ∈ SMap.keys (entryAt 0x2000 8 7).bytes, s.moving k = false)
     ∧ s.hostStores 0 = false)
    ∧ (let s := base.updDie 0 fun d => { d with past := [⟨0, entryAt 0x2000 8 7⟩] }
       (s.die 0).past[0]? = some ⟨0, entryAt 0x2000 8 7⟩ ∧ s.homeReady 0 0 ⟨0, entryAt 0x2000 8 7⟩ = true ∧ (entryAt 0x2000 8 7).has 0x2008 = false)
    ∧ (let l : LoadP := ⟨[(63, 5)], false, none, 0, 0x2000⟩
       let s := onMe fun c => { c with loads := [l] }
       (s.core 0).loads[0]? = some l ∧ l.atomic = false ∧ s.linksWait (dieOf 0) l.pa = false)
    ∧ (let l : LoadP := ⟨[(63, 5)], true, none, 0, 0x2000⟩
       let s := onMe fun c => { c with loads := [l] }
       (s.core 0).loads[0]? = some l ∧ l.atomic = true ∧ l.held = none)
    ∧ (let r : AmoReq := { ea := 0x2000, pa := 0x2000, t := .n32, op := some .add, b := 1, d := 0, tok := none }
       let l : LoadP := ⟨[], true, some 8, 0, 0x2000⟩
       let s := onMe fun c => { c with loads := [l], arch := { c.arch with wait := { c.arch.wait with amo := [(8, .sent r)] } } }
       (s.core 0).loads[0]? = some l ∧ l.atomic = true ∧ l.held = some 8 ∧ (s.core 0).amoSt 8 = some (.sent r)
       ∧ s.linksWait (dieOf 0) r.pa = false ∧ s.siteFree 0 (s.amoExempt 0 r) r = true ∧ s.fireKeys (dieOf 0) true r.keys = ((s.fireKeys (dieOf 0) true r.keys).1, false)
       ∧ ∀ k ∈ r.keys, (s.fireKeys (dieOf 0) true r.keys).1.poisonSeen 0 k = false ∧ blockIs (s.fireKeys (dieOf 0) true r.keys).1 k .quarantined = false) := by decide +kernel

end Sys2Proof.Tests
end

