-- ==== Sys2Proof/Tests/WitnessMessage.lean ====
section
/-! SUPPORT. Tests: states and operands that meet the hypotheses of the obligations about messages, levels, barriers, strands, pairs and queues. -/

namespace Sys2Proof.Tests

set_option Elab.async false

open Sys2Proof Sys2Proof.Machine

/-! ## Messages, levels, barriers -/

/-- The instruction word of a C instruction, for a core's bundle. -/
def heldIn (i : Instr) (since : Option Nat) (expired : Bool) : State :=
  onMe fun c => { c with bundle := (encode ⟨0, i, 0, some .anop⟩).getD 0, flow := .held cMSG,
                         arch := { c.arch with wait := { c.arch.wait with since := since, expired := expired } } }
/-- A descriptor of context 1 with n cells. -/
def desc1 (n : Nat) : Desc := ⟨Copies.reset, 0x100000, 0x200000, 0, ⟨0, false, false, 0, 0, 0, false, 0, false, false, 0, false, 15, 0, 0, [], false⟩, n⟩
def withCells (s : State) (n : Nat) : State := s.updCtx 1 fun c => { c with d := some (desc1 n) }
/-- A strand of context 1 on core g. -/
def strandOn (s : State) (g : Nat) : State := s.updCore g fun c => { c with strand := some { hostStrand with sid := g } }

/-- A packet of n blocks for context ctx that still crosses. -/
def packet (n : Nat) : Packet := ⟨5, false, false, List.replicate n 3⟩
def crossing (n ctx : Nat) : RqPacket :=
  { pkt := packet n, present := false, since := 0, counted := true, ctx := ctx, strand := 0, born := 0, rank := 0 }

/-- A sender of the last core, of a mailbox and of a word that names nothing; room to the last entry; a diversion to a core that runs
nothing, and one after the wait for SPILLTO. -/
theorem witness_SendDelivers :
    destOf 1 2720 = none ∧ destOf 1 0x18001 = none ∧ destOf 1 0x8001 = none
    ∧ (let s := (onArch fun a => a.wx 3 2719).updCore 2719 fun c => { c with rqSealed := true }
       destOf s.me.ctxNum (s.me.x 3) = some (.core 2719) ∧ s.isSealed s.me.ctxNum (.core 2719) = true)
    ∧ (let s := (strandOn (onArch fun a => a.wx 3 2719) 2719).updCore 2719 fun c =>
         { c with rq := List.replicate 8 (crossing 1 1) }
       destOf s.me.ctxNum (s.me.x 3) = some (.core 2719) ∧ s.sendTrap (s.me.x 3) (.core 2719) = none
       ∧ s.me.sb = [] ∧ s.me.vmemDone = true ∧ s.behindPost s.cur (.core 2719) = false ∧ s.takeV (4 : Reg).toNat = (s, .ok (s.me.arch.rv 4))
       ∧ s.mustDivert s.me.ctxNum s.cur (.core 2719) = false
       ∧ s.hasRoom (.core 2719) (packetOf s.cur ((7 : BitVec 3).toNat + 1) (s.me.arch.rv 4)).size = true)
    ∧ (let s := withCells (onArch fun a => a.wx 3 5) 21761
       let z := s.updWait fun y => { y with checked := true, since := y.since <|> some s.clock }
       destOf s.me.ctxNum (s.me.x 3) = some (.core 5) ∧ s.sendTrap (s.me.x 3) (.core 5) = none
       ∧ s.me.sb = [] ∧ s.me.vmemDone = true ∧ s.behindPost s.cur (.core 5) = false ∧ s.takeV (4 : Reg).toNat = (s, .ok (s.me.arch.rv 4))
       ∧ s.mustDivert s.me.ctxNum s.cur (.core 5) = true ∧ s.crossWaits (dieOf s.cur) (s.destDie (.core 5)) = false
       ∧ z.cellsNow s.me.ctxNum s.cur (packetOf s.cur ((0 : BitVec 3).toNat + 1) (s.me.arch.rv 4)).size = some false)
    ∧ (let s := { (strandOn (withCells (onArch fun a => (a.wx 3 5).wv 4 9) 21761) 5).updCore 5 fun c =>
         { c with rq := List.replicate 16 (crossing 1 1) } with clock := 30000000 }
       let z := s.updWait fun y => { y with checked := true, since := some 0 }
       s.hasRoom (.core 5) 1 = false ∧ s.mustDivert s.me.ctxNum s.cur (.core 5) = false ∧ z.sendExpired z.cur = true
       ∧ z.takeV (4 : Reg).toNat = (z, .ok (z.me.arch.rv 4)) ∧ z.cellsNow z.me.ctxNum z.cur 1 = some false)
    ∧ (let s := heldIn (.send 3 4 0) (some 0) true
       let u := s.servePosts fun x => decide (x.holder = 0)
       (∃ b, decodeBundle (u.core 0).bundle = .ok b ∧ b.c = .send 3 4 0) ∧ (u.core 0).flow = .held cMSG
       ∧ (u.core 0).arch.wait.since.isSome = true ∧ u.sendExpired 0 = true) := by
  refine ⟨by decide +kernel, by decide +kernel, by decide +kernel, by decide +kernel,
    ⟨by decide +kernel, by decide +kernel, by decide +kernel, by decide +kernel, by decide +kernel, rfl, by decide +kernel⟩,
    ⟨by decide +kernel, by decide +kernel, by decide +kernel, by decide +kernel, by decide +kernel, rfl, by decide +kernel⟩,
    ⟨by decide +kernel, by decide +kernel, by decide +kernel, rfl, by decide +kernel⟩, ⟨⟨_, rfl, rfl⟩, by decide +kernel⟩⟩

/-- A waiting diversion that cells are granted to. -/
theorem witness_SendDelivers_grant :
    let s := withCells ((heldIn (.send 3 4 7) none false).updArch fun a => a.wx 3 5) 8
    let u := s.servePosts fun x => decide (x.holder = 0)
    (∃ b, decodeBundle (u.core 0).bundle = .ok b ∧ b.c = .send 3 4 7) ∧ (u.core 0).flow = .held cMSG
    ∧ destOf (u.core 0).ctxNum ((u.core 0).x 3) = some (.core 5)
    ∧ (u.mustDivert (u.core 0).ctxNum 0 (.core 5) = true ∨ u.sendExpired 0 = true) ∧ (u.core 0).arch.wait.cells = none
    ∧ u.cellsFor (u.core 0).ctxNum 0 ((7 : BitVec 3).toNat + 1) false = some true :=
  ⟨⟨_, rfl, rfl⟩, by decide +kernel⟩

/-- A packet that has been present since clock 0, and a core whose present cycle is at clock 1. -/
def oldPacket (n : Nat) : RqPacket := { crossing n 1 with present := true, counted := false }
def later (s : State) : State := { s.updMe (fun c => { c with now := 1 }) with clock := 1 }

theorem witness_ReceivesTake :
    base.me.bound (31 : VReg).toNat = false
    ∧ (let s := later (onMe fun c => { c with rq := [oldPacket 8] })
       s.fixVlds s.cur = some s ∧ s.recvExpired (s.chFirst .rq) (s.me.x 3) = false ∧ s.chHead .rq = some (packet 8))
    ∧ (let s := later (base.updMbox 1 7 fun b => { b with ring := [oldPacket 1] })
       s.fixVlds s.cur = some s ∧ s.recvExpired (s.chFirst (.mb 7)) (s.me.x 3) = false ∧ s.chHead (.mb 7) = some (packet 1))
    ∧ (base.fixVlds base.cur = some base ∧ base.recvExpired (base.chFirst .rq) (base.me.x 3) = true)
    ∧ (let s := onArch fun a => { a with status := 3 }
       s.fixVlds s.cur = some s ∧ s.recvExpired (s.chFirst (.mb 7)) (s.me.x 3) = true ∧ s.me.arch.tm = true)
    ∧ (let s := later (base.updMbox 1 7 fun b => { b with ring := [{ oldPacket 1 with pkt := { packet 1 with host := true } }] })
       s.fixVlds s.cur = some s ∧ s.recvExpired (s.chFirst (.mb 7)) (s.me.x 3) = false
       ∧ s.chHead (.mb 7) = some { packet 1 with host := true } ∧ s.acquireWait s.cur .sys [] = false)
    ∧ base.me.arch.rcnt = 0
    ∧ (let s := later (onMe fun c => { c with rq := [oldPacket 1], arch := { c.arch with rcnt := 1 } })
       s.fixVlds s.cur = some s ∧ s.me.arch.rcnt = 1 ∧ s.recvExpired (s.chFirst .rq) (s.me.x 3) = false ∧ s.chHead .rq = some (packet 1)
       ∧ (packet 1).tok = false)
    ∧ (let s := (heldIn (.recv 1 2 3 .rq) (some 0) false).updArch fun a => a.wx 2 0
       (∃ b, decodeBundle (s.core 0).bundle = .ok b ∧ b.c = .recv 1 2 3 .rq) ∧ (s.core 0).flow = .held cMSG
       ∧ (s.core 0).arch.wait.since = some 0 ∧ (s.core 0).x 2 ≠ 0xFFFFFFFFFFFFFFFF#64
       ∧ (s.core 0).now + (((s.core 0).x 2).toNat + 0) * s.periodOf 0 ≤ s.clock + (s.core 0).cycle * s.periodOf 0
       ∧ ({ s with cur := 0 } : State).chFirst .rq = none) := by
  refine ⟨by decide +kernel, by decide +kernel, by decide +kernel, by decide +kernel, by decide +kernel, by decide +kernel, by decide +kernel,
    by decide +kernel, ⟨⟨_, rfl, rfl⟩, by decide +kernel⟩⟩

theorem witness_ExchangeMeets :
    (0 : BitVec 4).toNat.testBit (coreIn base.cur) = false
    ∧ (onArch fun a => { a with streams := [(24, { Stream.unbound with bound := true })] }).me.bound (24 : VReg).toNat = true
    ∧ (let s := onArch fun a => { a with wait := { a.wait with xchg := some 9, xchgDone := some (5, true) } }
       (15 : BitVec 4).toNat.testBit (coreIn s.cur) = true ∧ s.me.bound (1 : VReg).toNat = false ∧ s.me.arch.wait.xchg = some 9
       ∧ s.me.arch.wait.xchgDone = some (5, true))
    ∧ ((1 : BitVec 4).toNat.testBit (coreIn base.cur) = true ∧ base.me.bound (1 : VReg).toNat = false ∧ base.me.arch.wait.xchg = none
       ∧ (1 : BitVec 4).toNat = 2 ^ coreIn base.cur ∧ SMap.get (base.quad (quadOf base.cur)).xchg [] (1 : BitVec 4).toNat = []
       ∧ base.me.contained = false)
    ∧ (let l : List (Nat × Nat × BitVec 4096 × Bool) := [(0, 1, 7, false), (3, 2, 9, false)]
       l.find? (fun e => decide (e.1 = 3)) = some (3, 2, 9, false)) := by decide +kernel

/-- Level n of context 1 bound to b. -/
def bindLevel (s : State) (n b : Nat) : State := { s with mem := s.mem.wr (0x108000 + 0x100 * n) (BitVec.ofNat 8 b) }
def ilEnt (port tag : Nat) : IlEntry := ⟨port, tag, vshapeReset, 0, 4, false, true, 0, 1, 0⟩
/-- The destinations that v2, sent on level l, reaches at once. -/
def sentTo (s : State) (dests : List (Nat × Nat)) (l : Nat) : Nat :=
  (s.sendAll s.me.ctxNum dests (fun port => { port := port, tag := l, shape := s.me.arch.vshape, data := s.me.arch.rv 2, src := s.cur, tok := false, present := false, since := 0, ctx := s.me.ctxNum, strand := 0 })
    ((s.updWait fun w => { w with since := w.since <|> some s.clock }).sendExpired s.cur)).2
/-- A level's transfer of v2 on a path, with its destinations. -/
def sending (s : State) (l : Nat) (up : Bool) (p : LvPath) (dests : List (Nat × Nat)) : Prop :=
  vBytes s.me.arch.vshape = 4 ∧ s.levelPath s.me.ctxNum l up = .ok p ∧ s.sealedDest dests = none
  ∧ s.takeV (2 : Reg).toNat = (s, .ok (s.me.arch.rv 2)) ∧ s.me.sb = [] ∧ s.me.vmemDone = true
/-- Level 0 and level 1 of context 1 on layers 0 and 1, the parent of core 0 at work. -/
def leveled : State := bindLevel (bindLevel (withCells base 30000) 0 0) 1 1

theorem witness_LevelsMove_up :
    upDest base.cur .port = (1024, 0)
    ∧ (let s := strandOn leveled 1024
       sending s (0 : Reg).toNat true .port [(1024, 0)] ∧ sentTo s [(1024, 0)] 0 = 2 ^ 1 - 1)
    ∧ (sending leveled (0 : Reg).toNat true .port [(1024, 0)] ∧ sentTo leveled [(1024, 0)] 0 = 2 ^ 1 - 1)
    ∧ (let s := withCells leveled 0
       sending s (0 : Reg).toNat true .port [(1024, 0)] ∧ sentTo s [(1024, 0)] 0 ≠ 2 ^ 1 - 1) := by
  refine ⟨by decide +kernel, ?_, ?_, ?_⟩ <;>
    exact ⟨⟨by decide +kernel, by decide +kernel, by decide +kernel, rfl, by decide +kernel, by decide +kernel⟩, by decide +kernel⟩

/-- Levels 14 and 15 folded on layer 0: a path with one slot, to the core itself. -/
theorem witness_LevelsMove_down :
    let s := bindLevel (bindLevel leveled 14 0) 15 0
    maskSlots .folded (1 : BitVec 4).toNat = some [0] ∧ downDest s.cur .folded 0 = (0, 7) ∧ sending s (15 : Reg).toNat false .folded [(0, 7)]
    ∧ sentTo s [(0, 7)] 15 = 2 ^ 1 - 1 :=
  ⟨by decide +kernel, by decide +kernel, ⟨by decide +kernel, by decide +kernel, by decide +kernel, rfl, by decide +kernel, by decide +kernel⟩,
    by decide +kernel⟩

/-- RESTR.take of the four slots on core 1024 of layer 1, and PROLG.take from the parent. -/
theorem witness_LevelsMove_take :
    (let s := { (strandOn leveled 1024).updCore 1024 fun c => { c with now := 1, ilq := [ilEnt 0 0, ilEnt 1 0, ilEnt 2 0, ilEnt 3 0] } with cur := 1024 }
     vBytes s.me.arch.vshape = 4 ∧ s.me.bound (2 : Reg).toNat = false ∧ s.levelPath s.me.ctxNum (1 : Reg).toNat false = .ok .port
     ∧ maskSlots .port (0 : BitVec 4).toNat = some [0, 1, 2, 3]
     ∧ (([0, 1, 2, 3].map fun i => (upSource .port i, i)).map fun x => s.me.ilHead x.1) = ([ilEnt 0 0, ilEnt 1 0, ilEnt 2 0, ilEnt 3 0] : List IlEntry).map some
     ∧ ∀ e ∈ ([ilEnt 0 0, ilEnt 1 0, ilEnt 2 0, ilEnt 3 0] : List IlEntry), e.tok = false ∧ e.tag = (1 : Reg).toNat - 1)
    ∧ (let s := leveled.updMe fun c => { c with now := 1, ilq := [ilEnt 6 1] }
       s.me.bound (2 : Reg).toNat = false ∧ s.levelPath s.me.ctxNum (0 : Reg).toNat true = .ok .port ∧ downSource s.cur .port = (6, 0)
       ∧ s.me.ilHead 6 = some (ilEnt 6 1) ∧ (ilEnt 6 1).tok = false ∧ (ilEnt 6 1).tag = (0 : Reg).toNat + 1) := by decide +kernel

theorem witness_LevelsMove_load :
    (let s := withCells (onArch fun a => a.wx 4 0x2000) 0
     let q := s.coreRead s.cur (MemOp.ea s.me 64 (.short 4 1)) 160 .read .align
     (MemOp.ea s.me 64 (.short 4 1)).toNat % 64 = 0 ∧ q = (q.1, .ok (okOr ([], 0) q)) ∧ q.1.pkgDone q.1.cur = true)
    ∧ base.pkgDone base.cur = true
    ∧ (let s := onMe fun c => { c with ilq := [{ ilEnt 7 2 with present := false }] }
       (s.core 0).ilq[0]? = some { ilEnt 7 2 with present := false } ∧ s.crossWaits (dieOf 0) (dieOf 0) = false) := by decide +kernel

/-- Domain 31 of die 0 armed for context 1 with the four cores of quad 0, or core 0 alone, as members. -/
def domain31 (dctl : Word) (f : Domain → Domain) : State :=
  base.updDomain 0 31 fun d => f { d with qmask := 1, dctl := dctl, st := .armed }
def waitsAt (s : State) (arrived : Bool) (done : Option Bool) : State :=
  s.updArch fun a => { a with wait := { a.wait with bar := some (0, 31, false), barArrived := arrived, barDone := done } }

theorem witness_BarrierRounds :
    (let s := domain31 0x0F00000100000000 fun d => { d with st := .broken }
     s.me.arch.wait.bar = none ∧ s.mayArrive (31 : BitVec 5).toNat = true ∧ ((s.die (dieOf s.cur)).domain (31 : BitVec 5).toNat).st ≠ .armed)
    ∧ (let s := waitsAt (domain31 0x0F00000100000000 id) true (some true)
       s.me.arch.wait.bar = some (dieOf s.cur, (31 : BitVec 5).toNat, false) ∧ s.me.arch.wait.barDone = some true)
    ∧ (base.me.arch.wait.bar = none ∧ base.mayArrive (0 : BitVec 5).toNat = false)
    ∧ (let s := domain31 0x0F00000200000000 id
       s.me.arch.wait.bar = none ∧ s.mayArrive (31 : BitVec 5).toNat = false)
    ∧ (let s := waitsAt (domain31 0x0100000100000000 id) false none
       (s.core 0).arch.wait.bar = some (0, 31, false) ∧ (s.core 0).strand ≠ none ∧ (s.core 0).arch.wait.barArrived = false
       ∧ ((s.die 0).domain 31).st = .armed ∧ 0 ∉ ((s.die 0).domain 31).arrived ∧ s.storesDone 0 (s.barScope 0 31) = true) := by decide +kernel

def released : State := waitsAt (domain31 0x0100000100000000 fun d => { d with arrived := [0] }) true none

theorem witness_BarrierRounds_release :
    released.releasable 0 31 = true ∧ (released.core 0).arch.wait.bar.map (fun b => (b.1, b.2.1)) = some (0, 31)
    ∧ (released.core 0).arch.wait.barArrived = true ∧ (released.core 0).arch.wait.barDone = none := by
  refine ⟨?_, by decide +kernel⟩
  have h : (released.die 0).domain 31 = ⟨1, 0x0100000100000000, 0, .armed, 0, [0], false, 0, none⟩ := by decide +kernel
  have e : released.halves 0 31 = [0] := by decide +kernel
  have g : released.gathering 0 31 = true := by decide +kernel
  simp [State.releasable, h, e, g, isArmed, Domain.pkg]
  decide +kernel

def watching : State :=
  { waitsAt (domain31 0x0300000100000001 fun d => { d with arrived := [0], started := some 0 }) true none with clock := 11088000 }

def dom31 : Domain := ⟨1, 0x0300000100000001, 0, .armed, 0, [0], false, 0, some 0⟩

theorem witness_BarrierRounds_watchdog :
    let s := watching
    ((s.die 0).domain 31).st = .armed ∧ fld ((s.die 0).domain 31).dctl 31 0 ≠ 0 ∧ s.gathering 0 31 = true
    ∧ fld ((s.die 0).domain 31).dctl 31 0 * 1000 * 11088 ≤ s.watched 0 31 ∧ s.releasable 0 31 = false
    ∧ (s.core 0).arch.wait.bar.map (fun b => (b.1, b.2.1)) = some (0, 31) ∧ (s.core 0).arch.wait.barArrived = true
    ∧ (s.core 0).arch.wait.barDone = none := by
  refine ⟨by decide +kernel, by decide +kernel, by decide +kernel, by decide +kernel, ?_, by decide +kernel⟩
  have h : (watching.die 0).domain 31 = dom31 := by decide +kernel
  have e : watching.halves 0 31 = [0] := by decide +kernel
  have m : dom31.members 0 = [0, 1] := by decide +kernel
  have r : dom31.arrived = [0] := rfl
  simp [State.releasable, h, e, m, r]

theorem witness_DomainControl :
    (let s := base.updDomain 0 0 fun d => { d with qmask := 1 }
     ((s.die 0).domain 0).st ≠ .armed ∧ s.domainOk 0 0 0x8F00000100000000 = true)
    ∧ ((domain31 0 id).die 0).domain 31 = { Domain.reset with qmask := 1, st := .armed }
    ∧ (((base.die 1).domain 31).st ≠ .armed ∧ base.domainOk 1 31 0x8F00000100000000 = false) := by decide +kernel

/-! ## Strands, pairs, the Percolator -/

/-- Context 1 as CTX_START leaves it, core 0's strand under its launch 4. -/
def objects : State :=
  (base.updCtx 1 fun c => { c with nextId := 6, objs := [(1, Obj.new 4 0 1), (2, Obj.new 3 1 1), (3, Obj.new 2 2 2), (4, Obj.new 1 3 1), (5, Obj.new 1 3 1)] }).updMe
    fun c => { c with strand := some { hostStrand with r := { hostStrand.r with launch := 4 } } }

theorem witness_SuspensionPoints :
    (objects.me.strand = some { hostStrand with r := { hostStrand.r with launch := 4 } } ∧ hostStrand.r.cx = false
      ∧ objects.me.arch.openRep = none ∧ objects.dual objects.cur = false ∧ objects.me.issuedA = none ∧ objects.me.xAt 0 = 0)
    ∧ (objects.updArch fun a => { a with status := 3 }).me.arch.tm = true
    ∧ (objects.me.arch.tm = false ∧ (objects.ctx 1).named 1 (objects.me.x 0) = none)
    ∧ (let s := objects.updArch fun a => a.wx 3 (handleWord 4 1 1)
       (s.ctx 1).named 1 (s.me.x 3) = some 1 ∧ (s.ctx 1).under 1 4 = true)
    ∧ (objects.suspendWait objects.cur = none ∧ objects.me.arch.arming = 0)
    ∧ (let s := objects.updArch fun a => a.wx 3 (handleWord 1 1 5)
       s.me.strand = some { hostStrand with r := { hostStrand.r with launch := 4 } } ∧ s.suspendWait s.cur = none ∧ s.me.arch.tm = false ∧ s.me.arch.arming = 0
       ∧ (s.ctx 1).named 1 (s.me.x 3) = some 5 ∧ (s.ctx 1).under 5 4 = false ∧ (s.ctx 1).outcome s.stamp 5 = none) := by decide +kernel

theorem witness_SpawnAndCancel :
    (let s := objects.updArch fun a => a.wx 3 0x1000000
     s.spawnTrap (s.me.x 3) { hostStrand with r := { hostStrand.r with launch := 4 } } (.label (-1)) = none ∧ s.storesDone s.cur .pkg = true
     ∧ s.slotsUsed 1 + 1 + (launchPlaces 15).length ≤ 2 ^ 20
     ∧ (let r : Rec := ⟨s.me.arch.pc + 8 * (-1 : BitVec 22).signExtend 64, false, true, 0, 0, 0, false, 0, false, false, 4, false, 15, 0, 0,
          [0, s.me.x 2, s.me.x 3, s.me.x 4, s.me.x 5], false⟩
        (s.newLaunch 1 ((s.ctx 1).spawnGraph { hostStrand with r := { hostStrand.r with launch := 4 } } s.me.arch.arming) r (fld (s.me.x 3) 24 0)).map Prod.fst = some 6))
    ∧ 2 ^ 24 < fld (0x1000001 : Word) 24 0 ∧ fld (0x10000000000 : Word) 63 40 ≠ 0 ∧ fld (0x2000000 : Word) 31 25 ≠ 0
    ∧ (objects.ctx 1).named 1 (handleWord 4 1 1) = some 1 ∧ (objects.ctx 1).named 1 (handleWord 4 2 1) = none
    ∧ (objects.ctx 1).named 1 (handleWord 1 1 6) = none := by decide +kernel

def paired : State := onMe fun c => { c with arch := { c.arch with status := 0x40002 }, pair := { Pair.single with st := .paired } }
def exchanging (print : Word) : State :=
  onMe fun c => { c with arch := { c.arch with status := 0x40002 }, pair := { Pair.single with st := .exchanging, print := print, ckpt := some Arch.reset } }

theorem witness_PairsAgree :
    paired.dual paired.cur = true ∧ paired.cur % 2 = 0
    ∧ (let s := base.updQuad 0 fun q => { q with spad := 15 }
       s.dual s.cur = false ∧ (s.journalFits s.cur).2 = false)
    ∧ (base.dual base.cur = false ∧ (base.journalFits base.cur).2 = true ∧ base.me.pair.st ≠ .claiming)
    ∧ (let s := onMe fun c => { c with pair := { Pair.single with st := .claiming } }
       (s.core 0).pair.st = .claiming ∧ (s.core 0).pair.odd = false ∧ s.partnerFree 1 = true ∧ (s.core 0).strand ≠ none)
    ∧ (let s := exchanging 7
       (s.core 0).pair.st = .exchanging ∧ (s.core 0).intervalDone = true
       ∧ (s.core 0).pair.late.foldl crcWord (s.core 0).pair.print = 7 ∧ (s.core 0).pair.late.foldl crcWord (s.core 0).pair.print ≠ 8
       ∧ (s.core 0).pair.fails < 2 ∧ (s.core 0).pair.solo = false ∧ (s.core 0).pair.ckpt = some Arch.reset) := by decide +kernel

theorem witness_PercolatorWorks :
    (let s := onArch fun a => a.wx 6 128
     s.percBusy = false ∧ fld s.me.arch.vshape 1 0 = 2 ∧ (s.me.x 6).toNat + vElems s.me.arch.vshape ≤ 256
     ∧ s.me.bound (31 : VReg).toNat = false ∧ vElems s.me.arch.vshape ≤ 128
     ∧ badLane (s.me.arch.rv (5 : VReg).toNat) = none)
    ∧ (let s := onArch fun a => { a with perc := { a.perc with running := true } }
       s.percBusy = true ∧ (s.core 0).arch.perc.running = true ∧ (s.quad (quadOf 0)).dbg = false ∧ hostStrand.spilling = false) := by decide +kernel

theorem witness_PercolatorWorks_operands :
    base.takeV (31 : VReg).toNat = (base, .ok (base.me.arch.rv 31)) ∧ base.takeV (5 : VReg).toNat = (base, .ok (base.me.arch.rv 5)) := ⟨rfl, rfl⟩

/-- A spilled packet. -/
def spilled8 : SpillEntry :=
  { pkt := some (packet 8), il := none, holder := 5, reserve := false, cells := 8, idx := [0, 1, 2, 3, 4, 5, 6, 7], since := 0, mine := false }

theorem witness_QueuesDeliver :
    (let s := base.updCore 1359 fun c => { c with rq := [oldPacket 1, crossing 8 1] }
     (1359 : Nat) < numCores ∧ (s.core 1359).rq[1]? = some (crossing 8 1) ∧ s.crosses (dieOf 1359) (crossing 8 1) = true)
    ∧ (let s := base.updMbox 4095 7 fun b => { b with ring := [crossing 8 4095] }
       ((s.ctx 4095).mbox 7).ring[0]? = some (crossing 8 4095) ∧ s.crosses (s.mboxDie 4095) (crossing 8 4095) = true)
    ∧ (let s := base.updCtx 1 fun c => { c with spillQ := [(0, [spilled8])] }
       s.resident 0 1 = true ∧ (s.core 0).rqSealed = false ∧ SMap.get (s.ctx 1).spillQ [] 0 = [spilled8]
       ∧ (s.fromCells 1 spilled8).pkt = some (packet 8) ∧ occupied (s.core 0).rq + (packet 8).size ≤ 16)
    ∧ ((base.ctx 1).mbox 0).sealed = false
    ∧ (let b := (base.ctx 1).mbox 7
       b.sealed = false ∧ (base.ctx 1).isOpen = true ∧ occupied b.ring + 1 ≤ 128 ∧ b.spill = [])
    ∧ ((base.updMbox 1 7 fun b => { b with sealed := true }).ctx 1).mbox 7 = { Mailbox.empty with sealed := true } := by decide +kernel

end Sys2Proof.Tests
end

