-- ==== Sys2Proof/Tests/WitnessPackage.lean ====
section
/-! SUPPORT. Tests: states and operands that meet the hypotheses of the obligations about contexts, dispensers, pages, power, service, links, graphs and the package. -/

namespace Sys2Proof.Tests

set_option Elab.async false

open Sys2Proof Sys2Proof.Machine

/-! ## Contexts, dispensers, pages, divided memories -/

/-- A valid descriptor at 0x400: LMASK 15 in CAP, one cell, a resident record for layer 0. -/
def described : State :=
  { (State.reset.updCtx 1 fun c => { c with desc := 0x400 }) with mem := [(0x200, 1#8), (0x4D1, 0x0F#8), (0x511, 1#8)] }
def ctxIn (s : State) (st : CtxState) : State := s.updCtx 4095 fun c => { c with st := st, d := some (s.readDesc 0x400) }
def item (s : State) (f : Item → Item) : Item :=
  f { rid := 7, ctx := 1, die := 0, layer := 0, place := .ring, since := 0, born := 0, seq := 0, was := none, slot := 3, r := { (s.readDesc 0x400).res with launch := 4 },
      out := none }

theorem witness_ContextsMove :
    ((4095 : BitVec 12) ≠ 0 ∧ (State.reset.ctx 4095).st = .free ∧ State.reset.descValid (State.reset.ctx 4095).desc.toNat = false)
    ∧ ((described.ctx 1).st = .free ∧ described.descValid (described.ctx 1).desc.toNat = true)
    ∧ ((ctxIn described .ready).ctx 4095).st = .ready ∧ ((ctxIn described .ready).ctx 4095).d = some (described.readDesc 0x400)
    ∧ (described.readDesc 0x400).res.lmask = 1
    ∧ ((ctxIn described .live).ctx 4095).st = .live ∧ (ctxIn described .live).cores = [] ∧ (ctxIn described .live).items = []
    ∧ ((ctxIn described .dead).ctx 4095).st = .dead
    ∧ (base.tornBy .hostPort = [1] ∧ (base.ctx 1).st = .live)
    ∧ (((ctxIn described .tearing).ctx 4095).st = .tearing ∧ (ctxIn described .tearing).ctxEmpty 4095 = true) := by decide +kernel

/-- A LIVE context with one record in a ring. -/
def queued (f : Item → Item) : State :=
  let s := described.updCtx 1 fun c => { c with st := .live, d := some (described.readDesc 0x400) }
  { s with items := [item s f], clock := 2000 * 11088 }

/-- With the record in its pool slot. -/
def dispatched : State :=
  let s := queued id
  s.putWords [] (s.poolWords 1 (described.readDesc 0x400))

theorem witness_DispensersWork_dispatch :
    let it := item dispatched id
    let r := dispatched.slotRec it.ctx it.slot (dispatched.itemRec it)
    dispatched.headOf 0 0 = some it ∧ dispatched.placeFor 0 0 it = some 0 ∧ it.place = .ring ∧ it.out = none
    ∧ r.kind ≠ 5 ∧ r.pr = false ∧ r.spl = false ∧ recOk (match (dispatched.ctx it.ctx).d with | some x => x.cap | none => 0) r = true := by decide +kernel

/-- The first core of layer 3 of die 0. -/
def outermost : Nat := (coresOf 0 3).headD 0

/-- All the other cores of layer 3 of die 0 are contained, and this one runs at priority 0 what a head of priority 8 may pre-empt. -/
def outranked : State :=
  let s := queued fun it => { it with layer := 3, r := { it.r with pri := 8 } }
  { s with
    cores := (coresOf 0 3).map fun g => (g, if g = outermost then { Core.reset with strand := some hostStrand } else { Core.reset with contained := true })
    mem := s.mem.wr 0 2 }

theorem witness_DispensersWork_preemption :
    outranked.victim (dieOf outermost) (layerOf outermost) = some outermost ∧ base.victim (dieOf 0) (layerOf 0) ≠ some 0 := by decide +kernel

theorem witness_DispensersWork :
    (let s := { queued fun it => { it with r := { it.r with age := 15, pri := 111 } } with clock := 100000 * 11088 }
     let it := item s fun it => { it with r := { it.r with age := 15, pri := 111 } }
     let q := fld (SMap.get (s.die it.die).dispctl dispctlReset it.layer) 31 16
     s.items.find? (fun x => decide (x.rid = 7)) = some it ∧ it.place = .ring ∧ effPri it.r < 127 ∧ it.r.age < 16
     ∧ q ≠ 0 ∧ q * 1000 ≤ s.clock / 11088 - it.since / 11088)
    ∧ (let s := queued fun it => { it with place := .sleeping 2000 }
       (s.items.find? (fun x => decide (x.rid = 7))).map (·.place) = some (.sleeping 2000) ∧ 2000 ≤ s.clock / 11088)
    ∧ (let s := onMe fun c => { c with arch := { c.arch with vfault := some ⟨7, 0x40⟩ } }
       (s.core 0).strand ≠ none ∧ (s.quad (quadOf 0)).dbg = false ∧ (s.core (0 / 2 * 2)).pair.st ≠ .exchanging ∧ (s.core 0).micro = none
       ∧ (s.core 0).amoFlying = false
       ∧ (s.core 0).arch.tm = false ∧ (s.core 0).due s.clock = some (.trap 7 0x40))
    ∧ (let s := { base with clock := 1000 * 1000 * 11088 }
       (s.core 0).strand = some hostStrand ∧ (s.quad (quadOf 0)).wd ≠ 0 ∧ s.watchStopped 0 = false
       ∧ (s.quad (quadOf 0)).wd * 1000 * 11088 ≤ s.clock - hostStrand.retired)
    ∧ (let s := onMe fun c => { c with acct := { c.acct with cycles := 4096 } }
       4096 ≤ (s.core 0).acct.cycles + (s.clock - (s.core 0).now) / s.periodOf 0 - (s.core 0).acct.lastFlush)
    ∧ (let s := onArch fun a => { a with copies := { a.copies with acctctl := 1 } }
       (s.core 0).strand ≠ none ∧ (s.core 0).pcrec = true) := by decide +kernel

theorem witness_DispensersWork_objects : (objects.arm false).isSome = true ∧ (objects.arm true).isSome = true := by decide +kernel

/-- x4 = 0x2000, mapped to DRAM. -/
def pageAt : State := onArch fun a => a.wx 4 0x2000
/-- x4 = 0x2000, mapped to the start of the host window, whose page is in host bias and moving or not. -/
def hostAt (b : List (Nat × Bias)) : State :=
  { (pageAt.updMe fun c => { c with tlb := [⟨1, 0, 21, 2 ^ 51, 0xDD, false⟩] }).updLink 0 1 fun l => { l with st := .up } with bias := b }
/-- The same mapped to the CXL tier of port 2 of die 0, whose link is up. -/
def cxlAt : State :=
  (pageAt.updMe fun c => { c with tlb := [⟨1, 0, 21, 2 ^ 40, 0xDD, false⟩] }).updLink 0 2 fun l => { l with st := .up }
/-- What a host page mapped and translated gives. -/
def plainAt (pa : Nat) : Xlated := ⟨pa, pa, false, false, false, false, none⟩

theorem witness_PagesAndGenerations :
    (0xFFF : Nat) % 4096 ≠ 0 ∧ (pageAt.me.x 4).toNat % 4096 = 0
    ∧ (let r := pageAt.translate pageAt.cur (pageAt.me.x 4).toNat .write
       pageAt.walkHeld (pageAt.me.x 4).toNat .write = false ∧ r = (r.1, .ok (okEx (plainAt 0) r)) ∧ r.1.imageOk (okEx (plainAt 0) r).pa = false ∧ isHost (okEx (plainAt 0) r).pa = false)
    ∧ (SMap.get? (hostAt [(5, .toDevice)]).bias 5 = some .toDevice ∧ SMap.get? (hostAt [(5, .toHost)]).bias 5 = some .toHost
       ∧ ∀ e, e < 2 → ((hostAt [(5, .toHost)]).die e).past = [] ∧ ((hostAt [(5, .toDevice)]).die e).past = [])
    ∧ user.me.arch.pl = false
    ∧ (base.me.arch.pl = true ∧ base.storesHome base.cur = true ∧ (∀ g ∈ base.coresOfCtx 1, base.usesTlb g = false)
       ∧ ∀ g ∈ base.coresOfCtx 1, base.accessesDone g = true)
    ∧ (let s := { base with gen := { base.gen with draining := true, image := 2 ^ 40, blocks := [(0, ⟨.frozen, [], [], false⟩)] } }.updLink 0 2
         fun l => { l with st := .up }
       s.gen.draining = true ∧ s.imageUp = true ∧ s.nextBlock 0 = some 0 ∧ s.nextBlock 1 = none)
    ∧ (let s := { base with gen := { base.gen with draining := true, image := 2 ^ 40 } }.updLink 0 2 fun l => { l with st := .degraded }
       s.gen.draining = true ∧ s.imageUp = true ∧ s.nextBlock 0 = none ∧ s.gen.left = 0 ∧ fld (5 : Word) 4 0 ≠ s.gen.rsv)
    ∧ (base.gen.draining = false ∧ 16 < fld (17 : Word) 4 0 ∧ fld (16 : Word) 4 0 ≤ 16) := by decide +kernel

/-- A host page in device bias, with no BIAS at work, or one to device bias whose flip is complete. -/
def hostPage (done : Bool) : State :=
  (hostAt [(2 ^ 39 + 2, .device)]).updWait fun w => { w with bias := if done then some (2 ^ 39 + 2, false) else none, biasDone := done }

set_option maxRecDepth 20000 in
/-- Where the host answers for it, the page translates. -/
theorem witness_PagesAndGenerations_bias (done : Bool) (h : Config.hostAnswers 0x2000 = true) :
    let s := hostPage done
    s.translate s.cur (s.me.x 4).toNat .write = (s, .ok (plainAt (2 ^ 51 + 0x2000)))
    ∧ isHost (2 ^ 51 + 0x2000) = true
    ∧ (let w := s.recordBias false (2 ^ 51 + 0x2000)
       w.moving (2 ^ 51 + 0x2000) = false ∧ biasDev (SMap.get w.bias .host ((2 ^ 51 + 0x2000) / 4096)) = true
       ∧ w.me.arch.wait.bias = (if done then some ((2 ^ 51 + 0x2000) / 4096, !true) else none) ∧ w.me.arch.wait.biasDone = done
       ∧ w.biasBehind ((2 ^ 51 + 0x2000) / 4096) = false ∧ w.accessesDone s.cur = true)
    ∧ s.walkHeld (s.me.x 4).toNat .write = false := by
  have a : isSpad (2 ^ 51 + 0x2000) = false := by decide +kernel
  have b : rangeOf (2 ^ 51 + 0x2000) = .host := by decide +kernel
  have c : homeOffset (2 ^ 51 + 0x2000) = 0x2000 := by decide +kernel
  have d : (hostPage done).hostUp = true := by cases done <;> decide +kernel
  have m : (hostPage done).hasMemory (2 ^ 51 + 0x2000) = true := by simp only [State.hasMemory, a, b, c, d, h]; rfl
  have hx : (hostPage done).xlate 0 0x2000 .write
      = if (hostPage done).hasMemory (2 ^ 51 + 0x2000) || false then .ok (plainAt (2 ^ 51 + 0x2000)) else .error cPROT := by
    cases done <;> rfl
  have w : (hostPage done).walkOf 0 0x2000 .write = [] := by cases done <;> decide +kernel
  have qh : (hostPage done).quadHit 0 0x2000 .write = false := by cases done <;> decide +kernel
  have g : (hostPage done).cur = 0 := rfl
  have v : ((hostPage done).me.x 4).toNat = 0x2000 := by cases done <;> decide +kernel
  refine ⟨?_, by decide +kernel, by cases done <;> decide +kernel, by cases done <;> decide +kernel⟩
  rw [g, v]
  simp only [State.translate, State.translated, State.startWalk, w, qh, List.foldl_nil, List.length_nil, hx, m,
      Bool.true_or, if_true]
  rfl

set_option maxRecDepth 20000 in
/-- An image in a CXL tier that is large enough. -/
theorem witness_PagesAndGenerations_snap (h : 0x2001002 ≤ Config.cxlPages 0) :
    (cxlAt.me.x 4).toNat % 4096 = 0 ∧ cxlAt.walkHeld (cxlAt.me.x 4).toNat .write = false
    ∧ cxlAt.translate cxlAt.cur (cxlAt.me.x 4).toNat .write = (cxlAt, .ok (plainAt (2 ^ 40 + 0x2000)))
    ∧ cxlAt.imageOk (2 ^ 40 + 0x2000) = true ∧ cxlAt.gen.draining = false ∧ (cxlAt.updMe id).gen.ctx = 0 ∧ cxlAt.me.loadsDone = true
    ∧ cxlAt.storesDone cxlAt.cur .sys = true ∧ cxlAt.me.vmemDone = true ∧ (cxlAt.die 0).past = [] ∧ (cxlAt.die 1).past = [] := by
  have a : isSpad (2 ^ 40 + 0x2000) = false := by decide +kernel
  have b : rangeOf (2 ^ 40 + 0x2000) = .cxl 0 := by decide +kernel
  have c : homeOffset (2 ^ 40 + 0x2000) = 0x2000 := by decide +kernel
  have d : cxlAt.cxlUp 0 = true := by decide +kernel
  have m : cxlAt.hasMemory (2 ^ 40 + 0x2000) = true := by
    have : 0x2000 / 4096 < Config.cxlPages 0 := by omega
    simp only [State.hasMemory, a, b, c, d]
    simpa using this
  have hx : cxlAt.xlate 0 0x2000 .write
      = if cxlAt.hasMemory (2 ^ 40 + 0x2000) || false then .ok (plainAt (2 ^ 40 + 0x2000)) else .error cPROT := rfl
  have w : cxlAt.walkOf 0 0x2000 .write = [] := by decide +kernel
  have qh : cxlAt.quadHit 0 0x2000 .write = false := by decide +kernel
  have g : cxlAt.cur = 0 := rfl
  have v : (cxlAt.me.x 4).toNat = 0x2000 := by decide +kernel
  refine ⟨by decide +kernel, by decide +kernel, ?_, ?_, by decide +kernel⟩
  · rw [g, v]
    simp only [State.translate, State.translated, State.startWalk, w, qh, List.foldl_nil, List.length_nil, hx, m,
      Bool.true_or, if_true]
    rfl
  · simp only [State.imageOk, b, c, d, imageBytes, Bool.true_and, Bool.and_eq_true, decide_eq_true_eq]
    omega

theorem witness_PagesAndGenerations_table :
    let q := pageAt.coreRead pageAt.cur (MemOp.ea pageAt.me 64 (.short 4 0)) 1024 .read .align
    (MemOp.ea pageAt.me 64 (.short 4 0)).toNat % 64 = 0 ∧ q = (q.1, .ok (okOr ([], 0) q))
    ∧ q.1.me.arch.vseq.any (fun e => vUsesTab e.ins) = false ∧ q.1.me.mUsesTab = false := by decide +kernel

/-- The flip of a page for which a BIAS waits. -/
theorem witness_PagesAndGenerations_flip :
    let s := (hostAt [(5, .toHost)]).updWait fun w => { w with bias := some (5, true) }
    SMap.get? s.bias 5 = some (if false then .toDevice else .toHost) ∧ (s.core 0).arch.wait.bias = some (5, true)
    ∧ ∀ e, e < 2 → (s.die e).past = [] := by decide +kernel

/-- Block 2^24 + 3 of die 1 quarantined, its scrub under way. -/
def scrubbing : State :=
  { base.updDie 1 fun d => { d with scrubBusy := true, scrubPa := BitVec.ofNat 64 (4096 * (2 ^ 24 + 3)) } with
    gen := { base.gen with blocks := [(2 ^ 24 + 3, ⟨.quarantined, [], [], false⟩)] } }

theorem witness_MemoriesAreDivided :
    (base.die 0).scrubBusy = false
    ∧ (let k := unalias (scrubbing.die 1).scrubPa.toNat
       (scrubbing.die 1).scrubBusy = true ∧ blockOf k = some (2 ^ 24 + 3) ∧ blockIs scrubbing k .quarantined = true ∧ (2 ^ 24 + 3) / 2 ^ 24 = 1
       ∧ 0 < scrubbing.gen.free 1)
    ∧ ({ scrubbing with gen := { scrubbing.gen with retired := [(1, 2 ^ 20)] } }).gen.free 1 = 0
    ∧ 8 < fld (9 : Word) 3 0
    ∧ (fld (8 : Word) 3 0 ≤ 8 ∧ ((base.die 0).slice 31).st = 0 ∧ ((base.die 0).slice 31).cur < fld (8 : Word) 3 0
       ∧ fld (0 : Word) 3 0 = ((base.die 0).slice 31).cur)
    ∧ (let s := base.updSlice 0 31 fun x => { x with st := 1, cur := 8 }
       ((s.die 0).slice 31).st = 1)
    ∧ (let s := base.updSlice 0 31 fun x => { x with cur := 8 }
       fld (0 : Word) 3 0 < ((s.die 0).slice 31).cur ∧ ((s.die 0).slice 31).st = 0)
    ∧ (let s := base.updSlice 0 31 fun x => { x with st := 2 }
       ((s.die 0).slice 31).st = 2 ∧ s.windowBusy 0 31 = false
       ∧ (s.updCore 4 fun c => { c with sb := [{ bytes := [(apertureBase 0 31, 1)], words := [], rel := none, exempt := false, awaits := none, flush := false }] }).windowBusy 0 31 = true)
    ∧ (fld (64 : Word) 9 0 ≤ sramUnits (quadLayer 0) ∧ base.journalLow 0 = none ∧ sramUnits (quadLayer 0) < fld (65 : Word) 9 0) := by decide +kernel

/-! ## Power, service, links, graphs, the package -/

theorem witness_PowerIsDivided :
    base.clock / 11088 < 10000 * (base.power.divisions + 1)
    ∧ (let s := { base with clock := 110880000, power := { base.power with moded := true } }
       10000 * (s.power.divisions + 1) ≤ s.clock / 11088 ∧ s.power.moded = true)
    ∧ ({ base with clock := 110880000 }).power.moded = false
    ∧ fld (1499 : Word) 11 0 < 1500 ∧ 3000 < fld (3001 : Word) 11 0 ∧ 1500 ≤ fld (1500 : Word) 11 0 ∧ fld (3000 : Word) 11 0 ≤ 3000
    ∧ fld (0 : Word) 31 16 < fld (0 : Word) 15 0 + 128 ∧ fld (0x800000 : Word) 15 0 + 128 ≤ fld (0x800000 : Word) 31 16
    ∧ (base.slewDue 43 = false)
    ∧ (let s := base.updCore 0 fun c => { c with arch := { c.arch with mxq := [⟨1, .mma 1 2 3 .rne, false, [], 0, [], 0⟩] } }
       (0 : Nat) < 44 ∧ s.slewDue 0 = true ∧ ((SMap.get s.slews Slew.reset 0).step (s.slewCaps 0) (s.qps 0 (slewLayer 0))).quiescent = false)
    ∧ (let s := { base with slews := [(0, { Slew.reset with since := some 0 })] }
       s.slewDue 0 = true ∧ ((SMap.get s.slews Slew.reset 0).step (s.slewCaps 0) (s.qps 0 (slewLayer 0))).quiescent = true) := by decide +kernel

theorem witness_ServiceEvents :
    ((2719 : Nat) < numCores ∧ (base.core 2719).contained = false)
    ∧ (let s := base.updCore 5 fun c => { c with contained := true }
       (s.core 5).contained = true ∧ (s.core 5).thirdFailure = false)
    ∧ (let s := base.updCore 5 fun c => { c with contained := true, failures := [1000000000 * 11088, 5, 0] }
       (s.core 5).thirdFailure = true)
    ∧ ((base.quad 0).retSt = 0 ∧ (base.quad 0).dbg = false)
    ∧ (let s := base.updQuad 679 fun q => { q with retSt := 1, dbg := true }
       (s.quad 679).retSt = 1 ∧ (∀ c, c < 4 → (s.core (4 * 679 + c)).strand = none) ∧ (s.quad 679).dbg = true)
    ∧ (let s := { base with firm := { base.firm with unit := 2, pa := 0x3000, asked := true } }
       s.firm.unit ≠ 0 ∧ leValue (s.bytesAt (s.firm.pa.toNat + 8) 2) ≠ s.firm.unit ∧ s.firm.asked = true) := by decide +kernel

/-- An image of unit 2 whose signature verifies, at the version of the floor or below it. -/
theorem witness_ServiceEvents_image :
    let s : State := { base with mem := [(0x3000, 5#8), (0x3008, 2#8)], firm := { base.firm with unit := 2, pa := 0x3000, versions := [(2, 5)] } }
    let t : State := { s with firm := { s.firm with versions := [(2, 6)] } }
    let at' := fun (o n : Nat) => leValue (s.bytesAt (s.firm.pa.toNat + o) n)
    s.firm.unit ≠ 0 ∧ at' 4 4 % 64 = 0 ∧ at' 8 2 = s.firm.unit ∧ at' 10 54 = 0 ∧ s.firm.floor s.firm.unit ≤ at' 0 4 ∧ at' 0 4 < t.firm.floor t.firm.unit := by
  decide +kernel

/-- A packet of a launch in graph 3 of context 1, for layer 0. -/
def launchPkt : BitVec 640 := BitVec.ofNat 640 (2 ^ 264 + (handleWord 2 1 3).toNat * 2 ^ 64)
/-- Its context LIVE, with the port's access open to peer 0; the next object's ID is `next`. -/
def launching (next : Nat) : State :=
  ((described.updCtx 1 fun c => { c with st := .live, d := some (described.readDesc 0x400), nextId := next, objs := [(3, Obj.new 2 2 1)] }).updDie 0
    fun d => { d with access := [(0, BitVec.ofNat 64 (2 ^ 63 + 2 ^ 52 + 2 ^ 32))] }).updLink 0 4 fun l => { l with st := .up }

theorem witness_LinksChange_launch : ∀ n, n = 4 ∨ n = 65539 →
    let s := launching n
    let h := launchHead launchPkt (s.linkOf 0 4).peer.toNat
    (s.linkOf 0 4).up = true ∧ s.crossWaits 0 h.die = false ∧ SMap.get (s.die 0).launchLog [] (4 * 65536 + h.peer) = []
    ∧ s.launchStatus h (launchRec launchPkt) = 0 ∧ (s.newObj (fld h.graph 55 40) (Obj.new 1 0 1)).isNone = decide (n = 65539) := by
  rintro n (rfl | rfl) <;> decide +kernel

def linkIn (port : Nat) (f : Link → Link) : State := base.updLink 0 port f

theorem witness_LinksChange :
    (portExists 1 8 = true ∧ (base.linkOf 1 8).st = .down)
    ∧ ((linkIn 0 fun l => { l with st := .training }).linkOf 0 0).st = .training
    ∧ base.clock - ((linkIn 0 fun l => { l with st := .training }).linkOf 0 0).since < 10000000 * 11088
    ∧ (BitVec.ofNat 32 0xFFFF &&& allLanes 0 = allLanes 0) ∧ (BitVec.ofNat 32 0xFF &&& allLanes 0 ≠ allLanes 0)
    ∧ lmax 0 / 2 ≤ popcount (BitVec.ofNat 32 0xFF &&& allLanes 0) ∧ popcount (BitVec.ofNat 32 0x7F &&& allLanes 0) < lmax 0 / 2
    ∧ (let l := (linkIn 8 fun l => { l with st := .up, lact := 0xFF, lsel := 0xF }).linkOf 0 8
       l.st = .up ∧ lmax 8 / 2 ≤ popcount (l.lact &&& ~~~l.lsel) ∧ 7 < lmax 8)
    ∧ (let l := (linkIn 8 fun l => { l with st := .degraded, lact := 0xFF, lsel := 0x1F }).linkOf 0 8
       l.st = .degraded ∧ popcount (l.lact &&& ~~~l.lsel) < lmax 8 / 2)
    ∧ (let s := { onMe fun c => { c with loads := [⟨[(1, 0)], true, some 0, 0, 0⟩] } with clock := 1108800000 }
       (s.core 0).loads[0]? = some ⟨[(1, 0)], true, some 0, 0, 0⟩ ∧ fld (s.die (dieOf 0)).linkcfg 31 0 * 1000 * 11088 ≤ s.clock - 0)
    ∧ ((linkIn 4 fun l => { l with st := .up }).linkOf 0 4).up = true
    ∧ (let s := (linkIn 4 fun l => { l with st := .up }).updDie 0 fun d => { d with launchLog := [(4 * 65536, [(0, 1)])] }
       let h := launchHead 0 (s.linkOf 0 4).peer.toNat
       s.crossWaits 0 h.die = false ∧ s.crossWaits 0 (launchHead (1 <<< 38) 0).die = true
       ∧ (SMap.get (s.die 0).launchLog [] (4 * 65536 + h.peer)).find? (fun e => decide (e.1 = h.seq)) = some (0, 1)
       ∧ ∀ e ∈ SMap.get ((linkIn 4 fun l => { l with st := .up }).die 0).launchLog [] (4 * 65536 + h.peer), e.1 ≠ h.seq)
    ∧ (linkIn 4 fun l => { l with st := .up }).launchStatus (launchHead 0 0) (launchRec 0) ≠ 0 := by decide +kernel

/-- A graph of context 1 at slot 7 of die 1's Ethernet port: node 0 SRCM of s8, node 1 SINKM of it; the bridge is up. -/
def graphed (f : Graph → Graph) : State :=
  { ((base.updLink 0 0 fun l => { l with st := .up }).updLink 1 0 fun l => { l with st := .up }).updGraph 1 8 7
      fun x => f { x with header := 0x8001000000000010, nodes := [(0, 0), (1, 0x6000000000000000)] } with
    mem := [(0x2001, 0x30#8), (0x2009, 0x40#8), (0x2010, 2#8), (0x3000, 9#8)] }
/-- x4 names the command block at 0x2000: SRC 0x3000, DST 0x4000, two tokens. -/
def starting : State := (graphed id).updArch fun a => a.wx 4 0x2000
def asked : GraphRun :=
  { header := 0x8001000000000010, nodes := [(0, 0), (1, 0x6000000000000000)], src := 0, dst := 0, ntok := 0, block := 0x2000, core := 0,
    copies := starting.me.arch.copies, pl := true, tab := [], next := 0, flg := 0, stopped := [], lost := none }
def running (next : Nat) : GraphRun := { asked with src := 0x3000, dst := 0x4000, ntok := 2, next := next }

/-- A graph read's state and bytes. -/
def readOr (r : Option (State × Except Nat (List Byte))) : State × List Byte :=
  match r with
  | some (s, .ok bs) => (s, bs)
  | _ => (base, [])

theorem witness_GraphsRun_start :
    let s := starting
    let x := (s.die 1).graph 8 7
    let r := asked.read s (dieOf s.cur) (.graph 1 8 7) (s.me.x 4).toNat 64
    let u := (readOr r).1
    let bs := (readOr r).2
    let ks := (running 0).dstKeys u
    graphPort 1 8 7 = true ∧ bitAt x.header 63 = true ∧ fld x.header 59 48 = s.me.ctxNum ∧ x.run = none ∧ s.accessesDone s.cur = true
    ∧ (s.me.x 4).toNat % 64 = 0 ∧ r = some (u, .ok bs) ∧ leValue ((bs.drop 16).take 4) = 2 ∧ leValue ((bs.drop 20).take 36) = 0
    ∧ BitVec.ofNat 64 (leValue (bs.take 8)) = (running 0).src ∧ BitVec.ofNat 64 (leValue ((bs.drop 8).take 8)) = (running 0).dst
    ∧ u.ownWait u.cur none ks = none ∧ ks.any u.moving = false ∧ u.inPast 0 ks = false ∧ u.inPast 1 ks = false := by decide +kernel

theorem witness_GraphsRun :
    bitAt ((base.die 0).graph 4 0).header 63 = false
    ∧ (let s := (graphed id).updLink 1 8 fun l => { l with st := .up }
       (s.linkOf 1 8).up = true ∧ ((s.die 1).graph 8 7).held.length < 256 ∧ bitAt ((s.die 1).graph 8 7).header 63 = true
       ∧ fld ((s.die 1).graph 8 7).header 47 32 = (s.linkOf 1 8).peer.toNat)
    ∧ (let s := graphed fun x => { x with run := some (running 1) }
       let o := (running 1).outputs { s with stamp := s.stamp + 512 } 1 8 7 s.stamp
       ((s.die 1).graph 8 7).run = some (running 1) ∧ (running 1).over = false ∧ ((running 1).commitAll o.1 1 8 7 o.2).isSome = true)
    ∧ (let s := graphed fun x => { x with run := some (running 2) }
       ((s.die 1).graph 8 7).run = some (running 2) ∧ (running 2).over = true
       ∧ ((running 2).putStatus (s.dropAll (.graph 1 8 7)) (.graph 1 8 7) (match (running 2).firstFault with
          | some e => statusWord true e.2 (running 2).flg e.1
          | none => statusWord false 0 (running 2).flg (running 2).ntok)).isSome = true) := by decide +kernel

theorem witness_PackageEvents :
    (let s := base.updLink 0 1 fun l => { l with st := .up }
     let keys := (List.range 2).map fun i => unalias ((0x2FFF : BitVec 52).toNat + i)
     (∀ k ∈ keys, s.hostUp = true ∧ s.hostReaches k = true ∧ s.owner k = none ∧ s.moving k = false)
     ∧ s.canWrite false (keys.zip [1, 2]) = true)
    ∧ (isControl 0xF050000000018 = true ∧ 0xF050000000018 % 8 = 0 ∧ base.ctlReg 0xF050000000018 = some (.regmax 0))
    ∧ base.ctlReg 0xF120000000000 = some (.qctl 1) ∧ base.ctlReg 0xF0400000F0000 = some (.linkcfg 0)
    ∧ base.ctlReg 0xF000000004000 = some (.quad 0 .vshare) ∧ base.ctlReg 0xF010000100008 = some .genst
    ∧ (isControl 0xF050000000008 = true ∧ base.ctlReg 0xF050000000008 = none) := by decide +kernel

end Sys2Proof.Tests
end

