-- ==== Sys2Proof/Tests/WitnessStep.lean ====
section
/-! SUPPORT. Tests: states and operands that meet the hypotheses of the obligations about encoding and stepping. -/

namespace Sys2Proof.Tests

set_option Elab.async false

open Sys2Proof Sys2Proof.Machine

/-! ## Encoding and stepping -/

/-- CSRR x9, TIME on q7 beside SHL x1, x2, 7 on q5. -/
theorem witness_EncodingRoundTrip :
    let w : Word := (5#3 ++ 0x0A#6 ++ 1#6 ++ 2#6 ++ 0#6 ++ 7#5) ++ 0x7DC90050#32
    encode ⟨7, .csrr 9 0x50, 5, some (.shl 1 2 0 7)⟩ = some w ∧ decodeBundle w = .ok ⟨7, .csrr 9 0x50, 5, some (.shl 1 2 0 7)⟩ := by decide +kernel

/-- The doubleword w at 0x1000. -/
def holding (w : Word) : State := State.reset.place (leBytes 8 w.toNat)

/-- A core's turn as it begins, with what has landed. -/
def begun (s : State) : State :=
  (((s.catchUp s.cur).sfuReturn s.cur).acceptCmds s.cur).updCore s.cur fun c => { c.landBy c.cycle with flow := .run, xl := 0 }

/-- The state of a fetch and its answer. -/
def fetched (s : State) : State × Word :=
  let r := ((begun s).reread s.cur).1.fetch s.cur
  (r.1, okOr 0 r)

/-- Up to its fetch a step of this state meets every condition, and what it fetches is w. -/
def reaches (s : State) (w : Word) : Bool :=
  let g := s.cur
  let s1 := begun s
  let u := (s1.reread g).1
  s.powered && s.agenda.isEmpty && decide (g < numCores) && (s.core g).strand.isSome && !(s.quad (quadOf g)).dbg && !s1.pairIs g .exchanging
  && !(s1.core g).midBundle && !(s1.core g).amoFlying && !s1.exchangeForPreempt g && (s1.takeAsync g).isNone && decide ((s1.reread g).2 = .ok ()) && (s1.core g).micro.isNone && (u.core g).micro.isNone
  && decide ((u.fetch g).2 = .ok w)

/-- The same, with no translation to pay and no breakpoint that matches. -/
def fetches (s : State) (w : Word) : Bool :=
  reaches s w && decide (((fetched s).1.core s.cur).xl = 0)
  && !((fetched s).1.updMe fun c => { c with bundle := w }).me.fetchBreak ((begun s).core s.cur).arch.pc

/-- A core whose translation the quad alone keeps pays for it first. -/
theorem witness_StepRunsTheBundle_walk :
    let s := ((holding 0).updQuad 0 fun q => { q with tlb := (holding 0).me.tlb }).updMe fun c => { c with tlb := [] }
    reaches s 0 = true ∧ ((fetched s).1.core s.cur).xl ≠ 0 := by decide +kernel

theorem witness_StepRunsTheBundle_fetch :
    (fetches (holding 0xFFFFFFFFFFFFFFFF) 0xFFFFFFFFFFFFFFFF = true ∧ ∃ e, decodeBundle 0xFFFFFFFFFFFFFFFF = .error e)
    ∧ fetches (holding 0) 0 = true := ⟨⟨by decide +kernel, _, rfl⟩, by decide +kernel⟩

/-- SHL x9 beside CSRR x9, TIME writes x9 twice. -/
theorem witness_StepRunsTheBundle_illFormed :
    let w : Word := (0#3 ++ 0x0A#6 ++ 9#6 ++ 2#6 ++ 0#6 ++ 7#5) ++ 0x0DC90050#32
    fetches (holding w) w = true ∧ decodeBundle w = .ok ⟨0, .csrr 9 0x50, 0, some (.shl 9 2 0 7)⟩
    ∧ Bundle.wf false ⟨0, .csrr 9 0x50, 0, some (.shl 9 2 0 7)⟩ = false := by decide +kernel

/-- A fetched bundle at its issue. -/
def fetchedAs (s : State) (w : Word) : State := (fetched s).1.updMe fun c => { c with bundle := w }

/-- Word 0 is NOP beside an A NOP, which runs. -/
theorem witness_StepRunsTheBundle_run :
    let p := fetchedAs (holding 0) 0
    let b : Bundle := ⟨0, .nop, 0, some .anop⟩
    decodeBundle 0 = .ok b ∧ b.wf p.me.arch.tm = true ∧ Instr.privileged b.c = false ∧ p.exchangeFirst b.c = false ∧ p.me.aIssued = false
    ∧ p.registerWait (b.c :: b.a.toList) = none ∧ p.me.arch.chk = false
    ∧ (let r := p.ready (p.me.arch.pc + 8)
       exec .nop r = .next r ∧ r.me.flow = .run ∧ Instr.afterA .nop = false ∧ State.execBeside r r .anop = .next r
       ∧ (State.keepOlds r r r .nop).me.flow = .run ∧ (State.pairRetire p (State.keepOlds r r r .nop) .nop).me.micro = none) := by
  refine ⟨by decide +kernel, by decide +kernel, by decide +kernel, by decide +kernel, by decide +kernel, by decide +kernel, by decide +kernel,
    rfl, by decide +kernel, rfl, rfl, by decide +kernel, by decide +kernel⟩

/-- SHL x1, x2, 7 beside NOP. -/
def shlWord : Word := (0#3 ++ 0x0A#6 ++ 1#6 ++ 2#6 ++ 0#6 ++ 7#5) ++ 0#32

/-- It waits for an interlocked result of x2. -/
theorem witness_StepRunsTheBundle_wait :
    let s := (holding shlWord).updMe fun c => { c with pend := [⟨.x 2, 1, 9, true, none⟩] }
    let p := fetchedAs s shlWord
    let b : Bundle := ⟨0, .nop, 0, some (.shl 1 2 0 7)⟩
    fetches s shlWord = true ∧ decodeBundle shlWord = .ok b ∧ b.wf p.me.arch.tm = true ∧ p.exchangeFirst b.c = false ∧ p.me.aIssued = false
    ∧ p.registerWait (b.c :: b.a.toList) = some cDEP := by decide +kernel

/-- Whether a step gives a next state, which is then its `nextOr`. -/
def goesOn (r : Step) : Bool := match r with | .next _ => true | _ => false
theorem goesOn_next {r : Step} (h : goesOn r = true) : r = .next (nextOr r) := by
  cases r <;> simp_all [goesOn, nextOr]

/-- RFT, whose word is opcode 0x36 beside an A NOP, in a trap handler. -/
theorem witness_StepRunsTheBundle_afterA :
    let w : Word := 0#32 ++ (0#4 ++ 0x36#6 ++ 0#22)
    let s := (holding w).updArch fun a => { a with status := 3, tstat := 2 }
    let p := fetchedAs s w
    let b : Bundle := ⟨0, .rft, 0, some .anop⟩
    fetches s w = true ∧ decodeBundle w = .ok b ∧ b.wf p.me.arch.tm = true ∧ p.me.arch.pl = true ∧ p.exchangeFirst b.c = false
    ∧ p.me.aIssued = false ∧ p.registerWait (b.c :: b.a.toList) = none ∧ p.me.arch.chk = false ∧ Instr.afterA .rft = true
    ∧ (let r := p.ready (p.me.arch.pc + 8)
       let t := nextOr (exec .rft r)
       exec .anop r = .next r ∧ exec .rft r = .next t ∧ r.me.flow = .run ∧ t.me.flow = .run
       ∧ (State.pairRetire p t .rft).me.micro = none) :=
  ⟨by decide +kernel, by decide +kernel, by decide +kernel, by decide +kernel, by decide +kernel, by decide +kernel, by decide +kernel,
    by decide +kernel, rfl, rfl, goesOn_next (by decide +kernel), by decide +kernel, by decide +kernel, by decide +kernel⟩

theorem witness_StepRunsTheBundle_agenda :
    ({ base with agenda := [.event .packageReset] }).powered = true ∧ Instr.packageReset.isEvent = true ∧ (Instr.nop).isEvent = false
    ∧ ({ base with agenda := [.event .packageReset], powered := false }).powered = false
    ∧ ({ base with agenda := [.media 0 2] }).powered = true
    ∧ (∃ t, exec .packageReset { base with powered := false } = .next t)
    ∧ ∀ r, ({ base with powered := false }).agenda ≠ .event .packageReset :: r := by
  refine ⟨rfl, rfl, rfl, rfl, rfl, ⟨_, rfl⟩, fun r h => ?_⟩
  cases h

/-- A step of a state whose memory is in its canonical form, and the state it gives. -/
theorem witness_MemoryStaysCanonical : (holding 0).mem.wf = true ∧ (nextOr (step (holding 0))).me.arch.pc = 0x1008
    ∧ ({ base with agenda := [.pass 1] }).mem.wf = true ∧ ∃ t, step { base with agenda := [.pass 1] } = .next t :=
  ⟨by decide +kernel, by decide +kernel, by decide +kernel, _, rfl⟩

end Sys2Proof.Tests
end

