-- ==== Sys2Proof/Tests/WitnessVector.lean ====
section
/-! SUPPORT. Tests: states and operands that meet the hypotheses of the obligations about vectors, matrices and streams. -/

namespace Sys2Proof.Tests

set_option Elab.async false

open Sys2Proof Sys2Proof.Machine

/-! ## Vectors, matrices, streams -/

/-- A sequencer entry. -/
def vent (st : Nat) (i : Instr) (beats : Nat) : VEntry :=
  { stamp := st, ins := i, shape := vshapeReset, xs := [], seed := 1, addrs := [], beats := beats, olds := [], body := false, hand := false,
    seen := none, born := 0 }
/-- An open VREP body that still misses entries, of which the last has so many repetitions left. -/
def bodyOf (missing left : Nat) : State :=
  onArch fun a => { a with vreps := [{ missing := missing, size := 0, left := BitVec.ofNat 64 left, idx := 0, base := 0 }] }
/-- The conditions under which i joins the sequencer. -/
def enters (s : State) (i : Instr) : Bool :=
  vShapeOk s.me.arch.vshape i && !s.me.writesBound i && decide (s.me.arch.vseq.length < 16)
/-- A stream register's binding. -/
def boundTo : Stream := { Stream.unbound with bound := true, base := 0x2000, strides := [0, 0, 0, 0], counts := [1, 1, 1, 1], shape := vshapeReset }

theorem witness_VectorIssue :
    (base.me.arch.openRep = none ∧ vShapeOk base.me.arch.vshape (.vadd 31 0 31 (.flt .f32 .sr)) = true
      ∧ base.me.writesBound (.vadd 31 0 31 (.flt .f32 .sr)) = false ∧ base.me.arch.vseq.length < 16)
    ∧ (let i : Instr := .vadd 31 0 31 (.flt .f32 .sr)
       (enters (bodyOf 16 5) i = true ∧ (bodyOf 16 5).me.arch.openRep = some ⟨16, 0, 5, 0, 0⟩ ∧ 1 < 16)
       ∧ (enters (bodyOf 1 0) i = true ∧ (bodyOf 1 0).me.arch.openRep = some ⟨1, 0, 0, 0, 0⟩)
       ∧ (enters (bodyOf 1 5) i = true ∧ (bodyOf 1 5).me.arch.openRep = some ⟨1, 0, 5, 0, 0⟩))
    ∧ (bodyOf 1 5).me.arch.openRep ≠ none
    ∧ (vShapeOk base.me.arch.vshape (.viota 0 1 2 .s8) = false)
    ∧ (let s := onArch fun a => { a with streams := [(24, boundTo)] }
       s.me.arch.openRep = none ∧ s.me.writesBound (.vmov 24 1 0 0) = true)
    ∧ (let s := onArch fun a => { a with vseq := List.replicate 16 (vent 1 (.vsel 1 2 3) 0) }
       s.me.arch.openRep = none ∧ vShapeOk s.me.arch.vshape (.vclmp 1 2 4 (.flt .f32)) = true
       ∧ s.me.writesBound (.vclmp 1 2 4 (.flt .f32)) = false ∧ 16 ≤ s.me.arch.vseq.length) := by decide +kernel

theorem witness_VectorRepeat :
    base.me.arch.openRep = none
    ∧ (bodyOf 16 5).me.arch.openRep ≠ none := by decide +kernel

theorem witness_VectorElements :
    (vElems vshapeReset * (8 * vBytes vshapeReset) ≤ 4096 ∧ IType.width .n32 = 8 * vBytes vshapeReset)
    ∧ (vElems 0x10013 * (8 * vBytes 0x10013) ≤ 4096 ∧ IType.width .s64 = 8 * vBytes 0x10013) := by decide +kernel

/-- x4 = 0x2000 under the shape of reset. -/
def vmem : State := onArch fun a => a.wx 4 0x2000

theorem witness_VectorTransfersIssue_load :
    vmem.me.arch.openRep = none
    ∧ (let r := vmem.access vmem.cur 0x2040 128 .read [2] .align
       vmem.me.writesBound (.vld 31 true (.short 4 1)) = false ∧ MemOp.ea vmem.me 64 (.short 4 1) = 0x2040
       ∧ vCols vmem.me.arch.vshape * vBytes vmem.me.arch.vshape = 128 ∧ (MemOp.ea vmem.me 64 (.short 4 1)).toNat % vBytes vmem.me.arch.vshape = 0
       ∧ r = (r.1, .ok (okOr [] r)) ∧ r.1.me.arch.vseq.length < 16) := by decide +kernel

theorem witness_VectorTransfersIssue_store :
    (let r := vmem.access vmem.cur 0x3F80 512 .write [3] .align
     let keys := keysOf (okOr [] r) 0x3F80 512
     let es := vstEntries r.1.stamp ((List.range keys.length).zip keys |>.map fun p => (snapAt (okOr [] r) (0x3F80 + p.1), p.2))
     MemOp.ea vmem.me 64 (.ext 4 .none .core 0x1F80) = 0x3F80 ∧ vSize vmem.me.arch.vshape = 512
     ∧ r = (r.1, .ok (okOr [] r)) ∧ r.1.ownWait r.1.cur none keys = none ∧ r.1.me.sb.length + es.length ≤ 8
     ∧ r.1.me.arch.vseq.length < 16) := by decide +kernel

/-- The same under a shape of two rows of two 4-byte elements. -/
def gmem : State := vmem.updArch fun a => { a with vshape := 0x20022 }
/-- The addresses of VGATH v3, [x4 + v2 << 2] and of the VSCAT of the same operands. -/
def gathered : List Nat := gatherAddrs gmem.me.arch.vshape (gmem.me.x 4) (2 : BitVec 2).toNat (gmem.me.arch.rv 2)

/-- Every element address is aligned and its walk waits for no link. -/
def reached (s : State) (vas : List Nat) (k : XKind) : Bool :=
  vas.all fun v => decide (v % 4 = 0) && !s.walkWaits (s.linksWait (dieOf s.cur)) s.cur v 4 k

/-- The same with v24 bound, two strips at hand. -/
def gbound : State :=
  gmem.updArch fun a => { a with streams := [(24, { Stream.unbound with bound := true, strips := [(0, none), (0, none)] })] }

theorem witness_VectorTransfersIssue_bound :
    gbound.me.arch.openRep = none ∧ gbound.me.bound 24 = true ∧ gbound.me.arch.vseq = [] ∧ gbound.me.binding 24 = false
    ∧ (gbound.me.arch.stream 24).strips = (0, none) :: [(0, none)] ∧ gbound.me.arch.vWriter 24 = false
    ∧ gatherAddrs gbound.me.arch.vshape (gbound.me.x 4) 2 0 = gathered
    ∧ (let r := gbound.engineAddrs gbound.cur .eread 4 gathered
       reached gbound gathered .eread = true ∧ r = (r.1, .ok (okEx [] r))) := by decide +kernel

theorem witness_VectorTransfersIssue_gather :
    gmem.me.arch.vWriter 2 = false ∧ gmem.me.bound 2 = false ∧ reached gmem gathered .eread = true ∧ reached gmem gathered .ewrite = true
    ∧ gmem.me.writesBound (.vgath 3 4 2 2) = false
    ∧ (let r := gmem.engineAddrs gmem.cur .eread 4 gathered
       r = (r.1, .ok (okEx [] r)) ∧ (∀ k ∈ elemKeys 4 (okEx [] r), r.1.window k ≠ .waits ∧ r.1.moving k = false) ∧ r.1.me.arch.vseq.length < 16) := by
  decide +kernel

theorem witness_VectorTransfersIssue_scatter :
    (let r := gmem.engineAddrs gmem.cur .ewrite 4 gathered
     r = (r.1, .ok (okEx [] r)) ∧ (∀ k ∈ elemKeys 4 (okEx [] r), r.1.window k ≠ .waits ∧ r.1.moving k = false) ∧ r.1.me.arch.vseq.length < 16
     ∧ r.1.me.sb = [] ∧ (∀ e ∈ r.1.me.vwork, e.isVld = false)
     ∧ (∀ p ∈ (r.1.die 0).past ++ (r.1.die 1).past, ∀ k ∈ elemKeys 4 (okEx [] r), p.ent.has k = false)
     ∧ r.1.ownWait r.1.cur none (elemKeys 4 (okEx [] r)) = none) := by decide +kernel

/-- A VSFU whose request the SFU serves, in its last cycle or before it; and one whose result stands in the return slot. -/
def sfuAt (cycles : Nat) : State :=
  (onArch fun a => { a with vseq := [vent 1 (.vsfu 1 2 .exp2 .f32) 0] }).updQuad 0 fun q => { q with sfuQ := [⟨0, 128, cycles, false⟩] }
/-- A core whose sequencer has held the entry since clock 0, at clock 1. -/
def heading (e : VEntry) : State := { onArch fun a => { a with vseq := [e] } with clock := 1 }

theorem witness_VectorUnitsServe :
    (let e := vent 1 (.vadd 1 2 3 (.flt .f32 .rne)) 3
     let t := (heading e).sfuReturns 0
     t.vHead (4 * 0 + 0) .lane = some e ∧ (∀ k, k < 4 → k ≠ 0 → t.vHead (4 * 0 + k) .lane = none)
     ∧ e.beatsNeeded ≤ e.beats + 1 ∧ t.vHalf 0 = false)
    ∧ (let e := vent 1 (.vld 1 false (.short 4 0)) 0
       let t := (heading e).sfuReturns 0
       t.vHead (4 * 0 + 0) .port = some e ∧ (∀ k, k < 4 → k ≠ 0 → t.vHead (4 * 0 + k) .port = none)
       ∧ ∀ k, k < 4 → t.vHead (4 * 0 + k) .lane = none)
    ∧ (∀ k, k < 4 → (base.sfuReturns 0).vHead (4 * 0 + k) .port = none)
    ∧ (let t := ((sfuAt 0).sfuReturns 0).sfuRequests 0
       (t.quad 0).sfuQ = [⟨0, 128, 0, false⟩] ∧ t.vHalf 0 = false ∧ 0 + 1 < (128 + 15) / 16)
    ∧ (let t := ((sfuAt 7).sfuReturns 0).sfuRequests 0
       (t.quad 0).sfuQ = [⟨0, 128, 7, false⟩] ∧ (128 + 15) / 16 ≤ 7 + 1)
    ∧ (let s := sfuAt 7
       (s.core 0).arch.vAt = some (0, vent 1 (.vsfu 1 2 .exp2 .f32) 0) ∧ (s.core 0).arch.streamFault (.vsfu 1 2 .exp2 .f32) = none)
    ∧ (let s := (sfuAt 0).updArch fun a => { a with sfu := some ⟨5, 0, 1⟩ }
       (s.core 0).arch.sfu = some ⟨5, 0, 1⟩ ∧ s.clock < 1 ∧ 1 ≤ ({ s with clock := 1 } : State).clock) := by decide +kernel

/-- TSHAPE0 2 × 16 along columns, TSHAPE1 16 × 2 along rows, TSHAPE2 2 × 2, TSHAPE3 16 × 2 along columns; of 16 bits. -/
def shaped : State := onArch fun a => { a with bank := { a.bank with ishape := [(0, 0x882), (1, 0x24012), (2, 0x812), (3, 0x4012)] } }
def opened : State := shaped.updArch fun a => { a with bank := { a.bank with iopen := [0] } }

theorem witness_MatrixIssue :
    (let s := shaped
     let f := s.me.bank.ifmt
     s.me.bank.iopen.contains (1 : Reg).toNat = false ∧ s.me.arch.mxq.length < 8 ∧ mfmtOk .e2m1 .e2m1 true true = true
     ∧ (tRows (s.ishape 0) = tCols (s.ishape 3) ∧ tCols (s.ishape 0) = tRows (s.ishape 3) ∧ fld (s.ishape 0) 1 0 = fld (s.ishape 3) 1 0)
     ∧ (fld (s.ishape 2) 1 0 = mcvtW .bf16 ∧ (EType.bf16 ≠ .e2m1))
     ∧ fld (s.ishape 0) 1 0 = MType.wCode f.ta
     ∧ (fld (s.ishape 2) 1 0 = 2 ∧ tCols (s.ishape 2) ≤ 16))
    ∧ (let s := opened
       let f := s.me.bank.ifmt
       (0 : Reg).toNat ∈ s.me.bank.iopen ∧ s.me.arch.mxq.length < 8
       ∧ fld (s.ishape 0) 1 0 = MType.wCode f.ta ∧ tKax (s.ishape 0) = false ∧ kOk f.sa (tCols (s.ishape 0)) = true
       ∧ fld (s.ishape 1) 1 0 = MType.wCode f.tb ∧ tKax (s.ishape 1) = true ∧ kOk f.sb (tRows (s.ishape 1)) = true
       ∧ tCols (s.ishape 0) = tRows (s.ishape 1))
    ∧ (let s := shaped.updArch fun a => (a.wx 5 1).wx 6 64
       1 ≤ (s.me.x 5).toNat ∧ (s.me.x 6).toNat ≤ side (layerOf s.cur) ∧ 1 ≤ (s.me.x 6).toNat ∧ (s.me.x 5).toNat ≤ side (layerOf s.cur))
    ∧ mfmtOk .bf16 .e4m3 false false = false
    ∧ (opened.me.bank.iopen.contains (1 : Reg).toNat = false ∧ tKax (opened.ishape 1) ≠ false)
    ∧ ¬ (tKax (opened.ishape 0) = true)
    ∧ (tKax (shaped.ishape 0) = tKax (shaped.ishape 0) ∧ ¬ (fld (shaped.ishape 2) 1 0 = mcvtW .e4m3))
    ∧ (let s := shaped.updArch fun a => { a with bank := { a.bank with ishape := [(4, 0x811)] } }
       MewOp.add ≠ .relu ∧ fld (s.ishape 4) 1 0 ≠ 3 ∧ fld (s.ishape 4) 1 0 ≠ MType.wCode s.me.bank.ifmt.ta)
    ∧ ¬ (1 ≤ (shaped.me.x 5).toNat)
    ∧ 8 ≤ (shaped.updArch fun a => { a with mxq := List.replicate 8 ⟨1, .mopen 1, false, [], 0, [], 0⟩ }).me.arch.mxq.length := by decide +kernel

/-- MTRAN's shapes: those of t0 swapped, with K along the other axis. -/
theorem witness_MatrixIssue_mtran :
    tRows (shaped.ishape 0) = tCols (shaped.ishape 1) ∧ tCols (shaped.ishape 0) = tRows (shaped.ishape 1)
    ∧ fld (shaped.ishape 0) 1 0 = fld (shaped.ishape 1) 1 0 ∧ tKax (shaped.ishape 0) ≠ tKax (shaped.ishape 1) := by decide +kernel

theorem witness_TileTransfersAndWaits_traps :
    (∃ e ∈ (shaped.updArch fun a => { a with mxq := [⟨1, .mopen 1, false, [], 0, [], 0⟩] }).me.arch.mxq,
      e.trap = shaped.me.arch.tm ∧ accOf e.ins = some (1 : Reg).toNat)
    ∧ (MemOp.ea shaped.me 64 (.ext 4 .none .core 8)).toNat % 64 ≠ 0 := by decide +kernel

theorem witness_TileTransfersAndWaits :
    (∀ e ∈ base.me.arch.mxq, false = true ∧ e.isTst = false)
    ∧ (let s := shaped.updArch fun a => { a with mxq := [⟨1, .mopen 1, false, [], 0, [], 0⟩] }
       ∀ e ∈ s.me.arch.mxq, true = true ∧ e.isTst = false ∧ (s.me.arch.tm = true → e.trap = true)
         ∧ (e.trap = s.me.arch.tm → accOf e.ins ≠ some (0 : Reg).toNat))
    ∧ (shaped.updArch fun a => { a with mxq := [⟨1, .mopen 1, false, [], 0, [], 0⟩] }).me.arch.mxq ≠ []
    ∧ (let s := shaped.updArch fun a => a.wx 4 0x2FC0
       let ea := MemOp.ea s.me 64 (.short 4 0)
       ea.toNat % 64 = 0 ∧ tK (s.ishape 0) % 32 ≠ 0
       ∧ (∀ p ∈ tilePages (s.ishape 0) ea.toNat false, s.walkWaits (s.linksWait (dieOf s.cur)) s.cur p 1 .eread = false
            ∧ s.walkWaits (s.linksWait (dieOf s.cur)) s.cur p 1 .ewrite = false)
       ∧ (let r := s.tileXlate s.cur .eread (tilePages (s.ishape 0) ea.toNat false)
          r = (r.1, .ok (okEx [] r)) ∧ r.1.me.arch.mxq.length < 8
          ∧ ∀ o ∈ tileOffsets (s.ishape 0) false, r.1.window (pageKey (okEx [] r) (ea.toNat + o)) = .opened
            ∧ r.1.moving (pageKey (okEx [] r) (ea.toNat + o)) = false)
       ∧ (let r := s.tileXlate s.cur .ewrite (tilePages (s.ishape 0) ea.toNat false)
          let keys := (tileOffsets (s.ishape 0) false).map fun o => pageKey (okEx [] r) (ea.toNat + o)
          r = (r.1, .ok (okEx [] r)) ∧ (∀ k ∈ keys, r.1.window k = .opened ∧ r.1.moving k = false) ∧ r.1.me.arch.mxq.length < 8
          ∧ r.1.me.sb = [] ∧ (∀ e ∈ r.1.me.vwork, e.isVld = false)
          ∧ (∀ p ∈ (r.1.die 0).past ++ (r.1.die 1).past, ∀ k ∈ keys, p.ent.has k = false) ∧ r.1.ownWait r.1.cur none keys = none)) := by decide +kernel

theorem witness_MatrixEntries : (Bank.reset.acc 1).chain = none := by decide +kernel

/-- A descriptor of one strip at 0x3000, at 0x2000. -/
def descBytes : List Byte := leBytes 8 0x3000 ++ leBytes 8 0x0001000100010001 ++ leBytes 16 0
def withDesc : State := { vmem with mem := vmem.mem.wrs (((List.range 32).map (· + 0x2000)).zip descBytes) }

/-- The answer of SBIND v31, [x4] to a state's descriptor. -/
def bindRead (s : State) : State × Got (List Byte × Nat) := s.coreRead s.cur (MemOp.ea s.me 32 (.short 4 0)) 32 .read .align
def bindOk (s : State) (ok : Bool) : Prop :=
  (MemOp.ea s.me 32 (.short 4 0)).toNat % 32 = 0 ∧ bindRead s = ((bindRead s).1, .ok (okOr ([], 0) (bindRead s)))
  ∧ (streamOf (okOr ([], 0) (bindRead s)).1 (bindRead s).1.me.arch.vshape).ok = ok
def fullQueue (s : State) : State := s.updMe fun c => { c with cmds := [.bind 24 boundTo, .bind 25 boundTo] }

theorem witness_StreamsAndCopies_bind :
    (MemOp.ea vmem.me 32 (.ext 4 .none .core 8)).toNat % 32 ≠ 0
    ∧ bindOk vmem false
    ∧ (bindOk (fullQueue withDesc) true ∧ 2 ≤ (bindRead (fullQueue withDesc)).1.me.cmds.length)
    ∧ (let s := withDesc.updArch fun a => { a with vseq := [vent 1 (.vadd 1 31 2 (.flt .f32 .rne)) 0] }
       bindOk s true ∧ (bindRead s).1.me.cmds.length < 2 ∧ (bindRead s).1.me.arch.vUses (31 : VReg).toNat = true)
    ∧ (bindOk withDesc true ∧ (bindRead withDesc).1.me.cmds.length < 2 ∧ (bindRead withDesc).1.me.arch.vUses (31 : VReg).toNat = false) := by
  refine ⟨by decide +kernel, ?_, ⟨?_, by decide +kernel⟩, ⟨?_, by decide +kernel⟩, ⟨?_, by decide +kernel⟩⟩ <;>
    exact ⟨by decide +kernel, by decide +kernel, by decide +kernel⟩

theorem witness_StreamsAndCopies_drop :
    (fullQueue base).me.binding (24 : VReg).toNat = true
    ∧ (base.me.binding 24 = false ∧ (base.me.arch.stream 24).bound = false)
    ∧ (let s := onArch fun a => { a with streams := [(24, boundTo)], vseq := [vent 1 (.vadd 1 24 2 (.flt .f32 .rne)) 0] }
       s.me.binding 24 = false ∧ (s.me.arch.stream 24).bound = true ∧ s.me.arch.vUses 24 = true)
    ∧ (let s := onArch fun a => { a with streams := [(24, boundTo)] }
       s.me.binding 24 = false ∧ (s.me.arch.stream 24).bound = true ∧ s.me.arch.vUses 24 = false) := by decide +kernel

/-- ACOPY of n bytes from x8 to x7. -/
def copying (n : Nat) : State := onArch fun a => ((a.wx 6 (BitVec.ofNat 64 n)).wx 7 0x4000).wx 8 0x5000
def copyKeys (s : State) : List Nat := s.destKeys s.cur (s.me.x 7).toNat (s.me.x 6).toNat
def copyClear (s : State) : Prop :=
  s.me.sb = [] ∧ (∀ e ∈ s.me.vwork, e.isVld = false) ∧ ∀ p ∈ (s.die 0).past ++ (s.die 1).past, ∀ k ∈ copyKeys s, p.ent.has k = false

theorem witness_StreamsAndCopies_copy :
    2 ^ 32 ≤ ((copying (2 ^ 32)).me.x 6).toNat
    ∧ (((fullQueue (copying 64)).me.x 6).toNat < 2 ^ 32 ∧ 2 ≤ (fullQueue (copying 64)).me.cmds.length)
    ∧ (let s := (copying 64).updMe fun c => { c with sb := [⟨[(0x4000, 1)], [], none, none, false, false⟩] }
       s.me.cmds.length < 2 ∧ s.me.sb ≠ [])
    ∧ (let s := { copying 64 with own := [(0x200, .chan 0 1 5)] }
       s.me.cmds.length < 2 ∧ copyClear s ∧ s.ownWait s.cur none (copyKeys s) = some cSTRM)
    ∧ (((copying 64).me.x 6).toNat < 2 ^ 32 ∧ (copying 64).me.cmds.length < 2 ∧ copyClear (copying 64)
       ∧ (copying 64).ownWait (copying 64).cur none (copyKeys (copying 64)) = none)
    ∧ (((copying 0).me.x 6).toNat < 2 ^ 32 ∧ copyClear (copying 0) ∧ (copying 0).ownWait (copying 0).cur none (copyKeys (copying 0)) = none) := by
  refine ⟨by decide +kernel, by decide +kernel, by decide +kernel, ⟨by decide +kernel, ?_, by decide +kernel⟩,
    ⟨by decide +kernel, by decide +kernel, ?_, by decide +kernel⟩, ⟨by decide +kernel, ?_, by decide +kernel⟩⟩ <;>
    exact ⟨by decide +kernel, by decide +kernel, by decide +kernel⟩

theorem witness_StreamsAndCopies_engine :
    base.me.chanBusy (3 : BitVec 2).toNat = false
    ∧ (let k : Copy := { dst := 0x4000, src := 0x5000, len := 64, pos := 0, flt := false, cause := 0, first := 0, stamp := 1, born := 0 }
       let s := onMe fun c => { c with chans := [(2, k)] }
       s.me.chanBusy (2 : BitVec 2).toNat = true ∧ (((s.acceptCmds 0).core 0).grant + 1 + 2) % 12 = 2
       ∧ ((s.acceptCmds 0).engineClient 0 2).isSome = true
       ∧ ∀ j, j < 2 → (s.acceptCmds 0).engineClient 0 ((((s.acceptCmds 0).core 0).grant + 1 + j) % 12) = none)
    ∧ ∀ j, j < 12 → (base.acceptCmds 0).engineClient 0 ((((base.acceptCmds 0).core 0).grant + 1 + j) % 12) = none := by decide +kernel

end Sys2Proof.Tests
end

section
/-! The package's own events: reset, the loss of power, and the host's accesses to memory and to control space (R9, R26,
R125, R241). -/

namespace Sys2Proof

/-- Dropping keys from a table leaves the other keys' values, and a dropped key reads as the default. -/
theorem SMap.get_filter_key {α : Type} (m : SMap α) (d : α) (f : Nat → Bool) (n : Nat) :
    SMap.get (List.filter (fun p => f p.1) m) d n = if f n = true then SMap.get m d n else d := by
  induction m with
  | nil => simp
  | cons p r ih =>
    obtain ⟨k, v⟩ := p
    by_cases hk : k = n
    · subst hk
      cases hf : f k <;> simp_all [SMap.get]
    · cases hf : f k <;> simpa [List.filter_cons, hf, SMap.get, hk] using ih

namespace Machine

/-! ## Reset and the loss of power -/

theorem State.cleared_rd (s : State) (on : Bool) (k : Nat) :
    (s.cleared on).mem.rd k = if outside k = true then s.mem.rd k else unwritten :=
  SMap.get_filter_key s.mem unwritten outside k

theorem exec_packageReset (s : State) : exec .packageReset s = .next (s.cleared true) := rfl
theorem exec_powerRemoval (s : State) : exec .powerRemoval s = .next (s.cleared false) := rfl

/-! ## The host's accesses to memory -/

/-- The host may reach a key now: it is its own, or its port is up, and nothing of the package holds the key. -/
def State.hostMay (s : State) (k : Nat) : Prop :=
  s.hostOwn k = true ∨ (s.hostUp = true ∧ s.hostReaches k = true ∧ s.owner k = none ∧ s.moving k = false)

/-- The keys of n bytes at an address that the host names. -/
def hostKeys (pa : BitVec 52) (n : Nat) : List Nat := (List.range n).map fun i => unalias (pa.toNat + i)

section
variable {s : State} {pa : BitVec 52} {bs : List Byte} (hmay : ∀ k ∈ hostKeys pa bs.length, s.hostMay k)
include hmay

/-- The test of HOST_MEMORY_ACCESS passes. -/
theorem hostKeys_all_reachable :
    (hostKeys pa bs.length).all (fun k => s.hostOwn k || (s.hostUp && s.hostReaches k && (s.owner k).isNone && !s.moving k)) = true := by
  simpa [State.hostMay, and_assoc] using hmay

theorem exec_hostRead : exec (.hostMemoryAccess false pa bs) s = .next (s.fireKeys 0 false (hostKeys pa bs.length)).1 := by
  have hall := hostKeys_all_reachable hmay
  change execHostMemoryAccess false pa bs s = _
  rw [hostKeys] at hall ⊢
  simp [execHostMemoryAccess, hall]

theorem exec_hostWrite (hcan : s.canWrite false ((hostKeys pa bs.length).zip bs) = true) :
    exec (.hostMemoryAccess true pa bs) s = .next (s.engineWrite false ((hostKeys pa bs.length).zip bs)) := by
  have hall := hostKeys_all_reachable hmay
  change execHostMemoryAccess true pa bs s = _
  rw [hostKeys] at hall hcan ⊢
  simp [execHostMemoryAccess, hall, hcan]

end

/-! ## The host's writes to control space -/

section
variable {s : State} {pa : BitVec 52} (hctl : isControl pa.toNat = true) (hal : pa.toNat % 8 = 0)
include hctl hal

/-- A reserved offset of control space takes no write. -/
theorem exec_registerWrite_reserved (v : Word) (hnone : s.ctlReg pa.toNat = none) : exec (.registerWrite pa v) s = .next s := by
  change execRegisterWrite pa v s = _
  simp [execRegisterWrite, hctl, hal, hnone]

theorem exec_registerWrite_word (v : Word) {r : CtlReg} (hreg : s.ctlReg pa.toNat = some r) :
    exec (.registerWrite pa v) s = s.ctlWrite v r := by
  change execRegisterWrite pa v s = _
  simp [execRegisterWrite, hctl, hal, hreg]

end

/-- The words that no write of the host changes: what the package counts, reports and identifies itself by. -/
theorem State.ctlWrite_readOnly (s : State) (v : Word) (d : Nat) {r : CtlReg}
    (hr : r = .retired ∨ r = .genst ∨ r = .complete ∨ r = .errcnt d ∨ r = .erraddr d ∨ r = .account d ∨ r = .identity d ∨ r = .report d) :
    s.ctlWrite v r = .next s := by
  rcases hr with rfl | rfl | rfl | rfl | rfl | rfl | rfl | rfl <;> rfl

/-- Settles O55: a reset is `State.cleared`, whose memory is a filter by key; the host's accesses and register writes are one
equation each. -/
theorem packageEvents : Obligations.PackageEvents := by
  refine ⟨?_, ?_, ?_⟩
  · rintro s i on (⟨rfl, rfl⟩ | ⟨rfl, rfl⟩)
    · exact ⟨s.cleared true, exec_packageReset s, rfl, rfl, rfl, rfl, rfl, rfl, rfl, rfl, rfl, rfl, rfl, s.cleared_rd true⟩
    · exact ⟨s.cleared false, exec_powerRemoval s, rfl, rfl, rfl, rfl, rfl, rfl, rfl, rfl, rfl, rfl, rfl, s.cleared_rd false⟩
  · intro s pa bs keys hmay
    exact ⟨exec_hostRead hmay, exec_hostWrite hmay⟩
  · intro s pa v r d q hctl hal
    refine ⟨exec_registerWrite_reserved hctl hal v, fun hreg => ?_⟩
    rw [exec_registerWrite_word hctl hal v hreg]
    refine ⟨?regmax, ?qctl, ?linkcfg, ?vshare, s.ctlWrite_readOnly v d⟩
    all_goals
      rintro rfl
      rfl

end Machine
end Sys2Proof
end

section
/-! One step: what the agenda asks for, or the turn of the core at work, stage by stage as `State.turn` runs it: the cause and
the fetch, the checks before the issue, the two instructions, and the bundle's retirement (R33, R34, R39, R45, R71). -/

namespace Sys2Proof.Machine

/-! ## The agenda -/

/-- What the deed leaves, with the contexts' areas brought up to date, is the step. -/
theorem step_of_deed {s t : State} (h : s.deed = .next t) : step s = .next (s.mirror t) := by
  simp [step, State.advance, h]

theorem step_of_deed_refused {s : State} {r : Refusal} (h : s.deed = .refused r) : step s = .refused r := by
  simp [step, State.advance, h]

theorem step_of_deed_fault {s : State} {f : Fault} (h : s.deed = .fault f) : step s = .fault f := by
  simp [step, State.advance, h]

section
variable {s : State} {i : Instr} {r : List Turn} (hp : s.powered = true)
include hp

theorem State.deed_core (ha : s.agenda = []) : s.deed = s.turn s.cur := by simp [State.deed, hp, ha]

theorem State.deed_event (ha : s.agenda = .event i :: r) (hi : i.isEvent = true) : s.deed = exec i { s with agenda := r } := by
  simp [State.deed, hp, ha, hi]

theorem State.deed_instruction (ha : s.agenda = .event i :: r) (hi : i.isEvent = false) : s.deed = .refused .turnNotEvent := by
  simp [State.deed, hp, ha, hi]

theorem State.deed_pass {n : Nat} (ha : s.agenda = .pass n :: r) :
    s.deed = .next { s with agenda := r, clock := s.clock + n * unitsPerNs } := by simp [State.deed, hp, ha]

theorem State.deed_media {k n : Nat} (ha : s.agenda = .media k n :: r) :
    s.deed = .next (({ s with agenda := r } : State).develop k n) := by simp [State.deed, hp, ha]

end

/-- Without power the package does nothing but a reset (R9). -/
theorem State.deed_unpowered_reset {s : State} {r : List Turn} (hp : s.powered = false) (ha : s.agenda = .event .packageReset :: r) :
    s.deed = exec .packageReset { s with agenda := r } := by simp [State.deed, hp, ha]

/-- That no reset is at hand (`ha`) selects the last arm of the agenda's match. -/
theorem State.deed_unpowered {s : State} (hp : s.powered = false) (ha : ∀ r, s.agenda ≠ .event .packageReset :: r) :
    s.deed = .fault .powerRemoved := by
  simp only [State.deed, hp, Bool.not_false, if_true]

/-! ## The turn, up to the fetch -/

/-- Core g as its turn begins: the cycles since its last turn are charged, what is due has landed, and nothing holds it. -/
def State.turnStart (s : State) (g : Nat) : State :=
  (((s.catchUp g).sfuReturn g).acceptCmds g).updCore g fun c => { c.landBy c.cycle with flow := .run, xl := 0 }

theorem State.turn_running {s : State} (hg : s.cur < numCores) (hstrand : (s.core s.cur).strand ≠ none)
    (hdbg : (s.quad (quadOf s.cur)).dbg = false) : s.turn s.cur = (s.turnStart s.cur).runTurn s.cur := by
  simp [State.turn, State.turnStart, Nat.not_le.mpr hg, hstrand, hdbg]

/-- With no exchange under way, no operation half done and no cause pending, the turn is the bundle's. -/
theorem State.runTurn_bundle {s : State} {g : Nat} (hex : s.pairIs g .exchanging = false) (hmid : (s.core g).midBundle = false)
    (hamo : (s.core g).amoFlying = false) (hpre : s.exchangeForPreempt g = false) (hasync : s.takeAsync g = none) :
    s.runTurn g = s.bundleTurn g := by
  simp [State.runTurn, hex, hmid, hamo, hpre, hasync]

section
variable {s u v : State} {g : Nat} {w : Word} (hre : s.reread g = (u, .ok ())) (hmic : (u.core g).micro = none)
  (hfet : u.fetch g = (v, .ok w))
include hre hmic hfet

/-- The cycles of the fetch's translation come first (R259). -/
theorem State.bundleTurn_walk (hxl : (v.core g).xl ≠ 0) :
    s.bundleTurn g = .next ((v.holding cMEM).payXl g (s.core g).arch.pc) := by
  simp [State.bundleTurn, hre, hmic, hfet, hxl]

theorem State.bundleTurn_present (hxl : (v.core g).xl = 0) : s.bundleTurn g = v.present (s.core g).arch.pc w := by
  simp [State.bundleTurn, hre, hmic, hfet, hxl]

end

/-! ## The checks of a fetched bundle (R45) -/

/-- The doubleword w stands at the issue point. -/
def State.atIssue (s : State) (w : Word) : State := s.updMe fun c => { c with bundle := w }

section
variable {s : State} {pc w : Word} (hbrk : (s.atIssue w).me.fetchBreak pc = false)
include hbrk

theorem State.present_undecoded {e} (hdec : decodeBundle w = .error e) : s.present pc w = .next ((s.atIssue w).illegal.settle pc) := by
  simp only [State.atIssue] at hbrk ⊢
  simp only [State.present, hbrk, hdec, Bool.false_eq_true, if_false]

theorem State.present_illFormed {b : Bundle} (hdec : decodeBundle w = .ok b) (hwf : b.wf (s.atIssue w).me.arch.tm = false) :
    s.present pc w = .next ((s.atIssue w).illegal.settle pc) := by
  simp only [State.atIssue] at hbrk hwf ⊢
  simp only [State.present, hbrk, hdec, hwf, Bool.false_eq_true, if_false, Bool.not_false, if_true]

theorem State.present_go {b : Bundle} (hdec : decodeBundle w = .ok b) (hwf : b.wf (s.atIssue w).me.arch.tm = true)
    (hpriv : Instr.privileged b.c = true → (s.atIssue w).me.arch.pl = true) : s.present pc w = (s.atIssue w).go b pc w := by
  simp only [State.atIssue] at hbrk hwf hpriv ⊢
  have hok : (Instr.privileged b.c && !(s.updMe fun c => { c with bundle := w }).me.arch.pl) = false := by
    cases hc : Instr.privileged b.c
    · rfl
    · rw [hpriv hc]; rfl
  simp only [State.present, hbrk, hdec, hwf, hok, Bool.false_eq_true, if_false, Bool.not_true]

end

/-! ## The issue of a checked bundle (R33, R45, R208) -/

section
variable {s t t2 t3 : State} {c a : Instr} (hc : exec c (s.ready (s.me.arch.pc + 8)) = .next t) (ht : t.me.flow = .run)

include hc in
/-- A bundle without an A instruction is its C instruction. -/
theorem State.issue_alone : s.issue c none = .next t := by simp only [State.issue, hc]

include hc ht in
/-- The A instruction beside a C instruction that completes. -/
theorem State.issue_beside (haft : Instr.afterA c = false) (ha : State.execBeside (s.ready (s.me.arch.pc + 8)) t a = .next t2)
    (ht2 : t2.me.flow = .run) : s.issue c (some a) = .next (State.keepOlds (s.ready (s.me.arch.pc + 8)) t t2 c) := by
  simp only [State.issue, hc, ht, haft, State.issueA, ha, ht2, Bool.false_eq_true, if_false]

include hc ht in
/-- A C instruction that takes effect after its bundle's A instruction (R36, R119). -/
theorem State.issue_after (haft : Instr.afterA c = true) (ha : exec a (s.ready (s.me.arch.pc + 8)) = .next t2)
    (ht2 : t2.me.flow = .run) (hc3 : exec c t2 = .next t3) (ht3 : t3.me.flow = .run) : s.issue c (some a) = .next t3 := by
  simp only [State.issue, hc, ht, haft, State.issueAfter, ha, ht2, hc3, ht3, if_true]

end

section
variable {s : State} {b : Bundle} {pc w : Word} (hnew : s.me.aIssued = false) (hmacro : ∀ d a x e, b.c ≠ .runMacro d a x e)
  (hx : s.exchangeFirst b.c = false)
include hnew hmacro hx

/-- A bundle that a register holds back waits (R44, R48). That its C instruction is no MACRO (`hmacro`) selects the A instruction
that stands in the bundle. -/
theorem State.go_wait {h : Nat} (hwait : s.registerWait (b.c :: b.a.toList) = some h) : s.go b pc w = .next ((s.holding h).settle pc) := by
  simp only [State.go, hnew, hx, Bool.false_eq_true, if_false, hwait]

/-- A bundle whose instructions go on, and that begins no microprogram, retires. -/
theorem State.go_finish {t : State} (hwait : s.registerWait (b.c :: b.a.toList) = none)
    (hshort : (s.me.arch.chk && (s.me.short b.c || b.a.any s.me.short)) = false) (hissue : s.issue b.c b.a = .next t)
    (ht : t.me.flow = .run) (hmic : (State.pairRetire s t b.c).me.micro = none) :
    s.go b pc w = .next ((State.pairRetire s t b.c).finish s.me.arch.tm b pc w (stallOf b)) := by
  simp only [State.go, hnew, hx, Bool.false_eq_true, if_false, hwait, hshort, hissue, ht, hmic, Option.isSome_none]

end

/-- Settles O59: the step is the deed with the areas brought up to date, and the deed is followed stage by stage. -/
theorem stepRunsTheBundle : Obligations.StepRunsTheBundle := by
  refine ⟨?bundle, ?event, ?instruction, ?pass, ?media, ?reset, ?off⟩
  case bundle =>
    intro s u v w hp ha hg hstrand hdbg g s1 pc p after hex hmid hamo hpre hasync hre hmic hfet
    have hturn : s.deed = s1.bundleTurn g :=
      calc s.deed = s.turn s.cur := State.deed_core hp ha
        _ = s1.runTurn g := State.turn_running hg hstrand hdbg
        _ = s1.bundleTurn g := State.runTurn_bundle hex hmid hamo hpre hasync
    refine ⟨fun hxl => step_of_deed (hturn.trans (State.bundleTurn_walk hre hmic hfet hxl)), fun hxl hbrk => ?_⟩
    have hpresent : s.deed = v.present pc w := hturn.trans (State.bundleTurn_present hre hmic hfet hxl)
    refine ⟨fun e hdec => step_of_deed (hpresent.trans (State.present_undecoded hbrk hdec)), fun b hdec => ?_⟩
    refine ⟨fun hwf => step_of_deed (hpresent.trans (State.present_illFormed hbrk hdec hwf)), fun hwf hpriv hx hnew hmacro => ?_⟩
    have hgo : s.deed = p.go b pc w := hpresent.trans (State.present_go hbrk hdec hwf hpriv)
    refine ⟨fun h hwait => step_of_deed (hgo.trans (State.go_wait hnew hmacro hx hwait)), ?_⟩
    intro hwait hshort r done t hc ht
    have hdone : ∀ q : State, p.issue b.c b.a = .next q → done q := fun q hissue hq hmic =>
      step_of_deed (hgo.trans (State.go_finish hnew hmacro hx hwait hshort hissue hq hmic))
    refine ⟨fun hb => hdone t ?alone, fun a t2 hb haft hexa ht2 => hdone _ ?beside, fun a t2 t3 hb haft hexa ht2 hc3 ht3 => hdone t3 ?after ht3⟩
    case alone => rw [hb]; exact State.issue_alone hc
    case beside => rw [hb]; exact State.issue_beside hc ht haft hexa ht2
    case after => rw [hb]; exact State.issue_after hc ht haft hexa ht2 hc3 ht3
  case event =>
    intro s i r hp ha hi
    have hdeed : s.deed = exec i { s with agenda := r } := State.deed_event hp ha hi
    cases hexec : exec i { s with agenda := r } with
    | next t => exact step_of_deed (hdeed.trans hexec)
    | fault f => exact step_of_deed_fault (hdeed.trans hexec)
    | refused f => exact step_of_deed_refused (hdeed.trans hexec)
  case instruction => exact fun s i r hp ha hi => step_of_deed_refused (State.deed_instruction hp ha hi)
  case pass => exact fun s n r hp ha => step_of_deed (State.deed_pass hp ha)
  case media => exact fun s k n r hp ha => step_of_deed (State.deed_media hp ha)
  case reset =>
    intro s r hp ha
    have hreset := exec_packageReset { s with agenda := r }
    exact ⟨_, hreset, step_of_deed ((State.deed_unpowered_reset hp ha).trans hreset)⟩
  case off => exact fun s hp ha => step_of_deed_fault (State.deed_unpowered hp ha)

end Sys2Proof.Machine
end

section
/-! The frame of the scalar instructions (R33, R79, R82, R105, R107): each leaves the state as it is, or one result in flight, an .sr
form with its draw taken from SRSEED before. -/

namespace Sys2Proof.Machine

/-! ## Updates of the core at work -/

theorem onlyMe_refl (s : State) : OnlyMe s s := ⟨rfl, fun _ _ => rfl, rfl⟩

theorem OnlyMe.trans {s t u : State} (h : OnlyMe s t) (h' : OnlyMe t u) : OnlyMe s u := by
  obtain ⟨hcur, hcore, hrest⟩ := h
  obtain ⟨hcur', hcore', hrest'⟩ := h'
  refine ⟨hcur'.trans hcur, fun g hg => (hcore' g (by rwa [hcur])).trans (hcore g hg), ?_⟩
  rw [← hrest, ← hrest']

theorem onlyMe_updMe (s : State) (f : Core → Core) : OnlyMe s (s.updMe f) :=
  ⟨rfl, fun _ hg => s.core_updMe_other f hg, rfl⟩

/-- Memory and what the agents of a die see of it are no part of a core. -/
theorem OnlyMe.sameMemory {s t : State} (h : OnlyMe s t) : SameMemory s t := by
  obtain ⟨-, -, hrest⟩ := h
  have hmem : t.mem = s.mem := by rw [← hrest]
  have hdies : t.dies = s.dies := by rw [← hrest]
  have hbias : t.bias = s.bias := by rw [← hrest]
  exact ⟨fun k => by rw [hmem], State.die_mem_only s t hmem hdies hbias⟩

/-! ## What a scalar instruction may leave -/

/-- t is s but for at most one more result in flight and, under .sr, SRSEED of the core at work. -/
structure ScalarEffect (r : Rnd) (s t : State) : Prop where
  only : OnlyMe s t
  stamp : t.stamp = s.stamp
  pend : ∃ l, t.me.pend = s.me.pend ++ l ∧ l.length ≤ 1
  rest : { t.me with pend := s.me.pend, arch := { t.me.arch with srseed := s.me.arch.srseed } } = s.me
  seed : r = .sr ∨ t.me.arch.srseed = s.me.arch.srseed

theorem scalarEffect_refl (r : Rnd) (s : State) : ScalarEffect r s s :=
  ⟨onlyMe_refl s, rfl, ⟨[], by simp⟩, rfl, .inr rfl⟩

theorem scalarEffect_claimDraws (r : Rnd) (n : Nat) (s : State) : ScalarEffect r s (s.claimDraws r n) := by
  unfold State.claimDraws
  split_ifs with hr
  · exact ⟨onlyMe_updMe s _, rfl, ⟨[], by simp [Core.updArch]⟩, by simp [Core.updArch], .inl hr⟩
  · exact scalarEffect_refl r s

theorem claimDraws_pend (r : Rnd) (n : Nat) (s : State) : (s.claimDraws r n).me.pend = s.me.pend := by
  unfold State.claimDraws
  split_ifs
  · rw [State.me_updMe]; rfl
  · rfl

/-- One result in flight, after the draws of an .sr form. -/
theorem scalarEffect_push (r : Rnd) (n : Nat) (s : State) (dst : PDst) (v : Word) (lat : Nat) (fl : Option FpFlags) :
    ScalarEffect r s ((s.claimDraws r n).updMe fun c => c.push dst v lat false fl) := by
  obtain ⟨honly, hstamp, -, hrest, hseed⟩ := scalarEffect_claimDraws r n s
  refine ⟨honly.trans (onlyMe_updMe _ _), hstamp, ?_, ?_, ?_⟩
  · exact ⟨_, by rw [State.me_updMe, Core.push_pend, claimDraws_pend], by simp⟩
  · rw [State.me_updMe]; exact hrest
  · rw [State.me_updMe]; exact hseed

/-- A result without a draw. -/
theorem scalarEffect_result (s : State) (dst : PDst) (v : Word) (lat : Nat) (fl : Option FpFlags) :
    ScalarEffect .rne s (s.updMe fun c => c.push dst v lat false fl) := scalarEffect_push .rne 0 s dst v lat fl

theorem ScalarEffect.of_next {r : Rnd} {s u t : State} (h : ScalarEffect r s u) (ht : (.next u : Step) = .next t) : ScalarEffect r s t := by
  cases ht
  exact h

theorem ScalarEffect.seed_same {s t : State} (h : ScalarEffect .rne s t) : t.me.arch.srseed = s.me.arch.srseed :=
  h.seed.resolve_left (by decide)

/-- The frame of the obligation, its last conjunct as what the rounding says of SRSEED. -/
theorem ScalarEffect.frame {r : Rnd} {s t : State} {seeds : Prop} (h : ScalarEffect r s t) (hseed : seeds) :
    OnlyMe s t ∧ SameMemory s t ∧ t.stamp = s.stamp ∧ (∃ l, t.me.pend = s.me.pend ++ l ∧ l.length ≤ 1)
      ∧ { t.me with pend := s.me.pend, arch := { t.me.arch with srseed := s.me.arch.srseed } } = s.me ∧ seeds :=
  ⟨h.only, h.only.sameMemory, h.stamp, h.pend, h.rest, hseed⟩

/-- Settles O6: each scalar instruction leaves the state itself, or one result in flight with at most one draw before it. -/
theorem scalarFrame : Obligations.ScalarFrame := by
  intro s t i hi hexec
  cases i with
  | anop | nop =>
    have heffect : ScalarEffect .rne s t := (scalarEffect_refl .rne s).of_next hexec
    exact heffect.frame heffect.seed_same
  | movi | add | sub | mul | mulh | div | and | or | xor | shl | shr | min | max | cmp | sel | bits | bfx | pred | lea | hash | fcmp | litx =>
    have heffect : ScalarEffect .rne s t := (scalarEffect_result s _ _ _ _).of_next hexec
    exact heffect.frame heffect.seed_same
  | fmnx =>
    have heffect : ScalarEffect .rne s t := (scalarEffect_push .rne 1 s _ _ _ _).of_next hexec
    exact heffect.frame heffect.seed_same
  | fadd _ _ _ _ r | fmul _ _ _ _ r | ffma _ _ _ _ r | fdiv _ _ _ _ r | fcvt _ _ _ _ _ r =>
    have heffect : ScalarEffect r s t := (scalarEffect_push r 1 s _ _ _ _).of_next hexec
    exact heffect.frame heffect.seed
  | _ => exact hi.elim

end Sys2Proof.Machine
end

section
/-! What a strand's departure moves besides the strand: accounts, clocks, memory and queues (R263 to R271, R301 to R307). -/

namespace Sys2Proof.Machine

/-! ## States that differ in accounts, clocks, memory and queues alone -/

/-- What of a core belongs to its strand and its issue point: no accounts, no clocks and no queues. -/
def Core.strandState (c : Core) : Option Strand × Flow × List PendW × Arch × Pair := (c.strand, c.flow, c.pend, c.arch, c.pair)

/-- From s to t no strand has moved, no object has changed, and no number has been drawn. -/
structure Quiet (s t : State) : Prop where
  cur : t.cur = s.cur
  stamp : t.stamp = s.stamp
  clock : t.clock = s.clock
  core : ∀ g, (t.core g).strandState = (s.core g).strandState
  objs : ∀ n, (t.ctx n).objs = (s.ctx n).objs

theorem quiet_refl (s : State) : Quiet s s := ⟨rfl, rfl, rfl, fun _ => rfl, fun _ => rfl⟩

section
variable {s t : State} (h : Quiet s t)
include h

theorem Quiet.trans {u : State} (h' : Quiet t u) : Quiet s u :=
  ⟨h'.cur.trans h.cur, h'.stamp.trans h.stamp, h'.clock.trans h.clock, fun g => (h'.core g).trans (h.core g),
    fun n => (h'.objs n).trans (h.objs n)⟩

/-- A change of other parts of the package. -/
theorem Quiet.elsewhere {u : State} (hcores : u.cores = t.cores) (hctxs : u.ctxs = t.ctxs) (hcur : u.cur = t.cur)
    (hstamp : u.stamp = t.stamp) (hclock : u.clock = t.clock) : Quiet s u :=
  h.trans ⟨hcur, hstamp, hclock, fun g => by simp only [State.core, hcores], fun n => by simp only [State.ctx, hctxs]⟩

theorem Quiet.setGen (gen : Gen) : Quiet s { t with gen := gen } := h.elsewhere rfl rfl rfl rfl rfl

theorem Quiet.setPosts (posts : List Post) : Quiet s { t with posts := posts } := h.elsewhere rfl rfl rfl rfl rfl

theorem Quiet.updCore {g : Nat} {f : Core → Core} (hf : ∀ c, (f c).strandState = c.strandState) :
    Quiet s (t.updCore g f) := by
  refine h.trans ⟨rfl, rfl, rfl, fun k => ?_, fun _ => rfl⟩
  by_cases hk : k = g
  · rw [hk, State.core_updCore_same, hf]
  · rw [State.core_updCore_other t f hk]

theorem Quiet.updCtx {n : Nat} {f : Ctx → Ctx} (hf : ∀ c, (f c).objs = c.objs) : Quiet s (t.updCtx n f) := by
  refine h.trans ⟨rfl, rfl, rfl, fun _ => rfl, fun m => ?_⟩
  by_cases hm : m = n
  · rw [hm, State.ctx_updCtx_same, hf]
  · rw [State.ctx_updCtx_other t f hm]

theorem Quiet.foldl {α : Type} {f : State → α → State} (hf : ∀ t a, Quiet s t → Quiet s (f t a)) (l : List α) :
    Quiet s (l.foldl f t) := by
  induction l generalizing t with
  | nil => exact h
  | cons a r ih => exact ih (hf t a h)

/-! ## Memory that the hardware writes of its own -/

theorem Quiet.homeWrite (e : Bool) (cs : List Host.Cell) (ws : List Nat) : Quiet s (t.homeWrite e cs ws) := h.elsewhere rfl rfl rfl rfl rfl

theorem Quiet.setPoison (k : Nat) : Quiet s (t.setPoison k) := h.elsewhere rfl rfl rfl rfl rfl

theorem Quiet.putBytes (k n v : Nat) : Quiet s (t.putBytes k n v) := h.homeWrite _ _ _

theorem Quiet.putCode (b c : Nat) : Quiet s (t.putCode b c) := h.putBytes _ _ _

theorem Quiet.thaw (b : Nat) : Quiet s (t.thaw b) := by
  unfold State.thaw
  split
  · exact h
  · exact h.elsewhere rfl rfl rfl rfl rfl

omit h in
/-- A map over the cores that keeps the strand's part of each. -/
theorem core_mapVals_strandState {f : Core → Core} (hf : ∀ c, (f c).strandState = c.strandState) (l : SMap Core) (g : Nat) :
    (SMap.get (SMap.mapVals l fun _ c => f c) Core.reset g).strandState = (SMap.get l Core.reset g).strandState := by
  induction l with
  | nil => rfl
  | cons p r ih =>
    simp only [SMap.mapVals, List.map_cons, SMap.get] at ih ⊢
    split_ifs
    · exact hf _
    · exact ih

theorem Quiet.mapCores {f : Core → Core} (hf : ∀ c, (f c).strandState = c.strandState) :
    Quiet s { t with cores := SMap.mapVals t.cores fun _ c => f c } :=
  h.trans ⟨rfl, rfl, rfl, core_mapVals_strandState hf t.cores, fun _ => rfl⟩

theorem Quiet.fireSector (die : Nat) (direct : Bool) (k : Nat) : Quiet s (t.fireSector die direct k).1 := by
  unfold State.fireSector
  have hfired := h.mapCores (f := fun c =>
    if bitAt c.injctl 0 && decide (unalias c.injaddr.toNat / 32 = k) then { c with injctl := setBit (setBit c.injctl 0 false) 3 true } else c)
    (fun c => by split_ifs <;> rfl)
  dsimp only
  split_ifs
  · exact h
  all_goals exact hfired.elsewhere rfl rfl rfl rfl rfl

theorem Quiet.fireKeys (die : Nat) (direct : Bool) (ks : List Nat) : Quiet s (t.fireKeys die direct ks).1 := by
  unfold State.fireKeys
  generalize (ks.map (· / 32)).eraseDups = l
  suffices hfold : ∀ r : State × Bool, Quiet s r.1 →
      Quiet s (l.foldl (fun r k => let t := r.1.fireSector die direct k; (t.1, r.2 || t.2)) r).1 from hfold (t, false) h
  induction l with
  | nil => exact fun _ hr => hr
  | cons a l ih => exact fun r hr => ih _ (hr.fireSector die direct a)

theorem Quiet.drainBlock (b : Nat) : Quiet s (t.drainBlock b) := by
  unfold State.drainBlock
  split
  · exact h
  · dsimp only
    refine Quiet.thaw (Quiet.setGen (Quiet.putCode (Quiet.foldl (Quiet.putBytes ?_ _ _ _) (fun _ _ hp => hp.setPoison _) _) _ _) _) _
    split_ifs
    · exact h
    · exact h.fireKeys _ _ _

theorem Quiet.ownWrite (cs : List Host.Cell) (ws : List Nat) : Quiet s (t.ownWrite cs ws) := by
  refine h.foldl (fun t b ht => ?_) _
  dsimp only
  split_ifs
  · exact (ht.drainBlock b).homeWrite _ _ _
  · exact ht.homeWrite _ _ _

theorem Quiet.hwWrite (pa n v : Nat) : Quiet s (t.hwWrite pa n v) := by
  unfold State.hwWrite
  dsimp only
  split_ifs
  · exact h.ownWrite _ _
  · exact h

/-! ## Accounts and time -/

theorem Quiet.ringPut (c : Core) (r : Nat) : Quiet s (t.ringPut c r) := by
  unfold State.ringPut
  exact (h.hwWrite _ _ _).hwWrite _ _ _

theorem Quiet.putOverflow (g : Nat) : Quiet s (t.putOverflow g) := by
  unfold State.putOverflow
  dsimp only
  split_ifs
  · exact h
  · split
    · exact h
    · exact (h.ringPut _ _).updCore fun _ => rfl

theorem Quiet.endRun (g k : Nat) : Quiet s (t.endRun g k) := by
  have hover : Quiet s ((List.range 32).foldl (fun s _ => State.putOverflow s g) t) := h.foldl (fun _ _ ht => ht.putOverflow g) _
  unfold State.endRun
  dsimp only
  split
  · exact h
  · refine Quiet.updCore ?_ fun _ => rfl
    split_ifs
    · exact h
    · exact hover.updCore fun _ => rfl
    · exact hover.ringPut _ _

theorem Quiet.extendRun (f g k x c n : Nat) (pc : Word) : Quiet s (State.extendRun f t g k x c n pc) := by
  induction f generalizing t n with
  | zero => exact h
  | succ f ih =>
    unfold State.extendRun
    extract_lets run t1 old m r t2
    have h1 : Quiet s t1 := by
      unfold t1
      cases run with
      | none => exact h
      | some r =>
        dsimp only
        split_ifs
        · exact h
        · exact h.endRun g k
    have h2 : Quiet s t2 := h1.updCore fun c => by split_ifs <;> rfl
    split_ifs
    · exact h2
    · exact ih h2 _

theorem Quiet.chargeSlot (g k x c n : Nat) (pc : Word) : Quiet s (t.chargeSlot g k x c n pc) := (h.extendRun _ g k x c n pc).updCore fun _ => rfl

theorem Quiet.charge (g c a n : Nat) (pc : Word) : Quiet s (t.charge g c a n pc) := by
  unfold State.charge
  dsimp only
  split_ifs
  · exact h
  · exact (((h.chargeSlot _ _ _ _ _ _).chargeSlot _ _ _ _ _ _).chargeSlot _ _ _ _ _ _).chargeSlot _ _ _ _ _ _
  · exact (h.chargeSlot _ _ _ _ _ _).chargeSlot _ _ _ _ _ _

theorem Quiet.spend (g n : Nat) : Quiet s (t.spend g n) := by
  unfold State.spend
  dsimp only
  split_ifs
  · refine Quiet.updCore (h.updCore ?_) ?_ <;> exact fun _ => rfl
  · exact h.updCore fun _ => rfl

theorem Quiet.pay (g c n : Nat) (pc : Word) : Quiet s (t.pay g c n pc) := (h.charge g c c n pc).spend g n

theorem Quiet.payXl (g : Nat) (pc : Word) : Quiet s (t.payXl g pc) := by
  unfold State.payXl
  split_ifs
  · exact h
  · exact (h.pay _ _ _ _).updCore fun _ => rfl

theorem Quiet.issueCharge : Quiet s t.issueCharge := (h.charge _ _ _ _ _).spend _ _

theorem Quiet.endRuns (g : Nat) : Quiet s (t.endRuns g) := (h.endRun g 0).endRun g 1

theorem Quiet.flushAcct (g : Nat) : Quiet s (t.flushAcct g) := by
  unfold State.flushAcct
  refine Quiet.updCore (h.foldl (fun t p ht => ?_) _) fun _ => rfl
  dsimp only
  split_ifs
  · exact ht.elsewhere rfl rfl rfl rfl rfl
  · exact ht.hwWrite _ _ _

/-! ## Queues -/

theorem Quiet.notOutstanding (l : List RqPacket) : Quiet s (t.notOutstanding l) :=
  h.foldl (fun _ p ht => Quiet.updCore (g := p.pkt.src) (f := fun c => { c with outstanding := c.outstanding - 1 }) ht fun _ => rfl) _

theorem Quiet.emptyQueues (g : Nat) : Quiet s (t.emptyQueues g) := by
  unfold State.emptyQueues
  dsimp only
  refine Quiet.setPosts (Quiet.updCore (h.notOutstanding _) ?_) _
  exact fun _ => rfl

theorem Quiet.queuesToSpill (g n : Nat) : Quiet s (t.queuesToSpill g n) := by
  unfold State.queuesToSpill
  exact (h.emptyQueues g).updCtx fun _ => rfl

theorem Quiet.claim (n : Nat) (d : Dest) (p : Packet) (present counted : Bool) (rank : Nat) : Quiet s (t.claim n d p present counted rank) := by
  unfold State.claim
  cases d with
  | core g => exact h.updCore fun _ => rfl
  | mbox c m => exact h.updCtx fun _ => rfl

theorem Quiet.pushSpill (n : Nat) (d : Dest) (e : SpillEntry) : Quiet s (t.pushSpill n d e) := by
  unfold State.pushSpill
  cases d with
  | core g =>
    refine h.updCtx fun c => ?_
    split <;> rfl
  | mbox c m => exact h.updCtx fun _ => rfl

theorem Quiet.postDone (p : Post) : Quiet s (t.postDone p) := by
  unfold State.postDone
  split
  · split_ifs
    · exact h.updCore fun _ => rfl
    · exact h
  · exact h

theorem Quiet.deliver {u : State} {p : Post} (hdel : t.deliver p = some u) : Quiet s u := by
  unfold State.deliver at hdel
  extract_lets away k room at hdel
  split_ifs at hdel with hsealed hcross hroom hlate
  · cases hdel
    exact h.postDone p
  · split at hdel
    · cases hdel
      exact h.claim _ _ _ _ _ _
    · cases hdel
      exact h.updCore fun _ => rfl
    · cases hdel
      exact h
  · obtain ⟨res, -, rfl⟩ := Option.map_eq_some_iff.mp hdel
    exact (h.pushSpill _ _ _).postDone p

theorem Quiet.servePosts (f : Post → Bool) : Quiet s (t.servePosts f) := by
  unfold State.servePosts
  refine Quiet.foldl (h.setPosts _) (fun t p ht => ?_) _
  cases hdel : t.deliver p with
  | some u => exact ht.deliver hdel
  | none => exact ht.elsewhere rfl rfl rfl rfl rfl

end

end Sys2Proof.Machine
end

section
/-! Suspension points (R213 to R216): SUSP, WAITC and EXIT on a core whose table is sorted, and what they do where it is not. -/

namespace Sys2Proof

/-- A listed number's value written again changes nothing, where the table is sorted and so lists it once. -/
theorem SMap.set_get_self {α : Type} {m : SMap α} (hm : (SMap.keys m).Pairwise (· < ·)) {n : Nat} (hn : n ∈ SMap.keys m) (d : α) :
    SMap.set m n (SMap.get m d n) = m := by
  induction m with
  | nil => cases hn
  | cons p r ih =>
    obtain ⟨k, v⟩ := p
    obtain ⟨hk, hr⟩ := List.pairwise_cons.mp hm
    rcases List.mem_cons.mp hn with rfl | hin
    · simp [SMap.set, SMap.get]
    · have hlt : k < n := hk n hin
      simp only [SMap.set, SMap.get, if_neg hlt.ne, if_neg hlt.ne', if_neg hlt.not_gt, ih hr hin]

/-- A number that is not listed reads as the default. -/
theorem SMap.get_of_not_mem {α : Type} {m : SMap α} {n : Nat} (hn : n ∉ SMap.keys m) (d : α) : SMap.get m d n = d := by
  induction m with
  | nil => rfl
  | cons p r ih =>
    obtain ⟨hne, hr⟩ : n ≠ p.1 ∧ n ∉ SMap.keys r := by simpa [SMap.keys] using hn
    simp only [SMap.get, if_neg (Ne.symm hne), ih hr]

namespace Machine

/-! ## What of a strand a quiet change keeps -/

section
variable {s t : State} (h : Quiet s t)
include h

theorem Quiet.strand (g : Nat) : (t.core g).strand = (s.core g).strand := congrArg (·.1) (h.core g)
theorem Quiet.flow (g : Nat) : (t.core g).flow = (s.core g).flow := congrArg (·.2.1) (h.core g)
theorem Quiet.pend (g : Nat) : (t.core g).pend = (s.core g).pend := congrArg (·.2.2.1) (h.core g)
theorem Quiet.arch (g : Nat) : (t.core g).arch = (s.core g).arch := congrArg (·.2.2.2.1) (h.core g)
theorem Quiet.pair (g : Nat) : (t.core g).pair = (s.core g).pair := congrArg (·.2.2.2.2) (h.core g)

theorem Quiet.dual (g : Nat) : t.dual g = s.dual g := by simp only [State.dual, h.pair]

theorem Quiet.recordOf (g : Nat) (st : Strand) (pc : Word) : t.recordOf g st pc = s.recordOf g st pc := by
  simp only [State.recordOf, Core.landEvery, h.arch, h.pend, h.dual]

end

/-- Whether an object has completed depends on the objects alone. -/
theorem Ctx.outcome_congr {c c' : Ctx} (h : c'.objs = c.objs) (stamp id : Nat) : c'.outcome stamp id = c.outcome stamp id := by
  simp only [Ctx.outcome, Ctx.obj?, h]

/-! ## The core without its strand -/

/-- Core g holds no strand: it has left. -/
def State.Vacant (s : State) (g : Nat) : Prop := (s.core g).strand = none ∧ (s.core g).flow = .left

theorem Quiet.vacant {s t : State} (h : Quiet s t) {g : Nat} (hv : s.Vacant g) : t.Vacant g :=
  ⟨(h.strand g).trans hv.1, (h.flow g).trans hv.2⟩

theorem State.Vacant.of_cores {s t : State} {g : Nat} (hv : s.Vacant g) (h : t.cores = s.cores) : t.Vacant g := by
  simpa only [State.Vacant, State.core, h] using hv

theorem State.Vacant.updCore {s : State} {g : Nat} (hv : s.Vacant g) (k : Nat) {f : Core → Core}
    (hf : ∀ c, (f c).strand = c.strand ∧ (f c).flow = c.flow) : (s.updCore k f).Vacant g := by
  by_cases hk : g = k
  · subst hk
    obtain ⟨hstrand, hflow⟩ := hf (s.core g)
    exact ⟨by rw [State.core_updCore_same, hstrand, hv.1], by rw [State.core_updCore_same, hflow, hv.2]⟩
  · exact ⟨by rw [State.core_updCore_other s f hk, hv.1], by rw [State.core_updCore_other s f hk, hv.2]⟩

/-- From s to t core g's strand has left, and neither time nor names nor objects have changed. -/
structure Leaves (g : Nat) (s t : State) : Prop where
  stamp : t.stamp = s.stamp
  clock : t.clock = s.clock
  objs : ∀ n, (t.ctx n).objs = (s.ctx n).objs
  vacant : t.Vacant g

theorem Quiet.leaves {s t u : State} {g : Nat} (h : Quiet s t) (h' : Leaves g t u) : Leaves g s u :=
  ⟨h'.stamp.trans h.stamp, h'.clock.trans h.clock, fun n => (h'.objs n).trans (h.objs n), h'.vacant⟩

theorem State.offer_no_strand {s : State} {g : Nat} (h : (s.core g).strand = none) :
    s.offer g = s.servePosts fun p => decide (p.dst = .core g) := by
  simp only [State.offer, h]

theorem freeCore_leaves (s : State) (g : Nat) : Leaves g s (s.freeCore g) := by
  have hbooks : Quiet s (((s.endRuns g).flushAcct g).leaveArray g) :=
    (((quiet_refl s).endRuns g).flushAcct g).elsewhere rfl rfl rfl rfl rfl
  unfold State.freeCore
  extract_lets w
  refine hbooks.leaves ?_
  rw [State.offer_no_strand (by rw [State.core_updCore_same])]
  have hoffer := (quiet_refl (w.updCore g fun c =>
    { c with strand := none, idleSince := w.clock, stepClock := none, micro := none, pend := [], loads := [], flow := .left,
             fetchBuf := [], loopBuf := [], xl := 0, cmds := [], chans := [], linkPc := none })).servePosts fun p => decide (p.dst = .core g)
  exact ⟨hoffer.stamp, hoffer.clock, hoffer.objs, hoffer.vacant ⟨by rw [State.core_updCore_same], by rw [State.core_updCore_same]⟩⟩

/-! ## Launches end, records are kept: the cores stay -/

theorem State.release_cores (s : State) (n id : Nat) (out : Bool) : (s.release n id out).cores = s.cores := by
  unfold State.release
  generalize s.items = l
  induction l generalizing s with
  | nil => rfl
  | cons it l ih =>
    rw [List.foldl_cons, ih]
    split_ifs
    · split
      · split_ifs <;> rfl
      · rfl
    · rfl

theorem State.completeObj_cores (f : Nat) (s : State) (n id : Nat) : (State.completeObj f s n id).cores = s.cores := by
  induction f generalizing s id with
  | zero => rfl
  | succ f ih =>
    unfold State.completeObj
    split
    · rfl
    · dsimp only
      split_ifs
      · rfl
      · split
        · exact State.release_cores _ _ _ _
        · split_ifs
          · exact State.release_cores _ _ _ _
          · exact (ih _ _).trans (State.release_cores _ _ _ _)

theorem State.launchEnd_cores (s : State) (n id : Nat) (cancelled : Bool) : (s.launchEnd n id cancelled).cores = s.cores := by
  unfold State.launchEnd
  split
  · rfl
  · split_ifs
    · rfl
    · exact State.completeObj_cores _ _ _ _

theorem State.stopCheck_cores (s : State) (n : Nat) : (s.stopCheck n).cores = s.cores := by
  unfold State.stopCheck
  split_ifs <;> rfl

/-- A launch's strand ends, and its context stops where it was the last. -/
theorem State.Vacant.launchEnd {s : State} {g : Nat} (hv : s.Vacant g) (n id : Nat) (cancelled : Bool) :
    ((s.launchEnd n id cancelled).stopCheck n).Vacant g :=
  hv.of_cores ((State.stopCheck_cores _ _).trans (State.launchEnd_cores _ _ _ _))

/-! ## The departure at a suspension point -/

/-- A core that a strand has left starts the next one's state anew; its debt stays (R37, R266). -/
def Core.renewed (c : Core) : Core := { c with arch := { Arch.reset with debt := c.arch.debt } }

theorem State.Vacant.renewed {s : State} {g : Nat} (hv : s.Vacant g) : (s.updCore g Core.renewed).Vacant g :=
  hv.updCore g fun _ => ⟨rfl, rfl⟩

/-- Wherever the record goes, the core is left. -/
theorem vacant_suspendTo {s : State} {g : Nat} {t : Strand} (hstrand : (s.core g).strand = some t) (pc : Word)
    {put : State → Strand → Rec → State} (hput : ∀ (w : State) (r : Rec), w.Vacant g → (put w t r).Vacant g) :
    (s.suspendTo g pc put).Vacant g := by
  unfold State.suspendTo
  split
  next hnone => simp [hstrand] at hnone
  next t' hsome =>
    obtain rfl : t = t' := by simpa [hstrand] using hsome
    extract_lets r paid disarmed spilled single broken freed placed
    have hfreed : freed.Vacant g := (freeCore_leaves broken g).vacant
    have hplaced : placed.Vacant g := by
      unfold placed
      split_ifs
      · exact hfreed.launchEnd _ _ _
      · exact hput freed r hfreed
    exact hplaced.renewed

/-- A strand of its own core, not cancelled and with no graph armed, leaves its record where `put` says. -/
theorem suspendTo_leaves {s : State} {g : Nat} {t : Strand} (hstrand : (s.core g).strand = some t) (hdual : s.dual g = false)
    (hcx : t.r.cx = false) (harm : (s.core g).arch.arming = 0) (pc : Word) (put : State → Strand → Rec → State) :
    ∃ w, Leaves g s w ∧ s.suspendTo g pc put = (put w t (s.recordOf g t pc)).updCore g Core.renewed := by
  have hpaid : Quiet s ((s.payXl g pc).pay g cSWITCH 1 pc) := ((quiet_refl s).payXl g pc).pay _ _ _ _
  have hspilled : Quiet s (((s.payXl g pc).pay g cSWITCH 1 pc).queuesToSpill g t.ctx) := hpaid.queuesToSpill g t.ctx
  refine ⟨_, hspilled.leaves (freeCore_leaves _ g), ?_⟩
  have hdisarm : ((s.payXl g pc).pay g cSWITCH 1 pc).disarm t.ctx (((s.payXl g pc).pay g cSWITCH 1 pc).core g).arch.arming
      = (s.payXl g pc).pay g cSWITCH 1 pc := by
    rw [hpaid.arch, harm]
    rfl
  simp only [State.suspendTo, hstrand, hdisarm, hspilled.dual, hdual, hcx, Bool.false_eq_true, if_false]
  rfl

/-! ## The bundle at its suspension point -/

section
variable {s : State} {t : Strand} (hsorted : (SMap.keys s.cores).Pairwise (· < ·)) (hstrand : s.me.strand = some t)
  (hopen : s.me.arch.openRep = none)
include hsorted hstrand hopen

/-- Without an open body nothing is closed: the core's entry stands as it is. -/
theorem closeBody_eq_self : s.closeBody s.cur = s := by
  have hlisted : s.cur ∈ SMap.keys s.cores := by
    by_contra hout
    have hreset : s.me = Core.reset := SMap.get_of_not_mem hout Core.reset
    rw [hreset] at hstrand
    cases hstrand
  have hkept : (s.core s.cur).updArch (fun a => if a.openRep.isSome then a.closeRep else a) = s.core s.cur := by
    have hnone : (s.core s.cur).arch.openRep = none := hopen
    simp [Core.updArch, hnone]
  have hset : SMap.set s.cores s.cur (s.core s.cur) = s.cores := SMap.set_get_self hsorted hlisted Core.reset
  simp only [State.closeBody, State.updCore, State.setCore, hkept, hset]

variable (hwait : s.suspendWait s.cur = none)
include hwait

theorem suspendHere_run (put : State → Strand → Rec → State) :
    s.suspendHere put = .next (s.issueCharge.suspendTo s.cur (s.me.arch.pc + 8) put) := by
  simp only [State.suspendHere, closeBody_eq_self hsorted hstrand hopen, hwait]

/-- EXIT (R214). -/
theorem exec_exit_leaves (hdual : s.dual s.cur = false) : ∃ u : State, exec .exit s = .next u ∧ u.Vacant s.cur := by
  have hissued : (s.issueCharge.core s.cur).strand = some t := ((quiet_refl s).issueCharge.strand s.cur).trans hstrand
  have hleft := vacant_suspendTo hissued (s.me.arch.pc + 8)
    (put := fun s t _ => (s.launchEnd t.ctx t.r.launch t.r.cx).stopCheck t.ctx) fun w _ hw => hw.launchEnd _ _ _
  have hexec : exec .exit s = execExit s := rfl
  simp only [hexec, execExit, suspendHere_run hsorted hstrand hopen hwait, hdual, Bool.false_eq_true, if_false]
  refine ⟨_, rfl, ?_⟩
  split_ifs
  · exact hleft.updCore _ fun _ => ⟨rfl, rfl⟩
  · exact hleft

variable (hcx : t.r.cx = false) (hdual : s.dual s.cur = false) (harm : s.me.arch.arming = 0)
include hcx hdual harm

theorem suspendHere_leaves (put : State → Strand → Rec → State) :
    ∃ w, Leaves s.cur s w
      ∧ s.suspendHere put = .next ((put w t (s.recordOf s.cur t (s.me.arch.pc + 8))).updCore s.cur Core.renewed) := by
  have hissue : Quiet s s.issueCharge := (quiet_refl s).issueCharge
  obtain ⟨w, hw, hto⟩ := suspendTo_leaves ((hissue.strand s.cur).trans hstrand) ((hissue.dual s.cur).trans hdual) hcx
    ((congrArg Arch.arming (hissue.arch s.cur)).trans harm) (s.me.arch.pc + 8) put
  rw [hissue.recordOf] at hto
  exact ⟨w, hissue.leaves hw, by rw [suspendHere_run hsorted hstrand hopen hwait, hto]⟩

end

/-! ## The record that stays behind -/

/-- In u the core at work of s has no strand, and a new record of the strand t is at the place p. -/
def LeftAt (s : State) (t : Strand) (p : Place) (u : State) : Prop :=
  (u.core s.cur).strand = none ∧ ∃ it, it ∈ u.items ∧ it.rid = s.stamp ∧ it.ctx = t.ctx
    ∧ it.die = t.die ∧ it.layer = t.layer ∧ it.r.pc = s.me.arch.pc + 8 ∧ it.r.pri = t.pri ∧ it.r.launch = t.r.launch
    ∧ it.r.index = t.r.index ∧ it.r.xs = (s.recordOf s.cur t 0).xs ∧ it.place = p

section
variable {s w : State} {t : Strand} (hw : Leaves s.cur s w)
include hw

theorem attach_leftAt (p : Place) (kind : Nat) :
    LeftAt s t p ((w.attach t.ctx t.die t.layer t.slot (s.recordOf s.cur t (s.me.arch.pc + 8)) p kind).updCore s.cur Core.renewed) := by
  refine ⟨?_, _, List.mem_append_right _ (List.mem_singleton_self _), hw.stamp, rfl, rfl, rfl, rfl, rfl, rfl, rfl, rfl, rfl⟩
  exact (State.Vacant.renewed (hw.vacant.of_cores rfl)).1

theorem requeue_leftAt : LeftAt s t .ring ((w.requeue t (s.recordOf s.cur t (s.me.arch.pc + 8))).updCore s.cur Core.renewed) := by
  refine ⟨?_, _, List.mem_append_right _ (List.mem_singleton_self _), hw.stamp, rfl, rfl, rfl, rfl, rfl, rfl, rfl, rfl, rfl⟩
  exact (State.Vacant.renewed (hw.vacant.of_cores rfl)).1

end

section
variable {s : State} {t : Strand} (hstrand : s.me.strand = some t)
include hstrand

/-! ## The traps of SUSP and WAITC (R215) -/

omit hstrand in
theorem exec_susp_trapMode (a : Reg) (htm : s.me.arch.tm = true) : exec (.susp a) s = .next (s.trap 0x01 s.me.bundle) := by
  change execSusp a s = _
  simp only [execSusp, htm, if_true]
  rfl

theorem exec_waitc_trapMode (d a : Reg) (htm : s.me.arch.tm = true) : exec (.waitc d a) s = .next (s.trap 0x01 s.me.bundle) := by
  change execWaitc d a s = _
  simp only [execWaitc, hstrand, htm, if_true]
  rfl

variable (htm : s.me.arch.tm = false)
include htm

theorem exec_waitc_unnamed (d a : Reg) (hname : (s.ctx t.ctx).named t.ctx (s.me.xAt a) = none) :
    exec (.waitc d a) s = .next (s.trap 0x06 (s.me.xAt a)) := by
  change execWaitc d a s = _
  simp only [execWaitc, hstrand, htm, hname, Bool.false_eq_true, if_false]
  rfl

theorem exec_waitc_own (d a : Reg) {id : Nat} (hname : (s.ctx t.ctx).named t.ctx (s.me.xAt a) = some id)
    (hunder : (s.ctx t.ctx).under id t.r.launch = true) : exec (.waitc d a) s = .next (s.trap 0x06 (s.me.xAt a)) := by
  change execWaitc d a s = _
  simp only [execWaitc, hstrand, htm, hname, hunder, Bool.false_eq_true, if_false, if_true]
  rfl

/-! ## SUSP and WAITC leave (R213, R215, R216) -/

variable (hsorted : (SMap.keys s.cores).Pairwise (· < ·)) (hopen : s.me.arch.openRep = none) (hwait : s.suspendWait s.cur = none)
  (hcx : t.r.cx = false) (hdual : s.dual s.cur = false) (harm : s.me.arch.arming = 0)
include hsorted hopen hwait hcx hdual harm

theorem exec_susp_leaves (a : Reg) : ∃ u : State, exec (.susp a) s = .next u
    ∧ LeftAt s t (if a = 0 ∨ (s.me.xAt a).toNat ≤ s.clock / 11088 then .ring else .sleeping (s.me.xAt a).toNat) u := by
  have hexec : exec (.susp a) s = execSusp a s := rfl
  simp only [hexec, execSusp, htm, Bool.false_eq_true, if_false]
  obtain ⟨w, hw, hhere⟩ := suspendHere_leaves hsorted hstrand hopen hwait hcx hdual harm fun u t r =>
    if a = 0 ∨ (s.me.xAt a).toNat ≤ nsOf u.clock then u.requeue t r else u.attach t.ctx t.die t.layer t.slot r (.sleeping (s.me.xAt a).toNat) 1
  refine ⟨_, hhere, ?_⟩
  have hclock : nsOf w.clock = s.clock / 11088 := by rw [hw.clock]; rfl
  rw [hclock]
  split_ifs
  · exact requeue_leftAt hw
  · exact attach_leftAt hw _ _

theorem exec_waitc_leaves (d a : Reg) {id : Nat} (hname : (s.ctx t.ctx).named t.ctx (s.me.xAt a) = some id)
    (hunder : (s.ctx t.ctx).under id t.r.launch = false) (hout : (s.ctx t.ctx).outcome s.stamp id = none) :
    ∃ u : State, exec (.waitc d a) s = .next u ∧ LeftAt s t (.waiting id d.toNat) u := by
  have hexec : exec (.waitc d a) s = execWaitc d a s := rfl
  simp only [hexec, execWaitc, hstrand, htm, hname, hunder, hout, Bool.false_eq_true, if_false]
  obtain ⟨w, hw, hhere⟩ := suspendHere_leaves hsorted hstrand hopen hwait hcx hdual harm fun u t r =>
    match (u.ctx t.ctx).outcome u.stamp id with
    | some o => u.enqueue t.ctx t.die t.layer t.slot r (if d = 0 then none else some (d.toNat, BitVec.ofNat 64 o.toNat))
    | none => u.attach t.ctx t.die t.layer t.slot r (.waiting id d.toNat) 2
  refine ⟨_, hhere, ?_⟩
  have hstill : (w.ctx t.ctx).outcome w.stamp id = none := by rw [Ctx.outcome_congr (hw.objs t.ctx), hw.stamp, hout]
  simp only [hstill]
  exact attach_leftAt hw _ _

end

/-- Where the table of cores is sorted by key, as `SMap` is meant to be, every clause of `Obligations.SuspensionPoints` holds. -/
theorem suspensionPoints_of_sorted (s : State) (t : Strand) (d a : Reg) (hsorted : (SMap.keys s.cores).Pairwise (· < ·))
    (hstrand : s.me.strand = some t) (hcx : t.r.cx = false) (hopen : s.me.arch.openRep = none) (hdual : s.dual s.cur = false) :
    let xa := s.me.xAt a
    (s.me.issuedA = none → xa = s.me.x a)
    ∧ (s.me.arch.tm = true → exec (.susp a) s = .next (s.trap 0x01 s.me.bundle) ∧ exec (.waitc d a) s = .next (s.trap 0x01 s.me.bundle))
    ∧ (s.me.arch.tm = false → (s.ctx t.ctx).named t.ctx xa = none → exec (.waitc d a) s = .next (s.trap 0x06 xa))
    ∧ (∀ id, s.me.arch.tm = false → (s.ctx t.ctx).named t.ctx xa = some id → (s.ctx t.ctx).under id t.r.launch = true →
        exec (.waitc d a) s = .next (s.trap 0x06 xa))
    ∧ (s.suspendWait s.cur = none →
      (∃ u : State, exec .exit s = .next u ∧ (u.core s.cur).strand = none ∧ (u.core s.cur).flow = .left)
      ∧ (s.me.arch.tm = false → s.me.arch.arming = 0 →
        (∃ u : State, exec (.susp a) s = .next u ∧ LeftAt s t (if a = 0 ∨ xa.toNat ≤ s.clock / 11088 then .ring else .sleeping xa.toNat) u)
        ∧ (∀ id, (s.ctx t.ctx).named t.ctx xa = some id → (s.ctx t.ctx).under id t.r.launch = false →
            (s.ctx t.ctx).outcome s.stamp id = none →
          ∃ u : State, exec (.waitc d a) s = .next u ∧ LeftAt s t (.waiting id d.toNat) u))) := by
  intro xa
  refine ⟨fun hissued => ?_, fun htm => ⟨exec_susp_trapMode a htm, exec_waitc_trapMode hstrand d a htm⟩,
    fun htm => exec_waitc_unnamed hstrand htm d a, fun id htm => exec_waitc_own hstrand htm d a,
    fun hwait => ⟨exec_exit_leaves hsorted hstrand hopen hwait hdual, fun htm harm =>
      ⟨exec_susp_leaves hstrand htm hsorted hopen hwait hcx hdual harm a,
        fun id => exec_waitc_leaves hstrand htm hsorted hopen hwait hcx hdual harm d a⟩⟩⟩
  simp only [xa, Core.xAt, hissued]

/-! ## A table of cores that is not sorted -/

/-- A bundle that waits for something holds its core. -/
theorem State.suspendHere_held {s : State} {h : Nat} (hwait : (s.closeBody s.cur).suspendWait s.cur = some h)
    (put : State → Strand → Rec → State) : s.suspendHere put = .next ((s.closeBody s.cur).holding h) := by
  have hwait' : (s.closeBody s.cur).suspendWait (s.closeBody s.cur).cur = some h := hwait
  simp only [State.suspendHere, hwait']
  rfl

theorem exec_exit_held {s : State} {h : Nat} (hwait : (s.closeBody s.cur).suspendWait s.cur = some h) :
    exec .exit s = .next ((s.closeBody s.cur).holding h) := by
  change execExit s = _
  simp [execExit, State.suspendHere_held hwait, State.holding]

/-- A message of the host for a strand of context 1. -/
def hostMessage : RqPacket :=
  { pkt := { src := 0, host := true, tok := false, ents := [0] }, present := true, since := 0, counted := false, ctx := 1, strand := 0,
    born := 0, rank := 0 }

/-- A core that runs a strand, with a message in its receive queue and a cell granted to a diversion (R304). -/
def grantedCore : Core :=
  { Core.reset with
    strand := some hostStrand
    rq := [hostMessage]
    arch := { Arch.reset with wait := { WaitSt.empty with cells := some (1, false) } } }

/-- Core 0's entry stands behind core 1's: a table that is not sorted by key, as `SMap` is said to be and `State` does not ask.
Context 1 has two cells beyond its reserve: one is granted to the core, the other is free for the message. -/
def unsortedCores : State :=
  { State.reset with
    cores := [(1, Core.reset), (0, grantedCore)]
    ctxs := [(1, { Ctx.reset with
      d := some { copies := Copies.reset, qbase := 0, mbase := 0, cap := 0, res := hostStrand.r, ncell := 21762 } })] }

theorem unsortedCores_suspendWait : unsortedCores.suspendWait unsortedCores.cur = none := by decide

/-- A write of core 0, even of what it holds, gives it a second entry, so that its grant counts twice and the message finds no cell. -/
theorem unsortedCores_closeBody_suspendWait :
    (unsortedCores.closeBody unsortedCores.cur).suspendWait unsortedCores.cur = some cMSG := by decide

/-- With the same two entries in their order, EXIT leaves the core. -/
theorem exec_exit_sortedCores : ∃ u : State,
    exec .exit { unsortedCores with cores := [(0, grantedCore), (1, Core.reset)] } = .next u ∧ u.Vacant 0 :=
  exec_exit_leaves (t := hostStrand) (by decide) rfl rfl (by decide) rfl

/-- Refutes O42: in `unsortedCores` nothing is outstanding, and EXIT waits for cells all the same, its strand still on the core. -/
theorem not_suspensionPoints : ¬ Obligations.SuspensionPoints := by
  intro h
  obtain ⟨-, -, -, -, hleave⟩ := h unsortedCores hostStrand 0 0 rfl rfl rfl rfl
  obtain ⟨⟨u, hexec, hstrand, -⟩, -⟩ := hleave unsortedCores_suspendWait
  have hheld := exec_exit_held unsortedCores_closeBody_suspendWait
  have hu : u = (unsortedCores.closeBody unsortedCores.cur).holding cMSG := by simpa [hexec] using hheld
  have hstays : (((unsortedCores.closeBody unsortedCores.cur).holding cMSG).core unsortedCores.cur).strand = some hostStrand := rfl
  rw [← hu, hstrand] at hstays
  cases hstays

end Machine
end Sys2Proof
end

section
/-! The encoding read field by field (R39 to R44, R50 to R59): a word is given by its fields, a field by the operand it codes, so that
"this word encodes that instruction" becomes one equation per field, with the fields as the decoder reads them. -/

namespace Sys2Proof

/-! ## Fields of a word -/

/-- The widths are left out of the index, so that `simp` matches a field whose width is a numeral. -/
theorem append_eq_iff {n m : Nat} {x : BitVec n} {y : BitVec m} {z : BitVec (n + m)} :
    @Eq (no_index _) (@HAppend.hAppend _ _ (no_index _) _ x y) z ↔ x = z.extractLsb' m n ∧ y = z.extractLsb' 0 m := by
  constructor
  · rintro rfl
    exact ⟨BitVec.extractLsb'_append_eq_left.symm, BitVec.extractLsb'_append_eq_right.symm⟩
  · rintro ⟨rfl, rfl⟩
    exact BitVec.extractLsb'_append_extractLsb'

@[simp] theorem literal_eq_extractLsb'_iff {n i j k : Nat} {w : BitVec n} :
    BitVec.ofNat j k = w.extractLsb' i j ↔ w.extractLsb' i j = BitVec.ofNat j k := eq_comm

@[simp] theorem extractLsb'_extractLsb' {n s k i j : Nat} (w : BitVec n) (h : i + j ≤ k) :
    (w.extractLsb' s k).extractLsb' i j = w.extractLsb' (s + i) j := by
  ext t ht
  simp only [BitVec.getElem_extractLsb', BitVec.getLsbD_extractLsb', Nat.add_assoc]
  simp; omega

theorem eq_ofNat_of_toNat_eq {n k : Nat} {x : BitVec n} (h : x.toNat = k) : x = BitVec.ofNat n k := by
  rw [← h, BitVec.ofNat_toNat, BitVec.setWidth_eq]

/-- A field that the encoder puts together from two parts. -/
theorem extractLsb'_eq_iff_parts {w : BitVec 32} (i n m : Nat) {k : BitVec (n + m)} :
    w.extractLsb' i (n + m) = k ↔ w.extractLsb' (i + m) n = k.extractLsb' m n ∧ w.extractLsb' i m = k.extractLsb' 0 m := by
  rw [← BitVec.extractLsb'_append_extractLsb'_eq_extractLsb' rfl, append_eq_iff]

theorem bit_eq_zero_or_one (l : BitVec 1) : l = 0#1 ∨ l = 1#1 := by revert l; decide

@[simp] theorem b1_eq_iff {k : BitVec 1} {z : Bool} : b1 z = k ↔ isSet k = z := by cases z <;> (revert k; decide)
@[simp] theorem isSet_one : isSet 1#1 = true := rfl
@[simp] theorem isSet_zero : isSet 0#1 = false := rfl
@[simp] theorem ofBool_eq_iff {k : BitVec 1} {z : Bool} : BitVec.ofBool z = k ↔ isSet k = z := b1_eq_iff

/-! ## The forms of the C word and of the A word (R40, R41, R43, R44) -/

section
variable {l : BitVec 1} {s : BitVec 3} {op d a b : BitVec 6} {w : BitVec 32}

@[simp] theorem cRRR_eq_iff {m : BitVec 4} :
    cRRR l s op d a b m = w ↔ l = w.extractLsb' 31 1 ∧ s = w.extractLsb' 28 3 ∧ op = w.extractLsb' 22 6
      ∧ d = w.extractLsb' 16 6 ∧ a = w.extractLsb' 10 6 ∧ b = w.extractLsb' 4 6 ∧ m = w.extractLsb' 0 4 := by
  unfold cRRR
  simp (disch := decide) only [append_eq_iff, extractLsb'_extractLsb', and_assoc]

@[simp] theorem cRRI_eq_iff {i : BitVec 10} :
    cRRI l s op d a i = w ↔ l = w.extractLsb' 31 1 ∧ s = w.extractLsb' 28 3 ∧ op = w.extractLsb' 22 6
      ∧ d = w.extractLsb' 16 6 ∧ a = w.extractLsb' 10 6 ∧ i = w.extractLsb' 0 10 := by
  unfold cRRI
  simp (disch := decide) only [append_eq_iff, extractLsb'_extractLsb', and_assoc]

@[simp] theorem cMEM_eq_iff {k : BitVec 3} {p : BitVec 7} :
    cMEM l s op d a k p = w ↔ l = w.extractLsb' 31 1 ∧ s = w.extractLsb' 28 3 ∧ op = w.extractLsb' 22 6
      ∧ d = w.extractLsb' 16 6 ∧ a = w.extractLsb' 10 6 ∧ k = w.extractLsb' 7 3 ∧ p = w.extractLsb' 0 7 := by
  unfold cMEM
  simp (disch := decide) only [append_eq_iff, extractLsb'_extractLsb', and_assoc]

@[simp] theorem cBR_eq_iff {q : BitVec 3} {n : BitVec 1} {o : BitVec 18} :
    cBR l s op q n o = w ↔ l = w.extractLsb' 31 1 ∧ s = w.extractLsb' 28 3 ∧ op = w.extractLsb' 22 6
      ∧ q = w.extractLsb' 19 3 ∧ n = w.extractLsb' 18 1 ∧ o = w.extractLsb' 0 18 := by
  unfold cBR
  simp (disch := decide) only [append_eq_iff, extractLsb'_extractLsb', and_assoc]

end

theorem operandsC_eq_zero_iff {w : BitVec 32} :
    w.extractLsb' 0 22 = 0#22 ↔ w.extractLsb' 16 6 = 0#6 ∧ w.extractLsb' 10 6 = 0#6 ∧ w.extractLsb' 4 6 = 0#6
      ∧ w.extractLsb' 0 4 = 0#4 := by
  have hlow : w.extractLsb' 0 10 = 0#10 ↔ w.extractLsb' 4 6 = 0#6 ∧ w.extractLsb' 0 4 = 0#4 := extractLsb'_eq_iff_parts 0 6 4
  rw [← hlow]
  exact (extractLsb'_eq_iff_parts 0 6 16).trans (and_congr_right fun _ => extractLsb'_eq_iff_parts 0 6 10)

section
variable {s : BitVec 3} {op d a b : BitVec 6} {w : BitVec 32}

@[simp] theorem aRRR_eq_iff {m : BitVec 5} :
    aRRR s op d a b m = w ↔ s = w.extractLsb' 29 3 ∧ op = w.extractLsb' 23 6
      ∧ d = w.extractLsb' 17 6 ∧ a = w.extractLsb' 11 6 ∧ b = w.extractLsb' 5 6 ∧ m = w.extractLsb' 0 5 := by
  unfold aRRR
  simp (disch := decide) only [append_eq_iff, extractLsb'_extractLsb', and_assoc]

@[simp] theorem aRRI_eq_iff {i : BitVec 11} :
    aRRI s op d a i = w ↔ s = w.extractLsb' 29 3 ∧ op = w.extractLsb' 23 6
      ∧ d = w.extractLsb' 17 6 ∧ a = w.extractLsb' 11 6 ∧ i = w.extractLsb' 0 11 := by
  unfold aRRI
  simp (disch := decide) only [append_eq_iff, extractLsb'_extractLsb', and_assoc]

@[simp] theorem aI16_eq_iff {i : BitVec 16} {h : BitVec 1} :
    aI16 s op d i h = w ↔ s = w.extractLsb' 29 3 ∧ op = w.extractLsb' 23 6
      ∧ d = w.extractLsb' 17 6 ∧ i = w.extractLsb' 1 16 ∧ h = w.extractLsb' 0 1 := by
  unfold aI16
  simp (disch := decide) only [append_eq_iff, extractLsb'_extractLsb', and_assoc]
end

@[simp] theorem aVEC_eq_iff {s x : BitVec 3} {op : BitVec 6} {d a b m : BitVec 5} {w : BitVec 32} :
    aVEC s op d a b x m = w ↔ s = w.extractLsb' 29 3 ∧ op = w.extractLsb' 23 6
      ∧ x = w.extractLsb' 22 1 ++ w.extractLsb' 16 1 ++ w.extractLsb' 10 1
      ∧ d = w.extractLsb' 17 5 ∧ a = w.extractLsb' 11 5 ∧ b = w.extractLsb' 5 5 ∧ m = w.extractLsb' 0 5 := by
  have hx : w.extractLsb' 22 1 ++ w.extractLsb' 16 1 ++ w.extractLsb' 10 1 = x ↔
      w.extractLsb' 22 1 = x.extractLsb' 2 1 ∧ w.extractLsb' 16 1 = x.extractLsb' 1 1
        ∧ w.extractLsb' 10 1 = x.extractLsb' 0 1 := by
    simp (disch := decide) only [append_eq_iff, extractLsb'_extractLsb', and_assoc]
  rw [eq_comm (a := x), hx, aVEC, aRRR_eq_iff]
  simp (disch := decide) only [append_eq_iff, extractLsb'_extractLsb', and_assoc]
  grind

theorem operandsA_eq_zero_iff {w : BitVec 32} : w.extractLsb' 0 23 = 0#23 ↔
    w.extractLsb' 17 6 = 0#6 ∧ w.extractLsb' 11 6 = 0#6 ∧ w.extractLsb' 5 6 = 0#6 ∧ w.extractLsb' 0 5 = 0#5 := by
  have hlow : w.extractLsb' 0 11 = 0#11 ↔ w.extractLsb' 5 6 = 0#6 ∧ w.extractLsb' 0 5 = 0#5 := extractLsb'_eq_iff_parts 0 6 5
  rw [← hlow]
  exact (extractLsb'_eq_iff_parts 0 6 17).trans (and_congr_right fun _ => extractLsb'_eq_iff_parts 0 6 11)

/-! ## Coded operands: an operand has the code `k` exactly when `k` decodes to it (R50 to R59) -/

@[simp] theorem IType.code_eq_iff {k : BitVec 4} {t : IType} : t.code = k ↔ IType.ofCode k.toNat = some t :=
  ⟨by rintro rfl; cases t <;> rfl, by revert k t; decide⟩
@[simp] theorem VFmt.code_eq_iff {k : BitVec 4} {t : VFmt} : t.code = k ↔ VFmt.ofCode k.toNat = some t :=
  ⟨by rintro rfl; cases t <;> rfl, by revert k t; decide⟩
@[simp] theorem VType.code_eq_iff {k : BitVec 4} {t : VType} : t.code = k ↔ VType.ofCode k.toNat = some t :=
  ⟨by rintro rfl; rcases t with t | t <;> cases t <;> rfl, by revert k t; decide⟩
@[simp] theorem MType.code_eq_iff {k : BitVec 4} {t : MType} : t.code = k ↔ MType.ofCode k.toNat = some t :=
  ⟨by rintro rfl; cases t <;> rfl, by revert k t; decide⟩
@[simp] theorem Rnd.code_eq_iff {k : BitVec 3} {t : Rnd} : t.code = k ↔ Rnd.ofCode k.toNat = some t :=
  ⟨by rintro rfl; cases t <;> rfl, by revert k t; decide⟩
@[simp] theorem Cond.code_eq_iff {k : BitVec 3} {t : Cond} : t.code = k ↔ Cond.ofCode k.toNat = some t :=
  ⟨by rintro rfl; cases t <;> rfl, by revert k t; decide⟩
@[simp] theorem MemOrd.code_eq_iff {k : BitVec 3} {t : MemOrd} : t.code = k ↔ MemOrd.ofCode k.toNat = some t :=
  ⟨by rintro rfl; cases t <;> rfl, by revert k t; decide⟩
@[simp] theorem FenceOrd.code_eq_iff {k : BitVec 3} {t : FenceOrd} : t.code = k ↔ FenceOrd.ofCode k.toNat = some t :=
  ⟨by rintro rfl; cases t <;> rfl, by revert k t; decide⟩
@[simp] theorem Scope.code_eq_iff {k : BitVec 3} {t : Scope} : t.code = k ↔ Scope.ofCode k.toNat = some t :=
  ⟨by rintro rfl; cases t <;> rfl, by revert k t; decide⟩
@[simp] theorem LdKind.code_eq_iff {k : BitVec 3} {t : LdKind} : t.code = k ↔ LdKind.ofCode k.toNat = some t :=
  ⟨by rintro rfl; cases t <;> rfl, by revert k t; decide⟩
@[simp] theorem FlushLevel.code_eq_iff {k : BitVec 3} {t : FlushLevel} : t.code = k ↔ FlushLevel.ofCode k.toNat = some t :=
  ⟨by rintro rfl; cases t <;> rfl, by revert k t; decide⟩
@[simp] theorem AmoOp.code_eq_iff {k : BitVec 3} {t : AmoOp} : t.code = k ↔ AmoOp.ofCode k.toNat = some t :=
  ⟨by rintro rfl; cases t <;> rfl, by revert k t; decide⟩
@[simp] theorem RecvCh.code_eq_iff {k : BitVec 4} {t : RecvCh} : t.code = k ↔ RecvCh.ofCode k.toNat = some t := by
  cases t with
  | rq => revert k; decide
  | mb m => revert k m; decide
@[simp] theorem Bind.code_eq_iff {k : BitVec 3} {t : Bind} : t.code = k ↔ Bind.ofCode k.toNat = some t :=
  ⟨by rintro rfl; cases t <;> rfl, by revert k t; decide⟩
@[simp] theorem PercSel.code_eq_iff {k : BitVec 2} {t : PercSel} : t.code = k ↔ PercSel.ofCode k.toNat = some t :=
  ⟨by rintro rfl; cases t <;> rfl, by revert k t; decide⟩
@[simp] theorem XlatKind.code_eq_iff {k : BitVec 3} {t : XlatKind} : t.code = k ↔ XlatKind.ofCode k.toNat = some t :=
  ⟨by rintro rfl; cases t <;> rfl, by revert k t; decide⟩
@[simp] theorem LogOp.code_eq_iff {k : BitVec 3} {t : LogOp} : t.code = k ↔ LogOp.ofCode k.toNat = some t :=
  ⟨by rintro rfl; cases t <;> rfl, by revert k t; decide⟩
@[simp] theorem RedOp.code_eq_iff {k : BitVec 2} {t : RedOp} : t.code = k ↔ RedOp.ofCode k.toNat = some t :=
  ⟨by rintro rfl; cases t <;> rfl, by revert k t; decide⟩
@[simp] theorem McvtOvf.code_eq_iff {k : BitVec 2} {t : McvtOvf} : t.code = k ↔ McvtOvf.ofCode k.toNat = some t :=
  ⟨by rintro rfl; cases t <;> rfl, by revert k t; decide⟩

@[simp] theorem FFmt.code_eq_iff {k : BitVec 2} {t : FFmt} : t.code = k ↔ FFmt.ofCode k.toNat = t := by
  cases t <;> (revert k; decide)
@[simp] theorem EType.code_eq_iff {k : BitVec 4} {t : EType} : t.code = k ↔ EType.ofCode k.toNat = t :=
  ⟨by rintro rfl; cases t with
    | int t => cases t <;> rfl
    | f64 | f32 | f16 | bf16 | e4m3 | e5m2 | e2m1 | tbl8 => rfl,
  by rintro rfl; revert k; decide⟩
@[simp] theorem Size.code_eq_iff {k : BitVec 2} {t : Size} : t.code = k ↔ Size.ofCode k.toNat = t := by
  cases t <;> (revert k; decide)
@[simp] theorem BitOp.code_eq_iff {k : BitVec 2} {t : BitOp} : t.code = k ↔ BitOp.ofCode k.toNat = t := by
  cases t <;> (revert k; decide)
@[simp] theorem SfuFn.code_eq_iff {k : BitVec 3} {t : SfuFn} : t.code = k ↔ SfuFn.ofCode k.toNat = t := by
  cases t <;> (revert k; decide)
@[simp] theorem MewOp.code_eq_iff {k : BitVec 2} {t : MewOp} : t.code = k ↔ MewOp.ofCode k.toNat = t := by
  cases t <;> (revert k; decide)

/-! ## Kind fields that hold a code beside fixed bits -/

theorem append_sizeCode_eq_iff {k : BitVec 3} {z : Size} : 0#1 ++ z.code = k ↔ k.toNat < 4
    ∧ Size.ofCode k.toNat = z := by
  cases z <;> (revert k; decide)
theorem append_pairBit_eq_iff {k : BitVec 3} {z : Bool} : 1#2 ++ b1 z = k ↔ k.toNat / 2 = 1 ∧ decide (k = 3#3) = z := by
  cases z <;> (revert k; decide)
theorem append_rowBit_eq_iff {k : BitVec 3} {z : Bool} : 0#2 ++ b1 z = k ↔ k.toNat < 2 ∧ decide (k = 1#3) = z := by
  cases z <;> (revert k; decide)
theorem append_hint_eq_iff {k : BitVec 3} {z : BitVec 2} : 0#1 ++ z = k ↔ k.toNat < 4 ∧ k.extractLsb' 0 2 = z := by
  revert k z; decide

/-! ## Literals (R52, R53, R166) -/

theorem memLitDisp_eq_iff {o sc : BitVec 3} {disp : BitVec 25} {v : BitVec 32} :
    memLitDisp o sc disp = v ↔ o = v.extractLsb' 29 3 ∧ sc = v.extractLsb' 26 3 ∧ 0#1 = v.extractLsb' 25 1
      ∧ disp = v.extractLsb' 0 25 := by
  unfold memLitDisp
  simp (disch := decide) only [append_eq_iff, extractLsb'_extractLsb', and_assoc]

theorem memLitIdx_eq_iff {o sc : BitVec 3} {i : BitVec 6} {z : BitVec 2} {disp : BitVec 17} {v : BitVec 32} :
    memLitIdx o sc i z disp = v ↔ o = v.extractLsb' 29 3 ∧ sc = v.extractLsb' 26 3 ∧ 1#1 = v.extractLsb' 25 1
      ∧ i = v.extractLsb' 19 6
      ∧ z = v.extractLsb' 17 2 ∧ disp = v.extractLsb' 0 17 := by
  unfold memLitIdx
  simp (disch := decide) only [append_eq_iff, extractLsb'_extractLsb', and_assoc]

theorem atomLit_eq_iff {o sc : BitVec 3} {tk : BitVec 1} {ty : BitVec 4} {op : BitVec 3} {tr : BitVec 6} {disp : BitVec 10} {v : BitVec 32} :
    atomLit o sc tk ty op tr disp = v ↔ o = v.extractLsb' 29 3 ∧ sc = v.extractLsb' 26 3 ∧ tk = v.extractLsb' 25 1
      ∧ ty = v.extractLsb' 21 4
      ∧ op = v.extractLsb' 18 3 ∧ 0#2 = v.extractLsb' 16 2 ∧ tr = v.extractLsb' 10 6 ∧ disp = v.extractLsb' 0 10 := by
  unfold atomLit
  simp (disch := decide) only [append_eq_iff, extractLsb'_extractLsb', and_assoc]

/-- The literal of a C word with bit L `l`, where `lit` is the word that follows it (R42). -/
def litOf (l : BitVec 1) (lit : BitVec 32) : Option (BitVec 32) := if l = 1#1 then some lit else none

@[simp] theorem none_eq_litOf {l : BitVec 1} {lit : BitVec 32} : none = litOf l lit ↔ l = 0#1 := by
  rcases bit_eq_zero_or_one l with rfl | rfl <;> simp [litOf]
@[simp] theorem some_eq_litOf {l : BitVec 1} {lit v : BitVec 32} : some v = litOf l lit ↔ l = 1#1 ∧ v = lit := by
  rcases bit_eq_zero_or_one l with rfl | rfl <;> simp [litOf]

theorem decodeMem_eq_some_iff {l : BitVec 1} {base : Reg} {p : BitVec 7} {lit : BitVec 32} {x : MemOp} :
    decodeMem l base p lit = some x ↔ x.lBit = l ∧ x.base = base ∧ x.disp7 = p ∧ x.lit = litOf l lit := by
  rcases bit_eq_zero_or_one l with rfl | rfl
  · cases x <;> simp [decodeMem, MemOp.lBit, MemOp.base, MemOp.disp7, MemOp.lit, eq_comm (a := base), eq_comm (a := p)]
  · have hidx := bit_eq_zero_or_one (lit.extractLsb' 25 1)
    cases x <;>
      simp [-BitVec.extractLsb'_toNat, decodeMem, MemOp.lBit, MemOp.base, MemOp.disp7, MemOp.lit, literal_eq_extractLsb'_iff,
        memLitDisp_eq_iff, memLitIdx_eq_iff] <;> grind

theorem atomCtl_lit_eq_iff {c : AtomCtl} {ty : BitVec 4} {op : BitVec 3} {v : BitVec 32} :
    c.lit ty op = v ↔ decodeAtom v = some c ∧ ty = v.extractLsb' 21 4 ∧ op = v.extractLsb' 18 3 := by
  obtain ⟨ord, scope, tok, disp⟩ := c
  have htok := bit_eq_zero_or_one (v.extractLsb' 25 1)
  cases tok <;> simp [-BitVec.extractLsb'_toNat, decodeAtom, AtomCtl.lit, literal_eq_extractLsb'_iff, atomLit_eq_iff] <;> grind

/-! ## Types of vector arithmetic (R167) -/

theorem VArith.m_int (t : IType) (z : Bool) : (VArith.int t z).m = b1 z ++ (VType.int t).code := rfl
theorem VArith.m_flt (f : VFmt) (r : Rnd) : (VArith.flt f r).m = 0#1 ++ (VType.flt f).code := rfl
theorem VDotT.m_int (t : IType) : (VDotT.int t).m = 0#1 ++ (VType.int t).code := rfl
theorem VDotT.m_flt (f : VFmt) (r : Rnd) : (VDotT.flt f r).m = 0#1 ++ (VType.flt f).code := rfl

theorem decodeVArith_eq_some_iff {x : BitVec 3} {m : BitVec 5} {t : VArith} : decodeVArith x m = some t ↔ t.x = x
    ∧ t.m = m := by
  rcases ht : VType.ofCode (m.extractLsb' 0 4).toNat with _ | _ | _ <;> cases t <;>
    simp [-BitVec.extractLsb'_toNat, decodeVArith, VArith.x, VArith.m_int, VArith.m_flt, append_eq_iff,
      literal_eq_extractLsb'_iff, eq_comm (a := 0#3), ht]
  all_goals tauto

theorem decodeVDotT_eq_some_iff {x : BitVec 3} {m : BitVec 5} {t : VDotT} : decodeVDotT x m = some t ↔ t.x = x ∧ t.m = m := by
  rcases ht : VType.ofCode (m.extractLsb' 0 4).toNat with _ | _ | _ <;> cases t <;>
    simp [-BitVec.extractLsb'_toNat, decodeVDotT, VDotT.x, VDotT.m_int, VDotT.m_flt, append_eq_iff, literal_eq_extractLsb'_iff,
      eq_comm (a := 0#3), ht]
  all_goals tauto

end Sys2Proof
end

section
/-! A word that decodes is the encoding of its instruction, and an instruction's encoding decodes to it: one case per opcode of the
decoder, one per constructor of the encoder, grouped by how the operands are coded (R39 to R59). -/

namespace Sys2Proof

@[simp] theorem onlyIf_eq_some {b : Bool} {x : Option Instr} {i : Instr} : onlyIf b x = some i ↔ b = true ∧ x = some i := by
  cases b <;> simp [onlyIf]

/-! ## The C word -/

/-- A C word that decodes is its instruction's encoding, with the word that follows it as the literal where bit L is set. -/
theorem encC_of_decodeC {w lit : BitVec 32} {i : Instr} (h : decodeC w lit = some i) :
    encC (w.extractLsb' 28 3) i = some (w, litOf (w.extractLsb' 31 1) lit) := by
  simp only [decodeC] at h
  revert h
  match hop : (w.extractLsb' 22 6).toNat with
  | 0x00 | 0x01 | 0x05 | 0x06 | 0x10 | 0x11 | 0x18 | 0x19 | 0x1A | 0x1B | 0x1C | 0x1D | 0x1F | 0x25 | 0x26 | 0x27 | 0x28 | 0x2B
    | 0x2E | 0x30 | 0x31 | 0x32 | 0x35 | 0x36 | 0x37 | 0x38 | 0x39 | 0x3B | 0x3E | 0x3F =>
    intro h
    obtain ⟨hfields, hi⟩ := onlyIf_eq_some.1 h
    obtain rfl := Option.some.inj hi
    simp [-BitVec.extractLsb'_toNat, operandsC_eq_zero_iff, extractLsb'_eq_iff_parts 0 6 4] at hfields
    change some (_, _) = some (_, _)
    simp [-BitVec.extractLsb'_toNat, append_eq_iff, extractLsb'_eq_iff_parts 0 6 4, eq_ofNat_of_toNat_eq hop, hfields]
  | 0x23 | 0x2F | 0x3D =>
    intro h
    obtain ⟨hfields, hi⟩ := onlyIf_eq_some.1 h
    obtain ⟨t, ht, rfl⟩ := Option.map_eq_some_iff.1 hi
    simp [-BitVec.extractLsb'_toNat] at hfields ht
    change some (_, _) = some (_, _)
    simp [-BitVec.extractLsb'_toNat, append_eq_iff, eq_ofNat_of_toNat_eq hop, hfields, ht]
  | 0x02 | 0x03 | 0x04 | 0x07 | 0x24 =>
    intro h
    rcases bit_eq_zero_or_one (w.extractLsb' 31 1) with hl | hl
    · obtain rfl := Option.some.inj ((if_pos hl).symm.trans h)
      change some (_, _) = some (_, _)
      simp [-BitVec.extractLsb'_toNat, eq_ofNat_of_toNat_eq hop, hl]
    · obtain ⟨hfields, hi⟩ := onlyIf_eq_some.1 ((if_neg (by simp [hl])).symm.trans h)
      obtain rfl := Option.some.inj hi
      simp [-BitVec.extractLsb'_toNat] at hfields
      change some (_, _) = some (_, _)
      simp [-BitVec.extractLsb'_toNat, append_eq_iff, eq_ofNat_of_toNat_eq hop, hl, hfields]
  | 0x09 | 0x0A | 0x0B | 0x0E | 0x0F | 0x12 | 0x13 | 0x17 | 0x22 | 0x2A | 0x2C | 0x2D | 0x34 =>
    intro h
    rcases hmem : decodeMem (w.extractLsb' 31 1) (w.extractLsb' 10 6) (w.extractLsb' 0 7) lit with _ | m <;> rw [hmem] at h
    · cases h
    · obtain ⟨hl, hbase, hdisp, hlit⟩ := decodeMem_eq_some_iff.1 hmem
      obtain ⟨hfields, hi⟩ := onlyIf_eq_some.1 h
      obtain rfl := Option.some.inj hi
      simp [-BitVec.extractLsb'_toNat] at hfields
      change some (_, _) = some (_, _)
      simp [-BitVec.extractLsb'_toNat, append_sizeCode_eq_iff, append_rowBit_eq_iff, append_pairBit_eq_iff, eq_ofNat_of_toNat_eq hop,
        hl, hbase, hdisp, hlit, hfields]
  | 0x0C =>
    intro h
    rcases hmem : decodeMem (w.extractLsb' 31 1) (w.extractLsb' 10 6) (w.extractLsb' 0 7) lit with _ | m <;> rw [hmem] at h
    · cases h
    · obtain ⟨hl, hbase, hdisp, hlit⟩ := decodeMem_eq_some_iff.1 hmem
      obtain ⟨hfields, hi⟩ := onlyIf_eq_some.1 h
      obtain rfl := Option.some.inj hi
      simp [-BitVec.extractLsb'_toNat] at hfields
      change some (_, _) = some (_, _)
      simp [-BitVec.extractLsb'_toNat, append_hint_eq_iff, eq_ofNat_of_toNat_eq hop,
        hl, hbase, hdisp, hlit, hfields]
  | 0x08 =>
    intro h
    rcases hmem : decodeMem (w.extractLsb' 31 1) (w.extractLsb' 10 6) (w.extractLsb' 0 7) lit with _ | m <;> rw [hmem] at h
    · cases h
    · obtain ⟨hl, hbase, hdisp, hlit⟩ := decodeMem_eq_some_iff.1 hmem
      obtain ⟨k, hk, rfl⟩ := Option.map_eq_some_iff.1 h
      change some (_, _) = some (_, _)
      simp [-BitVec.extractLsb'_toNat, eq_ofNat_of_toNat_eq hop, hl, hbase, hdisp, hlit, hk]
  | 0x0D =>
    intro h
    rcases hmem : decodeMem (w.extractLsb' 31 1) (w.extractLsb' 10 6) (w.extractLsb' 0 7) lit with _ | m <;> rw [hmem] at h
    · cases h
    · obtain ⟨hl, hbase, hdisp, hlit⟩ := decodeMem_eq_some_iff.1 hmem
      obtain ⟨hfields, hi⟩ := onlyIf_eq_some.1 h
      obtain ⟨k, hk, rfl⟩ := Option.map_eq_some_iff.1 hi
      simp [-BitVec.extractLsb'_toNat] at hfields
      change some (_, _) = some (_, _)
      simp [-BitVec.extractLsb'_toNat, eq_ofNat_of_toNat_eq hop, hl, hbase, hdisp, hlit, hfields, hk]
  | 0x14 =>
    intro h
    obtain ⟨hfields, hi⟩ := onlyIf_eq_some.1 h
    simp [-BitVec.extractLsb'_toNat] at hfields
    split at hi
    case h_2 => cases hi
    case h_1 c t o hc ht ho =>
      obtain rfl := Option.some.inj hi
      change some (_, _) = some (_, _)
      simp [-BitVec.extractLsb'_toNat, atomCtl_lit_eq_iff, eq_ofNat_of_toNat_eq hop, hfields, hc, ht, ho]
  | 0x15 =>
    intro h
    rcases ht : IType.ofCode (w.extractLsb' 0 4).toNat with _ | t <;> rw [ht] at h
    · cases h
    · rcases bit_eq_zero_or_one (w.extractLsb' 31 1) with hl | hl
      · obtain rfl := Option.some.inj ((if_pos hl).symm.trans h)
        change some (_, _) = some (_, _)
        simp [-BitVec.extractLsb'_toNat, eq_ofNat_of_toNat_eq hop, hl, ht]
      · obtain ⟨hfields, hi⟩ := onlyIf_eq_some.1 ((if_neg (by simp [hl])).symm.trans h)
        obtain ⟨c, hc, rfl⟩ := Option.map_eq_some_iff.1 hi
        simp [-BitVec.extractLsb'_toNat, extractLsb'_eq_iff_parts 18 4 3] at hfields
        change some (_, _) = some (_, _)
        simp [-BitVec.extractLsb'_toNat, atomCtl_lit_eq_iff, eq_ofNat_of_toNat_eq hop, hl, hc, ht, hfields]
  | 0x16 =>
    intro h
    obtain ⟨hfields, hi⟩ := onlyIf_eq_some.1 h
    simp [-BitVec.extractLsb'_toNat] at hfields hi
    split at hi
    case h_2 => cases hi
    case h_1 o sc ho hsc =>
      obtain rfl := Option.some.inj hi
      change some (_, _) = some (_, _)
      simp [-BitVec.extractLsb'_toNat, append_eq_iff, eq_ofNat_of_toNat_eq hop, hfields, ho, hsc]
  | 0x1E =>
    intro h
    obtain ⟨hfields, hi⟩ := onlyIf_eq_some.1 h
    simp [-BitVec.extractLsb'_toNat] at hfields hi
    split at hi <;> obtain ⟨t, ht, rfl⟩ := Option.map_eq_some_iff.1 hi <;> change some (_, _) = some (_, _)
    case isTrue hch => simp [-BitVec.extractLsb'_toNat, append_eq_iff, extractLsb'_eq_iff_parts 7 2 1, eq_ofNat_of_toNat_eq hop,
      hfields, hch, ht]
    case isFalse hch =>
      have hch := (bit_eq_zero_or_one _).resolve_left hch
      simp [-BitVec.extractLsb'_toNat, append_eq_iff, extractLsb'_eq_iff_parts 7 2 1, eq_ofNat_of_toNat_eq hop, hfields, hch,
        ht]
  | 0x20 =>
    intro h
    obtain ⟨hfields, hi⟩ := onlyIf_eq_some.1 h
    simp [-BitVec.extractLsb'_toNat] at hfields
    split at hi
    case isTrue htake =>
      obtain rfl := Option.some.inj hi
      simp [-BitVec.extractLsb'_toNat] at htake
      change some (_, _) = some (_, _)
      simp [-BitVec.extractLsb'_toNat, append_eq_iff, eq_ofNat_of_toNat_eq hop, hfields, htake]
    case isFalse =>
      obtain ⟨hzero, hi⟩ := onlyIf_eq_some.1 hi
      obtain rfl := Option.some.inj hi
      simp [-BitVec.extractLsb'_toNat] at hzero
      change some (_, _) = some (_, _)
      simp [-BitVec.extractLsb'_toNat, eq_ofNat_of_toNat_eq hop, hfields, hzero]
  | 0x21 =>
    intro h
    obtain ⟨hfields, hi⟩ := onlyIf_eq_some.1 h
    simp [-BitVec.extractLsb'_toNat] at hfields
    split at hi
    case isTrue htake =>
      obtain ⟨hzero, hi⟩ := onlyIf_eq_some.1 hi
      obtain rfl := Option.some.inj hi
      simp [-BitVec.extractLsb'_toNat] at htake hzero
      change some (_, _) = some (_, _)
      simp [-BitVec.extractLsb'_toNat, append_eq_iff, eq_ofNat_of_toNat_eq hop, hfields, htake, hzero]
    case isFalse =>
      obtain ⟨hzero, hi⟩ := onlyIf_eq_some.1 hi
      obtain rfl := Option.some.inj hi
      simp [-BitVec.extractLsb'_toNat] at hzero
      change some (_, _) = some (_, _)
      simp [-BitVec.extractLsb'_toNat, eq_ofNat_of_toNat_eq hop, hfields, hzero]
  | 0x29 =>
    intro h
    obtain ⟨hfields, hi⟩ := onlyIf_eq_some.1 h
    obtain rfl := Option.some.inj hi
    simp [-BitVec.extractLsb'_toNat] at hfields ⊢
    rcases bit_eq_zero_or_one (w.extractLsb' 0 1) with hon | hon <;> rw [hon] <;> change some (_, _) = some (_, _) <;>
      simp [-BitVec.extractLsb'_toNat, extractLsb'_eq_iff_parts 0 9 1, eq_ofNat_of_toNat_eq hop, hfields, hon]
  | 0x33 =>
    intro h
    obtain ⟨hfields, hi⟩ := onlyIf_eq_some.1 h
    simp [-BitVec.extractLsb'_toNat] at hfields hi
    rcases bit_eq_zero_or_one (w.extractLsb' 0 1) with hall | hall
    · obtain rfl := Option.some.inj ((if_pos hall).symm.trans hi)
      change some (_, _) = some (_, _)
      simp [-BitVec.extractLsb'_toNat, extractLsb'_eq_iff_parts 0 3 1, eq_ofNat_of_toNat_eq hop, hfields, hall]
    · obtain ⟨ha, hi⟩ := onlyIf_eq_some.1 ((if_neg (by simp [hall])).symm.trans hi)
      obtain rfl := Option.some.inj hi
      change some (_, _) = some (_, _)
      simp [-BitVec.extractLsb'_toNat, extractLsb'_eq_iff_parts 0 3 1, eq_ofNat_of_toNat_eq hop, hfields, hall,
        of_decide_eq_true ha]
  | 0x3A =>
    intro h
    obtain ⟨hfields, hi⟩ := onlyIf_eq_some.1 h
    simp [-BitVec.extractLsb'_toNat] at hfields hi
    split at hi
    case h_4 => cases hi
    all_goals
      rename_i hsel
      obtain ⟨hrest, hi⟩ := onlyIf_eq_some.1 hi
      obtain rfl := Option.some.inj hi
      simp [-BitVec.extractLsb'_toNat] at hrest
      change some (_, _) = some (_, _)
      simp [-BitVec.extractLsb'_toNat, append_eq_iff, extractLsb'_eq_iff_parts 6 2 2, extractLsb'_eq_iff_parts 4 2 4,
        extractLsb'_eq_iff_parts 4 2 2, extractLsb'_eq_iff_parts 0 2 8, extractLsb'_eq_iff_parts 0 2 6, eq_ofNat_of_toNat_eq hop,
        eq_ofNat_of_toNat_eq hsel, hfields, hrest]
  | 0x3C =>
    intro h
    obtain ⟨hfields, hi⟩ := onlyIf_eq_some.1 h
    simp [-BitVec.extractLsb'_toNat] at hfields hi
    split at hi
    case h_3 => cases hi
    all_goals
      rename_i hsel
      obtain ⟨hrest, hi⟩ := onlyIf_eq_some.1 hi
      obtain rfl := Option.some.inj hi
      simp [-BitVec.extractLsb'_toNat] at hrest
      change some (_, _) = some (_, _)
      simp [-BitVec.extractLsb'_toNat, append_eq_iff, extractLsb'_eq_iff_parts 2 2 6, extractLsb'_eq_iff_parts 1 2 7,
        eq_ofNat_of_toNat_eq hop, eq_ofNat_of_toNat_eq hsel, hfields, hrest]
  | n + 0x40 => exact absurd (w.extractLsb' 22 6).isLt (by omega)

/-- The encoding of a C instruction decodes to the instruction, with the stall field it was encoded with. -/
theorem decodeC_of_encC {s : BitVec 3} {i : Instr} {w lit : BitVec 32}
    (h : encC s i = some (w, litOf (w.extractLsb' 31 1) lit)) :
    decodeC w lit = some i ∧ w.extractLsb' 28 3 = s := by
  cases i with
  | nop | ret | vgath | vscat | litx | loop | fence | bar | sstep | cyc | pget | snap | genq | bias | csrr | csrw | sdrop
    | acopy | chwait | send | restrTake | prolgTake | prolgDown | susp | exit | waitc | cancel | pstep | pset | trap | rft
    | dbrk | telem | xlat | icsync | prio | restrUp | tlbiVa | tlbiAll | xchg =>
    change some (_, _) = some (_, _) at h
    simp only [Option.some.injEq, Prod.mk.injEq, cRRR_eq_iff, cRRI_eq_iff] at h
    obtain ⟨⟨hl, rfl, hop, hfields⟩, hlit⟩ := h
    simp [-BitVec.extractLsb'_toNat, append_eq_iff, extractLsb'_eq_iff_parts 0 6 4] at hfields hlit
    refine ⟨?_, rfl⟩
    unfold decodeC
    rw [← hop]
    refine onlyIf_eq_some.2 ⟨?_, ?_⟩ <;> simp [-BitVec.extractLsb'_toNat, operandsC_eq_zero_iff, extractLsb'_eq_iff_parts 0 6 4,
      hfields, hlit]
  | pairOn | pairOff | acctMark =>
    change some (_, _) = some (_, _) at h
    simp only [Option.some.injEq, Prod.mk.injEq, cRRI_eq_iff] at h
    obtain ⟨⟨hl, rfl, hop, hfields⟩, hlit⟩ := h
    simp at hfields hlit
    refine ⟨?_, rfl⟩
    unfold decodeC
    rw [← hop]
    refine onlyIf_eq_some.2 ⟨?_, ?_⟩ <;> simp [-BitVec.extractLsb'_toNat, hfields, hlit]
  | acctCtx | acctCore | mode | modeMe | recv | recvAcc =>
    change some (_, _) = some (_, _) at h
    simp only [Option.some.injEq, Prod.mk.injEq, cRRR_eq_iff, cRRI_eq_iff] at h
    obtain ⟨⟨hl, rfl, hop, hfields⟩, hlit⟩ := h
    simp [-BitVec.extractLsb'_toNat, append_eq_iff, extractLsb'_eq_iff_parts 6 2 2, extractLsb'_eq_iff_parts 4 2 4,
      extractLsb'_eq_iff_parts 4 2 2, extractLsb'_eq_iff_parts 2 2 6, extractLsb'_eq_iff_parts 1 2 7,
      extractLsb'_eq_iff_parts 7 2 1] at hfields hlit
    refine ⟨?_, rfl⟩
    unfold decodeC
    rw [← hop]
    refine onlyIf_eq_some.2 ⟨?_, ?_⟩ <;> simp [-BitVec.extractLsb'_toNat, hfields, hlit]
  | ld | st | ldp | stp | cflush | vld | vst | tld | tst | sbind | wload | ppatch | psave | prest | fmtld =>
    change some (_, _) = some (_, _) at h
    simp only [Option.some.injEq, Prod.mk.injEq, cMEM_eq_iff] at h
    obtain ⟨⟨hl, rfl, hop, hd, hbase, hkind, hdisp⟩, hlit⟩ := h
    have hmem := decodeMem_eq_some_iff.2 ⟨hl, hbase, hdisp, hlit⟩
    simp [-BitVec.extractLsb'_toNat, append_sizeCode_eq_iff, append_rowBit_eq_iff, append_pairBit_eq_iff] at hd hkind
    refine ⟨?_, rfl⟩
    unfold decodeC
    rw [← hop]
    simp [-BitVec.extractLsb'_toNat, hd, hkind, hmem]
  | pref =>
    change some (_, _) = some (_, _) at h
    simp only [Option.some.injEq, Prod.mk.injEq, cMEM_eq_iff] at h
    obtain ⟨⟨hl, rfl, hop, hd, hbase, hkind, hdisp⟩, hlit⟩ := h
    have hmem := decodeMem_eq_some_iff.2 ⟨hl, hbase, hdisp, hlit⟩
    simp [-BitVec.extractLsb'_toNat, append_hint_eq_iff] at hd hkind
    refine ⟨?_, rfl⟩
    unfold decodeC
    rw [← hop]
    simp [-BitVec.extractLsb'_toNat, hd, hkind, hmem]
  | bra _ _ o | call _ _ o =>
    rcases o with o | o <;>
    · change some (_, _) = some (_, _) at h
      simp only [Option.some.injEq, Prod.mk.injEq, cBR_eq_iff] at h
      obtain ⟨⟨hl, rfl, hop, hfields⟩, hlit⟩ := h
      simp [-BitVec.extractLsb'_toNat] at hfields hlit
      refine ⟨?_, rfl⟩
      unfold decodeC
      rw [← hop]
      simp [-BitVec.extractLsb'_toNat, hfields, hlit]
  | jmp _ _ e | runMacro _ _ _ e | spawn _ _ e _ | cas _ _ _ _ e =>
    rcases e with o | o <;>
    · change some (_, _) = some (_, _) at h
      simp only [Option.some.injEq, Prod.mk.injEq, cRRR_eq_iff, cRRI_eq_iff] at h
      obtain ⟨⟨hl, rfl, hop, hfields⟩, hlit⟩ := h
      simp [-BitVec.extractLsb'_toNat, atomCtl_lit_eq_iff, append_eq_iff] at hfields hlit
      refine ⟨?_, rfl⟩
      unfold decodeC
      rw [← hop]
      simp [-BitVec.extractLsb'_toNat, hfields, hlit, extractLsb'_eq_iff_parts 18 4 3]
  | amo =>
    change some (_, _) = some (_, _) at h
    simp only [Option.some.injEq, Prod.mk.injEq, cRRR_eq_iff] at h
    obtain ⟨⟨hl, rfl, hop, hfields⟩, hlit⟩ := h
    simp [-BitVec.extractLsb'_toNat, atomCtl_lit_eq_iff] at hfields hlit
    refine ⟨?_, rfl⟩
    unfold decodeC
    rw [← hop]
    simp [-BitVec.extractLsb'_toNat, hfields, hlit]
  | _ => cases h

theorem MemOp.lBit_eq (m : MemOp) : m.lBit = BitVec.ofBool m.lit.isSome := by cases m <;> rfl

/-- Bit L is set exactly in the encodings that have a literal (R42). -/
theorem lBit_of_encC {s : BitVec 3} {i : Instr} {w : BitVec 32} {o : Option (BitVec 32)} (h : encC s i = some (w, o)) :
    w.extractLsb' 31 1 = BitVec.ofBool o.isSome := by
  cases i with
  | nop | ret | vgath | vscat | litx | loop | fence | bar | sstep | cyc | pget | snap | genq | bias | csrr | csrw | sdrop
    | acopy | chwait | send | restrTake | prolgTake | prolgDown | susp | exit | waitc | cancel | pstep | pset | trap | rft
    | dbrk | telem | xlat | icsync | prio | restrUp | tlbiVa | tlbiAll | xchg | pairOn | pairOff | acctMark | acctCtx | acctCore
    | mode | modeMe | recv | recvAcc | amo =>
    change some (_, _) = some (_, _) at h
    simp only [Option.some.injEq, Prod.mk.injEq, cRRR_eq_iff, cRRI_eq_iff] at h
    obtain ⟨⟨hl, -⟩, rfl⟩ := h
    exact hl.symm
  | ld _ _ m | st _ _ m | ldp _ _ m | stp _ _ m | pref _ m | cflush _ m | vld _ _ m | vst _ m | tld _ _ m | tst _ m | sbind _ m
    | wload _ _ m | ppatch m | psave m | prest m | fmtld m =>
    change some (_, _) = some (_, _) at h
    simp only [Option.some.injEq, Prod.mk.injEq, cMEM_eq_iff] at h
    obtain ⟨⟨hl, -⟩, rfl⟩ := h
    exact hl ▸ m.lBit_eq
  | bra _ _ e | call _ _ e | jmp _ _ e | runMacro _ _ _ e | spawn _ _ e _ | cas _ _ _ _ e =>
    rcases e with e | e <;>
    · change some (_, _) = some (_, _) at h
      simp only [Option.some.injEq, Prod.mk.injEq, cRRR_eq_iff, cRRI_eq_iff, cBR_eq_iff] at h
      obtain ⟨⟨hl, -⟩, rfl⟩ := h
      exact hl.symm
  | _ => cases h

/-! ## The A word -/

/-- An A word that decodes is its instruction's encoding. -/
theorem encA_of_decodeA {w : BitVec 32} {i : Instr} (h : decodeA w = some i) : encA (w.extractLsb' 29 3) i = some w := by
  simp only [decodeA] at h
  generalize hx : w.extractLsb' 22 1 ++ w.extractLsb' 16 1 ++ w.extractLsb' 10 1 = x at h
  revert h
  match hop : (w.extractLsb' 23 6).toNat with
  | 0x01 | 0x0A | 0x13 =>
    intro h
    obtain rfl := Option.some.inj h
    change some _ = some _
    simp [-BitVec.extractLsb'_toNat, eq_ofNat_of_toNat_eq hop]
  | 0x00 | 0x07 | 0x08 | 0x09 | 0x0F | 0x10 | 0x11 | 0x12 | 0x1A | 0x2A | 0x2B | 0x2C | 0x2E | 0x33 | 0x34 | 0x3A | 0x3D
    | 0x3F =>
    intro h
    obtain ⟨hfields, hi⟩ := onlyIf_eq_some.1 h
    obtain rfl := Option.some.inj hi
    simp [-BitVec.extractLsb'_toNat, operandsA_eq_zero_iff] at hfields
    change some _ = some _
    simp [-BitVec.extractLsb'_toNat, append_eq_iff, eq_ofNat_of_toNat_eq hop, hx, hfields]
  | 0x24 | 0x27 | 0x35 | 0x36 | 0x37 =>
    intro h
    obtain ⟨hfields, hi⟩ := onlyIf_eq_some.1 h
    obtain ⟨hzero, hi⟩ := onlyIf_eq_some.1 hi
    obtain rfl := Option.some.inj hi
    simp [-BitVec.extractLsb'_toNat] at hfields hzero
    change some _ = some _
    simp [-BitVec.extractLsb'_toNat, eq_ofNat_of_toNat_eq hop, hx, hfields, hzero]
  | 0x05 | 0x06 | 0x0B | 0x0C | 0x0D | 0x18 | 0x19 | 0x1F | 0x20 | 0x21 | 0x29 | 0x2D | 0x30 | 0x31 | 0x32 | 0x39 | 0x3B
    | 0x3C =>
    intro h
    obtain ⟨hfields, hi⟩ := onlyIf_eq_some.1 h
    obtain ⟨t, ht, rfl⟩ := Option.map_eq_some_iff.1 hi
    simp [-BitVec.extractLsb'_toNat] at hfields ht
    change some _ = some _
    simp [-BitVec.extractLsb'_toNat, append_eq_iff, eq_ofNat_of_toNat_eq hop, hx, hfields, ht]
  | 0x02 | 0x03 | 0x04 | 0x14 | 0x15 | 0x16 | 0x17 =>
    intro h
    obtain ⟨t, ht, rfl⟩ := Option.map_eq_some_iff.1 h
    simp [-BitVec.extractLsb'_toNat] at ht
    change some _ = some _
    simp [-BitVec.extractLsb'_toNat, append_eq_iff, eq_ofNat_of_toNat_eq hop, ht]
  | 0x1B | 0x1C | 0x1D =>
    intro h
    obtain ⟨t, ht, rfl⟩ := Option.map_eq_some_iff.1 h
    obtain ⟨htx, htm⟩ := decodeVArith_eq_some_iff.1 ht
    change some _ = some _
    simp [hx, htx, htm, eq_ofNat_of_toNat_eq hop]
  | 0x28 =>
    intro h
    obtain ⟨r, hr, rfl⟩ := Option.map_eq_some_iff.1 h
    change some _ = some _
    simp [-BitVec.extractLsb'_toNat, append_eq_iff, eq_ofNat_of_toNat_eq hop, hx, hr]
  | 0x3E =>
    intro h
    obtain ⟨t, ht, rfl⟩ := Option.map_eq_some_iff.1 h
    obtain ⟨htx, htm⟩ := decodeVDotT_eq_some_iff.1 ht
    change some _ = some _
    simp [hx, htx, htm, eq_ofNat_of_toNat_eq hop]
  | 0x0E =>
    intro h
    rcases hc : Cond.ofCode ((w.extractLsb' 17 6).extractLsb' 3 3).toNat with _ | c <;> rw [hc] at h
    · cases h
    · obtain ⟨hfields, hi⟩ := onlyIf_eq_some.1 h
      obtain ⟨t, ht, rfl⟩ := Option.map_eq_some_iff.1 hi
      simp [-BitVec.extractLsb'_toNat] at hc hfields ht
      change some _ = some _
      simp [-BitVec.extractLsb'_toNat, append_eq_iff, eq_ofNat_of_toNat_eq hop, hc, hfields, ht]
  | 0x23 =>
    intro h
    rcases hc : Cond.ofCode x.toNat with _ | c <;> rw [hc] at h
    · cases h
    · obtain ⟨hfields, hi⟩ := onlyIf_eq_some.1 h
      obtain ⟨t, ht, rfl⟩ := Option.map_eq_some_iff.1 hi
      simp [-BitVec.extractLsb'_toNat] at hfields ht
      change some _ = some _
      simp [-BitVec.extractLsb'_toNat, append_eq_iff, eq_ofNat_of_toNat_eq hop, hx, hc, hfields, ht]
  | 0x1E =>
    intro h
    obtain ⟨hfields, hi⟩ := onlyIf_eq_some.1 h
    simp [-BitVec.extractLsb'_toNat] at hfields hi
    split at hi
    case h_2 => cases hi
    case h_1 f r hf hr =>
      obtain rfl := Option.some.inj hi
      change some _ = some _
      simp [-BitVec.extractLsb'_toNat, append_eq_iff, eq_ofNat_of_toNat_eq hop, hx, hfields, hf, hr]
  | 0x2F =>
    intro h
    obtain ⟨hfields, hi⟩ := onlyIf_eq_some.1 h
    simp [-BitVec.extractLsb'_toNat] at hfields hi
    split at hi
    case h_2 => cases hi
    case h_1 ta tb hta htb =>
      obtain rfl := Option.some.inj hi
      change some _ = some _
      simp [-BitVec.extractLsb'_toNat, append_eq_iff, eq_ofNat_of_toNat_eq hop, hfields, hta, htb]
  | 0x38 =>
    intro h
    obtain ⟨hfields, hi⟩ := onlyIf_eq_some.1 h
    simp [-BitVec.extractLsb'_toNat] at hfields hi
    split at hi
    case h_2 => cases hi
    case h_1 o r ho hr =>
      obtain rfl := Option.some.inj hi
      change some _ = some _
      simp [-BitVec.extractLsb'_toNat, append_eq_iff, eq_ofNat_of_toNat_eq hop, hfields, ho, hr]
  | 0x25 | 0x26 =>
    intro h
    rcases ho : RedOp.ofCode (x.extractLsb' 0 2).toNat with _ | o <;> rw [ho] at h
    · cases h
    rcases hr : Rnd.ofCode ((w.extractLsb' 5 5).extractLsb' 2 3).toNat with _ | r <;> rw [hr] at h
    · cases h
    obtain ⟨hfields, hi⟩ := onlyIf_eq_some.1 h
    obtain ⟨t, ht, rfl⟩ := Option.map_eq_some_iff.1 hi
    simp [-BitVec.extractLsb'_toNat] at hr hfields ht
    change some _ = some _
    simp [-BitVec.extractLsb'_toNat, append_eq_iff, eq_ofNat_of_toNat_eq hop, hx, ho, hr, hfields, ht]
  | 0x22 =>
    intro h
    obtain ⟨hfields, hi⟩ := onlyIf_eq_some.1 h
    simp [-BitVec.extractLsb'_toNat] at hfields hi
    rcases bit_eq_zero_or_one (w.extractLsb' 4 1) with himm | himm
    · obtain ⟨hzero, hi⟩ := onlyIf_eq_some.1 ((if_neg (by simp [himm])).symm.trans hi)
      obtain rfl := Option.some.inj hi
      change some _ = some _
      simp [-BitVec.extractLsb'_toNat, append_eq_iff, eq_ofNat_of_toNat_eq hop, hx, hfields, of_decide_eq_true hzero]
    · obtain ⟨hzero, hi⟩ := onlyIf_eq_some.1 ((if_pos himm).symm.trans hi)
      obtain rfl := Option.some.inj hi
      change some _ = some _
      simp [-BitVec.extractLsb'_toNat, append_eq_iff, eq_ofNat_of_toNat_eq hop, hx, hfields, himm, of_decide_eq_true hzero]
  | n + 0x40 => exact absurd (w.extractLsb' 23 6).isLt (by omega)

/-- The encoding of an A instruction decodes to the instruction, with the stall field it was encoded with. -/
theorem decodeA_of_encA {s : BitVec 3} {i : Instr} {w : BitVec 32} (h : encA s i = some w) :
    decodeA w = some i ∧ w.extractLsb' 29 3 = s := by
  cases i with
  | movi | add | sub | mul | cmp | fadd | fmul | ffma | fdiv =>
    change some _ = some _ at h
    simp only [Option.some.injEq, aRRR_eq_iff, aI16_eq_iff] at h
    obtain ⟨rfl, hop, hfields⟩ := h
    simp [-BitVec.extractLsb'_toNat, append_eq_iff] at hfields
    refine ⟨?_, rfl⟩
    unfold decodeA
    rw [← hop]
    simp [-BitVec.extractLsb'_toNat, hfields]
  | mulh | div | and | or | xor | shr | min | max | sel | bits | bfx | pred | fcmp | fcvt | fmnx | vmov | viota | vrep | mfmt
    | mma | mmas | mdist | mtopk | mzero | mopen | mclose | mtran | mcvt | mew | mwait | vclmp | hash | anop =>
    change some _ = some _ at h
    simp only [Option.some.injEq, aRRR_eq_iff, aRRI_eq_iff] at h
    obtain ⟨rfl, hop, hfields⟩ := h
    simp [-BitVec.extractLsb'_toNat, append_eq_iff] at hfields
    refine ⟨?_, rfl⟩
    unfold decodeA
    rw [← hop]
    refine onlyIf_eq_some.2 ⟨?_, ?_⟩ <;> simp [-BitVec.extractLsb'_toNat, hfields, operandsA_eq_zero_iff]
  | shl | lea =>
    change some _ = some _ at h
    simp only [Option.some.injEq, aRRR_eq_iff, aRRI_eq_iff] at h
    obtain ⟨rfl, hop, hfields⟩ := h
    refine ⟨?_, rfl⟩
    unfold decodeA
    rw [← hop]
    simp [-BitVec.extractLsb'_toNat, hfields]
  | vmin | vmax | vlog | vfma | vcmp | vsel | vred | vscan | vperm | vcvt | vsfu | venc | vdec | vabs | vbits =>
    change some _ = some _ at h
    simp only [Option.some.injEq, aVEC_eq_iff] at h
    obtain ⟨rfl, hop, hfields⟩ := h
    obtain ⟨hx, hfields⟩ := hfields
    refine ⟨?_, rfl⟩
    unfold decodeA
    rw [← hop]
    generalize w.extractLsb' 22 1 ++ w.extractLsb' 16 1 ++ w.extractLsb' 10 1 = x at hx ⊢
    simp [-BitVec.extractLsb'_toNat, append_eq_iff, eq_comm (a := 0#3)] at hx hfields
    simp [-BitVec.extractLsb'_toNat, hx, hfields]
  | vadd | vsub | vmul =>
    change some _ = some _ at h
    simp only [Option.some.injEq, aVEC_eq_iff] at h
    obtain ⟨rfl, hop, hfields⟩ := h
    obtain ⟨hx, rfl, rfl, rfl, hm⟩ := hfields
    have ht := decodeVArith_eq_some_iff.2 ⟨hx, hm⟩
    refine ⟨?_, rfl⟩
    unfold decodeA
    rw [← hop]
    exact congrArg (Option.map _) ht
  | vdot =>
    change some _ = some _ at h
    simp only [Option.some.injEq, aVEC_eq_iff] at h
    obtain ⟨rfl, hop, hfields⟩ := h
    obtain ⟨hx, rfl, rfl, rfl, hm⟩ := hfields
    have ht := decodeVDotT_eq_some_iff.2 ⟨hx, hm⟩
    refine ⟨?_, rfl⟩
    unfold decodeA
    rw [← hop]
    exact congrArg (Option.map _) ht
  | vsh _ _ e =>
    rcases e with b | k <;>
    · change some _ = some _ at h
      simp only [Option.some.injEq, aVEC_eq_iff] at h
      obtain ⟨rfl, hop, hx, hfields⟩ := h
      refine ⟨?_, rfl⟩
      unfold decodeA
      rw [← hop]
      generalize w.extractLsb' 22 1 ++ w.extractLsb' 16 1 ++ w.extractLsb' 10 1 = x at hx ⊢
      simp [-BitVec.extractLsb'_toNat, append_eq_iff] at hx hfields
      simp [-BitVec.extractLsb'_toNat, hx, hfields]
  | _ => cases h

/-! ## The bundle (R39) -/

theorem encode_eq_some_iff {b : Bundle} {w : Word} :
    encode b = some w ↔
      (∃ lit w0, encC b.cs b.c = some (w0, some lit) ∧ b.a = none ∧ b.as = 0#3 ∧ lit ++ w0 = w)
      ∨ (∃ a w0 w1, encC b.cs b.c = some (w0, none) ∧ b.a = some a ∧ encA b.as a = some w1 ∧ w1 ++ w0 = w) := by
  obtain ⟨cs, c, as, a⟩ := b
  rcases hc : encC cs c with _ | ⟨w0, _ | lit⟩ <;> cases a <;> simp [encode, hc]

theorem decodeWords_eq_ok_iff {w0 w1 : BitVec 32} {b : Bundle} :
    decodeWords w0 w1 = .ok b ↔ decodeC w0 w1 = some b.c ∧ w0.extractLsb' 28 3 = b.cs
      ∧ ((w0.extractLsb' 31 1 = 1#1 ∧ b.a = none ∧ b.as = 0#3)
        ∨ (w0.extractLsb' 31 1 = 0#1 ∧ ∃ a, b.a = some a ∧ decodeA w1 = some a ∧ w1.extractLsb' 29 3 = b.as)) := by
  obtain ⟨cs, c, as, a⟩ := b
  unfold decodeWords
  rcases hc : decodeC w0 w1 with _ | c'
  · simp
  · rcases bit_eq_zero_or_one (w0.extractLsb' 31 1) with hl | hl
    · rcases ha : decodeA w1 with _ | a'
      · simp [hl]
      · simp [hl]
        grind
    · simp [hl]
      grind

/-- Settles O57: a bundle is its two words, and each of the two words is given by its fields. Bit L says whether the second word is a
literal or an A word. -/
theorem encodingRoundTrip : Obligations.EncodingRoundTrip := by
  refine ⟨fun b w h => ?_, fun w b h => ?_⟩
  · rcases encode_eq_some_iff.1 h with ⟨lit, w0, hc, ha, has, rfl⟩ | ⟨a, w0, w1, hc, ha, hA, rfl⟩
    · have hl : w0.extractLsb' 31 1 = 1#1 := lBit_of_encC hc
      obtain ⟨hdec, hs⟩ := decodeC_of_encC (lit := lit) (by rw [hc, hl]; rfl)
      rw [decodeBundle, BitVec.extractLsb'_append_eq_left, BitVec.extractLsb'_append_eq_right]
      exact decodeWords_eq_ok_iff.2 ⟨hdec, hs, .inl ⟨hl, ha, has⟩⟩
    · have hl : w0.extractLsb' 31 1 = 0#1 := lBit_of_encC hc
      obtain ⟨hdec, hs⟩ := decodeC_of_encC (lit := w1) (by rw [hc, hl]; rfl)
      obtain ⟨hdecA, hsA⟩ := decodeA_of_encA hA
      rw [decodeBundle, BitVec.extractLsb'_append_eq_left, BitVec.extractLsb'_append_eq_right]
      exact decodeWords_eq_ok_iff.2 ⟨hdec, hs, .inr ⟨hl, a, ha, hdecA, hsA⟩⟩
  · obtain ⟨hdec, hs, hrest⟩ := decodeWords_eq_ok_iff.1 h
    have hc := encC_of_decodeC hdec
    rw [hs] at hc
    have hw : w.extractLsb' 32 32 ++ w.extractLsb' 0 32 = w := BitVec.extractLsb'_append_extractLsb'
    refine encode_eq_some_iff.2 ?_
    rcases hrest with ⟨hl, ha, has⟩ | ⟨hl, a, ha, hdecA, hsA⟩
    · exact .inl ⟨_, _, by rw [hc, hl]; rfl, ha, has, hw⟩
    · exact .inr ⟨a, _, _, by rw [hc, hl]; rfl, ha, hsA ▸ encA_of_decodeA hdecA, hw⟩

/-- Settles O58: the words are closed, and the decoder is run on each of them. -/
theorem decodeWordsFromEncodings : Obligations.DecodeWords := by
  unfold Obligations.DecodeWords
  decide

end Sys2Proof
end

section
/-! Control flow: what a branch, a call, a jump or a long literal leaves, and the start of a microprogram from the control store
(R53, R66, R67, R69, R99 to R101, R104). -/

namespace Sys2Proof

/-- A number that is not listed reads as the default. -/
theorem SMap.get_eq_getD_get? {α : Type} (m : SMap α) (d : α) (n : Nat) : SMap.get m d n = (SMap.get? m n).getD d := by
  induction m with
  | nil => rfl
  | cons p r ih => by_cases hk : p.1 = n <;> simp [SMap.get, SMap.get?, hk, ih]

namespace Machine

/-! ## Branches, calls and literals -/

/-- Bundles are of eight bytes, and an offset counts them from the bundle at work (R53). -/
theorem State.target_toInt {n : Nat} (s : State) (o : BitVec n) : s.target o.toInt = s.me.arch.pc + 8 * o.signExtend 64 := by
  rw [State.target, wordOfInt, BitVec.ofInt_mul]
  rfl

theorem shiftLeft_or_setWidth (x : Word) (lit : BitVec 32) : (x <<< 32) ||| lit.setWidth 64 = (x.setWidth 32 : BitVec 32) ++ lit := by
  refine BitVec.eq_of_getLsbD_eq fun i hi => ?_
  simp only [BitVec.getLsbD_or, BitVec.getLsbD_shiftLeft, BitVec.getLsbD_setWidth, BitVec.getLsbD_append]
  by_cases h : i < 32
  · simp [h, hi]
  · simp [h, hi, show i - 32 < 32 by omega, BitVec.getLsbD_of_ge lit i (by omega)]

section
variable {s : State} {q : QReg} {sense : Bool}

theorem exec_bra_taken (h : (s.me.q q ^^ sense) = true) (o : BrOff) :
    exec (.bra q sense o) s = .next (s.jump (s.target (BrOff.val o))) := if_pos h

theorem exec_bra_not_taken (h : (s.me.q q ^^ sense) = false) (o : BrOff) : exec (.bra q sense o) s = .next s := if_neg (by simp [h])

theorem exec_call_taken (h : (s.me.q q ^^ sense) = true) (o : BrOff) :
    exec (.call q sense o) s = .next ((s.pushX 63 (s.me.arch.pc + 8) 1).jump (s.target (BrOff.val o))) := if_pos h

theorem exec_call_not_taken (h : (s.me.q q ^^ sense) = false) (o : BrOff) : exec (.call q sense o) s = .next s := if_neg (by simp [h])

end

theorem exec_litx_above {a : Reg} (ha : a ≠ 0) (s : State) (d : Reg) (lit : BitVec 32) :
    exec (.litx d a lit) s = .next (s.pushX d ((((s.me.x a).setWidth 32 : BitVec 32) ++ lit : BitVec 64)) 1) := by
  change execLitx d a lit s = _
  rw [execLitx, if_neg ha, shiftLeft_or_setWidth]

/-- Settles O7: a branch and a call are split by whether they are taken; the targets are words by `State.target_toInt`, and what is left
says how the model defines the instruction. -/
theorem branchesAndLiterals : Obligations.BranchesAndLiterals := by
  intro s q sense n f d a disp lit
  refine ⟨fun htaken => ?_, fun hnot => ?_, ?q0, ?q0_not, ?jmp_near, ?jmp_far, ?ret, ?litx,
    fun ha => exec_litx_above ha s d lit, ?nop, ?anop⟩
  · simp only [exec_bra_taken htaken, exec_call_taken htaken, BrOff.val, State.target_toInt]
    exact ⟨rfl, rfl, rfl, rfl⟩
  · exact ⟨exec_bra_not_taken hnot _, exec_bra_not_taken hnot _, exec_call_not_taken hnot _, exec_call_not_taken hnot _⟩
  all_goals rfl

/-! ## The start of a microprogram -/

section
variable {q : Quad} {n : Nat}

theorem Quad.entry?_of_valid (h : bitAt (SMap.get q.store { image := [], desc := 0 } n).desc 63 = true) :
    q.entry? n = some (SMap.get q.store { image := [], desc := 0 } n) := by
  rw [SMap.get_eq_getD_get?] at h ⊢
  cases hx : SMap.get? q.store n with
  | none =>
    rw [hx] at h
    cases h
  | some x =>
    have hvalid : bitAt x.desc 63 = true := by rwa [hx] at h
    simp [Quad.entry?, hx, hvalid]

theorem Quad.entry?_of_invalid (h : bitAt (SMap.get q.store { image := [], desc := 0 } n).desc 63 = false) : q.entry? n = none := by
  rw [SMap.get_eq_getD_get?] at h
  cases hx : SMap.get? q.store n with
  | none => simp [Quad.entry?, hx]
  | some x =>
    have hinvalid : bitAt x.desc 63 = false := by rwa [hx] at h
    simp [Quad.entry?, hx, hinvalid]

end

/-- Settles O9: the entry that is run is the control store's where its bit 63 is set, and none elsewhere. -/
theorem macroStarts : Obligations.MacroStarts := by
  intro s d a b e n x
  have hn : MacroSel.val e = n := by cases e <;> rfl
  change (_ → _ → execRunMacro d a b e s = _) ∧ (_ → execRunMacro d a b e s = _)
  rw [execRunMacro, hn]
  refine ⟨fun hvalid hmicro => ?_, fun htrap => ?_⟩
  · rw [Quad.entry?_of_valid hvalid, hmicro]
  · rcases htrap with hinvalid | hmicro
    · rw [Quad.entry?_of_invalid hinvalid]
      rfl
    · obtain ⟨m, hm⟩ := Option.ne_none_iff_exists'.mp hmicro
      rw [hm]
      cases (s.quad (quadOf s.cur)).entry? n <;> rfl

end Machine
end Sys2Proof
end

section
/-! Loads of memory: what precedes a data access, and the turns of LD and LDP, of one line's bytes at once and of two lines' in two
parts (R52, R139, R141, R142, R236). -/

namespace Sys2Proof.Machine

/-- An access that passes every check is performed in memory. -/
theorem Accessible.dataAccess {s t : State} {ea : Word} {n : Nat} {write aligned ctl : Bool} {rule : CtlRule}
    {tr : List (Nat × Xlated)} (h : Accessible s ea n write rule t tr) (haligned : aligned = true → ea.toNat % n = 0)
    (hrule : (if ctl && decide (4 ≤ n) && decide (ea.toNat % n = 0) then CtlRule.allow else .align) = rule)
    (onCtl : State → Nat → Step) (onMem : State → List (Nat × Xlated) → List Nat → Step) :
    s.dataAccess ea n write aligned ctl onCtl onMem = onMem t tr (keysOf tr ea.toNat n) := by
  have hcheck : (aligned && decide (ea.toNat % n ≠ 0)) = false := by
    cases aligned with
    | false => rfl
    | true => simp [haligned rfl]
  simp only [State.dataAccess, hcheck, hrule, h.passes, Got.step, h.memory, h.free, h.clean, h.stays, Bool.false_eq_true, if_false]

/-! ## The parts of a load -/

/-- State t once a load of n bytes at ea is performed: its results wait for their registers (R48). -/
def State.loaded (t : State) (ea : Word) (n : Nat) (dsts : List (Nat × Word)) (pa : Nat) : State :=
  (t.extraCycles ((pagesOf ea.toNat n).length - 1)).pushLoad
    { dsts := dsts, atomic := false, held := none, since := t.clock, pa := pa }

section
variable {s t : State} {ea : Word} {n : Nat} {o : MemOrd × Scope} {keys : List Nat} {res : List Byte → List (Nat × Word)}
  (hacq : MemOrd.isAcq o.1 = true → s.acquireWait s.cur o.2 keys = false)
include hacq

theorem acquire_ready : (MemOrd.isAcq o.1 && s.acquireWait s.cur o.2 keys) = false := by
  cases hord : MemOrd.isAcq o.1 with
  | false => rfl
  | true => exact hacq hord

theorem State.memLoad_oneLine {bs : List Byte} {pa : Nat} (hline : n ≤ 32 - ea.toNat % 32)
    (hread : s.coreRead s.cur ea n .read .align = (t, .ok (bs, pa))) :
    s.memLoad ea n o keys res = .next (t.loaded ea n (res bs) pa) := by
  simp [State.memLoad, State.loaded, acquire_ready hacq, hline, hread, Got.step]

theorem State.memLoad_firstPart {b0 : List Byte} {pa : Nat} (hline : 32 - ea.toNat % 32 < n) (hpart : s.me.arch.wait.part = none)
    (hread : s.coreRead s.cur ea (32 - ea.toNat % 32) .read .align = (t, .ok (b0, pa))) :
    s.memLoad ea n o keys res = (t.updWait fun w => { w with part := some b0 }).hold cMEM := by
  simp [State.memLoad, acquire_ready hacq, hline.not_ge, hpart, hread, Got.step]

theorem State.memLoad_secondPart {b0 b1 : List Byte} {pa : Nat} (hline : 32 - ea.toNat % 32 < n)
    (hpart : s.me.arch.wait.part = some b0)
    (hread : s.coreRead s.cur (ea + BitVec.ofNat 64 (32 - ea.toNat % 32)) (n - (32 - ea.toNat % 32)) .read .align = (t, .ok (b1, pa))) :
    s.memLoad ea n o keys res = .next (t.loaded ea n (res (b0 ++ b1)) pa) := by
  simp [State.memLoad, State.loaded, acquire_ready hacq, hline.not_ge, hpart, hread, Got.step]

end

/-! ## Loads that go on -/

section
variable {s t : State} {ea : Word} {n : Nat} {o : MemOrd × Scope} {rule : CtlRule} {bs : List Byte} {aligned ctl : Bool}
  (haligned : aligned = true → ea.toNat % n = 0)
  (hrule : (if ctl && decide (4 ≤ n) && decide (ea.toNat % n = 0) then CtlRule.allow else .align) = rule)
  (onCtl : State → Nat → Step) (res : List Byte → List (Nat × Word))
include haligned hrule

theorem LoadReady.completes {pa : Nat} (h : LoadReady s ea n o rule t bs pa) :
    s.dataAccess ea n false aligned ctl onCtl (fun s _ keys => s.memLoad ea n o keys res)
      = .next (t.loaded ea n (res bs) pa) := by
  obtain ⟨u, tr, hacc, hacq, hread⟩ := h.ready
  rw [hacc.dataAccess haligned hrule]
  by_cases hline : n ≤ 32 - ea.toNat % 32
  · rw [if_pos hline] at hread
    exact State.memLoad_oneLine hacq hline hread
  · rw [if_neg hline] at hread
    obtain ⟨b0, b1, hpart, rfl, hread⟩ := hread
    exact State.memLoad_secondPart hacq (Nat.lt_of_not_ge hline) hpart hread

theorem LoadSplits.holds (h : LoadSplits s ea n o rule t bs) :
    s.dataAccess ea n false aligned ctl onCtl (fun s _ keys => s.memLoad ea n o keys res)
      = (t.updWait fun w => { w with part := some bs }).hold cMEM := by
  obtain ⟨u, tr, pa, hacc, hpart, hacq, hread⟩ := h.ready
  rw [hacc.dataAccess haligned hrule]
  exact State.memLoad_firstPart hacq h.crosses hpart hread

end

/-- The alignment that LD checks is the one its annotation asks for. -/
theorem AlignedFor.of_annotated {o : MemOrd × Scope} {n : Nat} {ea : Word} (h : AlignedFor o n ea)
    (ho : decide (o.1 ≠ .none) = true) : ea.toNat % n = 0 :=
  h.resolve_left (of_decide_eq_true ho)

theorem ctlRuleOf_eq (n : Nat) (ea : Word) :
    (if true && decide (4 ≤ n) && decide (ea.toNat % n = 0) then CtlRule.allow else .align) = ctlRuleOf n ea := by
  simp [ctlRuleOf]

/-! ## LD and LDP -/

section
variable {s t : State} {d : Reg} {m : MemOp} {n : Nat} {ea : Word} {bs : List Byte} {pa : Nat}

theorem exec_ld_completes {k : LdKind} (hn : LdKind.bytes k = n) (hea : MemOp.ea s.me n m = ea)
    (h : LoadReady s ea n (MemOp.ord m) (ctlRuleOf n ea) t bs pa) :
    exec (.ld d k m) s = .next (t.loaded ea n [(d.toNat, ldValue k bs)] pa) := by
  subst hn hea
  change execLd d k m s = _
  unfold execLd
  exact h.completes h.aligned.of_annotated (ctlRuleOf_eq _ _) _ (fun bs => [(d.toNat, ldValue k bs)])

theorem exec_ld_splits {k : LdKind} (hn : LdKind.bytes k = n) (hea : MemOp.ea s.me n m = ea)
    (h : LoadSplits s ea n (MemOp.ord m) (ctlRuleOf n ea) t bs) :
    exec (.ld d k m) s = (t.updWait fun w => { w with part := some bs }).hold cMEM := by
  subst hn hea
  change execLd d k m s = _
  unfold execLd
  exact h.holds h.aligned.of_annotated (ctlRuleOf_eq _ _) _ _

theorem exec_ldp_completes {dbl : Bool} (hn : pairHalf dbl = n) (hea : MemOp.ea s.me (2 * n) m = ea)
    (h : LoadReady s ea (2 * n) (MemOp.ord m) .align t bs pa) (haligned : ea.toNat % (2 * n) = 0) :
    exec (.ldp d dbl m) s = .next (t.loaded ea (2 * n)
      [(d.toNat, BitVec.ofNat 64 (leValue (bs.take n))), ((d + 1).toNat, BitVec.ofNat 64 (leValue (bs.drop n)))] pa) := by
  subst hn hea
  change execLdp d dbl m s = _
  unfold execLdp
  exact h.completes (ctl := false) (fun _ => haligned) rfl _
    (fun bs => [(d.toNat, BitVec.ofNat 64 (leValue (bs.take (pairHalf dbl)))),
      ((d + 1).toNat, BitVec.ofNat 64 (leValue (bs.drop (pairHalf dbl))))])

end

/-- Settles O18: an LD or LDP of one line is one read, and one across a line is the part held since the turn before and the rest. -/
theorem loadsReadMemory : Obligations.LoadsReadMemory := by
  intro s t d k dbl m bs pa
  refine ⟨?ld, ?ldp⟩
  case ld =>
    cases k <;> exact fun h => ⟨exec_ld_completes rfl rfl h, exec_ld_splits rfl rfl⟩
  case ldp => exact exec_ldp_completes rfl rfl

end Sys2Proof.Machine
end

section
/-! Integer arithmetic: the model computes with exact numbers and then wraps or clamps them; here are the words that this leaves and
the numbers that the words hold (R91, R92, R107). -/

namespace Sys2Proof.Machine

section
variable {t : IType} {x y i j : Int} {z w : Word}

/-! ## The numbers of a type -/

theorem width_le_64 (t : IType) : t.width ≤ 64 := by cases t <;> decide

theorem width_pos (t : IType) : 0 < t.width := by cases t <;> decide

theorem two_pow_width (t : IType) : (2 : Int) ^ t.width = 2 * 2 ^ (t.width - 1) := by cases t <;> rfl

/-- A number that the words of a type hold: from the least to the greatest. -/
def InRange (t : IType) (i : Int) : Prop := leastOf t ≤ i ∧ i ≤ greatestOf t

theorem inRange_iff_of_signed (hs : t.signed = true) : InRange t i ↔ -2 ^ (t.width - 1) ≤ i ∧ i < 2 ^ (t.width - 1) := by
  simp [InRange, leastOf, greatestOf, hs]

theorem inRange_iff_of_unsigned (hs : t.signed = false) : InRange t i ↔ 0 ≤ i ∧ i < 2 ^ t.width := by
  simp [InRange, leastOf, greatestOf, hs]

theorem valueOf_of_signed (hs : t.signed = true) (z : Word) : valueOf t z = (z.setWidth t.width).toInt := if_pos hs

theorem valueOf_of_unsigned (hs : t.signed = false) (z : Word) : valueOf t z = (z.setWidth t.width).toNat :=
  if_neg (by simp [hs])

theorem leastOf_of_signed (hs : t.signed = true) : leastOf t = (BitVec.intMin t.width).toInt :=
  (if_pos hs).trans (BitVec.toInt_intMin_of_pos (width_pos t)).symm

theorem valueOf_inRange (t : IType) (z : Word) : InRange t (valueOf t z) := by
  cases hs : t.signed with
  | true =>
    rw [inRange_iff_of_signed hs, valueOf_of_signed hs]
    exact ⟨BitVec.le_toInt _, BitVec.toInt_lt⟩
  | false =>
    rw [inRange_iff_of_unsigned hs, valueOf_of_unsigned hs]
    exact ⟨Int.natCast_nonneg _, by exact_mod_cast (z.setWidth t.width).isLt⟩

theorem leastOf_le_greatestOf (t : IType) : leastOf t ≤ greatestOf t := (valueOf_inRange t 0).1.trans (valueOf_inRange t 0).2

theorem clamp_inRange (t : IType) (i : Int) : InRange t (max (leastOf t) (min (greatestOf t) i)) :=
  ⟨le_max_left .., max_le (leastOf_le_greatestOf t) (min_le_left ..)⟩

theorem min_inRange (hx : InRange t x) (hy : InRange t y) : InRange t (min x y) := ⟨le_min hx.1 hy.1, min_le_of_left_le hx.2⟩

theorem max_inRange (hx : InRange t x) (hy : InRange t y) : InRange t (max x y) := ⟨le_max_of_le_left hx.1, max_le hx.2 hy.2⟩

/-- The upper half of a product: the product of two numbers is below the square of the bound of their magnitudes. -/
theorem mul_ediv_inRange (hx : InRange t x) (hy : InRange t y) : InRange t (x * y / 2 ^ t.width) := by
  have hpos : (0 : Int) < 2 ^ t.width := by positivity
  cases hs : t.signed with
  | true =>
    rw [inRange_iff_of_signed hs] at hx hy ⊢
    have habs : |x * y| ≤ 2 ^ (t.width - 1) * 2 ^ (t.width - 1) := by
      rw [abs_mul]
      exact mul_le_mul (abs_le.2 ⟨hx.1, hx.2.le⟩) (abs_le.2 ⟨hy.1, hy.2.le⟩) (abs_nonneg _) (by positivity)
    obtain ⟨hlo, hhi⟩ := abs_le.1 habs
    have hsq : (0 : Int) < 2 ^ (t.width - 1) * 2 ^ (t.width - 1) := by positivity
    rw [Int.le_ediv_iff_mul_le hpos, Int.ediv_lt_iff_lt_mul hpos, two_pow_width]
    constructor <;> linarith
  | false =>
    rw [inRange_iff_of_unsigned hs] at hx hy ⊢
    exact ⟨Int.ediv_nonneg (mul_nonneg hx.1 hy.1) hpos.le,
      (Int.ediv_lt_iff_lt_mul hpos).2 (mul_lt_mul'' hx.2 hy.2 hx.1 hy.1)⟩

/-- A quotient is a number of the type, but for the least number by -1: a signed one is what the division of the two bit vectors is. -/
theorem tdiv_inRange (h : ¬(valueOf t z = leastOf t ∧ valueOf t w = -1)) : InRange t ((valueOf t z).tdiv (valueOf t w)) := by
  cases hs : t.signed with
  | true =>
    have hne : z.setWidth t.width ≠ BitVec.intMin t.width ∨ w.setWidth t.width ≠ -1#t.width := by
      refine (not_and_or.1 h).imp (mt fun hz => ?least) (mt fun hw => ?neg_one)
      case least => rw [valueOf_of_signed hs, leastOf_of_signed hs, hz]
      case neg_one => rw [valueOf_of_signed hs, hw, BitVec.neg_one_eq_allOnes, BitVec.toInt_allOnes, if_pos (width_pos t)]
    rw [inRange_iff_of_signed hs, valueOf_of_signed hs, valueOf_of_signed hs, ← BitVec.toInt_sdiv_of_ne_or_ne _ _ hne]
    exact ⟨BitVec.le_toInt _, BitVec.toInt_lt⟩
  | false =>
    have hz := (inRange_iff_of_unsigned hs).1 (valueOf_inRange t z)
    have hw := (inRange_iff_of_unsigned hs).1 (valueOf_inRange t w)
    exact (inRange_iff_of_unsigned hs).2 ⟨Int.tdiv_nonneg hz.1 hw.1, (Int.tdiv_le_self _ hz.1).trans_lt hz.2⟩

/-! ## The low bits of a word -/

theorem ofInt_valueOf (t : IType) (z : Word) : BitVec.ofInt t.width (valueOf t z) = z.setWidth t.width := by
  cases hs : t.signed with
  | true => rw [valueOf_of_signed hs, BitVec.ofInt_toInt]
  | false => rw [valueOf_of_unsigned hs, BitVec.ofInt_natCast, BitVec.ofNat_toNat, BitVec.setWidth_eq]

theorem setWidth_ofInt_64 (t : IType) (i : Int) : (BitVec.ofInt 64 i).setWidth t.width = BitVec.ofInt t.width i := by
  apply BitVec.eq_of_toInt_eq
  rw [← BitVec.signExtend_eq_setWidth_of_le _ (width_le_64 t), BitVec.toInt_signExtend_eq_toInt_bmod_of_le _ (width_le_64 t),
    BitVec.toInt_ofInt, BitVec.toInt_ofInt, Int.bmod_bmod_of_dvd (Nat.pow_dvd_pow 2 (width_le_64 t))]

theorem extendTo_congr (h : z.setWidth t.width = w.setWidth t.width) : extendTo t z = extendTo t w := by
  rw [extendTo, extendTo, h]

@[simp] theorem setWidth_extendTo (t : IType) (z : Word) : (extendTo t z).setWidth t.width = z.setWidth t.width := by
  unfold extendTo
  split_ifs with hs
  · apply BitVec.eq_of_toInt_eq
    rw [← BitVec.signExtend_eq_setWidth_of_le _ (width_le_64 t), BitVec.toInt_signExtend_eq_toInt_bmod_of_le _ (width_le_64 t),
      BitVec.toInt_signExtend_of_le (width_le_64 t), BitVec.toInt_bmod_cancel]
  · rw [BitVec.setWidth_setWidth_of_le _ (width_le_64 t), BitVec.setWidth_eq]

theorem holds_extendTo_ofInt (h : InRange t i) : Holds t (extendTo t (BitVec.ofInt 64 i)) i := by
  refine ⟨?value, extendTo_congr (setWidth_extendTo ..).symm⟩
  cases hs : t.signed with
  | true =>
    rw [inRange_iff_of_signed hs] at h
    rw [valueOf_of_signed hs, setWidth_extendTo, setWidth_ofInt_64, BitVec.toInt_ofInt_eq_self (width_pos t) h.1 h.2]
  | false =>
    rw [inRange_iff_of_unsigned hs] at h
    rw [valueOf_of_unsigned hs, setWidth_extendTo, setWidth_ofInt_64, BitVec.toNat_ofInt,
      Int.toNat_of_nonneg (Int.emod_nonneg _ (by positivity)), Int.emod_eq_of_lt h.1 (by exact_mod_cast h.2)]

/-! ## Operands and results of the model -/

theorem sextNat_eq_toInt (k v : Nat) : sextNat k v = (BitVec.ofNat k v).toInt := by
  cases k with
  | zero => simp [sextNat, BitVec.toInt_zero_length]
  | succ k =>
    have hpow : 2 ^ (k + 1) = 2 * 2 ^ k := by omega
    rw [sextNat, BitVec.toInt_eq_toNat_cond, BitVec.toNat_ofNat, if_neg (Nat.succ_ne_zero k), Nat.add_sub_cancel]
    simp only [hpow, Nat.mul_lt_mul_left Nat.zero_lt_two]
    push_cast [pow_succ']
    rfl

@[simp] theorem iArg_eq_valueOf (t : IType) (z : Word) : iArg t z = valueOf t z := by
  rw [iArg, intVal, valueOf, sextNat_eq_toInt, BitVec.ofNat_toNat, BitVec.toNat_setWidth]

theorem extResult_eq_extendTo (t : IType) (v : Nat) : extResult t v = extendTo t (BitVec.ofNat 64 v) := by
  rw [extResult, extendTo, sextWord, sextNat_eq_toInt, BitVec.setWidth_ofNat_of_le (width_le_64 t), ← BitVec.toNat_ofNat,
    BitVec.ofNat_toNat]
  rfl

theorem intBits_wrap (sg : Bool) (k : Nat) (i : Int) : intBits false sg k i = (BitVec.ofInt k i).toNat := by
  simp [intBits]

/-- Without .sat an exact result keeps its low bits (R91). -/
theorem iResult_wrap (t : IType) (i : Int) : iResult t false i = extendTo t (BitVec.ofInt 64 i) := by
  rw [iResult, intBits_wrap, extResult_eq_extendTo]
  refine extendTo_congr ?_
  rw [BitVec.ofNat_toNat, setWidth_ofInt_64, BitVec.setWidth_setWidth_of_le _ (width_le_64 t), BitVec.setWidth_eq]

theorem holds_iResult (h : InRange t i) : Holds t (iResult t false i) i := by
  rw [iResult_wrap]
  exact holds_extendTo_ofInt h

theorem iResult_wrap_congr (h : i ≡ j [ZMOD 2 ^ t.width]) : iResult t false i = iResult t false j := by
  simp [iResult, intBits, h.eq]

/-- An exact result outside the type is held by the number of the type that it is congruent to. -/
theorem holds_iResult_of_modEq (h : i ≡ j [ZMOD 2 ^ t.width]) (hj : InRange t j) : Holds t (iResult t false i) j := by
  rw [iResult_wrap_congr h]
  exact holds_iResult hj

theorem clampInt_eq_max_min {lo hi : Int} (h : lo ≤ hi) (i : Int) : clampInt lo hi i = max lo (min hi i) := by
  unfold clampInt
  split_ifs <;> omega

/-- With .sat an exact result is clamped first (R91). -/
theorem holds_iResult_sat (t : IType) (i : Int) : Holds t (iResult t true i) (max (leastOf t) (min (greatestOf t) i)) := by
  have hclamp := clamp_inRange t i
  rw [← clampInt_eq_max_min (leastOf_le_greatestOf t)] at hclamp ⊢
  exact holds_iResult hclamp

/-! ## Sum, difference and product, wrapped -/

theorem iResult_wrap_add (t : IType) (z w : Word) : iResult t false (valueOf t z + valueOf t w) = extendTo t (z + w) := by
  rw [iResult_wrap]
  refine extendTo_congr ?_
  rw [setWidth_ofInt_64, BitVec.ofInt_add, ofInt_valueOf, ofInt_valueOf, BitVec.setWidth_add _ _ (width_le_64 t)]

theorem iResult_wrap_sub (t : IType) (z w : Word) : iResult t false (valueOf t z - valueOf t w) = extendTo t (z - w) := by
  rw [iResult_wrap]
  refine extendTo_congr ?_
  rw [setWidth_ofInt_64, Int.sub_eq_add_neg, BitVec.ofInt_add, BitVec.ofInt_neg, ofInt_valueOf, ofInt_valueOf,
    BitVec.sub_eq_add_neg, BitVec.setWidth_add _ _ (width_le_64 t), BitVec.setWidth_neg_of_le (width_le_64 t)]

theorem iResult_wrap_mul (t : IType) (z w : Word) : iResult t false (valueOf t z * valueOf t w) = extendTo t (z * w) := by
  rw [iResult_wrap]
  refine extendTo_congr ?_
  rw [setWidth_ofInt_64, BitVec.ofInt_mul, ofInt_valueOf, ofInt_valueOf, BitVec.setWidth_mul _ _ (width_le_64 t)]

/-! ## The quotient -/

theorem extResult_intDiv_of_ne_zero (hy : y ≠ 0) : extResult t (intDiv t.signed t.width x y) = iResult t false (x.tdiv y) := by
  rw [intDiv, if_neg hy, iResult]

theorem extResult_intDiv_zero (t : IType) (x : Int) :
    extResult t (intDiv t.signed t.width x 0) = iResult t false (2 ^ t.width - 1) := by
  have hpos : (0 : Int) < 2 ^ t.width := by positivity
  have hones : ((2 : Int) ^ t.width - 1) = ((2 ^ t.width - 1 : Nat) : Int) := by
    rw [Nat.cast_sub Nat.one_le_two_pow]
    norm_cast
  rw [intDiv, if_pos rfl, iResult, intBits, if_neg (by decide), Int.emod_eq_of_lt (Int.le_sub_one_of_lt hpos) (by omega), hones,
    Int.toNat_natCast]

/-- All ones are -1 of a signed type and the greatest number of an unsigned one (R92). -/
theorem holds_intDiv_zero (t : IType) (x : Int) :
    Holds t (extResult t (intDiv t.signed t.width x 0)) (if t.signed then -1 else greatestOf t) := by
  rw [extResult_intDiv_zero]
  cases hs : t.signed with
  | true =>
    have hneg : InRange t (-1) := by
      have hhalf : (0 : Int) < 2 ^ (t.width - 1) := by positivity
      rw [inRange_iff_of_signed hs]
      omega
    have hmod : 2 ^ t.width - 1 ≡ -1 [ZMOD 2 ^ t.width] := Int.modEq_iff_dvd.2 ⟨-1, by ring⟩
    exact holds_iResult_of_modEq hmod hneg
  | false =>
    have hgreatest : greatestOf t = 2 ^ t.width - 1 := if_neg (by simp [hs])
    rw [← hgreatest]
    exact holds_iResult ⟨leastOf_le_greatestOf t, le_rfl⟩

/-- The least number by -1 is 2^w above itself (R92). -/
theorem holds_intDiv_least (hs : t.signed = true) :
    Holds t (extResult t (intDiv t.signed t.width (leastOf t) (-1))) (leastOf t) := by
  have hleast : leastOf t = -2 ^ (t.width - 1) := if_pos hs
  rw [extResult_intDiv_of_ne_zero (by decide), Int.tdiv_neg, Int.tdiv_one]
  refine holds_iResult_of_modEq (Int.modEq_iff_dvd.2 ⟨-1, ?_⟩) ⟨le_rfl, leastOf_le_greatestOf t⟩
  rw [two_pow_width, hleast]
  ring

theorem signed_of_valueOf_neg (h : valueOf t z < 0) : t.signed = true := by
  by_contra hs
  rw [valueOf_of_unsigned (by simpa using hs)] at h
  omega

theorem holds_intDiv (t : IType) (z w : Word) :
    Holds t (extResult t (intDiv t.signed t.width (valueOf t z) (valueOf t w)))
      (if valueOf t w = 0 then (if t.signed then -1 else greatestOf t)
        else if valueOf t z = leastOf t ∧ valueOf t w = -1 then valueOf t z else (valueOf t z).tdiv (valueOf t w)) := by
  by_cases hzero : valueOf t w = 0
  · rw [if_pos hzero, hzero]
    exact holds_intDiv_zero t _
  by_cases hleast : valueOf t z = leastOf t ∧ valueOf t w = -1
  · rw [if_neg hzero, if_pos hleast, hleast.1, hleast.2]
    exact holds_intDiv_least (signed_of_valueOf_neg (z := w) (by omega))
  · rw [if_neg hzero, if_neg hleast, extResult_intDiv_of_ne_zero hzero]
    exact holds_iResult (tdiv_inRange hleast)

end

/-! ## The instructions -/

section
variable (s : State) (d a b : Reg) (sat : Bool) (t : IType)

theorem exec_add : exec (.add d a b sat t) s = .next (s.pushX d (iResult t sat (valueOf t (s.me.x a) + valueOf t (s.me.x b))) 1) := by
  simp only [← iArg_eq_valueOf]
  rfl

theorem exec_sub : exec (.sub d a b sat t) s = .next (s.pushX d (iResult t sat (valueOf t (s.me.x a) - valueOf t (s.me.x b))) 1) := by
  simp only [← iArg_eq_valueOf]
  rfl

theorem exec_mul : exec (.mul d a b sat t) s = .next (s.pushX d (iResult t sat (valueOf t (s.me.x a) * valueOf t (s.me.x b))) 3) := by
  simp only [← iArg_eq_valueOf]
  rfl

theorem exec_mulh : exec (.mulh d a b t) s
    = .next (s.pushX d (iResult t false (valueOf t (s.me.x a) * valueOf t (s.me.x b) / 2 ^ t.width)) 3) := by
  simp only [← iArg_eq_valueOf]
  rfl

theorem exec_div : exec (.div d a b t) s
    = .next (s.pushX d (extResult t (intDiv t.signed t.width (valueOf t (s.me.x a)) (valueOf t (s.me.x b))))
        (if t.width = 64 then 34 else 18)) := by
  simp only [← iArg_eq_valueOf]
  rfl

theorem exec_min : exec (.min d a b t) s
    = .next (s.pushX d (iResult t false (min (valueOf t (s.me.x a)) (valueOf t (s.me.x b)))) 1) := by
  simp only [← iArg_eq_valueOf]
  rfl

theorem exec_max : exec (.max d a b t) s
    = .next (s.pushX d (iResult t false (max (valueOf t (s.me.x a)) (valueOf t (s.me.x b)))) 1) := by
  simp only [← iArg_eq_valueOf]
  rfl

end

/-- Settles O1: each instruction leaves one result of an exact number, which is wrapped to the low bits of the operands' sum, difference
or product, or is clamped, or is a number of the type already but for the two corners of a quotient. -/
theorem integerArithmetic : Obligations.IntegerArithmetic := by
  intro s d a b t
  have hx := valueOf_inRange t (s.me.x a)
  have hy := valueOf_inRange t (s.me.x b)
  refine ⟨?add, ?sub, ?mul, ⟨_, holds_iResult_sat t _, exec_add ..⟩, ⟨_, holds_iResult_sat t _, exec_sub ..⟩,
    ⟨_, holds_iResult_sat t _, exec_mul ..⟩, ⟨_, holds_iResult (mul_ediv_inRange hx hy), exec_mulh ..⟩,
    ⟨_, holds_intDiv t _ _, exec_div ..⟩, ⟨_, holds_iResult (min_inRange hx hy), exec_min ..⟩,
    ⟨_, holds_iResult (max_inRange hx hy), exec_max ..⟩⟩
  case add => rw [exec_add, iResult_wrap_add]
  case sub => rw [exec_sub, iResult_wrap_sub]
  case mul => rw [exec_mul, iResult_wrap_mul]

end Sys2Proof.Machine
end

section
/-! Moves, logic, shifts, bit counts and fields, comparisons and selections: what the model computes bit by bit (R105 to R109). -/

namespace Sys2Proof.Machine

/-! ## Shifts -/

theorem shiftLeft_eq_ofNat (z : Word) (n : Nat) : z <<< n = BitVec.ofNat 64 (z.toNat * 2 ^ n) := by
  rw [← Nat.shiftLeft_eq]
  rfl

theorem setWidth_signExtend {w v : Nat} (h : w ≤ v) (z : BitVec w) : (z.signExtend v).setWidth w = z := by
  refine BitVec.eq_of_getLsbD_eq fun i hi => ?_
  rw [BitVec.getLsbD_setWidth, BitVec.getLsbD_signExtend]
  simp [hi, hi.trans_le h]

/-- A number moved right is divided, rounding down: of a signed type with its sign filled in, of an unsigned one with zeros. -/
theorem iResult_shiftRight (t : IType) (z : Word) (n : Nat) :
    iResult t false (valueOf t z / 2 ^ n) = extendTo t
      (if t.signed then ((z.setWidth t.width).sshiftRight n).signExtend 64 else ((z.setWidth t.width).ushiftRight n).setWidth 64) := by
  rw [iResult_wrap]
  refine extendTo_congr ?_
  rw [setWidth_ofInt_64]
  cases hs : t.signed with
  | true =>
    have hshift : valueOf t z / 2 ^ n = ((z.setWidth t.width).sshiftRight n).toInt := by
      rw [BitVec.toInt_sshiftRight, valueOf_of_signed hs, Int.shiftRight_eq_div_pow]
      norm_cast
    rw [hshift, BitVec.ofInt_toInt, if_pos rfl, setWidth_signExtend (width_le_64 t)]
  | false =>
    have hshift : valueOf t z / 2 ^ n = ((z.setWidth t.width).ushiftRight n).toNat := by
      rw [valueOf_of_unsigned hs, BitVec.ushiftRight_eq, BitVec.toNat_ushiftRight, Nat.shiftRight_eq_div_pow]
      norm_cast
    rw [hshift, BitVec.ofInt_natCast, BitVec.ofNat_toNat, if_neg (by decide), BitVec.setWidth_setWidth_of_le _ (width_le_64 t)]

/-! ## Counting and reversing bits -/

theorem bitOp_popc (w v : Nat) : bitOp .popc w v = ((List.range w).filter fun i => v.testBit i).length := by
  simp only [bitOp, List.filter_map, List.length_map]
  rfl

/-- The leading clear bits of a list: that many, and then a set one where the list goes on. -/
theorem takeWhile_not_spec (l : List Bool) :
    (l.takeWhile (!·)).length ≤ l.length ∧ (∀ i, i < (l.takeWhile (!·)).length → l[i]? = some false)
      ∧ ((l.takeWhile (!·)).length < l.length → l[(l.takeWhile (!·)).length]? = some true) := by
  induction l with
  | nil => simp
  | cons b r ih =>
    obtain ⟨hle, hclear, hset⟩ := ih
    cases b with
    | true => simp
    | false =>
      refine ⟨by simpa using hle, fun i hi => ?_, fun h => ?_⟩
      · cases i with
        | zero => rfl
        | succ i => exact hclear i (by simpa using hi)
      · exact hset (by simpa using h)

/-- The bit string that a fold of doublings builds: its last bit is the lowest. -/
theorem testBit_foldl_double (l : List Bool) (i : Nat) :
    (l.foldl (fun acc (b : Bool) => 2 * acc + b.toNat) 0).testBit i = (l.reverse[i]?).getD false := by
  induction l using List.reverseRecOn generalizing i with
  | nil => simp
  | append_singleton l b ih =>
    rw [List.foldl_concat, List.reverse_concat]
    cases i with
    | zero => cases b <;> simp [Nat.testBit_zero, Nat.add_mod]
    | succ i =>
      have hhalf : (2 * l.foldl (fun acc (b : Bool) => 2 * acc + b.toNat) 0 + b.toNat) / 2 = l.foldl (fun acc (b : Bool) => 2 * acc + b.toNat) 0 := by
        have := Bool.toNat_le b
        omega
      rw [Nat.testBit_succ, hhalf, ih]
      rfl

section
variable (z : Word)

/-- The bits of a word, lowest first. -/
def bitsOf : List Bool := (List.range 64).map fun i => z.toNat.testBit i

theorem bitsOf_getElem? {i : Nat} (hi : i < 64) : (bitsOf z)[i]? = some (z.getLsbD i) := by
  simp [bitsOf, hi, BitVec.getLsbD]

theorem bitsOf_reverse_getElem? {i : Nat} (hi : i < 64) : (bitsOf z).reverse[i]? = some (z.getLsbD (63 - i)) := by
  have hlen : (bitsOf z).length = 64 := by simp [bitsOf]
  rw [List.getElem?_reverse (by rwa [hlen]), hlen]
  exact bitsOf_getElem? z (by omega)

theorem bitOp_clz_spec : bitOp .clz 64 z.toNat ≤ 64 ∧ (∀ i, i < bitOp .clz 64 z.toNat → z.getLsbD (63 - i) = false)
    ∧ (bitOp .clz 64 z.toNat < 64 → z.getLsbD (63 - bitOp .clz 64 z.toNat) = true) := by
  have h := takeWhile_not_spec (bitsOf z).reverse
  have hlen : (bitsOf z).reverse.length = 64 := by simp [bitsOf]
  rw [hlen] at h
  obtain ⟨hle, hclear, hset⟩ := h
  refine ⟨hle, fun i hi => ?_, fun hn => ?_⟩
  · exact Option.some.inj ((bitsOf_reverse_getElem? z (hi.trans_le hle)).symm.trans (hclear i hi))
  · exact Option.some.inj ((bitsOf_reverse_getElem? z hn).symm.trans (hset hn))

theorem bitOp_ctz_spec : bitOp .ctz 64 z.toNat ≤ 64 ∧ (∀ i, i < bitOp .ctz 64 z.toNat → z.getLsbD i = false)
    ∧ (bitOp .ctz 64 z.toNat < 64 → z.getLsbD (bitOp .ctz 64 z.toNat) = true) := by
  have h := takeWhile_not_spec (bitsOf z)
  have hlen : (bitsOf z).length = 64 := by simp [bitsOf]
  rw [hlen] at h
  obtain ⟨hle, hclear, hset⟩ := h
  refine ⟨hle, fun i hi => ?_, fun hn => ?_⟩
  · exact Option.some.inj ((bitsOf_getElem? z (hi.trans_le hle)).symm.trans (hclear i hi))
  · exact Option.some.inj ((bitsOf_getElem? z hn).symm.trans (hset hn))

theorem getLsbD_bitOp_rev {i : Nat} (hi : i < 64) : (BitVec.ofNat 64 (bitOp .rev 64 z.toNat)).getLsbD i = z.getLsbD (63 - i) := by
  have hfold : bitOp .rev 64 z.toNat = (bitsOf z).foldl (fun acc (b : Bool) => 2 * acc + b.toNat) 0 := by simp only [bitOp, bitsOf]
  rw [BitVec.getLsbD_ofNat, hfold, testBit_foldl_double, bitsOf_reverse_getElem? z hi]
  simp [hi]

/-- The field of len bits from pos. -/
theorem getLsbD_field (pos len i : Nat) :
    (BitVec.ofNat 64 ((z.toNat >>> pos) % 2 ^ len)).getLsbD i = (decide (i < 64) && (decide (i < len) && z.getLsbD (pos + i))) := by
  rw [BitVec.getLsbD_ofNat, Nat.testBit_mod_two_pow, Nat.testBit_shiftRight]
  rfl

theorem and_ne_zero_iff (w : Word) : z &&& w ≠ 0 ↔ ∃ i, i < 64 ∧ z.getLsbD i = true ∧ w.getLsbD i = true := by
  constructor
  · intro hne
    by_contra hnone
    refine hne (BitVec.eq_of_getLsbD_eq fun i hi => ?_)
    by_contra hbit
    exact hnone ⟨i, hi, by simpa using hbit⟩
  · rintro ⟨i, -, hz, hw⟩ h0
    have hbit : (z &&& w).getLsbD i = true := by simp [hz, hw]
    simp [h0] at hbit

end

/-- The condition of a comparison (R105). -/
theorem iCond_iff (c : Cond) (i j : Int) : iCond c i j = true ↔ match c with
    | .eq => i = j | .ne => i ≠ j | .lt => i < j | .le => i ≤ j | .gt => j < i | .ge => j ≤ i | .un => False := by
  cases c <;> simp [iCond]

/-! ## The instructions -/

section
variable (s : State) (d a b : Reg)

theorem exec_movi_upper (imm : BitVec 16) : exec (.movi d imm true) s = .next (s.pushX d (imm.signExtend 64 * 65536) 1) := by
  have hshift : imm.signExtend 64 <<< 16 = imm.signExtend 64 * 65536 := by
    rw [BitVec.shiftLeft_eq_mul_twoPow]
    rfl
  rw [← hshift]
  rfl

theorem exec_shl (k : BitVec 5) : exec (.shl d a b k) s
    = .next (s.pushX d (BitVec.ofNat 64 ((s.me.x a).toNat * 2 ^ (((s.me.x b).toNat + k.toNat) % 64))) 1) := by
  rw [← shiftLeft_eq_ofNat]
  rfl

theorem exec_shr (t : IType) : exec (.shr d a b t) s
    = .next (s.pushX d (iResult t false (valueOf t (s.me.x a) / 2 ^ ((s.me.x b).toNat % 64))) 1) := by
  rw [← iArg_eq_valueOf]
  rfl

/-- BFX reads its position and length from two fields of x[b] (R109). -/
theorem exec_bfx : exec (.bfx d a b) s
    = .next (s.pushX d (BitVec.ofNat 64 (((s.me.x a).toNat >>> ((s.me.x b).toNat % 64))
        % 2 ^ min ((s.me.x b).toNat / 256 % 128) (64 - (s.me.x b).toNat % 64))) 1) := by
  have hpos : fld (s.me.x b) 5 0 = (s.me.x b).toNat % 64 := rfl
  have hlen : fld (s.me.x b) 14 8 = (s.me.x b).toNat / 256 % 128 := by
    rw [fld, Nat.shiftRight_eq_div_pow]
    norm_num
  rw [← hlen, ← hpos]
  rfl

theorem exec_cmp (c : Cond) (q : QReg) (t : IType) : exec (.cmp c q a b t) s
    = .next (s.pushQ q (iCond c (valueOf t (s.me.x a)) (valueOf t (s.me.x b))) 1) := by
  simp only [← iArg_eq_valueOf]
  rfl

end

/-- Settles O2: each instruction leaves one result, and the result is read bit by bit or as a number of its type. -/
theorem movesLogicAndShifts : Obligations.MovesLogicAndShifts := by
  intro s d a b q p t imm off k sense cond x y
  refine ⟨rfl, exec_movi_upper s d imm, rfl, rfl, rfl, rfl, exec_shl s d a b k, ?shr, ⟨_, bitOp_popc 64 _, rfl⟩, ?clz, ?ctz, ?rev, ?bfx,
    ⟨_, exec_cmp s a b cond q t, iCond_iff cond _ _⟩, rfl, ⟨decide (x &&& y ≠ 0), rfl, decide_eq_true_iff.trans (and_ne_zero_iff x y)⟩⟩
  case shr => rw [exec_shr, iResult_shiftRight]
  case clz =>
    obtain ⟨hle, hclear, hset⟩ := bitOp_clz_spec x
    exact ⟨_, hle, hclear, hset, rfl⟩
  case ctz =>
    obtain ⟨hle, hclear, hset⟩ := bitOp_ctz_spec x
    exact ⟨_, hle, hclear, hset, rfl⟩
  case rev => exact ⟨_, fun i hi => getLsbD_bitOp_rev x hi, rfl⟩
  case bfx =>
    refine ⟨_, fun i hi => ?_, exec_bfx s d a b⟩
    rw [getLsbD_field]
    simp [hi, x, y]

end Sys2Proof.Machine
end

section
/-! HASH: a byte folded into the CRC register at once is its eight bits folded one after the other (R110). -/

namespace Sys2Proof.Machine

/-- One bit enters the CRC-64 of ECMA-182, most significant bit first. -/
def crcStep (c : Word) (d : Bool) : Word := (c <<< 1) ^^^ (if c.getLsbD 63 ^^ d then 0x42F0E1EBA9EA3693#64 else 0#64)

theorem crcBit_eq_crcStep (c : Word) : crcBit c = crcStep c false := by
  have htop : bitAt c 63 = c.getLsbD 63 := rfl
  rw [crcBit, crcStep, htop, Bool.xor_false]
  split_ifs <;> simp

/-- Data joined to the register enter it with their highest bit, and the rest stays joined. -/
theorem crcBit_xor (c e : Word) : crcBit (c ^^^ e) = crcStep c (e.getLsbD 63) ^^^ (e <<< 1) := by
  rw [crcBit_eq_crcStep, crcStep, crcStep, BitVec.shiftLeft_xor_distrib, BitVec.getLsbD_xor, Bool.xor_false, BitVec.xor_assoc,
    BitVec.xor_comm (e <<< 1), ← BitVec.xor_assoc]

theorem crcBit_iterate_xor (c e : Word) {n : Nat} (hn : n ≤ 64) :
    crcBit^[n] (c ^^^ e) = ((List.range n).foldl (fun c i => crcStep c (e.getLsbD (63 - i))) c) ^^^ (e <<< n) := by
  induction n with
  | zero => simp
  | succ n ih =>
    have hbit : (e <<< n).getLsbD 63 = e.getLsbD (63 - n) := by
      rw [BitVec.getLsbD_shiftLeft]
      simp [show ¬ 63 < n by omega]
    rw [Function.iterate_succ_apply', ih (by omega), crcBit_xor, hbit, List.range_succ, List.foldl_concat, BitVec.shiftLeft_add]

theorem crcByte_eq_foldl (c : Word) (b : Nat) :
    crcByte c b = (List.range 8).foldl (fun c i => crcStep c (b.testBit (7 - i))) c := by
  have hjoin : crcByte c b = crcBit^[8] (c ^^^ (BitVec.ofNat 64 b <<< 56)) := rfl
  have hgone : (BitVec.ofNat 64 b <<< 56) <<< 8 = 0#64 := by
    rw [← BitVec.shiftLeft_add]
    exact BitVec.shiftLeft_eq_zero (by decide)
  have hbits : ∀ c : Word, ∀ i ∈ List.range 8,
      crcStep c ((BitVec.ofNat 64 b <<< 56).getLsbD (63 - i)) = crcStep c (b.testBit (7 - i)) := by
    intro c i hi
    have hi8 : i < 8 := List.mem_range.mp hi
    rw [BitVec.getLsbD_shiftLeft, BitVec.getLsbD_ofNat, show 63 - i - 56 = 7 - i by omega]
    simp [show ¬ 63 - i < 56 by omega, show 63 - i < 64 by omega, show 7 - i < 64 by omega]
  rw [hjoin, crcBit_iterate_xor _ _ (by decide), hgone, BitVec.xor_zero]
  exact List.foldl_ext _ _ _ hbits

/-- Bit j of byte i of a word. -/
theorem testBit_byte (v : Word) {i j : Nat} (hj : j < 8) : (fld v (8 * i + 7) (8 * i)).testBit j = v.getLsbD (8 * i + j) := by
  rw [fld, show 8 * i + 7 - 8 * i + 1 = 8 by omega, Nat.testBit_mod_two_pow, Nat.testBit_shiftRight]
  simp [hj, BitVec.getLsbD]

/-- Eight bytes, byte 0 first and each byte's most significant bit first. -/
theorem crcWord_eq_foldl (c v : Word) :
    crcWord c v = (List.range 64).foldl (fun c i => crcStep c (v.getLsbD (8 * (i / 8) + (7 - i % 8)))) c := by
  have hrange : List.range 64 = (List.range 8).flatMap fun i => (List.range 8).map fun j => 8 * i + j := by decide
  rw [crcWord, hrange, List.foldl_flatMap]
  refine List.foldl_ext _ _ _ fun c i _ => ?_
  rw [crcByte_eq_foldl, List.foldl_map]
  refine List.foldl_ext _ _ _ fun c j hj => ?_
  have hj8 : j < 8 := List.mem_range.mp hj
  rw [testBit_byte v (by omega), show (8 * i + j) / 8 = i by omega, show (8 * i + j) % 8 = j by omega]

/-- Settles O3: the register is folded with the 64 data bits in the order in which the bytes, and their bits, enter. -/
theorem hashFolds : Obligations.HashFolds := by
  intro s d a b x
  refine ⟨_, crcWord_eq_foldl x (s.me.x b), rfl⟩

end Sys2Proof.Machine
end

section
/-! Scalar floats: the state that an .sr form's draw leaves, and the result with its flags (R79, R82, R111 to R115). -/

namespace Sys2Proof.Machine

theorem exec_fdiv (s : State) (d a b : Reg) (f : FFmt) (r : Rnd) : exec (.fdiv d a b f r) s
    = s.floatX d r (match f with | .f64 => 24 | _ => 12) (fDiv (fkOfScalar f) r s.rnd (s.me.x a).toNat (s.me.x b).toNat) := by
  cases f <;> rfl

/-- Settles O4: each form is one result in flight after the draw that its rounding claims. -/
theorem scalarFloats : Obligations.ScalarFloats := by
  intro s d a b q f g r cond mx ovf x y k u s' out
  have hout : ∀ n v, out n v = s.floatX d r n v := fun _ _ => rfl
  simp only [hout]
  exact ⟨rfl, rfl, rfl, exec_fdiv s d a b f r, rfl, rfl, rfl⟩

end Sys2Proof.Machine
end

section
/-! LOOP, and what the end of a bundle does to a counted loop (R68, R97, R102, R103). -/

namespace Sys2Proof.Machine

/-! ## LOOP -/

/-- A number of bundles in bytes, as the word that the pc is moved by. -/
theorem ofNat_bundles (n : BitVec 10) : BitVec.ofNat 64 (8 * n.toNat) = 8 * n.setWidth 64 := by
  rw [BitVec.ofNat_mul, ← BitVec.toNat_setWidth_of_le (show 10 ≤ 64 by decide), BitVec.ofNat_toNat, BitVec.setWidth_eq]
  rfl

section
variable {s : State} {a : Reg} {n : BitVec 10}

theorem exec_loop_illegal (h : s.me.arch.lcnt ≠ 0 ∨ s.me.arch.tm = true ∨ s.me.micro ≠ none) :
    exec (.loop a n) s = .next (s.trap cILLEGAL s.me.bundle) := if_pos h

variable (hcnt : s.me.arch.lcnt = 0) (htm : s.me.arch.tm = false) (hmic : s.me.micro = none)
include hcnt htm hmic

theorem loop_allowed : ¬(s.me.arch.lcnt ≠ 0 ∨ s.me.arch.tm = true ∨ s.me.micro ≠ none) := by simp [hcnt, htm, hmic]

/-- A count of zero skips the body. -/
theorem exec_loop_skip (hx : s.me.x a = 0) :
    exec (.loop a n) s = .next (s.jump (s.me.arch.pc + 8 * (n.setWidth 64 + 1))) := by
  have hskip : BitVec.ofNat 64 (8 * (n.toNat + 1)) = 8 * (n.setWidth 64 + 1) := by
    rw [Nat.mul_add, BitVec.ofNat_add, ofNat_bundles, BitVec.mul_add]
    rfl
  rw [← hskip]
  exact (if_neg (loop_allowed hcnt htm hmic)).trans (if_pos hx)

theorem exec_loop_start (hx : s.me.x a ≠ 0) :
    exec (.loop a n) s = .next (s.updMe fun c => { c.updArch (fun y =>
      { y with lbeg := y.pc + 8, lend := y.pc + 8 * n.setWidth 64, lcnt := c.x a }) with loopBuf := [] }) := by
  rw [← ofNat_bundles]
  exact (if_neg (loop_allowed hcnt htm hmic)).trans (if_neg hx)

end

/-! ## The end of a bundle -/

section
variable {c : Core} {pc : Word} {tm : Bool}

/-- At LEND the loop goes on while its count is above 1. -/
theorem loopNext_wraps (htaken : c.taken = false) (hcnt : 1 < c.arch.lcnt.toNat) :
    (c.loopNext c.arch.lend false false false).1 = { c with npc := c.arch.lbeg, arch := { c.arch with lcnt := c.arch.lcnt - 1 } } := by
  have hne : c.arch.lcnt ≠ 0 := by
    intro h
    simp [h] at hcnt
  simp only [Core.loopNext, htaken, hne, hcnt, ne_eq, not_false_eq_true, decide_true, Bool.not_false, Bool.and_self, Bool.false_and,
    Bool.false_eq_true, if_true, if_false]

theorem loopNext_leaves (htaken : c.taken = false) (hcnt : c.arch.lcnt = 1) :
    (c.loopNext c.arch.lend false false false).1 = { c with npc := c.arch.lend + 8, arch := { c.arch with lcnt := 0 } } := by
  simp [Core.loopNext, htaken, hcnt]

variable (htaken : c.taken = true)
include htaken

theorem loopNext_taken_npc (rft : Bool) : (c.loopNext pc tm false rft).1.npc = c.npc := by
  cases rft <;> simp [Core.loopNext, htaken]

theorem loopNext_rft_arch : (c.loopNext pc tm false true).1.arch = c.arch := by simp [Core.loopNext, htaken]

theorem loopNext_inside (hin : c.arch.lbeg ≤ c.npc ∧ c.npc ≤ c.arch.lend) : (c.loopNext pc tm false false).1.arch = c.arch := by
  simp [Core.loopNext, htaken, hin.1, hin.2]

/-- A count that is zero already stands in the state as one that is cleared. -/
theorem loopNext_outside (hout : ¬(c.arch.lbeg ≤ c.npc ∧ c.npc ≤ c.arch.lend)) :
    (c.loopNext pc tm false false).1.arch = { c.arch with lcnt := 0 } := by
  have hin : (decide (c.arch.lbeg ≤ c.npc) && decide (c.npc ≤ c.arch.lend)) = false := by
    rw [← Bool.not_eq_true, Bool.and_eq_true, decide_eq_true_iff, decide_eq_true_iff]
    exact hout
  by_cases hcnt : c.arch.lcnt = 0
  · simp only [Core.loopNext, htaken, hcnt, Bool.not_false, Bool.and_self, decide_true, Bool.or_true, Bool.false_eq_true, if_true, if_false]
    rw [← hcnt]
  · simp only [Core.loopNext, htaken, hin, hcnt, Bool.not_false, Bool.and_self, decide_false, Bool.or_self, Bool.false_eq_true, if_true,
      if_false]

end

/-- Settles O8: LOOP by its count, the end of the body by the count that is left, a taken branch by where it goes. -/
theorem countedLoops : Obligations.CountedLoops := by
  refine ⟨fun s a n hcnt htm hmic => ⟨exec_loop_skip hcnt htm hmic, fun hx => ?start⟩, fun s a n => exec_loop_illegal,
    fun c htaken _ => ⟨fun hcnt => ?wraps, fun hcnt => ?leaves⟩, fun c pc tm htaken => ?taken⟩
  case start =>
    rw [exec_loop_start hcnt htm hmic hx]
    rfl
  case wraps => simp [loopNext_wraps htaken hcnt]
  case leaves => simp [loopNext_leaves htaken hcnt]
  case taken =>
    exact ⟨loopNext_taken_npc htaken false, loopNext_inside htaken, loopNext_outside htaken, loopNext_taken_npc htaken true,
      loopNext_rft_arch htaken⟩

end Sys2Proof.Machine
end

section
/-! Single fields of a word, as they stand after a write of one field (R5). -/

namespace Sys2Proof

section
variable {n : Nat} (w : BitVec n) {k : Nat} (hk : k < n)
include hk

theorem bitAt_setFld {lo hi : Nat} (v : Nat) (h : lo ≤ hi) :
    bitAt (setFld w hi lo v) k = if lo ≤ k ∧ k ≤ hi then v.testBit (k - lo) else bitAt w k := by
  change (setFld w hi lo v).getLsbD k = if _ then _ else w.getLsbD k
  simp only [setFld, BitVec.getLsbD_or, BitVec.getLsbD_and, BitVec.getLsbD_not, BitVec.getLsbD_ofNat, Nat.testBit_shiftLeft,
    Nat.testBit_two_pow_sub_one, Nat.testBit_mod_two_pow, hk, decide_true, Bool.true_and]
  by_cases hlo : lo ≤ k
  · by_cases hhi : k ≤ hi
    · simp [hlo, hhi, show k - lo < hi - lo + 1 by omega]
    · simp [hlo, hhi, show ¬ k - lo < hi - lo + 1 by omega]
  · simp [hlo]

theorem bitAt_setBit (i : Nat) (b : Bool) : bitAt (setBit w i b) k = if k = i then b else bitAt w k := by
  rw [setBit, bitAt_setFld w hk _ le_rfl]
  by_cases h : k = i
  · rw [if_pos (by omega), if_pos h, h, Nat.sub_self]
    cases b <;> rfl
  · rw [if_neg (by omega), if_neg h]

end

end Sys2Proof
end

section
/-! Trap entry, the double trap and the return from a trap (R49, R116 to R120, R195, R208, R430). -/

namespace Sys2Proof.Machine

/-! ## Results land -/

/-- A write changes the x and q registers and FPST alone. -/
theorem writeDst_frame (a : Arch) (p : PendW) : { writeDst a p with x := a.x, q := a.q, fpst := a.fpst } = a := by
  unfold writeDst Arch.wx Arch.wq
  cases p.flags <;> cases p.dst <;> dsimp only <;> split_ifs <;> rfl

theorem landAll_frame (a : Arch) (l : List PendW) : { landAll a l with x := a.x, q := a.q, fpst := a.fpst } = a := by
  unfold landAll
  generalize sortBy _ l = ps
  induction ps generalizing a with
  | nil => rfl
  | cons p r ih =>
    have hrest := ih (writeDst a p)
    have hwrite := writeDst_frame a p
    rw [List.foldl_cons]
    rw [← hrest] at hwrite
    exact hwrite

section
variable (c : Core)

theorem Core.landEvery_frame : { c.landEvery.arch with x := c.arch.x, q := c.arch.q, fpst := c.arch.fpst } = c.arch :=
  landAll_frame c.arch c.pend

theorem Core.landEvery_status : c.landEvery.arch.status = c.arch.status := by
  have hstatus := congrArg Arch.status c.landEvery_frame
  exact hstatus

/-! ## Trap entry (R116) -/

/-- STATUS as a handler starts with: TM and PL set, BPS and MOP clear. -/
def entryStatus (st : Word) : Word := setBit (setBit (setFld (setBit st 2 false) 23 19 0) 1 true) 0 true

theorem bitAt_entryStatus (st : Word) {k : Nat} (hk : k < 64) : bitAt (entryStatus st) k
    = if k = 0 ∨ k = 1 then true else if k = 2 ∨ (19 ≤ k ∧ k ≤ 23) then false else bitAt st k := by
  rw [entryStatus, bitAt_setBit _ hk, bitAt_setBit _ hk, bitAt_setFld _ hk _ (by decide), bitAt_setBit _ hk, Nat.zero_testBit]
  grind

/-- A core as trap entry leaves it. -/
def Core.entered (cause : Nat) (val pc : Word) : Core :=
  let c := c.landEvery
  { c with
    arch := { c.arch with
      tstat := c.arch.status, tpc := pc, tcause := BitVec.ofNat 64 cause, tval := val, status := entryStatus c.arch.status,
      pc := tvecKeep c.arch.copies.tvec, wait := c.arch.wait.inner }
    npc := tvecKeep c.arch.copies.tvec, taken := true, micro := none, fetchBuf := [], flow := .trapped cause val }

theorem Core.entered_tm (cause : Nat) (val pc : Word) : (c.entered cause val pc).arch.tm = true :=
  bitAt_entryStatus _ (by decide)

end

section
variable {s : State} {g : Nat}

theorem State.trapAt_entered (htm : (s.core g).arch.tm = false) (cause : Nat) (val pc : Word) :
    s.trapAt g cause val pc = s.updCore g fun c => c.entered cause val pc := if_neg (by simp [htm])

theorem State.trap_entered (htm : s.me.arch.tm = false) (cause : Nat) (val : Word) :
    s.trap cause val = s.updMe fun c => c.entered cause val s.me.arch.pc := State.trapAt_entered htm _ _ _

/-! ## The double trap (R117) -/

theorem State.trapAt_double (htm : (s.core g).arch.tm = true) (cause : Nat) (val pc : Word) :
    s.trapAt g cause val pc = (s.contain g 2 cause 0).updCore g fun c => { c with flow := .trapped cause val } := if_pos htm

/-- A contained core once its strand has left. -/
def Core.stopped (c : Core) : Core := { c.shutTrap with contained := true, sb := [], arch := c.arch.afterContainment }

theorem Core.stopped_strand (c : Core) : c.stopped.strand = c.strand := rfl

/-- Containment ends with the core freed and out of service (R413). -/
theorem State.contain_frees (s : State) (g reason tcause pa : Nat) :
    ∃ w : State, s.contain g reason tcause pa = (w.freeCore g).updCore g Core.stopped := by
  unfold State.contain
  extract_lets s1 c paired n s2 s3 ctxAt s4 s5 s6 s7 stopped s8
  split_ifs
  · exact ⟨s7.pairSurvives g, rfl⟩
  · exact ⟨s8, rfl⟩

theorem State.contain_stops (s : State) (g reason tcause pa : Nat) :
    ((s.contain g reason tcause pa).core g).strand = none ∧ ((s.contain g reason tcause pa).core g).contained = true := by
  obtain ⟨w, hw⟩ := s.contain_frees g reason tcause pa
  have hleft : ((w.freeCore g).core g).strand = none := (freeCore_leaves w g).vacant.1
  rw [hw, State.core_updCore_same]
  exact ⟨(Core.stopped_strand _).trans hleft, rfl⟩

end

/-! ## Asynchronous causes (R430) -/

section
variable {c : Core} {clock : Nat} (htm : c.arch.tm = true)
include htm

/-- In trap mode nothing is due but a watchdog that expired there. -/
theorem Core.due_trapMode : c.due clock = c.arch.wait.wdTm.map fun v => .trap cWATCHDOG v := by
  have hpend : ∀ k : Core, k.arch.tm = true → k.pending = k.arch.wait.wdTm.map fun v => .trap cWATCHDOG v := fun k hk => if_pos hk
  have hrest := hpend (c.updArch fun a => { a with perc := { a.perc with flt := false } }) htm
  simp only [Core.due, hrest, hpend c htm, Core.updArch_arch, ite_self]

end

/-- The cause that is taken is forgotten, wherever it was pending; the rest of the strand's state stays. -/
theorem Core.clearPending_frame (c : Core) : { c.clearPending.arch with
    vfault := c.arch.vfault, mfault := c.arch.mfault, perc := c.arch.perc, wait := c.arch.wait } = c.arch := by
  cases hstrand : c.strand <;> simp only [Core.clearPending, hstrand] <;> split_ifs <;> rfl

theorem Core.clearPending_status (c : Core) : c.clearPending.arch.status = c.arch.status :=
  (congrArg Arch.status c.clearPending_frame :)

theorem Core.clearPending_copies (c : Core) : c.clearPending.arch.copies = c.arch.copies :=
  (congrArg Arch.copies c.clearPending_frame :)

theorem State.takeAsync_trap {s : State} {g cause : Nat} {val : Word} (hdue : (s.core g).due s.clock = some (.trap cause val))
    (htm : (s.core g).arch.tm = false) : s.takeAsync g
      = some ((s.updCore g Core.clearPending).updCore g fun c => c.entered cause val (s.core g).arch.pc) := by
  have hclear : ((s.updCore g Core.clearPending).core g).arch.tm = false := by
    rw [State.core_updCore_same, Arch.tm, Core.clearPending_status]
    exact htm
  simp only [State.takeAsync, hdue, State.trapAt_entered hclear]

/-! ## The return (R119) -/

section
variable {c : Core}

/-- Nothing that RFT waits for is outstanding. -/
theorem Core.rftWaits_eq_nil (hloads : c.loads = []) (hpend : ∀ p ∈ c.pend, p.inter = true → p.land ≤ c.cycle)
    (hvwork : ∀ e ∈ c.vwork, e.interlocks = false) (hvfly : ∀ f ∈ c.arch.vfly, ∀ n, RegName.x n ∉ f.regs ∧ RegName.q n ∉ f.regs)
    (hopen : c.trapOpen = true → ∀ e ∈ c.arch.mxq, e.trap = false) : c.rftWaits = [] := by
  have hregs : ∀ f ∈ c.arch.vfly, (f.regs.any fun r => match r with | .x _ => true | .q _ => true | _ => false) = false := by
    intro f hf
    rw [List.any_eq_false]
    intro r hr
    cases r with
    | x n => exact absurd hr (hvfly f hf n).1
    | q n => exact absurd hr (hvfly f hf n).2
    | _ => simp
  have hvec : ¬(c.vwork.any VEntry.interlocks
      || c.arch.vfly.any fun f => f.regs.any fun r => match r with | .x _ => true | .q _ => true | _ => false) = true := by
    rw [Bool.not_eq_true, Bool.or_eq_false_iff, List.any_eq_false, List.any_eq_false]
    exact ⟨fun e he => by simp [hvwork e he], fun f hf => by simp [hregs f hf]⟩
  have hbank : ¬(c.trapOpen && c.arch.mxq.any (·.trap)) = true := by
    cases ho : c.trapOpen with
    | false => simp
    | true => simpa using hopen ho
  have hscalar : ¬(c.pend.any fun p => p.inter && decide (c.cycle < p.land)) = true := by simpa using hpend
  have hmem : c.loads.isEmpty = true := by rw [hloads]; rfl
  exact congrArg₂ (· ++ ·) (congrArg₂ (· ++ ·) (congrArg₂ (· ++ ·) (if_pos hmem) (if_neg hvec)) (if_neg hbank)) (if_neg hscalar)

theorem Core.returned_closed (h : c.trapOpen = false) : c.returned.tbank = c.tbank ∧ c.returned.mxfmt = c.mxfmt := by
  have hbank : c.landEvery.tbank = c.tbank := rfl
  have hfmt : c.landEvery.mxfmt = c.mxfmt := rfl
  simp [Core.returned, h, hbank, hfmt]

theorem Core.returned_open (h : c.trapOpen = true) : c.returned.mxfmt = true ∧ c.returned.tbank.iopen = [] := by
  simp [Core.returned, h]

end

section
variable {s : State}

theorem exec_rft_illegal (htm : s.me.arch.tm = false) : exec .rft s = .next (s.trap cILLEGAL s.me.bundle) := if_pos (by simp [htm])

theorem exec_rft_returns (htm : s.me.arch.tm = true) (hwaits : s.me.rftWaits = []) : exec .rft s = .next (s.updMe Core.returned) := by
  change s.rft = _
  simp only [State.rft, htm, hwaits, Bool.not_true, Bool.false_eq_true, if_false]
  rfl

end

/-! ## The obligations -/

/-- Settles O10: outside trap mode both take trap entry, whose fields are those of `Core.entered`. -/
theorem trapEntry : Obligations.TrapEntry := by
  intro s imm htm i cause hi
  have hexec : exec i s = .next (s.updMe fun c => c.entered cause (imm.setWidth 64) s.me.arch.pc) := by
    rw [← State.trap_entered htm]
    rcases hi with ⟨rfl, rfl⟩ | ⟨rfl, rfl⟩ <;> rfl
  have honly := onlyMe_updMe s fun c => c.entered cause (imm.setWidth 64) s.me.arch.pc
  refine ⟨_, hexec, honly, honly.sameMemory, ?_⟩
  rw [State.me_updMe]
  exact ⟨rfl, rfl, rfl, rfl, rfl, rfl, fun k hk => bitAt_entryStatus _ hk, rfl, rfl, rfl⟩

/-- Settles O11: in trap mode a trap is containment, and only a watchdog is due; outside it what is due enters. -/
theorem doubleTrap : Obligations.DoubleTrap := by
  refine ⟨fun s cause val htm => ?double, fun c clock htm hwd => ?none, fun c clock v htm hwd => ?watchdog,
    fun s g cause val hdue htm => ?entry⟩
  case double =>
    have hstop := s.contain_stops s.cur 2 cause 0
    have htrap : s.trap cause val = _ := State.trapAt_double htm cause val s.me.arch.pc
    refine ⟨htrap, ?_⟩
    rw [htrap, State.core_updCore_same]
    exact hstop
  case none => rw [Core.due_trapMode htm, hwd]; rfl
  case watchdog => rw [Core.due_trapMode htm, hwd]; rfl
  case entry =>
    refine ⟨_, State.takeAsync_trap hdue htm, ?_⟩
    rw [State.core_updCore_same, State.core_updCore_same]
    exact ⟨rfl, rfl, rfl, Core.entered_tm _ _ _ _, (Core.landEvery_status _).trans (Core.clearPending_status _)⟩

/-- Settles O12: once nothing is waited for, RFT leaves the core as `Core.returned`. -/
theorem returnFromTrap : Obligations.ReturnFromTrap := by
  refine ⟨fun s htm hloads hpend hvwork hvfly hopen => ?_, fun s htm => exec_rft_illegal htm⟩
  refine ⟨_, exec_rft_returns htm (Core.rftWaits_eq_nil hloads hpend hvwork hvfly hopen), onlyMe_updMe s Core.returned, ?_⟩
  rw [State.me_updMe]
  refine ⟨rfl, rfl, rfl, ⟨rfl, fun k hk => bitAt_setBit _ hk 0 false, ?_, ?_, rfl, rfl, rfl, rfl, rfl, rfl⟩, Core.returned_closed,
    Core.returned_open⟩
  · exact Option.isSome_iff_ne_none
  · exact Option.isSome_iff_ne_none

end Sys2Proof.Machine
end

section
/-! Power mode, privileged state, fetch synchronisation and priority (R122, R130, R132, R134). -/

namespace Sys2Proof.Machine

theorem privStep_traps (s : State) : ∃ v, privStep s = .next ({ s with stamp := s.stamp + 1 }.trap 0x02 v) := ⟨_, rfl⟩

section
variable {s : State}

theorem exec_mode_supervisor (hpl : s.me.arch.pl = true) (m : BitVec 2) :
    exec (.mode m) s = .next { s with power := { s.power with nextMode := m.toNat, moded := true } } := if_pos hpl

theorem exec_mode_user (hpl : s.me.arch.pl = false) (m : BitVec 2) : exec (.mode m) s = privStep s := if_neg (by simp [hpl])

theorem exec_icsync_empty (hsb : s.me.sb = []) :
    exec .icsync s = .next (s.updMe fun c => { c with fetchBuf := [], loopBuf := [], npc := c.arch.pc + 8, taken := true }) :=
  if_pos (by rw [hsb]; rfl)

/-- The priority that PRIO asks for. -/
def newPriority (s : State) (a : Reg) (imm : BitVec 7) : Nat := if a = 0 then imm.toNat else (s.me.x a).toNat % 128

variable {t : Strand} (ht : s.me.strand = some t) {a : Reg} {imm : BitVec 7}
include ht

theorem exec_prio (d : Reg) : exec (.prio d a imm) s
    = if !s.me.arch.pl && decide (t.pri < newPriority s a imm) then privStep s
      else .next ((s.updMe fun c => { c with strand := some { t with pri := newPriority s a imm } }).pushXI d (BitVec.ofNat 64 t.pri)) := by
  change execPrio d a imm s = _
  simp only [execPrio, ht]
  rfl

theorem exec_prio_set (d : Reg) (h : s.me.arch.pl = true ∨ newPriority s a imm ≤ t.pri) : exec (.prio d a imm) s
    = .next ((s.updMe fun c => { c with strand := some { t with pri := newPriority s a imm } }).pushXI d (BitVec.ofNat 64 t.pri)) := by
  rw [exec_prio ht, if_neg]
  rcases h with h | h
  · simp [h]
  · simp [h.not_gt]

theorem exec_prio_raise (d : Reg) (hpl : s.me.arch.pl = false) (h : t.pri < newPriority s a imm) :
    exec (.prio d a imm) s = privStep s := by
  rw [exec_prio ht, if_pos (by simp [hpl, h])]

end

/-- Settles O13: each instruction by the privilege of the core at work. -/
theorem modeAndPriority : Obligations.ModeAndPriority := by
  intro s m e d a imm
  refine ⟨fun hpl => exec_mode_supervisor hpl m, fun hpl => ?mode_user, rfl, exec_icsync_empty,
    fun t ht => ⟨exec_prio_set ht d, fun hpl hraise => ?prio_user⟩⟩
  case mode_user =>
    rw [exec_mode_user hpl]
    exact privStep_traps s
  case prio_user =>
    rw [exec_prio_raise ht d hpl hraise]
    exact privStep_traps s

end Sys2Proof.Machine
end

section
/-! Control and status registers: CSRR, and CSRW as one swap of the old value for the new one (R122 to R127, R163). -/

namespace Sys2Proof.Machine

/-! ## CSRR -/

section
variable {s : State} {d a : Reg} {n : BitVec 10}

theorem exec_csrr_unlisted (hl : csrListed n.toNat = false) : exec (.csrr d n) s = .next (s.trap cILLEGAL s.me.bundle) :=
  if_pos (by simp [hl])

section
variable (hl : csrListed n.toNat = true)
include hl

theorem exec_csrr_private (hpl : s.me.arch.pl = false) (hsup : csrSup n.toNat = true) : exec (.csrr d n) s = privStep s :=
  (if_neg (by simp [hl])).trans (if_pos (by simp [hpl, hsup]))

theorem exec_csrr_reads (hpriv : s.me.arch.pl = true ∨ csrSup n.toNat = false) (hflags : n = 0x10 → s.me.flagsPending = false) :
    exec (.csrr d n) s = .next (s.pushXI d (s.csrGet s.cur n.toNat)) := by
  have hmay : ¬(csrSup n.toNat && !s.me.arch.pl) = true := by rcases hpriv with h | h <;> simp [h]
  have hready : ¬(decide (n = 0x10) && s.me.flagsPending) = true := by
    by_cases hn : n = 0x10
    · simp [hflags hn]
    · rw [decide_eq_false hn]
      simp
  exact (if_neg (by simp [hl])).trans ((if_neg hmay).trans (if_neg hready))

/-! ## CSRW -/

theorem exec_csrw_swaps : exec (.csrw d a n) s = s.csrSwap d n.toNat (s.me.x a) := if_neg (by simp [hl])

end

section
variable (hpl : s.me.arch.pl = true) {k : Nat} (hk : k ≠ 0x10) {v : Word} {u : State}
include hpl hk

/-- A CSR that takes its new value at once: the old one goes to x[d]. -/
theorem csrSwap_of_ok (hput : s.csrPut k v = .ok u) :
    s.csrSwap d k v = .next (if d = 0 then u else u.pushXI d (s.csrGet s.cur k)) := by
  simp [State.csrSwap, hpl, hk, hput]

theorem csrSwap_of_error (hput : s.csrPut k v = .error u) : s.csrSwap d k v = .next u := by
  simp [State.csrSwap, hpl, hk, hput]

/-- A CSR of the core at work that `proj` reads and `f` writes. -/
theorem csrSwap_ownCsr {d : Reg} {proj : Core → Word} {f : Core → Core} {z : Word}
    (hget : ∀ t : State, t.csrGet s.cur k = proj (t.core s.cur)) (hput : s.csrPut k v = .ok (s.updMe f)) (hz : proj (f s.me) = z) :
    ∃ u, s.csrSwap d k v = .next (if d = 0 then u else u.pushXI d (s.csrGet s.cur k)) ∧ OnlyMe s u ∧ SameMemory s u
      ∧ u.csrGet s.cur k = z := by
  refine ⟨_, csrSwap_of_ok hpl hk hput, onlyMe_updMe s f, (onlyMe_updMe s f).sameMemory, ?_⟩
  rw [hget, State.core_updMe_same, hz]

/-- A CSR that is one of the working copies of the context's descriptor (R251). -/
theorem csrSwap_ownCopy {d : Reg} {proj : Copies → Word} {f : Copies → Copies} {z : Word}
    (hget : ∀ t : State, t.csrGet s.cur k = proj (t.core s.cur).arch.copies) (hput : s.csrPut k v = .ok (s.updCopies f))
    (hz : proj (f s.me.arch.copies) = z) :
    ∃ u, s.csrSwap d k v = .next (if d = 0 then u else u.pushXI d (s.csrGet s.cur k)) ∧ OnlyMe s u ∧ SameMemory s u
      ∧ u.csrGet s.cur k = z :=
  csrSwap_ownCsr hpl hk (proj := fun c => proj c.arch.copies) (f := fun c => c.updArch fun a => { a with copies := f a.copies })
    hget hput hz

end

end

/-- The bits of a value that a CSR holds, of those that take it at once (R123). -/
def heldBits (k : Nat) (v : Word) : Word :=
  match k with
  | 0x01 => v &&& ~~~7#64 | 0x02 => v &&& 0x3F#64 | 0x05 => v &&& 0xFF0006#64
  | 0x5A => telKeep v | 0x60 => v &&& 0x000FFFFFFFFFFFE0#64 | 0x6A => (v.setWidth 32).setWidth 64 | 0x7A => v &&& 15#64
  | _ => v

theorem setWidth_four (v : Word) : (v.setWidth 4).setWidth 64 = v &&& 15#64 := by
  apply BitVec.eq_of_toNat_eq
  rw [BitVec.toNat_setWidth, BitVec.toNat_setWidth, BitVec.toNat_and, show (15#64).toNat = 2 ^ 4 - 1 from rfl,
    Nat.and_two_pow_sub_one_eq_mod]
  omega

section
variable {s : State} (hpl : s.me.arch.pl = true) (d : Reg) (v : Word)
include hpl

/-- Number by number: what reads the CSR, and what it holds after the write. -/
theorem csrSwap_heldBits {k : Nat}
    (hk : k ∈ [0x01, 0x02, 0x03, 0x04, 0x05, 0x06, 0x07, 0x08, 0x09, 0x12, 0x13, 0x14, 0x5A, 0x60, 0x69, 0x6A, 0x78, 0x79, 0x7A]) :
    ∃ u, s.csrSwap d k v = .next (if d = 0 then u else u.pushXI d (s.csrGet s.cur k)) ∧ OnlyMe s u ∧ SameMemory s u
      ∧ u.csrGet s.cur k = heldBits k v := by
  simp only [List.mem_cons, List.not_mem_nil, or_false] at hk
  rcases hk with rfl | rfl | rfl | rfl | rfl | rfl | rfl | rfl | rfl | rfl | rfl | rfl | rfl | rfl | rfl | rfl | rfl | rfl | rfl
  · exact csrSwap_ownCopy hpl (by decide) (proj := Copies.tvec) (fun _ => rfl) rfl rfl
  · exact csrSwap_ownCsr hpl (by decide) (proj := fun c => c.arch.tcause) (fun _ => rfl) rfl rfl
  · exact csrSwap_ownCsr hpl (by decide) (proj := fun c => c.arch.tpc) (fun _ => rfl) rfl rfl
  · exact csrSwap_ownCsr hpl (by decide) (proj := fun c => c.arch.tval) (fun _ => rfl) rfl rfl
  · exact csrSwap_ownCsr hpl (by decide) (proj := fun c => c.arch.tstat) (fun _ => rfl) rfl rfl
  · exact csrSwap_ownCsr hpl (by decide) (proj := fun c => SMap.get c.arch.tsave 0 0) (fun _ => rfl) rfl (SMap.get_set_same ..)
  · exact csrSwap_ownCsr hpl (by decide) (proj := fun c => SMap.get c.arch.tsave 0 1) (fun _ => rfl) rfl (SMap.get_set_same ..)
  · exact csrSwap_ownCsr hpl (by decide) (proj := fun c => SMap.get c.arch.tsave 0 2) (fun _ => rfl) rfl (SMap.get_set_same ..)
  · exact csrSwap_ownCsr hpl (by decide) (proj := fun c => SMap.get c.arch.tsave 0 3) (fun _ => rfl) rfl (SMap.get_set_same ..)
  · exact csrSwap_ownCsr hpl (by decide) (proj := fun c => c.arch.lcnt) (fun _ => rfl) rfl rfl
  · exact csrSwap_ownCsr hpl (by decide) (proj := fun c => c.arch.lbeg) (fun _ => rfl) rfl rfl
  · exact csrSwap_ownCsr hpl (by decide) (proj := fun c => c.arch.lend) (fun _ => rfl) rfl rfl
  · exact csrSwap_ownCopy hpl (by decide) (proj := Copies.telbase) (fun _ => rfl) rfl rfl
  · exact csrSwap_ownCsr hpl (by decide) (proj := fun c => c.injaddr) (fun _ => rfl) rfl rfl
  · exact csrSwap_ownCopy hpl (by decide) (proj := Copies.spillbase) (fun _ => rfl) rfl rfl
  · exact csrSwap_ownCsr hpl (by decide) (proj := fun c => c.arch.rcnt.setWidth 64) (fun _ => rfl) rfl rfl
  · exact csrSwap_ownCsr hpl (by decide) (proj := fun c => c.arch.bpad0) (fun _ => rfl) rfl rfl
  · exact csrSwap_ownCsr hpl (by decide) (proj := fun c => c.arch.bpad1) (fun _ => rfl) rfl rfl
  · exact csrSwap_ownCsr hpl (by decide) (proj := fun c => c.arch.bpctl.setWidth 64) (fun _ => rfl) rfl (setWidth_four v)

/-- The clocks and the identity keep their values (R125, R126). -/
theorem csrSwap_fixed {k : Nat} (hk : k ∈ [0x50, 0x51, 0x70, 0x71, 0x72]) :
    s.csrSwap d k v = .next (if d = 0 then s else s.pushXI d (s.csrGet s.cur k)) := by
  simp only [List.mem_cons, List.not_mem_nil, or_false] at hk
  rcases hk with rfl | rfl | rfl | rfl | rfl <;> exact csrSwap_of_ok hpl (by decide) rfl

/-- STATUS takes CHK alone (R124). -/
theorem csrSwap_status : ∃ u, s.csrSwap d 0x00 v = .next (if d = 0 then u else u.pushXI d (s.csrGet s.cur 0x00))
    ∧ u.csrGet s.cur 0x00 = setBit s.me.arch.status 16 (bitAt v 16) := by
  obtain ⟨u, hexec, -, -, hget⟩ := csrSwap_ownCsr (k := 0x00) (v := v) (d := d) hpl (by decide) (proj := fun c => c.arch.status) (fun _ => rfl) rfl rfl
  exact ⟨u, hexec, hget⟩

/-- SRSEED is never zero (R83). -/
theorem csrSwap_srseed : s.csrSwap d 0x11 v
    = .next (if d = 0 then s.putSrseed v else (s.putSrseed v).pushXI d (s.csrGet s.cur 0x11)) := csrSwap_of_ok hpl (by decide) rfl

theorem csrSwap_vshape (h : vshapeOk (vshapeKeep v) = true) : s.csrSwap d 0x20 v
    = .next (if d = 0 then s.updArch fun x => { x with vshape := vshapeKeep v }
        else (s.updArch fun x => { x with vshape := vshapeKeep v }).pushXI d (s.csrGet s.cur 0x20)) := by
  have hput : s.csrPut 0x20 v = s.putVshape v := rfl
  exact csrSwap_of_ok hpl (by decide) (hput.trans (if_pos h))

theorem csrSwap_vshape_illegal (h : vshapeOk (vshapeKeep v) = false) : s.csrSwap d 0x20 v = .next (s.trap cILLEGAL s.me.bundle) := by
  have hput : s.csrPut 0x20 v = s.putVshape v := rfl
  exact csrSwap_of_error hpl (by decide) (hput.trans (if_neg (by simp [h])))

end

theorem putSrseed_csrGet (s : State) (v : Word) : (s.putSrseed v).csrGet s.cur 0x11
    = if v.setWidth 32 = (0 : BitVec 32) then 1 else (v.setWidth 32 : BitVec 32).setWidth 64 := by
  have hget : (s.putSrseed v).csrGet s.cur 0x11 = ((s.putSrseed v).core s.cur).arch.srseed.setWidth 64 := rfl
  have hseed : ((s.putSrseed v).core s.cur).arch.srseed = if v.setWidth 32 = (0 : BitVec 32) then 1 else v.setWidth 32 :=
    congrArg (fun c : Core => c.arch.srseed) (State.core_updMe_same s _)
  rw [hget, hseed]
  split_ifs <;> rfl

theorem vshapeOk_iff (v : Word) : vshapeOk v = true ↔ vRows v ≠ 0 ∧ vCols v ≠ 0 ∧ vRows v * vCols v * vBytes v ≤ 512 := by
  have hsize : vRows v * vCols v * vBytes v = vSize v := rfl
  rw [hsize]
  simp [vshapeOk, and_assoc]

/-- Settles O14: by whether the number is listed and whom it is open to. -/
theorem csrReads : Obligations.CsrReads := by
  intro s d n
  refine ⟨exec_csrr_reads, exec_csrr_unlisted, fun hl hpl hsup => ?_, rfl, rfl⟩
  rw [exec_csrr_private hl hpl hsup]
  exact privStep_traps s

/-- Settles O15: each number is listed, and its write is the swap above. -/
theorem csrSwaps : Obligations.CsrSwaps := by
  intro s d a n hpl v t
  refine ⟨fun hn => ?held, fun hn => ?fixed, fun hn => ?status, fun hn => ?seed, fun hn => ?shape⟩
  case held =>
    have hl : csrListed n.toNat = true := by
      simp only [List.mem_cons, List.not_mem_nil, or_false] at hn
      rcases hn with h | h | h | h | h | h | h | h | h | h | h | h | h | h | h | h | h | h | h <;> rw [h] <;> rfl
    rw [exec_csrw_swaps hl]
    exact csrSwap_heldBits hpl d v hn
  case fixed =>
    have hl : csrListed n.toNat = true := by
      simp only [List.mem_cons, List.not_mem_nil, or_false] at hn
      rcases hn with h | h | h | h | h <;> rw [h] <;> rfl
    rw [exec_csrw_swaps hl]
    exact csrSwap_fixed hpl d v hn
  case status =>
    subst hn
    obtain ⟨u, hexec, hget⟩ := csrSwap_status hpl d v
    refine ⟨u, (exec_csrw_swaps rfl).trans hexec, fun k hk => ?_⟩
    rw [hget, bitAt_setBit _ hk]
    rfl
  case seed =>
    subst hn
    refine ⟨_, (exec_csrw_swaps rfl).trans (csrSwap_srseed hpl d v), ?_⟩
    exact putSrseed_csrGet s v
  case shape =>
    subst hn
    intro w
    rw [exec_csrw_swaps rfl]
    refine ⟨fun hr hc hs => csrSwap_vshape hpl d v ((vshapeOk_iff w).2 ⟨hr, hc, hs⟩), fun hbad => csrSwap_vshape_illegal hpl d v ?_⟩
    rw [← Bool.not_eq_true]
    refine mt (vshapeOk_iff w).1 ?_
    omega

end Sys2Proof.Machine
end

section
/-! Accounts, telemetry and address probes: ACCT, TELEM and XLAT (R128, R129, R131, R270, R271). -/

namespace Sys2Proof.Machine

/-! ## Marks -/

section
variable {s : State} {a : Reg}

theorem exec_acctMark_idle (hrec : s.me.pcrec = false) : exec (.acctMark a) s = .next s :=
  congrArg Host.Outcome.next (if_pos (by simp [hrec]))

/-- The state with the core's open runs ended, and in a pair the other core's too. -/
def State.runsEnded (s : State) : State :=
  let e := s.endRuns s.cur
  if e.dual e.cur = true then e.endRuns (e.cur + 1) else e

theorem exec_acctMark_recording (hrec : s.me.pcrec = true) : exec (.acctMark a) s
    = .next (if s.ringFull s.me = true ∨ s.runsEnded.ringFull s.runsEnded.me = true then s.runsEnded
        else s.runsEnded.ringPut s.runsEnded.me ((s.me.x a).toNat <<< 64 + 1 <<< 60 + s.runsEnded.me.arch.pc.toNat % 2 ^ 56)) := by
  have hmark : s.acctMark (s.me.x a) = if (s.ringFull s.me || s.runsEnded.ringFull s.runsEnded.me) = true then s.runsEnded
      else s.runsEnded.ringPut s.runsEnded.me ((s.me.x a).toNat <<< 64 + 1 <<< 60 + s.runsEnded.me.arch.pc.toNat % 2 ^ 56) :=
    if_neg (by simp [hrec])
  change Host.Outcome.next (s.acctMark (s.me.x a)) = _
  simp only [hmark, Bool.or_eq_true]

end

/-! ## Telemetry -/

theorem exec_telem (s : State) (d : Reg) (item : BitVec 3) : exec (.telem d item) s = .next (s.pushXI d (s.telem item.toNat)) := rfl

/-! ## XLAT -/

section
variable {s : State} {d a : Reg} {k : XlatKind}

theorem exec_xlat_held (h : s.walkHeld (s.me.x a).toNat (probeKind k) = true) : exec (.xlat d a k) s = .next (s.holding cMEM) := if_pos h

section
variable (hwalk : s.walkHeld (s.me.x a).toNat (probeKind k) = false)
include hwalk

theorem exec_xlat_untranslated {u : State} {e : Nat} (htr : s.translate s.cur (s.me.x a).toNat (probeKind k) = (u, .error e)) :
    exec (.xlat d a k) s = .next (u.pushXI d (BitVec.ofNat 64 (2 ^ 63 + if k = .fetch then cFETCH else e))) := by
  change execXlat d a k s = _
  simp only [execXlat, hwalk, htr, Bool.false_eq_true, if_false]

variable {u : State} {x : Xlated} (htr : s.translate s.cur (s.me.x a).toNat (probeKind k) = (u, .ok x))
include htr

theorem exec_xlat_noMemory (hmem : u.hasMemory x.pa = false) :
    exec (.xlat d a k) s = .next (u.pushXI d (BitVec.ofNat 64 (2 ^ 63 + cPROT))) := by
  change execXlat d a k s = _
  simp only [execXlat, hwalk, htr, hmem, Bool.false_eq_true, if_false, Bool.not_false, if_true]

variable (hmem : u.hasMemory x.pa = true)
include hmem

theorem exec_xlat_unreachable {e : Nat} (hfault : u.probeFault k x.pa = some e) :
    exec (.xlat d a k) s = .next (u.pushXI d (BitVec.ofNat 64 (2 ^ 63 + e))) := by
  change execXlat d a k s = _
  simp only [execXlat, hwalk, htr, hmem, hfault, Bool.false_eq_true, if_false, Bool.not_true]

variable (hfault : u.probeFault k x.pa = none)
include hfault

theorem exec_xlat_address (hspad : isSpad x.pa = false) : exec (.xlat d a k) s = .next (u.pushXI d (BitVec.ofNat 64 x.raw)) := by
  change execXlat d a k s = _
  simp only [execXlat, hwalk, htr, hmem, hfault, hspad, Bool.false_eq_true, if_false, Bool.not_true]

/-- A scratchpad byte has no address in the map (log entry 8). -/
theorem exec_xlat_scratchpad (hspad : isSpad x.pa = true) : exec (.xlat d a k) s
    = .next (({ u with stamp := u.stamp + 1 } : State).pushXI d (Config.openWord u.stamp &&& 0xFFFFFFFFFFFFF)) := by
  change execXlat d a k s = _
  simp only [execXlat, hwalk, htr, hmem, hfault, hspad, Bool.false_eq_true, if_false, if_true, Bool.not_true]

end

end

/-- Settles O17: counters and samples are read as they stand; a mark by whether the core records; a probe by what its translation
comes to. -/
theorem accountsAndProbes : Obligations.AccountsAndProbes := by
  intro s d a layer cause item k
  refine ⟨rfl, rfl, exec_acctMark_idle, exec_acctMark_recording, exec_telem s d item, exec_xlat_held, fun hwalk =>
    ⟨fun u x htr => ?translated, fun u e htr => exec_xlat_untranslated hwalk htr⟩⟩
  intro fault
  refine ⟨fun e he => ?fails, fun hnone hspad => ?address, fun hnone hspad => ?scratchpad⟩
  case fails =>
    cases hmem : u.hasMemory x.pa with
    | false =>
      have hprot : 0x06 = e := by simpa [fault, hmem] using he
      rw [← hprot]
      exact exec_xlat_noMemory hwalk htr hmem
    | true => exact exec_xlat_unreachable hwalk htr hmem (by simpa [fault, hmem] using he)
  all_goals
    have hmem : u.hasMemory x.pa = true := by
      by_contra hno
      simp [fault, hno] at hnone
    have hfault : u.probeFault k x.pa = none := by simpa [fault, hmem] using hnone
  case address => exact exec_xlat_address hwalk htr hmem hfault hspad
  case scratchpad => exact exec_xlat_scratchpad hwalk htr hmem hfault hspad

end Sys2Proof.Machine
end

section
/-! The state after package reset: every register of every unit reads as the unit's own reset gives it (R124, R163, R170, R191, R248,
R284, R300, R331, R349, R397, R422). -/

namespace Sys2Proof.Machine

/-- Settles O56: nothing is listed at reset, so each core, quad, die and context is its own reset value. -/
theorem resetLeaves : Obligations.ResetLeaves := by
  refine ⟨rfl, rfl, rfl, fun _ => rfl, fun _ => ?core, fun _ => ?quad, fun _ => ?ctx, fun _ _ => ?dispctl, fun _ => ?die, fun _ _ => ?half, ?gen,
    ?genst, ?plim, ?mode⟩
  case core =>
    refine ⟨rfl, rfl, rfl, rfl, ?_⟩
    change fld vshapeReset 25 16 = 4 ∧ fld vshapeReset 13 4 = 32 ∧ fld vshapeReset 1 0 = 2
    decide
  case quad => exact ⟨rfl, rfl, rfl, rfl, rfl⟩
  case ctx => exact ⟨rfl, rfl⟩
  case dispctl =>
    change fld (setBit dispctlReset 0 false) 31 16 = 100 ∧ fld (setBit dispctlReset 0 false) 11 8 = 8
      ∧ bitAt (setBit dispctlReset 0 false) 0 = false
    decide
  case die =>
    refine ⟨rfl, rfl, ?_⟩
    change BitVec.ofNat 64 (Die.reset.errcntUe <<< 32 + Die.reset.errcntCe) = 0
      ∧ fld Die.reset.tctl 15 0 = 6080 ∧ fld Die.reset.tctl 31 16 = 6720 ∧ Die.reset.regmax = 0
    decide
  case half =>
    change waypartWord Slice.reset = 0 ∧ setBit Domain.reset.dctl 63 false = 0 ∧ _ ∧ Link.reset.st = .down
    refine ⟨by decide, by decide, ?_, rfl⟩
    change BitVec.ofNat 64 (Domain.reset.err <<< 32 + 0 <<< 29 + 0 <<< 28 + Domain.reset.arrived.length <<< 16 + Domain.reset.round) = 0
    decide
  case gen => decide
  case genst => decide
  case plim => decide
  case mode => decide

end Sys2Proof.Machine
end

section
/-! What the hardware's own writes, accounts and passing cycles move: memory, and of the cores their accounts and clocks (R247, R263 to R271). -/

namespace Sys2Proof.Machine

/-- A core without its accounts, clocks, injection state and what its units' cycles run down. -/
def Core.unbooked (c : Core) : Core :=
  { c with acct := Acct.zero, now := 0, cycle := 0, injctl := 0, arch := { c.arch with debt := 0, vfly := [] } }

/-- State t with memory, its media and error counts, the accounts of context 0 and the cores of s. -/
def State.booksOf (s t : State) : State :=
  { t with mem := s.mem, poison := s.poison, latent := s.latent, gen := s.gen, dies := s.dies, acct0 := s.acct0,
           cores := s.cores }

/-- A core's unflushed counts, added to the account blocks and to the counts of context 0. -/
def State.countsFlushed (s : State) (g : Nat) : State :=
  (s.core g).acct.unflushed.foldl (fun t p =>
    if p.1 / 16 = 0 then { t with acct0 := SMap.upd t.acct0 0 (16 * layerOf g + p.1 % 16) (· + p.2) }
    else
      let pa := (s.core g).ringBase + 8 * (16 * layerOf g + p.1 % 16)
      t.hwWrite pa 8 (t.hwLe pa 8 + p.2)) s

theorem State.flushAcct_eq (s : State) (g : Nat) : s.flushAcct g
    = (s.countsFlushed g).updCore g fun c => { c with acct := { c.acct with unflushed := [], lastFlush := c.acct.cycles } } := rfl

/-- From s to t cycles were charged and counts written: nothing else has changed, and only the cores of G have other accounts. -/
structure Books (G : Set Nat) (s t : State) : Prop where
  core : ∀ k, (t.core k).unbooked = (s.core k).unbooked
  acct : ∀ k, k ∉ G → (t.core k).acct = (s.core k).acct
  rest : s.booksOf t = s

variable {G : Set Nat} {s t : State}

theorem books_refl (G : Set Nat) (s : State) : Books G s s := ⟨fun _ => rfl, fun _ _ => rfl, rfl⟩

theorem State.booksOf_booksOf (s t u : State) : s.booksOf (t.booksOf u) = s.booksOf u := rfl

section
variable (h : Books G s t)
include h

theorem Books.trans {u : State} (h' : Books G t u) : Books G s u := by
  refine ⟨fun k => (h'.core k).trans (h.core k), fun k hk => (h'.acct k hk).trans (h.acct k hk), ?_⟩
  rw [← State.booksOf_booksOf s t u, h'.rest, h.rest]

theorem Books.clock : t.clock = s.clock := (congrArg State.clock h.rest :)
theorem Books.cur : t.cur = s.cur := (congrArg State.cur h.rest :)
theorem Books.stamp : t.stamp = s.stamp := (congrArg State.stamp h.rest :)
theorem Books.items : t.items = s.items := (congrArg State.items h.rest :)
theorem Books.ctxs : t.ctxs = s.ctxs := (congrArg State.ctxs h.rest :)
theorem Books.quads : t.quads = s.quads := (congrArg State.quads h.rest :)

/-- A step that leaves the cores as they are. -/
theorem Books.elsewhere {u : State} (hcores : u.cores = t.cores) (hrest : t.booksOf u = t) : Books G s u :=
  h.trans ⟨fun _ => by simp only [State.core, hcores], fun _ _ => by simp only [State.core, hcores], hrest⟩

theorem Books.updCore {g : Nat} (hg : g ∈ G) {f : Core → Core} (hf : ∀ c, (f c).unbooked = c.unbooked) : Books G s (t.updCore g f) := by
  refine h.trans ⟨fun k => ?_, fun k hk => ?_, rfl⟩
  · by_cases hkg : k = g
    · rw [hkg, State.core_updCore_same, hf]
    · rw [State.core_updCore_other t f hkg]
  · have hkg : k ≠ g := fun hkg => hk (hkg ▸ hg)
    rw [State.core_updCore_other t f hkg]

omit h in
/-- A map over the cores that keeps a part of each. -/
theorem core_mapVals_part {β : Type} {part : Core → β} {f : Core → Core} (hf : ∀ c, part (f c) = part c) (l : SMap Core) (g : Nat) :
    part (SMap.get (SMap.mapVals l fun _ c => f c) Core.reset g) = part (SMap.get l Core.reset g) := by
  induction l with
  | nil => rfl
  | cons p r ih =>
    simp only [SMap.mapVals, List.map_cons, SMap.get] at ih ⊢
    split_ifs
    · exact hf _
    · exact ih

theorem Books.mapCores {f : Core → Core} (hf : ∀ c, (f c).unbooked = c.unbooked) (ha : ∀ c, (f c).acct = c.acct) :
    Books G s { t with cores := SMap.mapVals t.cores fun _ c => f c } :=
  h.trans ⟨core_mapVals_part hf t.cores, fun k _ => core_mapVals_part (part := Core.acct) ha t.cores k, rfl⟩

theorem Books.foldl {α : Type} {f : State → α → State} (hf : ∀ t a, Books G s t → Books G s (f t a)) (l : List α) :
    Books G s (l.foldl f t) := by
  induction l generalizing t with
  | nil => exact h
  | cons a r ih => exact ih (hf t a h)

/-! ## Memory that the hardware writes of its own -/

theorem Books.homeWrite (e : Bool) (cs : List Host.Cell) (ws : List Nat) : Books G s (t.homeWrite e cs ws) := h.elsewhere rfl rfl

theorem Books.setPoison (k : Nat) : Books G s (t.setPoison k) := h.elsewhere rfl rfl

theorem Books.putBytes (k n v : Nat) : Books G s (t.putBytes k n v) := h.homeWrite _ _ _

theorem Books.putCode (b c : Nat) : Books G s (t.putCode b c) := h.putBytes _ _ _

theorem Books.setGen (gen : Gen) : Books G s { t with gen := gen } := h.elsewhere rfl rfl

theorem Books.setClock {clock : Nat} (hclock : clock = t.clock) : Books G s { t with clock := clock } := hclock ▸ h

theorem Books.thaw (b : Nat) : Books G s (t.thaw b) := by
  unfold State.thaw
  split
  · exact h
  · exact h.setGen _

/-- An injected error fires: its core's INJCTL is disarmed. -/
theorem Books.fireSector (die : Nat) (direct : Bool) (k : Nat) : Books G s (t.fireSector die direct k).1 := by
  unfold State.fireSector
  have hfired := h.mapCores (f := fun c =>
      if bitAt c.injctl 0 && decide (unalias c.injaddr.toNat / 32 = k) then { c with injctl := setBit (setBit c.injctl 0 false) 3 true } else c)
    (fun c => by split_ifs <;> rfl) (fun c => by split_ifs <;> rfl)
  dsimp only
  split_ifs
  · exact h
  all_goals exact hfired.elsewhere rfl rfl

theorem Books.fireKeys (die : Nat) (direct : Bool) (ks : List Nat) : Books G s (t.fireKeys die direct ks).1 := by
  unfold State.fireKeys
  generalize (ks.map (· / 32)).eraseDups = l
  suffices hfold : ∀ r : State × Bool, Books G s r.1 →
      Books G s (l.foldl (fun r k => let t := r.1.fireSector die direct k; (t.1, r.2 || t.2)) r).1 from hfold (t, false) h
  induction l with
  | nil => exact fun _ hr => hr
  | cons a l ih => exact fun r hr => ih _ (hr.fireSector die direct a)

theorem Books.drainBlock (b : Nat) : Books G s (t.drainBlock b) := by
  unfold State.drainBlock
  split
  · exact h
  · dsimp only
    refine Books.thaw (Books.setGen (Books.putCode (Books.foldl (Books.putBytes ?_ _ _ _) (fun _ _ hp => hp.setPoison _) _) _ _) _) _
    split_ifs
    · exact h
    · exact h.fireKeys _ _ _

theorem Books.ownWrite (cs : List Host.Cell) (ws : List Nat) : Books G s (t.ownWrite cs ws) := by
  refine h.foldl (fun t b ht => ?_) _
  dsimp only
  split_ifs
  · exact (ht.drainBlock b).homeWrite _ _ _
  · exact ht.homeWrite _ _ _

theorem Books.hwWrite (pa n v : Nat) : Books G s (t.hwWrite pa n v) := by
  unfold State.hwWrite
  dsimp only
  split_ifs
  · exact h.ownWrite _ _
  · exact h

/-! ## Accounts -/

theorem Books.ringPut (c : Core) (r : Nat) : Books G s (t.ringPut c r) := by
  unfold State.ringPut
  exact (h.hwWrite _ _ _).hwWrite _ _ _

theorem Books.countsFlushed (g : Nat) : Books G s (t.countsFlushed g) := by
  refine h.foldl (fun t p ht => ?_) _
  dsimp only
  split_ifs
  · exact ht.elsewhere rfl rfl
  · exact ht.hwWrite _ _ _

section
variable {g : Nat} (hg : g ∈ G)
include hg

theorem Books.putOverflow : Books G s (t.putOverflow g) := by
  unfold State.putOverflow
  dsimp only
  split_ifs
  · exact h
  · split
    · exact h
    · exact (h.ringPut _ _).updCore hg fun _ => rfl

theorem Books.endRun (k : Nat) : Books G s (t.endRun g k) := by
  have hover : Books G s ((List.range 32).foldl (fun s _ => State.putOverflow s g) t) := h.foldl (fun _ _ ht => ht.putOverflow hg) _
  unfold State.endRun
  dsimp only
  split
  · exact h
  · refine Books.updCore ?_ hg fun _ => rfl
    split_ifs
    · exact h
    · exact hover.updCore hg fun _ => rfl
    · exact hover.ringPut _ _

theorem Books.endRuns : Books G s (t.endRuns g) := (h.endRun hg 0).endRun hg 1

theorem Books.flushAcct : Books G s (t.flushAcct g) := by
  rw [State.flushAcct_eq]
  exact (h.countsFlushed g).updCore hg fun _ => rfl

theorem Books.extendRun (f k x c n : Nat) (pc : Word) : Books G s (State.extendRun f t g k x c n pc) := by
  induction f generalizing t n with
  | zero => exact h
  | succ f ih =>
    unfold State.extendRun
    extract_lets run t1 old m r t2
    have h1 : Books G s t1 := by
      unfold t1
      cases run with
      | none => exact h
      | some r =>
        dsimp only
        split_ifs
        · exact h
        · exact h.endRun hg k
    have h2 : Books G s t2 := h1.updCore hg fun c => by split_ifs <;> rfl
    split_ifs
    · exact h2
    · exact ih h2 _

theorem Books.chargeSlot (k x c n : Nat) (pc : Word) : Books G s (t.chargeSlot g k x c n pc) := (h.extendRun hg _ k x c n pc).updCore hg fun _ => rfl

end

end

/-! ## Time, of a core or of a pair -/

section
variable (h : Books Set.univ s t)
include h

theorem Books.charge (g c a n : Nat) (pc : Word) : Books Set.univ s (t.charge g c a n pc) := by
  unfold State.charge
  dsimp only
  have hslots : Books Set.univ s ((t.chargeSlot g 0 (t.core g).ctxNum c n pc).chargeSlot g 1 (t.core g).ctxNum a n pc) :=
    (h.chargeSlot (Set.mem_univ g) _ _ _ _ _).chargeSlot (Set.mem_univ g) _ _ _ _ _
  split_ifs
  · exact h
  · exact (hslots.chargeSlot (Set.mem_univ _) _ _ _ _ _).chargeSlot (Set.mem_univ _) _ _ _ _ _
  · exact hslots

theorem Books.spend (g n : Nat) : Books Set.univ s (t.spend g n) := by
  unfold State.spend
  dsimp only
  split_ifs
  · refine (h.updCore (Set.mem_univ g) ?_).updCore (Set.mem_univ _) ?_ <;> exact fun _ => rfl
  · exact h.updCore (Set.mem_univ g) fun _ => rfl

theorem Books.pay (g c n : Nat) (pc : Word) : Books Set.univ s (t.pay g c n pc) := (h.charge g c c n pc).spend g n

theorem Books.bill (g c a n : Nat) (pc : Word) : Books Set.univ s (t.bill g c a n pc) := by
  unfold State.bill
  dsimp only
  split_ifs
  · refine Books.charge ((h.charge _ _ _ _ _).updCore (Set.mem_univ g) ?_) _ _ _ _ _
    exact fun _ => rfl
  · exact h.charge _ _ _ _ _

/-- A turn's charges, with the clock set back to where it was. -/
theorem Books.catchUp (g : Nat) : Books Set.univ s { t.catchUp g with clock := t.clock } := by
  unfold State.catchUp
  dsimp only
  have hland := fun cause n => ((h.bill g cause cause ((t.clock - (t.core g).now) / t.periodOf g) (t.core g).arch.pc).spend g
    ((t.clock - (t.core g).now) / t.periodOf g)).updCore (Set.mem_univ g) (f := fun c => c.updArch fun a =>
      { a with vfly := a.vfly.filter fun f => decide (n < f.land) }) fun _ => rfl
  exact (hland _ _).setClock (h.clock.trans (hland _ _).clock.symm)

theorem Books.chargeIdle (g : Nat) : Books Set.univ s (t.chargeIdle g) := by
  unfold State.chargeIdle
  dsimp only
  split_ifs
  · exact h
  all_goals refine Books.spend ?_ g _
  · exact h
  · exact h.charge _ _ _ _ _
  · exact h.foldl (fun _ _ ht => ht.charge _ _ _ _ _) _
  · exact h.charge _ _ _ _ _

theorem Books.bringUp (g : Nat) : Books Set.univ s (t.bringUp g) := by
  unfold State.bringUp
  dsimp only
  generalize (if t.dual (g / 2 * 2) = true then g / 2 * 2 else g) = e
  split_ifs
  · exact h.chargeIdle e
  · exact h.pay _ _ _ _
  · exact h.catchUp e

end

end Sys2Proof.Machine
end

section
/-! The CSR writes with rows of their own (R122, R163, R187, R253, R268, R318, R346, R347, R421). -/

namespace Sys2Proof.Machine

/-! ## TSHAPEn (R187, R189) -/

/-- The shape that the issue side of a core sees from a write of TSHAPEi on. -/
def Core.setIshape (c : Core) (trap : Bool) (i : Nat) (v : Word) : Core :=
  c.setBankOf trap { c.bankOf trap with ishape := SMap.set (c.bankOf trap).ishape i v }

theorem Core.setIshape_mxq (c : Core) (trap : Bool) (i : Nat) (v : Word) : (c.setIshape trap i v).arch.mxq = c.arch.mxq := by
  cases trap <;> rfl

theorem Core.ishapeOf_setIshape (c : Core) (k i : Nat) (v : Word) : (c.setIshape (c.shapeBank i) i v).ishapeOf k i = v := by
  generalize hbank : c.shapeBank i = trap
  have hkept : (c.setIshape trap i v).shapeBank i = c.shapeBank i := by cases trap <;> rfl
  rw [Core.ishapeOf, hkept, hbank]
  cases trap <;> exact SMap.get_set_same ..

section
variable {s : State} {i : Nat}

theorem csrGet_tshape (s : State) (g : Nat) (hi : i < 8) : s.csrGet g (0x28 + i) = (s.core g).ishapeOf (layerOf g) i := by
  interval_cases i <;> rfl

theorem csrPut_tshape (hi : i < 8) (v : Word) : s.csrPut (0x28 + i) v = s.putTshape i v := by
  interval_cases i <;> rfl

/-- A core with one more entry in its MXU queue (R189). -/
def Core.joined (c : Core) (e : MEntry) : Core := c.updArch fun a => { a with mxq := a.mxq ++ [e] }

theorem Core.ishapeOf_joined (c : Core) (e : MEntry) (k i : Nat) : (c.joined e).ishapeOf k i = c.ishapeOf k i := rfl

theorem State.core_pushMxq (s : State) (i : Instr) (trap : Bool) (xs : List Word) (seed : BitVec 32) (pages : List (Nat × Nat)) :
    (s.pushMxq i trap xs seed pages).core s.cur
      = s.me.joined { stamp := s.stamp, ins := i, trap := trap, xs := xs, seed := seed, pages := pages, done := 0 } :=
  State.core_updMe_same { s with stamp := s.stamp + 1 } _

variable {v : Word} (hshape : tshapeOk (layerOf s.cur) (tshapeKeep v) = true) (hroom : s.me.arch.mxq.length < mxqDepth)
include hshape hroom

theorem putTshape_ok : ∃ u, s.putTshape i v = .ok u
    ∧ (u.core s.cur).ishapeOf (layerOf s.cur) i = tshapeKeep v ∧ u.me.arch.mxq.length = s.me.arch.mxq.length + 1 := by
  have hput := (if_neg (by simp [hshape]) : s.putTshape i v = _).trans (if_neg hroom.not_ge)
  have hcore := State.core_pushMxq (s.updMe fun c => c.setIshape (s.me.shapeBank i) i (tshapeKeep v)) (.tshapeWrite (BitVec.ofNat 3 i) 0 0)
    (s.me.shapeBank i) [tshapeKeep v] 0 []
  rw [State.me_updMe] at hcore
  refine ⟨_, hput, ?_, ?_⟩
  · exact (congrArg (fun c : Core => c.ishapeOf (layerOf s.cur) i) hcore).trans (s.me.ishapeOf_setIshape _ _ _)
  · refine (congrArg (fun c : Core => c.arch.mxq.length) hcore).trans (List.length_append.trans ?_)
    rw [Core.setIshape_mxq]
    rfl

end

/-! ## RAFn (R253) -/

section
variable {s : State} {i : Nat} {v : Word}

theorem csrGet_raf (s : State) (g : Nat) (hi : i < 16) : s.csrGet g (0x40 + i) = SMap.get (s.core g).arch.copies.raf 0 i := by
  interval_cases i <;> rfl

theorem csrPut_raf (hi : i < 16) (v : Word) : s.csrPut (0x40 + i) v = s.putRaf i v := by
  interval_cases i <;> rfl

/-- A region's attributes change, and a core forgets its own translations of it (R258). -/
def Core.setRaf (c : Core) (i : Nat) (v : Word) : Core :=
  { c.updArch (fun a => { a with copies := { a.copies with raf := SMap.set a.copies.raf i (rafKeep v) } }) with
    tlb := c.tlb.filter fun e => decide ((e.vpage <<< e.p) / 2 ^ 52 ≠ i) }

theorem putRaf_ok (hpage : fld v 58 56 < 5) (hdone : s.accessesDone s.cur = true) :
    ∃ u, s.putRaf i v = .ok u ∧ u.cur = s.cur ∧ u.core s.cur = s.me.setRaf i v := by
  refine ⟨_, (if_neg hpage.not_ge).trans (if_pos hdone), rfl, ?_⟩
  refine (State.core_updMe_same (s.updCopies fun c => { c with raf := SMap.set c.raf i (rafKeep v) }) _).trans ?_
  rw [State.updCopies, State.updArch, State.me_updMe]
  rfl

/-! ## STASHCFG (R346, R347) -/

theorem putStash_ok {q : Nat} (hsize : fld v 9 0 ≤ sramUnits (quadLayer q))
    (hlow : ∀ lo, s.journalLow q = some lo → lo ≤ (sramUnits (quadLayer q) - fld v 9 0) * 4096) :
    ∃ u, s.putStash q v = (0, u) ∧ (u.quad q).stash = fld v 9 0 ∧ (u.quad q).spad = sramUnits (quadLayer q) - fld v 9 0 := by
  have hcut : ¬ (match s.journalLow q with
      | some lo => decide ((sramUnits (quadLayer q) - fld v 9 0) * 4096 < lo) | none => false) = true := by
    cases hj : s.journalLow q with
    | none => simp
    | some lo => simpa using hlow lo hj
  have hquad := s.quad_updQuad_same q fun x => { x with stash := fld v 9 0, spad := sramUnits (quadLayer q) - fld v 9 0 }
  exact ⟨_, (if_neg hsize.not_gt).trans (if_neg hcut), congrArg Quad.stash hquad, congrArg Quad.spad hquad⟩

theorem putStashCsr_of_ok {u : State} (hsize : fld v 9 0 ≤ sramUnits (quadLayer (quadOf s.cur))) (hdone : s.accessesDone s.cur = true)
    (hput : s.putStash (quadOf s.cur) v = (0, u)) : s.putStashCsr v = .ok u :=
  (if_neg hsize.not_gt).trans ((if_neg (by simp [hdone])).trans (by rw [hput]; rfl))

/-! ## ACCTCTL and ACCTBASE (R268, R269) -/

/-- What a core's accounts do before its context's account registers change. -/
def State.acctSettled (base : Bool) (s : State) (g : Nat) : State := (if base then s else s.endRuns g).flushAcct g

theorem State.acctSettled_unflushed (base : Bool) (s : State) (g : Nat) : ((s.acctSettled base g).core g).acct.unflushed = [] := by
  rw [State.acctSettled, State.flushAcct_eq, State.core_updCore_same]

theorem acctSettled_books (base : Bool) (s : State) (g : Nat) : Books {g} s (s.acctSettled base g) := by
  unfold State.acctSettled
  cases base with
  | true => exact (books_refl _ s).flushAcct (Set.mem_singleton g)
  | false => exact ((books_refl _ s).endRuns (Set.mem_singleton g)).flushAcct (Set.mem_singleton g)

/-- The accounts of the core at work, and in a pair of its odd core, are settled. -/
def State.allSettled (s : State) (base : Bool) : State :=
  (if s.dual s.cur then [s.cur, s.cur + 1] else [s.cur]).foldl (State.acctSettled base) s

theorem allSettled_me (s : State) (base : Bool) : (s.allSettled base).cur = s.cur ∧ ((s.allSettled base).core s.cur).acct.unflushed = [] := by
  have hown := acctSettled_books base s s.cur
  have hsettled := s.acctSettled_unflushed base s.cur
  unfold State.allSettled
  split_ifs
  · have hodd := acctSettled_books base (s.acctSettled base s.cur) (s.cur + 1)
    have hother : s.cur ∉ ({s.cur + 1} : Set Nat) := by simp
    exact ⟨hodd.cur.trans hown.cur, (congrArg Acct.unflushed (hodd.acct _ hother)).trans hsettled⟩
  · exact ⟨hown.cur, hsettled⟩

/-- The working copy of ACCTBASE or ACCTCTL (R269). -/
def Copies.setAcct (c : Copies) (base : Bool) (v : Word) : Copies :=
  if base then { c with acctbase := pageField v } else { c with acctctl := acctctlKeep v }

theorem putAcct_core (s : State) (base : Bool) (v : Word) : (s.putAcct base v).cur = s.cur
    ∧ (s.putAcct base v).core s.cur = ((s.allSettled base).core s.cur).updArch fun a => { a with copies := a.copies.setAcct base v } := by
  obtain ⟨hcur, -⟩ := allSettled_me s base
  have hput : s.putAcct base v = (s.allSettled base).updCopies fun c => c.setAcct base v := rfl
  rw [hput]
  refine ⟨hcur, ?_⟩
  have hcore := State.core_updMe_same (s.allSettled base) fun c => c.updArch fun a => { a with copies := a.copies.setAcct base v }
  rw [State.me, hcur] at hcore
  exact hcore

theorem csrGet_setAcct (t u : State) (base : Bool) {c : Core}
    (hu : u.core t.cur = c.updArch fun a => { a with copies := a.copies.setAcct base v }) :
    u.csrGet t.cur (if base then 0x59 else 0x58) = if base then pageField v else acctctlKeep v := by
  cases base with
  | true => exact congrArg (fun c : Core => c.arch.copies.acctbase) hu
  | false => exact congrArg (fun c : Core => c.arch.copies.acctctl) hu

/-! ## INJCTL (R420, R421) -/

theorem injctl_fields : ∀ (fired arm : Bool) (k : Fin 4),
    bitAt (BitVec.ofNat 64 (fired.toNat <<< 3 + k.val <<< 1 + arm.toNat)) 0 = arm
    ∧ fld (BitVec.ofNat 64 (fired.toNat <<< 3 + k.val <<< 1 + arm.toNat)) 2 1 = k.val
    ∧ bitAt (BitVec.ofNat 64 (fired.toNat <<< 3 + k.val <<< 1 + arm.toNat)) 3 = fired := by decide

theorem putInjctl_fields (s : State) (v : Word) :
    bitAt (s.putInjctl v).me.injctl 0
        = (bitAt v 0 && decide (fld v 2 1 ≠ 0) && match rangeOf (unalias s.me.injaddr.toNat) with | .dram _ => true | _ => false)
      ∧ fld (s.putInjctl v).me.injctl 2 1 = fld v 2 1 ∧ bitAt (s.putInjctl v).me.injctl 3 = (bitAt s.me.injctl 3 && !bitAt v 0) := by
  rw [State.putInjctl, State.me_updMe]
  exact injctl_fields _ _ ⟨fld v 2 1, Nat.mod_lt _ (by decide)⟩

/-! ## SLOTTBL (R318) -/

theorem putSlottbl_ok {u : State} {w : List (Nat × Nat × Nat × Word)} (hcount : fld (slotKeep v) 4 0 ≤ 16)
    (hread : s.readWindows s.cur (slotKeep v) = (u, .ok w)) :
    s.putSlottbl v = .ok ((u.updArch fun x => { x with slottbl := slotKeep v, windows := w }).pay u.cur cMEM
      ((pagesOf ((slotKeep v).toNat / 64 * 64) (16 * fld (slotKeep v) 4 0)).length - 1) u.me.arch.pc) :=
  (if_neg hcount.not_gt).trans (by rw [hread])

end

/-- Settles O16: each row is the swap of its CSR, which takes its new value. -/
theorem csrRowsComplete : Obligations.CsrRowsComplete := by
  intro s d a n3 n4 base hpl v t
  refine ⟨fun h => ?vshape, fun hshape hroom => ?tshape, fun hsize hdone hlow => ?stash, fun hpage hdone => ?raf, ?acct,
    fun w u hcount hread => ?slottbl, ?seed, ?inject⟩
  case vshape => exact csrSwap_vshape hpl d v h
  case tshape =>
    obtain ⟨u, hput, hget, hlen⟩ := putTshape_ok (i := n3.toNat) hshape hroom
    exact ⟨u, csrSwap_of_ok hpl (by omega) ((csrPut_tshape n3.isLt v).trans hput), (csrGet_tshape u s.cur n3.isLt).trans hget, hlen⟩
  case stash =>
    obtain ⟨u, hput, hstash, hspad⟩ := putStash_ok hsize hlow
    have hrow : s.csrPut 0x30 v = s.putStashCsr v := if_neg (by simp [hpl])
    exact ⟨u, csrSwap_of_ok hpl (by decide) (hrow.trans (putStashCsr_of_ok hsize hdone hput)), hstash, hspad⟩
  case raf =>
    obtain ⟨u, hput, hcur, hcore⟩ := putRaf_ok (i := n4.toNat) hpage hdone
    refine ⟨u, csrSwap_of_ok hpl (by omega) ((csrPut_raf n4.isLt v).trans hput), ?_, fun e he => ?_⟩
    · rw [csrGet_raf u s.cur n4.isLt, hcore]
      exact SMap.get_set_same ..
    · rw [State.me, hcur, hcore] at he
      exact (List.mem_filter.mp he).imp_right of_decide_eq_true
  case acct =>
    obtain ⟨hcur, hcore⟩ := putAcct_core s base v
    obtain ⟨-, hunflushed⟩ := allSettled_me s base
    have hput : s.csrPut (if base then 0x59 else 0x58) v = .ok (s.putAcct base v) := by cases base <;> rfl
    refine ⟨_, csrSwap_of_ok hpl (by cases base <;> decide) hput, csrGet_setAcct s _ base hcore, ?_⟩
    rw [State.me, hcur, hcore]
    exact hunflushed
  case slottbl =>
    have hrow : s.csrPut 0x68 v = s.putSlottbl v := rfl
    exact csrSwap_of_ok hpl (by decide) (hrow.trans (putSlottbl_ok hcount hread))
  case seed =>
    exact ⟨s.putSrseed v, csrSwap_srseed hpl d v, onlyMe_updMe s _, congrArg (fun c : Core => c.arch.srseed) (State.me_updMe s _)⟩
  case inject =>
    obtain ⟨harm, hkind, hfired⟩ := putInjctl_fields s v
    refine ⟨s.putInjctl v, csrSwap_of_ok hpl (by decide) rfl, onlyMe_updMe s _, ?_, hkind, hfired⟩
    rw [harm, Bool.and_eq_true, Bool.and_eq_true, decide_eq_true_eq, and_assoc]
    cases rangeOf (unalias s.me.injaddr.toNat) <;> simp

end Sys2Proof.Machine
end

section
/-! The dispensers: what a record's load and the queues' filing keep, and the events of rings, traps, watchdogs and accounts
(R261, R268, R271, R275, R277, R281, R282, R285, R305, R422, R430). -/

namespace Sys2Proof.Machine

/-! ## Queues that are filed (R305): no strand moves and no record -/

section
variable (s : State)

theorem State.claim_items (n : Nat) (d : Dest) (p : Packet) (present counted : Bool) (rank : Nat) :
    (s.claim n d p present counted rank).items = s.items := by cases d <;> rfl

theorem State.pushSpill_items (n : Nat) (d : Dest) (e : SpillEntry) : (s.pushSpill n d e).items = s.items := by cases d <;> rfl

theorem State.postDone_items (p : Post) : (s.postDone p).items = s.items := by
  unfold State.postDone
  split
  · split_ifs <;> rfl
  · rfl

end

theorem State.deliver_items {s u : State} {p : Post} (hdel : s.deliver p = some u) : u.items = s.items := by
  unfold State.deliver at hdel
  extract_lets away k room at hdel
  split_ifs at hdel with hsealed hcross hroom hlate
  · cases hdel
    exact s.postDone_items p
  · split at hdel
    · cases hdel
      exact s.claim_items ..
    · cases hdel
      rfl
    · cases hdel
      rfl
  · obtain ⟨res, -, rfl⟩ := Option.map_eq_some_iff.mp hdel
    exact (State.postDone_items _ p).trans (s.pushSpill_items ..)

theorem State.servePosts_items (s : State) (f : Post → Bool) : (s.servePosts f).items = s.items := by
  unfold State.servePosts
  suffices hfold : ∀ (l : List Post) (t : State), (l.foldl (fun s p =>
      match s.deliver p with | some t => t | none => { s with posts := s.posts ++ [p] }) t).items = t.items from hfold _ _
  intro l
  induction l with
  | nil => exact fun _ => rfl
  | cons p r ih =>
    intro t
    rw [List.foldl_cons, ih]
    cases hdel : t.deliver p with
    | some u => exact State.deliver_items hdel
    | none => rfl

/-- The head of a spill queue enters its core's queue. -/
theorem drainCore_quiet {s t : State} {g n : Nat} (h : s.drainCore g n = some t) : Quiet s t ∧ t.items = s.items := by
  unfold State.drainCore at h
  split at h
  · cases h
  · rename_i e r hq
    have hpop : Quiet s (s.updCtx n fun c => { c with spillQ := SMap.set c.spillQ g r }) := (quiet_refl s).updCtx fun _ => rfl
    dsimp only at h
    split at h
    · split_ifs at h
      cases h
      exact ⟨hpop.claim _ _ _ _ _ _, State.claim_items ..⟩
    · split_ifs at h
      cases h
      exact ⟨hpop.updCore fun _ => rfl, rfl⟩
    · cases h
      exact ⟨hpop, rfl⟩

theorem drainAll_quiet (f : Nat) (s : State) (g n : Nat) : Quiet s (State.drainAll f s g n) ∧ (State.drainAll f s g n).items = s.items := by
  induction f generalizing s with
  | zero => exact ⟨quiet_refl s, rfl⟩
  | succ f ih =>
    unfold State.drainAll
    cases hd : s.drainCore g n with
    | none => exact ⟨quiet_refl s, rfl⟩
    | some t =>
      obtain ⟨hquiet, hitems⟩ := drainCore_quiet hd
      obtain ⟨hrest, hrestItems⟩ := ih t
      exact ⟨hquiet.trans hrest, hrestItems.trans hitems⟩

theorem offer_quiet (s : State) (g : Nat) : Quiet s (s.offer g) ∧ (s.offer g).items = s.items := by
  have hserve : ∀ t : State, Quiet s t ∧ t.items = s.items → ∀ f, Quiet s (t.servePosts f) ∧ (t.servePosts f).items = s.items :=
    fun t ht f => ⟨ht.1.servePosts f, (t.servePosts_items f).trans ht.2⟩
  unfold State.offer
  refine hserve _ ?_ _
  cases (s.core g).strand with
  | none => exact ⟨quiet_refl s, rfl⟩
  | some t =>
    dsimp only
    split_ifs
    · exact ⟨quiet_refl s, rfl⟩
    · exact drainAll_quiet _ s g t.ctx

/-! ## A record becomes a strand (R37, R281) -/

section
variable {s : State} {g n : Nat} {it : Item} {r : Rec} (hpr : r.pr = false) (hspl : r.spl = false) (hspix : r.spix = 0) (hout : it.out = none)
include hpr hspl hspix hout

/-- A record that is neither spilled nor paired starts anew on its core. -/
theorem load_plain : ∃ (t : State) (old : Arch) (copies : Copies) (u : Strand) (f : Core → Core),
    s.load g n it r = (t.updCore g f).pay g cSWITCH 1 r.pc ∧ t.items = s.items
      ∧ (∀ c, (f c).arch = startArch old copies r none ∧ (f c).strand = some u)
      ∧ u.ctx = n ∧ u.pri = r.pri ∧ u.die = it.die ∧ u.layer = it.layer := by
  have hidle := ((books_refl Set.univ s).chargeIdle g).items
  unfold State.load
  simp only [hpr, hspl, hspix, hout, Bool.false_and, Bool.false_eq_true, if_false, State.dropArea, if_true]
  exact ⟨_, _, _, _, _, rfl, hidle, fun _ => ⟨rfl, rfl⟩, rfl, rfl, rfl, rfl⟩

/-- Its core's arrays and pending packets are filed at once, and the strand stands with the record's state. -/
theorem startOn_plain : ∃ (old : Arch) (copies : Copies) (u : Strand),
    ((s.startOn g it r).core g).arch = startArch old copies r none ∧ ((s.startOn g it r).core g).strand = some u
      ∧ u.ctx = it.ctx ∧ u.pri = r.pri ∧ u.die = it.die ∧ u.layer = it.layer ∧ (s.startOn g it r).items = s.items := by
  obtain ⟨t, old, copies, u, f, hload, hitems, hseat, hctx, hpri, hdie, hlayer⟩ := load_plain (s := s) (g := g) (n := it.ctx) hpr hspl hspix hout
  obtain ⟨harch, hresident⟩ := hseat (t.core g)
  have hstart : s.startOn g it r = (s.load g it.ctx it r).offer g := by
    simp only [State.startOn, hpr, Bool.false_eq_true, if_false]
  have hpaid : Quiet (t.updCore g f) (s.load g it.ctx it r) := by
    rw [hload]
    exact (quiet_refl _).pay _ _ _ _
  obtain ⟨hoffer, hoffered⟩ := offer_quiet (s.load g it.ctx it r) g
  have hquiet := hpaid.trans hoffer
  have hkept : (s.load g it.ctx it r).items = t.items := by
    rw [hload]
    exact ((books_refl _ _).pay _ _ _ _).items
  rw [hstart]
  refine ⟨old, copies, u, ?_, ?_, hctx, hpri, hdie, hlayer, hoffered.trans (hkept.trans hitems)⟩
  · rw [hquiet.arch, State.core_updCore_same, harch]
  · rw [hquiet.strand, State.core_updCore_same, hresident]

end

/-- x1 to x5 of a strand that starts are its record's (R37). -/
theorem startArch_rx (old : Arch) (copies : Copies) (r : Rec) {i : Nat} (hi : i < 5) :
    (startArch old copies r none).rx (i + 1) = (r.xs[i]?).getD 0 := by
  interval_cases i <;> rfl

theorem recOk_spix {cap : Word} {r : Rec} (h : recOk cap r = true) (hspl : r.spl = false) : r.spix = 0 := by
  simp only [recOk, hspl, Bool.and_eq_true, beq_iff_eq] at h
  simpa using h.1.1.2

/-- The context's limits on a record that its dispenser checks (R274). -/
def State.capOf (s : State) (n : Nat) : Word := match (s.ctx n).d with | some x => x.cap | none => 0

section
variable {s : State} {g : Nat} {it : Item}

/-- A head that is no launch reference leaves its ring and is loaded. -/
theorem serve_record (hkind : (s.slotRec it.ctx it.slot (s.itemRec it)).kind ≠ 5)
    (hok : recOk (s.capOf it.ctx) (s.slotRec it.ctx it.slot (s.itemRec it)) = true) :
    s.serve it g = (State.startOn { s with items := s.items.filter fun x => decide (x.rid ≠ it.rid) } g it
      (s.slotRec it.ctx it.slot (s.itemRec it))).noteWaits := by
  have hnot : ¬ (!recOk (s.capOf it.ctx) (s.slotRec it.ctx it.slot (s.itemRec it))) = true := by simp [hok]
  exact (if_neg hkind).trans (if_neg hnot)

theorem exec_dispatch {die layer : Nat} (hhead : s.headOf die layer = some it) (hplace : s.placeFor die layer it = some g) :
    exec (.dispatch die layer) s = .next (s.serve it g) := by
  change execDispatch die layer s = _
  simp only [execDispatch, hhead, hplace]

end

/-! ## Rings (R261, R275, R282) -/

section
variable {s : State} {rid : Nat}

theorem exec_affinityWindowExpiry (s : State) (rid : Nat) : exec (.affinityWindowExpiry rid) s = .next { s with items := s.items.map fun x =>
    if x.rid = rid then (if x.r.afv = true ∧ 2000 ≤ s.clock / 11088 - x.born / 11088 then { x with r := { x.r with afv := false } } else x) else x } := by
  change execAffinityWindowExpiry rid s = _
  simp only [execAffinityWindowExpiry, State.updItem, Bool.and_eq_true, decide_eq_true_eq]
  rfl

variable {it : Item} (hfind : s.items.find? (fun x => decide (x.rid = rid)) = some it)
include hfind

theorem exec_agingPromotion (hq : it.queued = true) (hpri : effPri it.r < 127) (hage : it.r.age < 16)
    (hlimit : fld ((s.die it.die).dispctl' it.layer) 31 16 ≠ 0
      ∧ fld ((s.die it.die).dispctl' it.layer) 31 16 * 1000 ≤ nsOf s.clock - nsOf it.since) :
    exec (.agingPromotion rid) s = .next { s with stamp := s.stamp + 1, items := s.items.filter (fun x => decide (x.rid ≠ rid))
      ++ [{ it with since := s.clock, seq := s.stamp, was := some (s.clock, it.r.age, it.since, it.seq), r := { it.r with age := it.r.age + 1 } }] } := by
  obtain ⟨hon, hlate⟩ := hlimit
  change execAgingPromotion rid s = _
  simp only [execAgingPromotion, hfind]
  exact if_pos (by simp [hq, hpri, hage, hon, hlate])

theorem exec_sleepWake {wake : Nat} (hsleep : it.place = .sleeping wake) (htime : wake ≤ nsOf s.clock) :
    exec (.sleepWake rid) s = .next (s.toRing it) := by
  change execSleepWake rid s = _
  simp only [execSleepWake, hfind, hsleep, htime, if_true]

end

/-! ## Asynchronous traps (R430) -/

theorem Core.due_unbooked (c : Core) (clock : Nat) : c.unbooked.due clock = c.due clock := rfl

theorem Core.due_of_unbooked {c k : Core} (h : c.unbooked = k.unbooked) (clock : Nat) : c.due clock = k.due clock := by
  rw [← Core.due_unbooked c, h, Core.due_unbooked]

theorem Core.entered_pc (c : Core) (cause : Nat) (val pc : Word) : (c.entered cause val pc).arch.pc = tvecKeep c.arch.copies.tvec := by
  have hcopies : c.landEvery.arch.copies = c.arch.copies := (congrArg Arch.copies c.landEvery_frame :)
  rw [← hcopies]
  rfl

section
variable {s : State} {g cause : Nat} {val : Word} (htm : (s.core g).arch.tm = false) (hdue : (s.core g).due s.clock = some (.trap cause val))
include htm hdue

/-- What is due is still due once the core's cycles up to now are charged, and is taken there. -/
theorem bringUp_takeAsync : (s.bringUp g).takeAsync g = some (((s.bringUp g).updCore g Core.clearPending).updCore g fun c =>
    c.entered cause val (s.core g).arch.pc) := by
  have hbooks := (books_refl Set.univ s).bringUp g
  have hpc : ((s.bringUp g).core g).arch.pc = (s.core g).arch.pc := (congrArg (fun c : Core => c.arch.pc) (hbooks.core g) :)
  have hstatus : ((s.bringUp g).core g).arch.status = (s.core g).arch.status := (congrArg (fun c : Core => c.arch.status) (hbooks.core g) :)
  rw [← hpc]
  refine State.takeAsync_trap ?_ ?_
  · rw [hbooks.clock, Core.due_of_unbooked (hbooks.core g), hdue]
  · rw [Arch.tm, hstatus]
    exact htm

theorem exec_asyncTrapTake (hs : (s.core g).strand ≠ none) (hdbg : (s.quad (quadOf g)).dbg = false)
    (hpair : (s.core (g / 2 * 2)).pair.st ≠ .exchanging) (hmicro : (s.core g).micro = none) (hamo : (s.core g).amoFlying = false) :
    ∃ t, exec (.asyncTrapTake g) s = .next t
      ∧ (t.core g).arch = (((s.bringUp g).core g).clearPending.entered cause val (s.core g).arch.pc).arch := by
  have hpreempt : s.exchangeForPreempt g = false := by simp [State.exchangeForPreempt, hdue]
  have hguard : ¬ ((s.core g).strand = none ∨ (s.quad (quadOf g)).dbg = true ∨ (s.core (g / 2 * 2)).pair.st = .exchanging
      ∨ ((s.core g).arch.mop % 2 = 1 ∧ (s.core g).micro ≠ none) ∨ (s.core g).amoFlying = true ∨ s.exchangeForPreempt g = true) := by
    simp [hs, hdbg, hpair, hmicro, hamo, hpreempt]
  have harch : ((((s.bringUp g).updCore g Core.clearPending).updCore g fun c => c.entered cause val (s.core g).arch.pc).core g).arch
      = (((s.bringUp g).core g).clearPending.entered cause val (s.core g).arch.pc).arch := by
    rw [State.core_updCore_same, State.core_updCore_same]
  change ∃ t, execAsyncTrapTake g s = .next t ∧ _
  unfold execAsyncTrapTake
  dsimp only
  rw [if_neg hguard, bringUp_takeAsync htm hdue]
  dsimp only
  split
  · split_ifs
    · exact ⟨_, rfl, harch⟩
    · exact ⟨_, rfl, (((quiet_refl _).pay _ _ _ _).arch g).trans harch⟩
  · exact ⟨_, rfl, harch⟩

end

theorem bringUp_copies (s : State) (g : Nat) : ((s.bringUp g).core g).arch.copies = (s.core g).arch.copies :=
  (congrArg (fun c : Core => c.arch.copies) (((books_refl Set.univ s).bringUp g).core g) :)

/-! ## Watchdogs (R422) and accounts (R268, R271) -/

section
variable {s : State} {g : Nat}

theorem exec_strandWatchdogExpiry {t : Strand} (ht : (s.core g).strand = some t) (hwd : (s.quad (quadOf g)).wd ≠ 0)
    (hcounts : s.watchStopped g = false) (hlate : (s.quad (quadOf g)).wd * 1000 * unitsPerNs ≤ s.clock - t.retired) :
    exec (.strandWatchdogExpiry g) s = .next (s.updCore g fun c =>
      if c.arch.tm then
        { c with strand := some { t with retired := s.clock }, arch := { c.arch with wait := { c.arch.wait with wdTm := some 0x200 } } }
      else { c with strand := some { t with watchdog := some 0x200, retired := s.clock } }) := by
  change execStrandWatchdogExpiry g s = _
  simp only [execStrandWatchdogExpiry, ht]
  exact if_neg (by simp [hwd, hcounts, hlate])

/-- A flush leaves no count behind and notes the core's cycles: the block's writes change no account. -/
theorem flushAcct_acct (s : State) (g : Nat) : ((s.flushAcct g).core g).acct.unflushed = []
    ∧ ((s.flushAcct g).core g).acct.lastFlush = (s.core g).acct.cycles := by
  have hkept := ((books_refl ∅ s).countsFlushed g).acct g (Set.notMem_empty g)
  rw [State.flushAcct_eq, State.core_updCore_same]
  exact ⟨rfl, congrArg Acct.cycles hkept⟩

theorem exec_acctOverflowRecord (hs : (s.core g).strand ≠ none) (hrec : (s.core g).pcrec = true) :
    exec (.acctOverflowRecord g) s = .next (s.putOverflow g) := by
  have hguard : ¬ ((s.core g).strand.isNone || !(s.core g).pcrec) = true := by simp [hs, hrec]
  exact congrArg Host.Outcome.next (if_neg hguard)

end

/-! ## Object words (R276, R277): whose core is at work stays -/

theorem State.release_cur (s : State) (n id : Nat) (out : Bool) : (s.release n id out).cur = s.cur := by
  unfold State.release
  generalize s.items = l
  induction l generalizing s with
  | nil => rfl
  | cons it l ih =>
    rw [List.foldl_cons, ih]
    split_ifs
    · split
      · split_ifs <;> rfl
      · rfl
    · rfl

theorem State.completeObj_cur (f : Nat) (s : State) (n id : Nat) : (State.completeObj f s n id).cur = s.cur := by
  induction f generalizing s id with
  | zero => rfl
  | succ f ih =>
    unfold State.completeObj
    split
    · rfl
    · dsimp only
      split_ifs
      · rfl
      · split
        · exact State.release_cur _ _ _ _
        · split_ifs
          · exact State.release_cur _ _ _ _
          · exact (ih _ _).trans (State.release_cur _ _ _ _)

theorem State.disarm_cur (s : State) (n : Nat) (h : Word) : (s.disarm n h).cur = s.cur := by
  unfold State.disarm
  dsimp only
  split_ifs
  · rfl
  · generalize (_ ++ _ : List Nat) = l
    induction l generalizing s with
    | nil => rfl
    | cons i r ih =>
      rw [List.foldl_cons, ih, State.completeObj_cur]
      split
      · split_ifs <;> rfl
      · rfl

theorem State.newObj_cur {s t : State} {n id : Nat} {o : Obj} (h : s.newObj n o = some (id, t)) : t.cur = s.cur := by
  unfold State.newObj at h
  dsimp only at h
  split_ifs at h
  cases h
  rfl

/-- ARMG and ARMP leave the handle armed on the core that is at work (R277). -/
theorem arm_handle {s u : State} {phase : Bool} {w : Word} (h : s.arm phase = some (w, u)) : u.cur = s.cur ∧ u.me.arch.arming = w := by
  have harmed : ∀ t : State, t.cur = s.cur → (t.updArch fun a => { a with arming := w }).cur = s.cur
      ∧ (t.updArch fun a => { a with arming := w }).me.arch.arming = w :=
    fun t ht => ⟨ht, congrArg (fun c : Core => c.arch.arming) (State.me_updMe t _)⟩
  unfold State.arm at h
  split at h
  · cases h
  · rename_i t ht
    have hdisarm := s.disarm_cur t.ctx s.me.arch.arming
    dsimp only at h
    cases phase with
    | false =>
      obtain ⟨⟨id, r⟩, hnew, hr⟩ := Option.map_eq_some_iff.mp h
      cases hr
      refine harmed _ ?_
      have hcur := (State.newObj_cur hnew).trans hdisarm
      split <;> exact hcur
    | true =>
      obtain ⟨⟨id, r⟩, hphase, hr⟩ := Option.bind_eq_some_iff.mp h
      obtain ⟨⟨id', q⟩, hgraph, hq⟩ := Option.map_eq_some_iff.mp hr
      cases hq
      refine harmed _ ?_
      have hcur := (State.newObj_cur hgraph).trans ((State.newObj_cur hphase).trans hdisarm)
      split <;> exact hcur

theorem exec_armInto {s u : State} {d : Reg} {phase : Bool} {w : Word} (h : s.arm phase = some (w, u)) :
    s.armInto d phase = .next (u.pushLd d w (objectPa (dieOf s.cur) phase.toNat)) := by
  obtain ⟨hcur, -⟩ := arm_handle h
  rw [State.armInto, h, ← hcur]

/-- Settles O48, event by event. -/
theorem dispensersWork : Obligations.DispensersWork := by
  refine ⟨fun s g h => if_pos h, fun s g h => if_neg h, ?dispatch, exec_affinityWindowExpiry, ?rings, ?asyncTrap, ?watchdog, ?arm, ?accounts⟩
  case dispatch =>
    intro s die layer g it hhead hplace _ hout r hkind hpr hspl hok
    obtain ⟨old, copies, u, harch, hstrand, hctx, hpri, hdie, hlayer, hitems⟩ :=
      startOn_plain (s := { s with items := s.items.filter fun x => decide (x.rid ≠ it.rid) }) (g := g) hpr hspl (recOk_spix hok hspl) hout
    refine ⟨_, (exec_dispatch hhead hplace).trans (congrArg Host.Outcome.next (serve_record hkind hok)), ?_, fun i hi => ?_,
      ⟨u, hstrand, hctx, hpri, hdie, hlayer⟩, fun x hx => ?_⟩
    · exact congrArg Arch.pc harch
    · exact (congrArg (fun a : Arch => a.rx (i + 1)) harch).trans (startArch_rx old copies r hi)
    · have hleft : x ∈ s.items.filter fun x => decide (x.rid ≠ it.rid) := (congrArg (x ∈ ·) hitems).mp hx
      exact of_decide_eq_true (List.mem_filter.mp hleft).2
  case rings =>
    intro s rid it hfind
    refine ⟨fun hplace hpri hage hlimit => ?_, fun wake hsleep htime => ⟨exec_sleepWake hfind hsleep htime, rfl⟩⟩
    have hqueued : it.queued = true := by rcases hplace with h | h <;> simp [Item.queued, h]
    exact exec_agingPromotion hfind hqueued hpri hage hlimit
  case asyncTrap =>
    intro s g cause val c hs hdbg hpair hmicro hamo htm hdue
    obtain ⟨t, hexec, harch⟩ := exec_asyncTrapTake htm hdue hs hdbg hpair hmicro hamo
    refine ⟨t, hexec, ?_⟩
    rw [Arch.tm, harch]
    refine ⟨rfl, rfl, rfl, Core.entered_tm _ _ _ _, ?_⟩
    rw [Core.entered_pc, Core.clearPending_copies, bringUp_copies]
  case watchdog =>
    intro s g t ht hwd hcounts hlate
    rw [exec_strandWatchdogExpiry ht hwd hcounts hlate]
    rfl
  case arm =>
    exact fun s u d w => ⟨fun h => ⟨exec_armInto h, (arm_handle h).2⟩, fun h => ⟨exec_armInto h, (arm_handle h).2⟩⟩
  case accounts =>
    intro s g
    refine ⟨fun hcycles => ⟨congrArg Host.Outcome.next (if_pos hcycles), flushAcct_acct (s.bringUp g) g⟩, exec_acctOverflowRecord⟩

end Sys2Proof.Machine
end

section
/-! Every step keeps memory in its canonical form (O60). Two kinds of lemma carry the proof, one for each operation of the model
that answers a state: `…_mem` says that an operation leaves memory alone, `…_wf` that it keeps memory canonical. All writes to
memory come down to `Mem.write`, whose law is in the layer on the canonical form; above it, the lemma of an operation follows the
branches of that operation and cites the lemmas of those it calls. They stand in the order of the model. -/

namespace Sys2Proof.Machine

/-- The memory of the state that a step answers, if it answers one, is in its canonical form. -/
def Canonical (o : Step) : Prop := ∀ t, o = .next t → t.mem.wf = true

@[simp] theorem canonical_next (t : State) : Canonical (.next t) ↔ t.mem.wf = true := by
  simp [Canonical]

theorem canonical_next_of {t : State} (h : t.mem.wf = true) : Canonical (.next t) := (canonical_next t).2 h

@[simp] theorem canonical_fault (r : Fault) : Canonical (.fault r) := by
  rintro t ⟨⟩

@[simp] theorem canonical_refused (r : Refusal) : Canonical (.refused r) := by
  rintro t ⟨⟩

/-- Folding operations that leave memory alone leaves memory alone. -/
theorem foldl_mem_eq {α : Type} {f : State → α → State} (hf : ∀ (s : State) (a : α), (f s a).mem = s.mem) (l : List α) (s : State) :
    (l.foldl f s).mem = s.mem := by
  induction l generalizing s with
  | nil => rfl
  | cons a r ih => exact (ih _).trans (hf s a)

end Sys2Proof.Machine
end

section
/-! Memory stays canonical: the parts of the package, results in flight, media, accounts and time. -/

namespace Sys2Proof.Machine

@[simp] theorem State.fresh_mem (s : State) : s.fresh.2.mem = s.mem := rfl
@[simp] theorem State.raise_mem (s : State) (g : Nat) (f : FpFlags) : (s.raise g f).mem = s.mem := rfl
@[simp] theorem State.hold_wf {s : State} (h : s.mem.wf = true) (cause : Nat) : Canonical (s.hold cause) := by
  simp [State.hold, h]

@[simp] theorem State.setPoison_mem (s : State) (sector : Nat) : (s.setPoison sector).mem = s.mem := rfl
@[simp] theorem State.develop_mem (s : State) (sector kind : Nat) : (s.develop sector kind).mem = s.mem := by
  unfold State.develop
  dsimp only
  split_ifs <;> simp

@[simp] theorem State.fillTlb_mem (s : State) (g : Nat) (x : Xlated) : (s.fillTlb g x).mem = s.mem := by
  unfold State.fillTlb
  split <;> rfl

@[simp] theorem State.payXl_wf {s : State} (h : s.mem.wf = true) (g : Nat) (pc : Word) : (s.payXl g pc).mem.wf = true := by
  unfold State.payXl
  split <;> simp [h]

end Sys2Proof.Machine
end

section
/-! Memory stays canonical: objects, handles, strands and their areas. -/

namespace Sys2Proof.Machine

@[simp] theorem State.setObj_mem (s : State) (n id : Nat) (o : Obj) : (s.setObj n id o).mem = s.mem := rfl
theorem State.newObj_mem {s : State} {n : Nat} {o : Obj} {p : Nat × State} (hp : s.newObj n o = some p) : p.2.mem = s.mem := by
  unfold State.newObj at hp
  dsimp only at hp
  split at hp <;> cases hp
  rfl

@[simp] theorem State.noteWaits_mem (s : State) : s.noteWaits.mem = s.mem := rfl
@[simp] theorem State.toRing_mem (s : State) (it : Item) : (s.toRing it).mem = s.mem := rfl
@[simp] theorem State.release_mem (s : State) (n id : Nat) (out : Bool) : (s.release n id out).mem = s.mem := by
  refine foldl_mem_eq (fun s it => ?_) _ _
  split_ifs
  · split <;> [(split_ifs <;> rfl); rfl]
  · rfl

@[simp] theorem State.completeObj_mem (f : Nat) (s : State) (n id : Nat) : (State.completeObj f s n id).mem = s.mem := by
  induction f generalizing s id with
  | zero => rfl
  | succ f ih =>
    unfold State.completeObj
    dsimp only
    split
    · rfl
    · split_ifs
      · rfl
      · split <;> [simp; (split_ifs <;> simp [ih])]

@[simp] theorem State.stopCheck_mem (s : State) (n : Nat) : (s.stopCheck n).mem = s.mem := by
  unfold State.stopCheck
  split <;> rfl

@[simp] theorem State.launchEnd_mem (s : State) (n id : Nat) (cancelled : Bool) : (s.launchEnd n id cancelled).mem = s.mem := by
  unfold State.launchEnd
  split
  · rfl
  · split_ifs <;> simp

@[simp] theorem State.setAreaBit_wf {s : State} (h : s.mem.wf = true) (base i : Nat) (b : Bool) :
    (s.setAreaBit base i b).mem.wf = true := by
  simp [State.setAreaBit, h]

@[simp] theorem State.dropArea_wf {s : State} (h : s.mem.wf = true) (n slot idx : Nat) :
    (s.dropArea n slot idx).mem.wf = true := by
  unfold State.dropArea
  (repeat' split) <;> simp [h]

@[simp] theorem State.releaseEntries_mem (s : State) (l : List Nat) : (s.releaseEntries l).mem = s.mem := rfl
@[simp] theorem State.loseArea_wf {s : State} (h : s.mem.wf = true) (n slot idx : Nat) :
    (s.loseArea n slot idx).mem.wf = true := by
  unfold State.loseArea
  split <;> simp [h]

@[simp] theorem State.enqueue_mem (s : State) (n die layer slot : Nat) (r : Rec) (out : Option (Nat × Word)) :
    (s.enqueue n die layer slot r out).mem = s.mem := rfl

@[simp] theorem State.attach_mem (s : State) (n die layer slot : Nat) (r : Rec) (p : Place) (kind : Nat) :
    (s.attach n die layer slot r p kind).mem = s.mem := rfl

@[simp] theorem State.discardItem_wf {s : State} (h : s.mem.wf = true) (it : Item) (cancelled : Bool) :
    (s.discardItem it cancelled).mem.wf = true := by
  unfold State.discardItem
  split <;> simp [h]

@[simp] theorem State.load_wf {s : State} (h : s.mem.wf = true) (g n : Nat) (it : Item) (r : Rec) :
    (s.load g n it r).mem.wf = true := by
  have h1 : (s.chargeIdle g).mem.wf = true := State.chargeIdle_wf h g
  have h2 : ((s.chargeIdle g).chargeIdle (g + 1)).mem.wf = true := State.chargeIdle_wf h1 (g + 1)
  unfold State.load
  cases hd : r.pr && (s.journalFits g).2 <;> exact State.pay_wf (by simp [h1, h2]) _ _ _ _

@[simp] theorem State.cancelObj_wf {s : State} (hs : s.mem.wf = true) (n id : Nat) (force : Bool) (h : Word) :
    (s.cancelObj n id force h).mem.wf = true := by
  unfold State.cancelObj
  extract_lets c ids s1 s2 hit s3 s4 s5
  have h1 : s1.mem.wf = true := by
    refine foldl_mem_wf (fun s k h => ?_) _ hs
    split <;> [exact h; (split_ifs <;> exact h)]
  have h3 : s3.mem.wf = true := foldl_mem_wf (fun s it h => State.discardItem_wf h it true) _ h1
  have h5 : s5.mem.wf = true := foldl_mem_wf (fun s k h => by simpa using h) _ h3
  split
  · exact hs
  · split_ifs
    · exact hs
    · simpa using h5

end Sys2Proof.Machine
end

section
/-! Memory stays canonical: message queues, cells and their draining. -/

namespace Sys2Proof.Machine

@[simp] theorem State.updMbox_mem (s : State) (n m : Nat) (f : Mailbox → Mailbox) : (s.updMbox n m f).mem = s.mem := rfl
@[simp] theorem State.pushSpill_mem (s : State) (n : Nat) (d : Dest) (e : SpillEntry) : (s.pushSpill n d e).mem = s.mem := by
  unfold State.pushSpill
  split <;> rfl

@[simp] theorem State.claim_mem (s : State) (n : Nat) (d : Dest) (p : Packet) (present counted : Bool) (rank : Nat) :
    (s.claim n d p present counted rank).mem = s.mem := by
  unfold State.claim
  split <;> rfl

@[simp] theorem State.releaseParked_mem (s : State) (n m : Nat) : (s.releaseParked n m).mem = s.mem := by
  unfold State.releaseParked
  split <;> rfl

@[simp] theorem State.lessOutstanding_mem (s : State) (g : Nat) : (s.lessOutstanding g).mem = s.mem := rfl
@[simp] theorem State.notOutstanding_mem (s : State) (l : List RqPacket) : (s.notOutstanding l).mem = s.mem := by
  unfold State.notOutstanding
  exact foldl_mem_eq (fun s p => by simp) _ _

@[simp] theorem State.divert_mem (s : State) (n g : Nat) (d : Dest) (p : Packet) (res : Bool) :
    (s.divert n g d p res).mem = s.mem := by
  simp [State.divert]

theorem State.drainCore_mem {s t : State} {g n : Nat} (ht : s.drainCore g n = some t) : t.mem = s.mem := by
  unfold State.drainCore at ht
  split at ht
  · cases ht
  · dsimp only at ht
    split at ht
    · split at ht <;> cases ht
      simp
    · split at ht <;> cases ht
      rfl
    · cases ht
      rfl

@[simp] theorem State.drainAll_mem (f : Nat) (s : State) (g n : Nat) : (State.drainAll f s g n).mem = s.mem := by
  induction f generalizing s with
  | zero => rfl
  | succ f ih =>
    unfold State.drainAll
    split
    · next t ht => rw [ih, State.drainCore_mem ht]
    · rfl

@[simp] theorem State.drainFirst_mem (s : State) (g n : Nat) : (s.drainFirst g n).mem = s.mem := State.drainAll_mem _ s g n
theorem State.drainMbox_mem {s t : State} {n m : Nat} (ht : s.drainMbox n m = some t) : t.mem = s.mem := by
  unfold State.drainMbox at ht
  split at ht
  · cases ht
  · split at ht
    · split at ht <;> cases ht
      simp
    · cases ht
      rfl

@[simp] theorem State.drainMboxAll_mem (f : Nat) (s : State) (n m : Nat) : (State.drainMboxAll f s n m).mem = s.mem := by
  induction f generalizing s with
  | zero => rfl
  | succ f ih =>
    unfold State.drainMboxAll
    split
    · next t ht => rw [ih, State.drainMbox_mem ht]
    · rfl

@[simp] theorem State.postDone_mem (s : State) (p : Post) : (s.postDone p).mem = s.mem := by
  unfold State.postDone
  (repeat' split) <;> rfl

theorem State.deliver_mem {s t : State} {p : Post} (ht : s.deliver p = some t) : t.mem = s.mem := by
  unfold State.deliver at ht
  split at ht
  · cases ht; simp
  · split at ht
    · cases ht
    · extract_lets away k room at ht
      split at ht
      · split at ht <;> cases ht <;> simp
      · split at ht
        · obtain ⟨r, -, rfl⟩ := Option.map_eq_some_iff.mp ht
          simp
        · cases ht

@[simp] theorem State.servePosts_mem (s : State) (f : Post → Bool) : (s.servePosts f).mem = s.mem := by
  unfold State.servePosts
  refine (foldl_mem_eq (fun s p => ?_) _ _).trans rfl
  split
  · next t ht => exact State.deliver_mem ht
  · rfl

@[simp] theorem State.post_mem (s : State) (p : Post) : (s.post p).mem = s.mem := by
  unfold State.post
  split
  · next t ht => exact State.deliver_mem ht
  · rfl

@[simp] theorem State.offer_mem (s : State) (g : Nat) : (s.offer g).mem = s.mem := by
  unfold State.offer
  (repeat' split) <;> simp

@[simp] theorem State.offerMbox_mem (s : State) (n m : Nat) : (s.offerMbox n m).mem = s.mem := by
  unfold State.offerMbox; dsimp only; split_ifs <;> simp

@[simp] theorem State.sendToken_mem (s : State) (n rcv code g : Nat) : (s.sendToken n rcv code g).mem = s.mem := by
  simp [State.sendToken]

@[simp] theorem State.sendIlToken_mem (s : State) (n rcv port code g : Nat) : (s.sendIlToken n rcv port code g).mem = s.mem := by
  simp [State.sendIlToken]

@[simp] theorem State.sealCore_mem (s : State) (g : Nat) : (s.sealCore g).mem = s.mem := by
  simp [State.sealCore]

@[simp] theorem State.unsealCore_mem (s : State) (g : Nat) : (s.unsealCore g).mem = s.mem := rfl
@[simp] theorem State.sealMboxes_mem (s : State) (n : Nat) : (s.sealMboxes n).mem = s.mem := by
  simp [State.sealMboxes]

@[simp] theorem State.emptyQueues_mem (s : State) (g : Nat) : (s.emptyQueues g).mem = s.mem := by
  simp [State.emptyQueues]

@[simp] theorem State.queuesToSpill_mem (s : State) (g n : Nat) : (s.queuesToSpill g n).mem = s.mem := by
  simp [State.queuesToSpill]

end Sys2Proof.Machine
end

section
/-! Memory stays canonical: charging, containment, traps, waits, pre-emption. -/

namespace Sys2Proof.Machine

@[simp] theorem State.owe_wf {s : State} (h : s.mem.wf = true) (g d : Nat) : (s.owe g d).mem.wf = true := by
  unfold State.owe
  split <;> simp [h]

@[simp] theorem State.mapArch_mem (s : State) (g : Arch → Arch) : (s.mapArch g).mem = s.mem := rfl
@[simp] theorem State.meetAll_mem (s : State) (dies : List Nat) (n : Nat) (b : Bool) (wd : Option Word) :
    (s.meetAll dies n b wd).mem = s.mem := rfl

@[simp] theorem State.updDomain_mem (s : State) (die n : Nat) (f : Domain → Domain) : (s.updDomain die n f).mem = s.mem := rfl
@[simp] theorem State.stopClocks_mem (s : State) (die n : Nat) : (s.stopClocks die n).mem = s.mem := by
  unfold State.stopClocks
  dsimp only
  split <;> rfl

@[simp] theorem State.idleUp_wf {s : State} (h : s.mem.wf = true) (gs : List Nat) : (s.idleUp gs).mem.wf = true := by
  unfold State.idleUp
  exact foldl_mem_wf (fun s g h => by split_ifs <;> simp [h]) _ h

@[simp] theorem State.endDomain_wf {s : State} (h : s.mem.wf = true) (die n : Nat) (to' : DomState) :
    (s.endDomain die n to').mem.wf = true := by
  unfold State.endDomain
  exact foldl_mem_wf (fun s d h => by simpa using h) _ (by simp [h])

@[simp] theorem State.breakDomains_wf {s : State} (h : s.mem.wf = true) (g : Nat) (n : Option Nat) :
    (s.breakDomains g n).mem.wf = true := by
  unfold State.breakDomains
  exact foldl_mem_wf (fun s k h => by dsimp only; split_ifs <;> simp [h]) _ h

@[simp] theorem State.releaseLines_mem (s : State) (g : Nat) : (s.releaseLines g).mem = s.mem := rfl
@[simp] theorem State.dropSfu_mem (s : State) (g : Nat) : (s.dropSfu g).mem = s.mem := rfl
@[simp] theorem State.leaveArray_mem (s : State) (g : Nat) : (s.leaveArray g).mem = s.mem := rfl
@[simp] theorem State.freeCore_wf {s : State} (h : s.mem.wf = true) (g : Nat) : (s.freeCore g).mem.wf = true := by
  simp [State.freeCore, h]

@[simp] theorem State.disarm_mem (s : State) (n : Nat) (h : Word) : (s.disarm n h).mem = s.mem := by
  unfold State.disarm
  dsimp only
  split_ifs
  · rfl
  · refine foldl_mem_eq (fun s i => ?_) _ _
    rw [State.completeObj_mem]
    split <;> [(split_ifs <;> rfl); rfl]

@[simp] theorem State.notify_mem (s : State) (g : Nat) (t : Strand) (reason tcause : Nat) (pc : Word) (pa : Nat) :
    (s.notify g t reason tcause pc pa).mem = s.mem := by
  simp [State.notify]

@[simp] theorem State.xchgMeet_mem (s : State) (quad mask : Nat) : (s.xchgMeet quad mask).mem = s.mem := by
  unfold State.xchgMeet
  extract_lets l met rest t
  split_ifs
  · exact (foldl_mem_eq (fun s e => by split_ifs <;> simp) _ _).trans rfl
  · rfl

@[simp] theorem State.xchgTokens_mem (s : State) (code g : Nat) : (s.xchgTokens code g).mem = s.mem := by
  unfold State.xchgTokens
  exact foldl_mem_eq (fun s m => by simp) _ _

@[simp] theorem State.zeroJournal_wf {s : State} (h : s.mem.wf = true) (e : Nat) : (s.zeroJournal e).mem.wf = true := by
  simp [State.zeroJournal, h]

@[simp] theorem State.alike_mem (s : State) (e : Nat) : (s.alike e).mem = s.mem := rfl
@[simp] theorem State.pairSurvives_wf {s : State} (h : s.mem.wf = true) (g : Nat) : (s.pairSurvives g).mem.wf = true := by
  unfold State.pairSurvives
  dsimp only
  split <;> simp [h]

@[simp] theorem State.unclaim_wf {s : State} (h : s.mem.wf = true) (g : Nat) : (s.unclaim g).mem.wf = true := by
  simp [State.unclaim, h]

@[simp] theorem State.haltCycle_wf {s : State} (h : s.mem.wf = true) (g : Nat) : (s.haltCycle g).mem.wf = true := by
  unfold State.haltCycle
  extract_lets e t c one
  have ht : t.mem.wf = true := by unfold t; split <;> simp [h]
  have hone {u : State} (hu : u.mem.wf = true) (k : Nat) : (one u k).mem.wf = true :=
    State.chargeSlot_wf (State.chargeSlot_wf hu _ _ _ _ _ _) _ _ _ _ _ _
  split
  · exact ht
  split
  · simp [hone (hone ht _) _]
  · simp [ht]

@[simp] theorem State.contain_wf {s : State} (h : s.mem.wf = true) (g reason tcause pa : Nat) :
    (s.contain g reason tcause pa).mem.wf = true := by
  unfold State.contain
  extract_lets s1 c paired n s2 s3 ctxAt s4 s5 s6 s7 stopped s8
  have h1 : s1.mem.wf = true := by simp [s1, h]
  have h3 : s3.mem.wf = true := by
    unfold s3 s2
    split_ifs <;> simp [h1]
  have h4 : s4.mem.wf = true := foldl_mem_wf (fun s k h => by split_ifs <;> simp [h]) _ h3
  have h5 : s5.mem.wf = true := foldl_mem_wf (fun s p h => by split_ifs <;> simp [h]) _ h4
  have h7 : s7.mem.wf = true := by simp [s7, s6, h5]
  have h8 : s8.mem.wf = true := by
    unfold s8
    split
    · exact h7
    · dsimp only
      split_ifs <;> simp [h7]
  split_ifs
  · simp [h7]
  · simp [h8]

@[simp] theorem State.trapAt_wf {s : State} (h : s.mem.wf = true) (g cause : Nat) (val pc : Word) :
    (s.trapAt g cause val pc).mem.wf = true := by
  unfold State.trapAt
  split <;> simp [h]

@[simp] theorem State.trap_wf {s : State} (h : s.mem.wf = true) (cause : Nat) (val : Word) :
    (s.trap cause val).mem.wf = true := by
  simp [State.trap, h]

@[simp] theorem State.illegal_wf {s : State} (h : s.mem.wf = true) : s.illegal.mem.wf = true := by
  simp [State.illegal, h]

@[simp] theorem trapStep_wf {s : State} (h : s.mem.wf = true) (cause : Nat) (val : Word) : Canonical (trapStep s cause val) := by
  simp [trapStep, h]

@[simp] theorem State.priv_wf {s : State} (h : s.mem.wf = true) : s.priv.mem.wf = true := by
  simp [State.priv, h]

@[simp] theorem privStep_wf {s : State} (h : s.mem.wf = true) : Canonical (privStep s) := by
  simp [privStep, h]

@[simp] theorem illegalStep_wf {s : State} (h : s.mem.wf = true) : Canonical (illegalStep s) := by
  simp [illegalStep, h]

@[simp] theorem State.separate_wf {s : State} (h : s.mem.wf = true) (g : Nat) : (s.separate g).mem.wf = true := by
  unfold State.separate
  simp only [State.updCore_mem]
  exact State.flushAcct_wf (State.endRuns_wf (by simp [h]) _) _

theorem State.suspendTo_wf {s : State} (h : s.mem.wf = true) (g : Nat) (pc : Word) {put : State → Strand → Rec → State}
    (hput : ∀ (s : State) (t : Strand) (r : Rec), s.mem.wf = true → (put s t r).mem.wf = true) : (s.suspendTo g pc put).mem.wf = true := by
  unfold State.suspendTo
  split
  · exact h
  · next t _ =>
    extract_lets r s1 s2 s3 s4 s5 s6 s7
    have h3 : s3.mem.wf = true := by simp [s3, s2, s1, h]
    have h4 : s4.mem.wf = true := by unfold s4; split_ifs <;> simp [h3]
    have h6 : s6.mem.wf = true := by unfold s6 s5; split_ifs <;> simp [h4]
    have h7 : s7.mem.wf = true := by unfold s7; split_ifs <;> [simp [h6]; exact hput _ _ _ h6]
    simp [h7]

@[simp] theorem State.requeue_mem (s : State) (t : Strand) (r : Rec) : (s.requeue t r).mem = s.mem := rfl
@[simp] theorem State.keepFreed_mem (s : State) (gs : List Nat) : (s.keepFreed gs).mem = s.mem := by
  unfold State.keepFreed
  exact foldl_mem_eq (fun _ _ => by rfl) _ _

@[simp] theorem State.preempt_wf {s : State} (h : s.mem.wf = true) (g : Nat) : (s.preempt g).mem.wf = true := by
  unfold State.preempt
  split
  · exact h
  split
  · simp [h]
  · dsimp -zeta only
    extract_lets c _ a base cells s1 s2 own sp s3 s4 dual s5 s6 _ r _ s7
    have h2 : s2.mem.wf = true := State.ownWrite_wf (by simp [s1, h]) _ _
    have h4 : s4.mem.wf = true := by simp [s4, s3, h2]
    have h5 : s5.mem.wf = true := by unfold s5; split <;> simp [h4]
    have h7 : s7.mem.wf = true := by simp [s7, s6, h5]
    split <;> simp [h7]

theorem State.takeAsync_wf {s t : State} (h : s.mem.wf = true) {g : Nat} (ht : s.takeAsync g = some t) : t.mem.wf = true := by
  unfold State.takeAsync at ht
  split at ht
  · cases ht
  · cases ht; simp [h]
  · split at ht <;> cases ht <;> simp [h]

@[simp] theorem State.rft_wf {s : State} (h : s.mem.wf = true) : Canonical s.rft := by
  unfold State.rft
  split_ifs
  · simp [illegalStep, h]
  · split <;> simp [h]

end Sys2Proof.Machine
end

section
/-! Memory stays canonical: the scalar instructions of the A slot. -/

namespace Sys2Proof.Machine

@[simp] theorem execAnop_wf {s : State} (h : s.mem.wf = true) : Canonical (execAnop s) := by
  simp [execAnop, h]

@[simp] theorem execMovi_wf {s : State} (h : s.mem.wf = true) (d : Reg) (imm : BitVec 16) (half : Bool) :
    Canonical (execMovi d imm half s) := by
  simp [execMovi, h]

@[simp] theorem execAdd_wf {s : State} (h : s.mem.wf = true) (d a b : Reg) (sat : Bool) (t : IType) :
    Canonical (execAdd d a b sat t s) := by
  simp [execAdd, h]

@[simp] theorem execSub_wf {s : State} (h : s.mem.wf = true) (d a b : Reg) (sat : Bool) (t : IType) :
    Canonical (execSub d a b sat t s) := by
  simp [execSub, h]

@[simp] theorem execMul_wf {s : State} (h : s.mem.wf = true) (d a b : Reg) (sat : Bool) (t : IType) :
    Canonical (execMul d a b sat t s) := by
  simp [execMul, h]

@[simp] theorem execMulh_wf {s : State} (h : s.mem.wf = true) (d a b : Reg) (t : IType) : Canonical (execMulh d a b t s) := by
  simp [execMulh, h]

@[simp] theorem execDiv_wf {s : State} (h : s.mem.wf = true) (d a b : Reg) (t : IType) : Canonical (execDiv d a b t s) := by
  simp [execDiv, h]

@[simp] theorem execAnd_wf {s : State} (h : s.mem.wf = true) (d a b : Reg) : Canonical (execAnd d a b s) := by
  simp [execAnd, h]

@[simp] theorem execOr_wf {s : State} (h : s.mem.wf = true) (d a b : Reg) : Canonical (execOr d a b s) := by
  simp [execOr, h]

@[simp] theorem execXor_wf {s : State} (h : s.mem.wf = true) (d a b : Reg) : Canonical (execXor d a b s) := by
  simp [execXor, h]

@[simp] theorem execShl_wf {s : State} (h : s.mem.wf = true) (d a b : Reg) (k : BitVec 5) : Canonical (execShl d a b k s) := by
  simp [execShl, h]

@[simp] theorem execShr_wf {s : State} (h : s.mem.wf = true) (d a b : Reg) (t : IType) : Canonical (execShr d a b t s) := by
  simp [execShr, h]

@[simp] theorem execMin_wf {s : State} (h : s.mem.wf = true) (d a b : Reg) (t : IType) : Canonical (execMin d a b t s) := by
  simp [execMin, h]

@[simp] theorem execMax_wf {s : State} (h : s.mem.wf = true) (d a b : Reg) (t : IType) : Canonical (execMax d a b t s) := by
  simp [execMax, h]

@[simp] theorem execCmp_wf {s : State} (h : s.mem.wf = true) (c : Cond) (q : QReg) (a b : Reg) (t : IType) :
    Canonical (execCmp c q a b t s) := by
  simp [execCmp, h]

@[simp] theorem execSel_wf {s : State} (h : s.mem.wf = true) (d a b : Reg) (sense : Bool) (q : QReg) :
    Canonical (execSel d a b sense q s) := by
  simp [execSel, h]

@[simp] theorem execBits_wf {s : State} (h : s.mem.wf = true) (d a : Reg) (op : BitOp) : Canonical (execBits d a op s) := by
  simp [execBits, h]

@[simp] theorem execBfx_wf {s : State} (h : s.mem.wf = true) (d a b : Reg) : Canonical (execBfx d a b s) := by
  simp [execBfx, h]

@[simp] theorem execPred_wf {s : State} (h : s.mem.wf = true) (q : QReg) (a b : Reg) (inv : Bool) :
    Canonical (execPred q a b inv s) := by
  simp [execPred, h]

@[simp] theorem execLea_wf {s : State} (h : s.mem.wf = true) (d a : Reg) (imm : BitVec 11) : Canonical (execLea d a imm s) := by
  simp [execLea, h]

@[simp] theorem execHash_wf {s : State} (h : s.mem.wf = true) (d a b : Reg) : Canonical (execHash d a b s) := by
  simp [execHash, h]

@[simp] theorem State.claimDraws_mem (s : State) (r : Rnd) (n : Nat) : (s.claimDraws r n).mem = s.mem := by
  unfold State.claimDraws
  split <;> rfl

@[simp] theorem State.floatX_wf {s : State} (h : s.mem.wf = true) (d : Reg) (r : Rnd) (lat : Nat) (v : Nat × FpFlags) :
    Canonical (s.floatX d r lat v) := by
  simp [State.floatX, h]

@[simp] theorem execFadd_wf {s : State} (h : s.mem.wf = true) (d a b : Reg) (f : FFmt) (r : Rnd) :
    Canonical (execFadd d a b f r s) := by
  simp [execFadd, h]

@[simp] theorem execFmul_wf {s : State} (h : s.mem.wf = true) (d a b : Reg) (f : FFmt) (r : Rnd) :
    Canonical (execFmul d a b f r s) := by
  simp [execFmul, h]

@[simp] theorem execFfma_wf {s : State} (h : s.mem.wf = true) (d a b : Reg) (f : FFmt) (r : Rnd) :
    Canonical (execFfma d a b f r s) := by
  simp [execFfma, h]

@[simp] theorem execFdiv_wf {s : State} (h : s.mem.wf = true) (d a b : Reg) (f : FFmt) (r : Rnd) :
    Canonical (execFdiv d a b f r s) := by
  simp [execFdiv, h]

@[simp] theorem execFcmp_wf {s : State} (h : s.mem.wf = true) (c : Cond) (q : QReg) (a b : Reg) (f : FFmt) :
    Canonical (execFcmp c q a b f s) := by
  simp [execFcmp, h]

@[simp] theorem execFcvt_wf {s : State} (h : s.mem.wf = true) (d a : Reg) (ovf : Bool) (sf df : FFmt) (r : Rnd) :
    Canonical (execFcvt d a ovf sf df r s) := by
  simp [execFcvt, h]

@[simp] theorem execFmnx_wf {s : State} (h : s.mem.wf = true) (d a b : Reg) (f : FFmt) (mx : Bool) :
    Canonical (execFmnx d a b f mx s) := by
  simp [execFmnx, h]

end Sys2Proof.Machine
end

section
/-! Memory stays canonical: control instructions of the C slot. -/

namespace Sys2Proof.Machine

@[simp] theorem execNop_wf {s : State} (h : s.mem.wf = true) : Canonical (execNop s) := by
  simp [execNop, h]

@[simp] theorem execLitx_wf {s : State} (h : s.mem.wf = true) (d a : Reg) (lit : BitVec 32) : Canonical (execLitx d a lit s) := by
  simp [execLitx, h]

@[simp] theorem execBra_wf {s : State} (h : s.mem.wf = true) (q : QReg) (sense : Bool) (off : BrOff) :
    Canonical (execBra q sense off s) := by
  unfold execBra
  split <;> simp [h]

@[simp] theorem execCall_wf {s : State} (h : s.mem.wf = true) (q : QReg) (sense : Bool) (off : BrOff) :
    Canonical (execCall q sense off s) := by
  unfold execCall
  split <;> simp [h]

@[simp] theorem execJmp_wf {s : State} (h : s.mem.wf = true) (d a : Reg) (disp : JDisp) : Canonical (execJmp d a disp s) := by
  simp [execJmp, h]

@[simp] theorem execRet_wf {s : State} (h : s.mem.wf = true) (a : Reg) : Canonical (execRet a s) := by
  simp [execRet, h]

@[simp] theorem execLoop_wf {s : State} (h : s.mem.wf = true) (a : Reg) (n : BitVec 10) : Canonical (execLoop a n s) := by
  unfold execLoop
  dsimp only
  split_ifs <;> simp [h]

@[simp] theorem execRunMacro_wf {s : State} (h : s.mem.wf = true) (d a b : Reg) (e : MacroSel) :
    Canonical (execRunMacro d a b e s) := by
  unfold execRunMacro
  split <;> simp [h]

@[simp] theorem execTrap_wf {s : State} (h : s.mem.wf = true) (imm : BitVec 10) : Canonical (execTrap imm s) := by
  simp [execTrap, h]

@[simp] theorem execDbrk_wf {s : State} (h : s.mem.wf = true) (imm : BitVec 10) : Canonical (execDbrk imm s) := by
  simp [execDbrk, h]

@[simp] theorem execRft_wf {s : State} (h : s.mem.wf = true) : Canonical (execRft s) := by
  simp [execRft, h]

@[simp] theorem execIcsync_wf {s : State} (h : s.mem.wf = true) : Canonical (execIcsync s) := by
  unfold execIcsync
  split <;> simp [h]

@[simp] theorem execMode_wf {s : State} (h : s.mem.wf = true) (m : BitVec 2) : Canonical (execMode m s) := by
  unfold execMode
  split <;> simp [h]

@[simp] theorem execModeMe_wf {s : State} (h : s.mem.wf = true) (e : Bool) : Canonical (execModeMe e s) := by
  simp [execModeMe, h]

@[simp] theorem execPrio_wf {s : State} (h : s.mem.wf = true) (d a : Reg) (imm : BitVec 7) : Canonical (execPrio d a imm s) := by
  unfold execPrio
  dsimp only
  (repeat' split) <;> simp [h]

end Sys2Proof.Machine
end

section
/-! Memory stays canonical: translation, core accesses and engine accesses. -/

namespace Sys2Proof.Machine

@[simp] theorem State.startWalk_mem (s : State) (g n : Nat) : (s.startWalk g n).1.mem = s.mem := by
  unfold State.startWalk
  split <;> rfl

@[simp] theorem State.translated_mem (s : State) (g va : Nat) (k : XKind) : (s.translated g va k).1.mem = s.mem := by
  have hfire (l : List Nat) : (l.foldl (fun s a => (s.fireSector (dieOf g) false (a / 32)).1) s).mem = s.mem :=
    foldl_mem_eq (fun s a => State.fireSector_mem s _ _ _) _ _
  unfold State.translated
  dsimp only
  split <;> simp [hfire]

@[simp] theorem State.translate_mem (s : State) (g va : Nat) (k : XKind) : (s.translate g va k).1.mem = s.mem := by
  unfold State.translate
  dsimp only
  split <;> simp

/-- A fold of pairs whose states each keep the memory keeps it. -/
theorem foldl_fst_mem_eq {α β : Type} {f : State × β → α → State × β} (hf : ∀ (r : State × β) (a : α), (f r a).1.mem = r.1.mem)
    (l : List α) (r : State × β) : (l.foldl f r).1.mem = r.1.mem := by
  induction l generalizing r with
  | nil => rfl
  | cons a l ih => exact (ih _).trans (hf r a)

@[simp] theorem State.translateRange_mem (s : State) (g va n : Nat) (k : XKind) : (s.translateRange g va n k).1.mem = s.mem := by
  refine foldl_fst_mem_eq (fun r p => ?_) _ _
  grind [State.translate_mem]

@[simp] theorem State.recordBias_mem (s : State) (biasd : Bool) (k : Nat) : (s.recordBias biasd k).mem = s.mem := by
  unfold State.recordBias
  split <;> rfl

@[simp] theorem State.recordBiases_mem (s : State) (tr : List (Nat × Xlated)) : (s.recordBiases tr).mem = s.mem := by
  unfold State.recordBiases
  exact foldl_mem_eq (fun s p => State.recordBias_mem s _ _) _ _

theorem State.fixVlds_mem {s t : State} {g : Nat} (ht : s.fixVlds g = some t) : t.mem = s.mem := by
  unfold State.fixVlds at ht
  dsimp only at ht
  split at ht
  · cases ht; rfl
  · split at ht <;> cases ht
    rfl

@[simp] theorem State.access_mem (s : State) (g : Nat) (va : Word) (n : Nat) (k : XKind) (bp : List Nat) (ctl : CtlRule) :
    (s.access g va n k bp ctl).1.mem = s.mem := by
  have hr : (s.translateRange g va.toNat n k).1.mem = s.mem := State.translateRange_mem _ _ _ _ _
  unfold State.access
  generalize s.translateRange g va.toNat n k = r at hr ⊢
  obtain ⟨t, r⟩ := r
  split
  · rfl
  split
  · rfl
  cases r with
  | error e => exact hr
  | ok tr =>
    dsimp only
    split
    · exact hr
    split
    · exact hr
    · split <;> simpa using hr

@[simp] theorem State.coreRead_wf {s : State} (h : s.mem.wf = true) (g : Nat) (va : Word) (n : Nat) (k : XKind) (ctl : CtlRule) :
    (s.coreRead g va n k ctl).1.mem.wf = true := by
  have ht : (s.access g va n k [2] ctl).1.mem.wf = true := by rwa [State.access_mem]
  unfold State.coreRead
  generalize s.access g va n k [2] ctl = r at ht ⊢
  obtain ⟨t, r⟩ := r
  cases r with
  | ok tr =>
    dsimp -zeta only
    extract_lets keys
    split
    · exact ht
    split
    · exact ht
    split
    · exact ht
    split
    · exact ht
    · exact ht
    next u bs hu _ =>
      extract_lets r
      have hr : r.1.mem.wf = true := by
        unfold r
        split_ifs <;> simp [State.fixVlds_mem hu, ht]
      split
      · exact State.contain_wf hr _ _ _ _
      · split <;> exact hr
  | _ => exact ht

@[simp] theorem State.pushStore_mem (s : State) (g : Nat) (e : SbEntry) : (s.pushStore g e).mem = s.mem := by
  unfold State.pushStore
  split <;> rfl

@[simp] theorem State.coreWrite_mem (s : State) (g : Nat) (va : Word) (bs : List Byte) (rel : Option Scope) (ctl : CtlRule) :
    (s.coreWrite g va bs rel ctl).1.mem = s.mem := by
  have ht : (s.access g va bs.length .write [3] ctl).1.mem = s.mem := State.access_mem _ _ _ _ _ _ _
  unfold State.coreWrite
  dsimp only
  generalize s.access g va bs.length .write [3] ctl = r at ht ⊢
  obtain ⟨t, r⟩ := r
  cases r with
  | ok tr =>
    dsimp only
    split
    · exact ht
    · split
      · exact ht
      · split
        · exact ht
        · exact (foldl_mem_eq (fun s p => by simp) _ _).trans ht
  | _ => exact ht

@[simp] theorem State.coreWriteWords_mem (s : State) (g : Nat) (va : Word) (ws : List Word) (done : Nat) :
    (s.coreWriteWords g va ws done).1.mem = s.mem := by
  have ht : (s.access g va (8 * ws.length) .write [3] .align).1.mem = s.mem := State.access_mem _ _ _ _ _ _ _
  unfold State.coreWriteWords
  dsimp only
  generalize s.access g va (8 * ws.length) .write [3] .align = r at ht ⊢
  obtain ⟨t, r⟩ := r
  cases r with
  | ok tr =>
    dsimp only
    split
    · exact ht
    · split
      · exact ht
      · split
        · exact ht
        · exact (foldl_mem_eq (fun s p => by simp) _ _).trans ht
  | _ => exact ht

/-- An access that waits, traps or is cut off leaves the state that it has reached; one that succeeds goes on. -/
theorem Got.step_wf {α : Type} {r : State × Got α} {f : State → α → Step} (h : r.1.mem.wf = true)
    (hf : ∀ (t : State) (a : α), t.mem.wf = true → Canonical (f t a)) : Canonical (Got.step r f) := by
  obtain ⟨t, r⟩ := r
  cases r with
  | wait c => exact State.hold_wf h c
  | trap c v => simpa [Got.step] using State.trap_wf h c v
  | gone => simpa [Got.step] using h
  | ok a => exact hf t a h

@[simp] theorem State.engineWrites_wf {s : State} (h : s.mem.wf = true) (parts : List (Bool × List Host.Cell)) :
    (s.engineWrites parts).mem.wf = true := by
  unfold State.engineWrites
  exact foldl_mem_wf (fun s p h => State.homeWrite_wf h _ _ _) _ h

@[simp] theorem State.engineWrite_wf {s : State} (h : s.mem.wf = true) (exempt : Bool) (cs : List Host.Cell) :
    (s.engineWrite exempt cs).mem.wf = true := by
  simp [State.engineWrite, h]

@[simp] theorem State.takeLines_mem (s : State) (e : Eng) (keys : List Nat) : (s.takeLines e keys).mem = s.mem := rfl
@[simp] theorem State.dropLines_mem (s : State) (e : Eng) (keys : List Nat) : (s.dropLines e keys).mem = s.mem := rfl
@[simp] theorem State.dropAll_mem (s : State) (e : Eng) : (s.dropAll e).mem = s.mem := rfl

end Sys2Proof.Machine
end

section
/-! Memory stays canonical: the CSRs, ACCT, TELEM and XLAT. -/

namespace Sys2Proof.Machine

@[simp] theorem State.foldPrint_mem (s : State) (g : Nat) (ws : List Word) : (s.foldPrint g ws).mem = s.mem := by
  unfold State.foldPrint
  split <;> rfl

@[simp] theorem State.foldLate_mem (s : State) (g : Nat) (ws : List Word) : (s.foldLate g ws).mem = s.mem := by
  unfold State.foldLate
  split <;> rfl

@[simp] theorem State.printEntry_mem (s : State) (g : Nat) (trap : Bool) (i : Instr) : (s.printEntry g trap i).mem = s.mem := by
  simp [State.printEntry]

@[simp] theorem State.updWait_mem (s : State) (f : WaitSt → WaitSt) : (s.updWait f).mem = s.mem := rfl
/-- Whichever way the write of a register ends, the memory of its state is in its canonical form. -/
def CanonicalPut (r : Except State State) : Prop := ∀ t, r = .ok t ∨ r = .error t → t.mem.wf = true
@[simp] theorem canonicalPut_ok (t : State) : CanonicalPut (.ok t) ↔ t.mem.wf = true := by simp [CanonicalPut]
@[simp] theorem canonicalPut_error (t : State) : CanonicalPut (.error t) ↔ t.mem.wf = true := by simp [CanonicalPut]
@[simp] theorem State.afterAccesses_wf {s : State} (h : s.mem.wf = true) {f : State → State} (hf : (f s).mem.wf = true) :
    CanonicalPut (s.afterAccesses f) := by
  unfold State.afterAccesses
  split_ifs <;> simp [h, hf]

@[simp] theorem State.putVshape_wf {s : State} (h : s.mem.wf = true) (v : Word) : CanonicalPut (s.putVshape v) := by
  unfold State.putVshape
  split_ifs <;> simp [h]

@[simp] theorem State.pushMxq_mem (s : State) (i : Instr) (trap : Bool) (xs : List Word) (seed : BitVec 32) (pages : List (Nat × Nat)) :
    (s.pushMxq i trap xs seed pages).mem = s.mem := rfl

@[simp] theorem State.putTshape_wf {s : State} (h : s.mem.wf = true) (n : Nat) (v : Word) : CanonicalPut (s.putTshape n v) := by
  unfold State.putTshape
  dsimp only
  split_ifs <;> simp [h]

@[simp] theorem State.putRaf_wf {s : State} (h : s.mem.wf = true) (n : Nat) (v : Word) : CanonicalPut (s.putRaf n v) := by
  unfold State.putRaf
  split_ifs <;> simp [h]

@[simp] theorem State.putAcct_wf {s : State} (h : s.mem.wf = true) (base : Bool) (v : Word) :
    (s.putAcct base v).mem.wf = true := by
  unfold State.putAcct
  simp only [State.updCopies_mem]
  exact foldl_mem_wf (fun s g h => by split <;> simp [h]) _ h

@[simp] theorem State.putSrseed_mem (s : State) (v : Word) : (s.putSrseed v).mem = s.mem := rfl
@[simp] theorem State.putInjctl_mem (s : State) (v : Word) : (s.putInjctl v).mem = s.mem := rfl
@[simp] theorem State.putStash_wf {s : State} (h : s.mem.wf = true) (quad : Nat) (v : Word) :
    (s.putStash quad v).2.mem.wf = true := by
  unfold State.putStash
  dsimp only
  split_ifs <;> simp [h]

@[simp] theorem State.putStashCsr_wf {s : State} (h : s.mem.wf = true) (v : Word) : CanonicalPut (s.putStashCsr v) := by
  have hput : (s.putStash (quadOf s.cur) v).2.mem.wf = true := State.putStash_wf h _ _
  unfold State.putStashCsr
  generalize s.putStash (quadOf s.cur) v = r at hput ⊢
  split_ifs
  · simp [h]
  · simp [h]
  · split
    · simpa using hput
    · exact (canonicalPut_error _).2 (State.trap_wf hput _ _)

@[simp] theorem State.readWindows_wf {s : State} (h : s.mem.wf = true) (g : Nat) (v : Word) :
    (s.readWindows g v).1.mem.wf = true := by
  have hr : (s.coreRead g (v &&& 0x00FFFFFFFFFFFFC0#64) (16 * fld v 4 0) .read .align).1.mem.wf = true := State.coreRead_wf h _ _ _ _ _
  unfold State.readWindows
  dsimp only
  generalize s.coreRead g (v &&& 0x00FFFFFFFFFFFFC0#64) (16 * fld v 4 0) .read .align = r at hr ⊢
  obtain ⟨t, r⟩ := r
  split
  · exact h
  · cases r with
    | ok p => dsimp only; split <;> exact hr
    | _ => exact hr

@[simp] theorem State.putSlottbl_wf {s : State} (h : s.mem.wf = true) (v : Word) : CanonicalPut (s.putSlottbl v) := by
  have hr : (s.readWindows s.cur (slotKeep v)).1.mem.wf = true := State.readWindows_wf h _ _
  unfold State.putSlottbl
  dsimp only
  generalize s.readWindows s.cur (slotKeep v) = r at hr ⊢
  obtain ⟨t, r⟩ := r
  split
  · simp [h]
  · cases r <;> simp [hr]

@[simp] theorem State.csrPut_wf {s : State} (h : s.mem.wf = true) (n : Nat) (v : Word) : CanonicalPut (s.csrPut n v) := by
  have hv := State.putVshape_wf h v
  have ht := State.putTshape_wf h (n - 0x28) v
  have hs := State.putStashCsr_wf h v
  have hr := State.putRaf_wf h (n - 0x40) v
  have hl := State.putSlottbl_wf h v
  unfold State.csrPut
  repeat' (with_reducible refine iteInduction (fun _ => ?_) (fun _ => ?_))
  all_goals first | assumption | simp [h]

@[simp] theorem State.csrSwap_wf {s : State} (h : s.mem.wf = true) (d : Reg) (n : Nat) (v : Word) :
    Canonical (s.csrSwap d n v) := by
  have hput := State.csrPut_wf h n v
  unfold State.csrSwap
  split
  · simp [privStep, h]
  split
  · simp [h]
  split
  · next t ht =>
    have := hput t (.inl ht)
    split_ifs <;> simp [this]
  · next t ht => exact canonical_next_of (hput t (.inr ht))

@[simp] theorem execCsrr_wf {s : State} (h : s.mem.wf = true) (d : Reg) (n : BitVec 10) : Canonical (execCsrr d n s) := by
  unfold execCsrr
  split_ifs <;> simp [h]

@[simp] theorem execCsrw_wf {s : State} (h : s.mem.wf = true) (d a : Reg) (n : BitVec 10) : Canonical (execCsrw d a n s) := by
  unfold execCsrw
  split <;> simp [h]

@[simp] theorem execVshapeWrite_wf {s : State} (h : s.mem.wf = true) (d a : Reg) : Canonical (execVshapeWrite d a s) := by
  simp [execVshapeWrite, h]

@[simp] theorem execTshapeWrite_wf {s : State} (h : s.mem.wf = true) (n : BitVec 3) (d a : Reg) :
    Canonical (execTshapeWrite n d a s) := by
  simp [execTshapeWrite, h]

@[simp] theorem execStashcfgWrite_wf {s : State} (h : s.mem.wf = true) (d a : Reg) : Canonical (execStashcfgWrite d a s) := by
  simp [execStashcfgWrite, h]

@[simp] theorem execRafWrite_wf {s : State} (h : s.mem.wf = true) (n : BitVec 4) (d a : Reg) :
    Canonical (execRafWrite n d a s) := by
  simp [execRafWrite, h]

@[simp] theorem execAcctctlWrite_wf {s : State} (h : s.mem.wf = true) (d a : Reg) (base : Bool) :
    Canonical (execAcctctlWrite d a base s) := by
  simp [execAcctctlWrite, h]

@[simp] theorem execSlottblWrite_wf {s : State} (h : s.mem.wf = true) (d a : Reg) : Canonical (execSlottblWrite d a s) := by
  simp [execSlottblWrite, h]

@[simp] theorem execSrseedWrite_wf {s : State} (h : s.mem.wf = true) (d a : Reg) : Canonical (execSrseedWrite d a s) := by
  simp [execSrseedWrite, h]

@[simp] theorem execInjArm_wf {s : State} (h : s.mem.wf = true) (d a : Reg) : Canonical (execInjArm d a s) := by
  simp [execInjArm, h]

@[simp] theorem State.stashImage_wf {s : State} (h : s.mem.wf = true) (quad : Nat) (v : Word) :
    (s.stashImage quad v).mem.wf = true := by
  simp [State.stashImage, h]

@[simp] theorem execStashcfgImageWrite_wf {s : State} (h : s.mem.wf = true) (quad : Nat) (v : Word) :
    Canonical (execStashcfgImageWrite quad v s) := by
  simp [execStashcfgImageWrite, h]

@[simp] theorem execAcctCtx_wf {s : State} (h : s.mem.wf = true) (d : Reg) (layer : BitVec 2) (cause : BitVec 4) :
    Canonical (execAcctCtx d layer cause s) := by
  simp [execAcctCtx, h]

@[simp] theorem execAcctCore_wf {s : State} (h : s.mem.wf = true) (d : Reg) (cause : BitVec 4) :
    Canonical (execAcctCore d cause s) := by
  simp [execAcctCore, h]

@[simp] theorem State.acctMark_wf {s : State} (h : s.mem.wf = true) (v : Word) : (s.acctMark v).mem.wf = true := by
  unfold State.acctMark
  extract_lets full s1 s2
  have h1 : s1.mem.wf = true := State.endRuns_wf h _
  have h2 : s2.mem.wf = true := by unfold s2; split <;> simp [h1]
  split
  · exact h
  · split <;> simp [h2]

@[simp] theorem execAcctMark_wf {s : State} (h : s.mem.wf = true) (a : Reg) : Canonical (execAcctMark a s) := by
  simp [execAcctMark, h]

@[simp] theorem execTelem_wf {s : State} (h : s.mem.wf = true) (d : Reg) (item : BitVec 3) : Canonical (execTelem d item s) := by
  simp [execTelem, h]

@[simp] theorem execXlat_wf {s : State} (h : s.mem.wf = true) (d a : Reg) (k : XlatKind) : Canonical (execXlat d a k s) := by
  have ht : (s.translate s.cur (s.me.x a).toNat (probeKind k)).1.mem.wf = true := by rwa [State.translate_mem]
  unfold execXlat
  dsimp only
  generalize s.translate s.cur (s.me.x a).toNat (probeKind k) = r at ht ⊢
  obtain ⟨t, r⟩ := r
  split
  · simp [h]
  · cases r with
    | error e => simpa using ht
    | ok x =>
      dsimp only
      split
      · simpa using ht
      · split <;> [simpa using ht; (split_ifs <;> simpa using ht)]

end Sys2Proof.Machine
end

section
/-! Memory stays canonical: the vector sequencer and the SFU. -/

namespace Sys2Proof.Machine

@[simp] theorem State.closeBody_mem (s : State) (g : Nat) : (s.closeBody g).mem = s.mem := rfl
@[simp] theorem State.enterV_mem (s : State) (i : Instr) (xs : List Word) (addrs : List (Nat × Nat)) :
    (s.enterV i xs addrs).mem = s.mem := rfl

@[simp] theorem State.issueV_wf {s : State} (h : s.mem.wf = true) (i : Instr) (xs : List Word) : Canonical (s.issueV i xs) := by
  unfold State.issueV
  dsimp only
  split_ifs <;> simp [h]

@[simp] theorem execVadd_wf {s : State} (h : s.mem.wf = true) (d a b : VReg) (t : VArith) : Canonical (execVadd d a b t s) := by
  simp [execVadd, h]

@[simp] theorem execVsub_wf {s : State} (h : s.mem.wf = true) (d a b : VReg) (t : VArith) : Canonical (execVsub d a b t s) := by
  simp [execVsub, h]

@[simp] theorem execVmul_wf {s : State} (h : s.mem.wf = true) (d a b : VReg) (t : VArith) : Canonical (execVmul d a b t s) := by
  simp [execVmul, h]

@[simp] theorem execVfma_wf {s : State} (h : s.mem.wf = true) (d a b : VReg) (f : VFmt) (r : Rnd) :
    Canonical (execVfma d a b f r s) := by
  simp [execVfma, h]

@[simp] theorem execVmin_wf {s : State} (h : s.mem.wf = true) (d a b : VReg) (t : VType) : Canonical (execVmin d a b t s) := by
  simp [execVmin, h]

@[simp] theorem execVmax_wf {s : State} (h : s.mem.wf = true) (d a b : VReg) (t : VType) : Canonical (execVmax d a b t s) := by
  simp [execVmax, h]

@[simp] theorem execVlog_wf {s : State} (h : s.mem.wf = true) (d a b : VReg) (op : LogOp) : Canonical (execVlog d a b op s) := by
  simp [execVlog, h]

@[simp] theorem execVsh_wf {s : State} (h : s.mem.wf = true) (d a : VReg) (amt : ShAmt) (right : Bool) :
    Canonical (execVsh d a amt right s) := by
  simp [execVsh, h]

@[simp] theorem execVcmp_wf {s : State} (h : s.mem.wf = true) (d a b : VReg) (t : VType) (c : Cond) :
    Canonical (execVcmp d a b t c s) := by
  simp [execVcmp, h]

@[simp] theorem execVsel_wf {s : State} (h : s.mem.wf = true) (d a b : VReg) : Canonical (execVsel d a b s) := by
  simp [execVsel, h]

@[simp] theorem execVred_wf {s : State} (h : s.mem.wf = true) (d a : VReg) (op : RedOp) (col : Bool) (t : VType) (r : Rnd) :
    Canonical (execVred d a op col t r s) := by
  simp [execVred, h]

@[simp] theorem execVscan_wf {s : State} (h : s.mem.wf = true) (d a : VReg) (op : RedOp) (col : Bool) (t : VType) (r : Rnd) :
    Canonical (execVscan d a op col t r s) := by
  simp [execVscan, h]

@[simp] theorem execVperm_wf {s : State} (h : s.mem.wf = true) (d a b : VReg) : Canonical (execVperm d a b s) := by
  simp [execVperm, h]

@[simp] theorem execVcvt_wf {s : State} (h : s.mem.wf = true) (d a : VReg) (dt st : EType) (sc : Bool) (r : Rnd) (ovf : Bool) :
    Canonical (execVcvt d a dt st sc r ovf s) := by
  simp [execVcvt, h]

@[simp] theorem execVsfu_wf {s : State} (h : s.mem.wf = true) (d a : VReg) (fn : SfuFn) (f : VFmt) :
    Canonical (execVsfu d a fn f s) := by
  simp [execVsfu, h]

@[simp] theorem execVenc_wf {s : State} (h : s.mem.wf = true) (d a : VReg) (ovf : Bool) : Canonical (execVenc d a ovf s) := by
  simp [execVenc, h]

@[simp] theorem execVdec_wf {s : State} (h : s.mem.wf = true) (d a : VReg) : Canonical (execVdec d a s) := by
  simp [execVdec, h]

@[simp] theorem execVabs_wf {s : State} (h : s.mem.wf = true) (d a : VReg) (t : VType) : Canonical (execVabs d a t s) := by
  simp [execVabs, h]

@[simp] theorem execVbits_wf {s : State} (h : s.mem.wf = true) (d a : VReg) (op : BitOp) : Canonical (execVbits d a op s) := by
  simp [execVbits, h]

@[simp] theorem execVdot_wf {s : State} (h : s.mem.wf = true) (d a b : VReg) (t : VDotT) : Canonical (execVdot d a b t s) := by
  simp [execVdot, h]

@[simp] theorem execViota_wf {s : State} (h : s.mem.wf = true) (d a b : Reg) (t : IType) : Canonical (execViota d a b t s) := by
  simp [execViota, h]

@[simp] theorem execVclmp_wf {s : State} (h : s.mem.wf = true) (d a b : Reg) (t : VType) : Canonical (execVclmp d a b t s) := by
  simp [execVclmp, h]

@[simp] theorem execVmov_wf {s : State} (h : s.mem.wf = true) (d a b : Reg) (mode : BitVec 2) :
    Canonical (execVmov d a b mode s) := by
  unfold execVmov
  split_ifs <;> simp [h]

@[simp] theorem execVrep_wf {s : State} (h : s.mem.wf = true) (nb : BitVec 4) (a : Reg) (imm : BitVec 11) :
    Canonical (execVrep nb a imm s) := by
  unfold execVrep
  split <;> simp [h]

@[simp] theorem State.extraCycles_wf {s : State} (h : s.mem.wf = true) (n : Nat) : (s.extraCycles n).mem.wf = true := by
  simp [State.extraCycles, h]

@[simp] theorem execVld_wf {s : State} (h : s.mem.wf = true) (d : Reg) (row : Bool) (m : MemOp) :
    Canonical (execVld d row m s) := by
  unfold execVld
  dsimp only
  split
  · simp [h]
  split
  · simp [h]
  · refine Got.step_wf (by simp [h]) fun t tr ht => ?_
    split <;> simp [ht]

@[simp] theorem execVst_wf {s : State} (h : s.mem.wf = true) (d : Reg) (m : MemOp) : Canonical (execVst d m s) := by
  unfold execVst
  dsimp only
  split_ifs
  · simp [illegalStep, h]
  · simp [h]
  · refine Got.step_wf (by simp [h]) fun t tr ht => ?_
    split
    · simp [ht]
    · split_ifs
      · simp [ht]
      · simp [ht]
      · exact canonical_next_of (foldl_mem_wf (fun s e h => by simpa using h) _ (by simp [ht]))

@[simp] theorem State.engineAddrs_mem (s : State) (g : Nat) (k : XKind) (w : Nat) (vas : List Nat) :
    (s.engineAddrs g k w vas).1.mem = s.mem := by
  have hfold := fun f hf => foldl_fst_mem_eq (β := List (Nat × Nat) × List (Nat × Nat)) (f := f) hf vas (s, [], [])
  unfold State.engineAddrs
  dsimp only
  split <;>
  · refine hfold _ fun r va => ?_
    grind [State.translateRange_mem]

@[simp] theorem State.recordHosts_mem (s : State) (k : XKind) (vas : List Nat) : (s.recordHosts k vas).mem = s.mem := by
  unfold State.recordHosts
  exact foldl_mem_eq (fun s v => by split <;> simp) _ _

@[simp] theorem State.gather_wf {s : State} (h : s.mem.wf = true) (write : Bool) (i : Instr) (a b : Reg) (sc : BitVec 2) :
    Canonical (s.gather write i a b sc) := by
  unfold State.gather
  extract_lets c sh w idx vas k
  have hr : (s.engineAddrs s.cur k w vas).1.mem.wf = true := by rwa [State.engineAddrs_mem]
  generalize s.engineAddrs s.cur k w vas = r at hr ⊢
  obtain ⟨t, r⟩ := r
  split
  · simp [h]
  split
  · simp [h]
  split
  · simp [h]
  split
  · simp [h]
  split
  · simp [h]
  split
  · simp [h]
  cases r with
  | error e => simp [hr]
  | ok addrs =>
    dsimp only
    split
    · simp [hr]
    split
    · simp [hr]
    split
    · simp [hr]
    split
    · simp [hr]
    · split_ifs <;> simp [hr]

@[simp] theorem execVgath_wf {s : State} (h : s.mem.wf = true) (d a b : Reg) (sc : BitVec 2) :
    Canonical (execVgath d a b sc s) := by
  simp [execVgath, h]

@[simp] theorem execVscat_wf {s : State} (h : s.mem.wf = true) (d a b : Reg) (sc : BitVec 2) :
    Canonical (execVscat d a b sc s) := by
  simp [execVscat, h]

@[simp] theorem State.vFault_mem (s : State) (g : Nat) (i : Instr) (cause va : Nat) : (s.vFault g i cause va).mem = s.mem := rfl
@[simp] theorem State.vCompute_mem (s : State) (g : Nat) (e : VEntry) : (s.vCompute g e).mem = s.mem := rfl
@[simp] theorem State.vArrive_mem (s : State) (g : Nat) (e : VEntry) (byte : Nat → Byte) : (s.vArrive g e byte).mem = s.mem := rfl
@[simp] theorem State.vLoad_wf {s : State} (h : s.mem.wf = true) (g : Nat) (e : VEntry) : (s.vLoad g e).mem.wf = true := by
  unfold State.vLoad
  dsimp only
  (repeat' split) <;> simp [h]

@[simp] theorem State.vStore_mem (s : State) (g : Nat) (e : VEntry) : (s.vStore g e).mem = s.mem := by
  unfold State.vStore
  split <;> simp

@[simp] theorem State.vScatter_wf {s : State} (h : s.mem.wf = true) (g : Nat) (e : VEntry) : (s.vScatter g e).mem.wf = true := by
  simp [State.vScatter, h]

@[simp] theorem State.vRun_wf {s : State} (h : s.mem.wf = true) (g : Nat) (e : VEntry) : (s.vRun g e).mem.wf = true := by
  unfold State.vRun
  (repeat' split) <;> simp [h]

@[simp] theorem State.vSend_mem (s : State) (g : Nat) (i : Instr) : (s.vSend g i).mem = s.mem := rfl
@[simp] theorem State.vPerform_wf {s : State} (h : s.mem.wf = true) (g : Nat) (e : VEntry) : (s.vPerform g e).mem.wf = true := by
  unfold State.vPerform
  dsimp only
  split <;> simp [h]

@[simp] theorem State.sfuReturn_mem (s : State) (g : Nat) : (s.sfuReturn g).mem = s.mem := by
  unfold State.sfuReturn
  (repeat' split) <;> simp

@[simp] theorem State.sfuReturns_mem (s : State) (quad : Nat) : (s.sfuReturns quad).mem = s.mem := by
  unfold State.sfuReturns
  exact foldl_mem_eq (fun s i => State.sfuReturn_mem s (4 * quad + i)) _ _

@[simp] theorem State.vBeat_wf {s : State} (h : s.mem.wf = true) (g : Nat) (e : VEntry) : (s.vBeat g e).mem.wf = true := by
  unfold State.vBeat
  split_ifs <;> simp [h]

@[simp] theorem execVectorBeatGrant_wf {s : State} (h : s.mem.wf = true) (quad group : Nat) :
    Canonical (execVectorBeatGrant quad group s) := by
  unfold execVectorBeatGrant
  dsimp only
  (repeat' split) <;> simp [h]

@[simp] theorem execStreamPortGrant_wf {s : State} (h : s.mem.wf = true) (quad : Nat) :
    Canonical (execStreamPortGrant quad s) := by
  unfold execStreamPortGrant
  dsimp only
  (repeat' split) <;> simp [h]

@[simp] theorem State.sfuRequests_mem (s : State) (quad : Nat) : (s.sfuRequests quad).mem = s.mem := by
  unfold State.sfuRequests
  refine foldl_mem_eq (fun s i => ?_) _ _
  dsimp only
  split <;> [rfl; (split_ifs <;> rfl)]

@[simp] theorem State.sfuLand_mem (s : State) (g : Nat) : (s.sfuLand g).mem = s.mem := by
  unfold State.sfuLand
  (repeat' split) <;> rfl

@[simp] theorem State.sfuCycle_wf {s : State} (h : s.mem.wf = true) (quad : Nat) : (s.sfuCycle quad).mem.wf = true := by
  unfold State.sfuCycle
  dsimp only
  (repeat' split) <;> simp [h]

@[simp] theorem execSfuService_wf {s : State} (h : s.mem.wf = true) (quad : Nat) : Canonical (execSfuService quad s) := by
  simp [execSfuService, h]

end Sys2Proof.Machine
end

section
/-! Memory stays canonical: the MXU queue, the array and the tile port. -/

namespace Sys2Proof.Machine

@[simp] theorem State.mxfmt_wf {s : State} (h : s.mem.wf = true) (reg code : Nat) : Canonical (s.mxfmt reg code) := by
  simp [State.mxfmt, h]

@[simp] theorem State.updBank_mem (s : State) (f : Bank → Bank) : (s.updBank f).mem = s.mem := rfl
@[simp] theorem State.issueM_wf {s : State} (h : s.mem.wf = true) (i : Instr) (xs : List Word) (draws : Nat) (f : Bank → Bank) :
    Canonical (s.issueM i xs draws f) := by
  unfold State.issueM
  split <;> simp [h]

@[simp] theorem execMfmt_wf {s : State} (h : s.mem.wf = true) (ta tb : MType) (sa sb ovr : Bool) :
    Canonical (execMfmt ta tb sa sb ovr s) := by
  unfold execMfmt
  split <;> simp [h]

@[simp] theorem State.accumulate_wf {s : State} (h : s.mem.wf = true) (i : Instr) (d a b : Reg) (r : Rnd) :
    Canonical (s.accumulate i d a b r) := by
  unfold State.accumulate
  dsimp only
  split_ifs <;> simp [h]

@[simp] theorem execMma_wf {s : State} (h : s.mem.wf = true) (d a b : Reg) (r : Rnd) : Canonical (execMma d a b r s) := by
  simp [execMma, h]

@[simp] theorem execMmas_wf {s : State} (h : s.mem.wf = true) (d a b : Reg) (r : Rnd) : Canonical (execMmas d a b r s) := by
  simp [execMmas, h]

@[simp] theorem execMdist_wf {s : State} (h : s.mem.wf = true) (d a b : Reg) (r : Rnd) : Canonical (execMdist d a b r s) := by
  simp [execMdist, h]

@[simp] theorem execMzero_wf {s : State} (h : s.mem.wf = true) (d : Reg) (tile : Bool) : Canonical (execMzero d tile s) := by
  unfold execMzero
  split <;> simp [h]

@[simp] theorem execMopen_wf {s : State} (h : s.mem.wf = true) (d : Reg) : Canonical (execMopen d s) := by
  unfold execMopen
  split <;> simp [h]

@[simp] theorem execMclose_wf {s : State} (h : s.mem.wf = true) (d : Reg) : Canonical (execMclose d s) := by
  unfold execMclose
  split <;> simp [h]

@[simp] theorem execMtran_wf {s : State} (h : s.mem.wf = true) (d a : Reg) : Canonical (execMtran d a s) := by
  unfold execMtran
  dsimp only
  split <;> simp [h]

@[simp] theorem execMcvt_wf {s : State} (h : s.mem.wf = true) (d a : Reg) (t : EType) (sc : Bool) (ovf : McvtOvf) (r : Rnd) :
    Canonical (execMcvt d a t sc ovf r s) := by
  unfold execMcvt
  dsimp only
  split_ifs <;> simp [h]

@[simp] theorem execMew_wf {s : State} (h : s.mem.wf = true) (d a : Reg) (op : MewOp) (bcast : Bool) (r : Rnd) :
    Canonical (execMew d a op bcast r s) := by
  unfold execMew
  dsimp only
  split_ifs <;> simp [h]

@[simp] theorem execMtopk_wf {s : State} (h : s.mem.wf = true) (d a b : Reg) (largest : Bool) :
    Canonical (execMtopk d a b largest s) := by
  unfold execMtopk
  dsimp only
  split_ifs <;> simp [h]

@[simp] theorem execMwait_wf {s : State} (h : s.mem.wf = true) (d : Reg) (named : Bool) : Canonical (execMwait d named s) := by
  unfold execMwait
  dsimp only
  split <;> simp [h]

@[simp] theorem State.tileXlate_mem (s : State) (g : Nat) (k : XKind) (ps : List Nat) : (s.tileXlate g k ps).1.mem = s.mem := by
  refine foldl_fst_mem_eq (fun r p => ?_) _ _
  grind [State.translate_mem]

@[simp] theorem State.tileMove_wf {s : State} (h : s.mem.wf = true) (write : Bool) (i : Instr) (d : Reg) (sc : Bool) (m : MemOp) :
    Canonical (s.tileMove write i d sc m) := by
  unfold State.tileMove
  extract_lets ea sh k ps
  have hr : (s.tileXlate s.cur k ps).1.mem.wf = true := by rwa [State.tileXlate_mem]
  generalize s.tileXlate s.cur k ps = r at hr ⊢
  obtain ⟨t, r⟩ := r
  split
  · simp [h]
  split
  · simp [h]
  split
  · simp [h]
  cases r with
  | error e => simp [hr]
  | ok pages =>
    dsimp only
    split
    · simp [hr]
    split
    · simp [hr]
    split
    · simp [hr]
    split
    · simp [hr]
    · split_ifs <;> simp [hr]

@[simp] theorem execTld_wf {s : State} (h : s.mem.wf = true) (d : Reg) (sc : Bool) (m : MemOp) :
    Canonical (execTld d sc m s) := by
  simp [execTld, h]

@[simp] theorem execTst_wf {s : State} (h : s.mem.wf = true) (d : Reg) (m : MemOp) : Canonical (execTst d m s) := by
  simp [execTst, h]

@[simp] theorem State.mFault_mem (s : State) (g va : Nat) : (s.mFault g va).mem = s.mem := rfl
@[simp] theorem State.mDone_mem (s : State) (g : Nat) (e : MEntry) (b : Bank) (fl : FpFlags) :
    (s.mDone g e b fl).mem = s.mem := by
  simp [State.mDone]

@[simp] theorem State.mPerform_mem (s : State) (g : Nat) (e : MEntry) : (s.mPerform g e).mem = s.mem := by
  unfold State.mPerform
  dsimp only
  split <;> simp

@[simp] theorem State.tileLoad_mem (s : State) (g : Nat) (e : MEntry) (d : Nat) (sc : Bool) :
    (s.tileLoad g e d sc).mem = s.mem := by
  simp [State.tileLoad]

@[simp] theorem State.tileStore_wf {s : State} (h : s.mem.wf = true) (g : Nat) (e : MEntry) (d : Nat) :
    (s.tileStore g e d).mem.wf = true := by
  unfold State.tileStore
  simp only [State.mDone_mem, State.dropAll_mem]
  exact foldl_mem_wf (fun s k h => by simpa using h) _ (State.engineWrites_wf h _)

@[simp] theorem State.slewNow_mem (s : State) (dom : Nat) : (s.slewNow dom).mem = s.mem := by
  unfold State.slewNow
  split <;> rfl

@[simp] theorem State.shapeWrites_mem (s : State) (m : Nat) : (s.shapeWrites m).mem = s.mem := by
  unfold State.shapeWrites
  exact foldl_mem_eq (fun s q => by grind [State.mPerform_mem]) _ _

@[simp] theorem State.granuleEnd_mem (s : State) (m q : Nat) (e : MEntry) : (s.granuleEnd m q e).mem = s.mem := by
  unfold State.granuleEnd
  dsimp only
  split <;> simp

@[simp] theorem State.arrayCycle_wf {s : State} (h : s.mem.wf = true) (m : Nat) : (s.arrayCycle m).mem.wf = true := by
  unfold State.arrayCycle
  dsimp only
  (repeat' split) <;> simp [h]

@[simp] theorem execMxuGranuleGrant_wf {s : State} (h : s.mem.wf = true) (cluster : Nat) :
    Canonical (execMxuGranuleGrant cluster s) := by
  simp [execMxuGranuleGrant, h]

@[simp] theorem State.portJoin_mem (s : State) (m : Nat) : (s.portJoin m).mem = s.mem := by
  unfold State.portJoin
  exact foldl_mem_eq (fun s q => by split <;> [(split_ifs <;> rfl); rfl]) _ _

@[simp] theorem State.portCycle_wf {s : State} (h : s.mem.wf = true) (m : Nat) : (s.portCycle m).mem.wf = true := by
  unfold State.portCycle
  (repeat' split) <;> simp [h]

@[simp] theorem execTilePortTransfer_wf {s : State} (h : s.mem.wf = true) (cluster : Nat) :
    Canonical (execTilePortTransfer cluster s) := by
  simp [execTilePortTransfer, h]

end Sys2Proof.Machine
end

section
/-! Memory stays canonical: streams, copies and their engine. -/

namespace Sys2Proof.Machine

@[simp] theorem State.setChstat_mem (s : State) (g c : Nat) (v : Word) : (s.setChstat g c v).mem = s.mem := rfl
@[simp] theorem State.acceptOne_mem (s : State) (g : Nat) : (s.acceptOne g).mem = s.mem := by
  unfold State.acceptOne
  (repeat' split) <;> rfl

@[simp] theorem State.acceptCmds_mem (s : State) (g : Nat) : (s.acceptCmds g).mem = s.mem := by
  simp [State.acceptCmds]

@[simp] theorem State.pushCmd_mem (s : State) (c : Cmd) : (s.pushCmd c).mem = s.mem := rfl
@[simp] theorem execSbind_wf {s : State} (h : s.mem.wf = true) (d : Reg) (m : MemOp) : Canonical (execSbind d m s) := by
  unfold execSbind
  dsimp only
  split
  · simp [h]
  · refine Got.step_wf (by simp [h]) fun t r ht => ?_
    split_ifs <;> simp [ht]

@[simp] theorem execSdrop_wf {s : State} (h : s.mem.wf = true) (d : Reg) : Canonical (execSdrop d s) := by
  unfold execSdrop
  dsimp only
  split_ifs <;> simp [h]

@[simp] theorem State.takeV_mem (s : State) (r : Nat) : (s.takeV r).1.mem = s.mem := by
  unfold State.takeV
  dsimp only
  (repeat' split) <;> rfl

@[simp] theorem State.flyV_mem (s : State) (d n : Nat) : (s.flyV d n).mem = s.mem := rfl
@[simp] theorem State.recordDest_mem (s : State) (va n : Nat) : (s.recordDest va n).mem = s.mem := by
  unfold State.recordDest
  exact foldl_mem_eq (fun s p => by split <;> simp) _ _

@[simp] theorem execAcopy_wf {s : State} (h : s.mem.wf = true) (d a b : Reg) (c : BitVec 2) :
    Canonical (execAcopy d a b c s) := by
  unfold execAcopy
  dsimp only
  (repeat' split) <;> simp [h]

@[simp] theorem execChwait_wf {s : State} (h : s.mem.wf = true) (d : Reg) (c : BitVec 2) : Canonical (execChwait d c s) := by
  unfold execChwait
  split_ifs <;> simp [h]

@[simp] theorem State.touched_mem (s : State) (g va : Nat) (k : XKind) : (s.touched g va k).mem = s.mem := by
  have hr := State.translated_mem s g va k
  unfold State.touched
  generalize s.translated g va k = r at hr ⊢
  obtain ⟨t, n, e | x⟩ := r
  · exact hr
  · simpa using hr

theorem State.engineFetch_mem {s : State} {g after va n : Nat} {r : State × List Byte × Option (Nat × Nat)}
    (hr : s.engineFetch g after va n = some r) : r.1.mem = s.mem := by
  unfold State.engineFetch at hr
  refine List.foldlRecOn (motive := fun o => ∀ r, o = some r → r.1.mem = s.mem) (pieces va n) _ ?_ (fun o ho p _ r hr => ?_) r hr
  · rintro _ ⟨⟩
    rfl
  · split at hr
    · cases hr
    · next t bs flt =>
      have ht : t.mem = s.mem := ho _ rfl
      split at hr <;> cases hr <;> simp [ht]

theorem State.copySector_wf {s t : State} (h : s.mem.wf = true) {g c : Nat} {k : Copy} (ht : s.copySector g c k = some t) :
    t.mem.wf = true := by
  unfold State.copySector at ht
  extract_lets at' n sector at ht
  split at ht
  · cases ht
  · cases ht
  next u bs flt hu _ =>
    extract_lets base flt exempt cells v w k' fin at ht
    have hu : u.mem.wf = true := by rw [State.engineFetch_mem hu]; exact h
    have hw : w.mem.wf = true := by
      unfold w
      clear_value base flt
      cases base
      · exact hu
      · cases flt <;> simp [v, hu]
    split at ht
    · cases ht
    · split at ht <;> cases ht <;> simp [hw]

theorem State.streamSector_mem {s u : State} {g r : Nat} {t : Stream} (hu : s.streamSector g r t = some u) : u.mem = s.mem := by
  unfold State.streamSector at hu
  dsimp only at hu
  split at hu
  · cases hu
  · next v bs flt hv =>
    cases hu
    exact State.engineFetch_mem hv

theorem State.engineClient_wf {s t : State} (h : s.mem.wf = true) {g i : Nat} (ht : s.engineClient g i = some t) :
    t.mem.wf = true := by
  unfold State.engineClient at ht
  dsimp only at ht
  split_ifs at ht
  · split at ht
    · exact State.copySector_wf h ht
    · cases ht
  · rw [State.streamSector_mem ht]; exact h

@[simp] theorem execCopyEngineGrant_wf {s : State} (h : s.mem.wf = true) (g : Nat) : Canonical (execCopyEngineGrant g s) := by
  unfold execCopyEngineGrant
  dsimp only
  split
  · next i t hi =>
    obtain ⟨j, -, hj⟩ := List.exists_of_findSome?_eq_some hi
    obtain ⟨u, hu, ⟨⟩⟩ := Option.map_eq_some_iff.mp hj
    simpa using State.engineClient_wf (by simp [h]) hu
  · simp [h]

end Sys2Proof.Machine
end

section
/-! Memory stays canonical: strands, launches and pairs. -/

namespace Sys2Proof.Machine

@[simp] theorem State.issueCharge_wf {s : State} (h : s.mem.wf = true) : s.issueCharge.mem.wf = true := by
  simp [State.issueCharge, h]

theorem State.suspendHere_wf {s : State} (h : s.mem.wf = true) {put : State → Strand → Rec → State}
    (hput : ∀ (s : State) (t : Strand) (r : Rec), s.mem.wf = true → (put s t r).mem.wf = true) : Canonical (s.suspendHere put) := by
  unfold State.suspendHere
  dsimp only
  split
  · simp [h]
  · exact canonical_next_of (State.suspendTo_wf (by simp [h]) _ _ hput)

@[simp] theorem execSusp_wf {s : State} (h : s.mem.wf = true) (a : Reg) : Canonical (execSusp a s) := by
  unfold execSusp
  dsimp only
  split
  · simp [h]
  · exact State.suspendHere_wf h fun s t r h => by split <;> simp [h]

@[simp] theorem execExit_wf {s : State} (h : s.mem.wf = true) : Canonical (execExit s) := by
  have hs : Canonical (s.suspendHere fun s t _ => (s.launchEnd t.ctx t.r.launch t.r.cx).stopCheck t.ctx) :=
    State.suspendHere_wf h (fun s t r h => by simpa using h)
  unfold execExit
  split
  · next t ht =>
    have := hs t ht
    dsimp only
    split_ifs <;> simp [this]
  · next o _ => exact hs

@[simp] theorem State.resumeHere_wf {s : State} (h : s.mem.wf = true) (g : Nat) (t : Strand) (r : Rec) (out : Option (Nat × Word)) :
    (s.resumeHere g t r out).mem.wf = true := by
  simp [State.resumeHere, h]

@[simp] theorem State.pairUp_wf {s : State} (h : s.mem.wf = true) (e : Nat) : (s.pairUp e).mem.wf = true := by
  simp [State.pairUp, h]

@[simp] theorem State.pairAgain_wf {s : State} (h : s.mem.wf = true) (e : Nat) : (s.pairAgain e).mem.wf = true := by
  unfold State.pairAgain
  dsimp only
  split <;> simp [h]

@[simp] theorem execWaitc_wf {s : State} (h : s.mem.wf = true) (d a : Reg) : Canonical (execWaitc d a s) := by
  have hstay : Canonical (({ s with stamp := s.stamp + 1 } : State).suspendHere fun s _ _ => s) :=
    State.suspendHere_wf (s := { s with stamp := s.stamp + 1 }) h fun s _ _ h => h
  unfold execWaitc
  extract_lets w
  split
  · simp [h]
  extract_lets c
  split
  · simp [h]
  split
  · simp [h]
  split
  · simp [h]
  split
  · refine State.suspendHere_wf h fun s t r h => ?_
    split <;> simp [h]
  · dsimp only
    split
    · next u hu =>
      have := hstay u hu
      split_ifs <;> simp [this]
    · exact hstay

@[simp] theorem execCancel_wf {s : State} (h : s.mem.wf = true) (a : Reg) (force : Bool) : Canonical (execCancel a force s) := by
  unfold execCancel
  dsimp only
  (repeat' split) <;> simp [h]

theorem State.newLaunch_mem {s : State} {n gr : Nat} {r : Rec} {count : Nat} {p : Nat × State} (hp : s.newLaunch n gr r count = some p) :
    p.2.mem = s.mem := by
  unfold State.newLaunch at hp
  extract_lets dead at hp
  split at hp
  · cases hp
  · next id t ht =>
    extract_lets u v r w at hp
    have hv : v.mem = s.mem := by
      have hu : u.mem = t.mem := by unfold u; split <;> rfl
      have : v.mem = u.mem := by unfold v; split <;> rfl
      rw [this, hu, State.newObj_mem ht]
    split at hp <;> cases hp
    · simpa using hv
    · exact (State.noteWaits_mem _).trans ((foldl_mem_eq (fun _ _ => by rfl) _ _).trans hv)

theorem State.spawnTrap_wf {s : State} (h : s.mem.wf = true) {w : Word} {t : Strand} {e : SpawnTo} {o : Step}
    (ho : s.spawnTrap w t e = some o) :
    Canonical o := by
  unfold State.spawnTrap at ho
  split at ho
  · cases ho; simp [h]
  split at ho
  · cases ho; simp [privStep, h]
  split at ho
  · split at ho <;> cases ho; simp [h]
  · cases ho

@[simp] theorem execSpawn_wf {s : State} (h : s.mem.wf = true) (d a : Reg) (e : SpawnTo) (mask : BitVec 4) :
    Canonical (execSpawn d a e mask s) := by
  unfold execSpawn
  extract_lets w
  split
  · simp [h]
  split
  · next t _ o ho => exact State.spawnTrap_wf h ho
  split
  · simp [h]
  generalize hm : (if mask = 0 then _ else mask) = lmask
  dsimp only
  split
  · simp [h]
  split
  · simp [h]
  · next id u hu =>
    have : u.mem.wf = true := by rw [State.newLaunch_mem hu]; exact h
    simp [this]

@[simp] theorem State.claimPair_wf {s : State} (h : s.mem.wf = true) (g : Nat) : (s.claimPair g).mem.wf = true := by
  unfold State.claimPair
  dsimp only
  (repeat' split) <;> simp [h]

@[simp] theorem State.moveEven_wf {s : State} (h : s.mem.wf = true) (g : Nat) : (s.moveEven g).mem.wf = true := by
  unfold State.moveEven
  dsimp only
  split
  · exact h
  · simp only [State.updCore_mem]
    exact State.bringUp_wf (State.flushAcct_wf (by simp [h]) _) _

@[simp] theorem execPairOn_wf {s : State} (h : s.mem.wf = true) : Canonical (execPairOn s) := by
  unfold execPairOn
  dsimp only
  split_ifs <;> simp [h]

@[simp] theorem execPairClaimComplete_wf {s : State} (h : s.mem.wf = true) (g : Nat) : Canonical (execPairClaimComplete g s) := by
  unfold execPairClaimComplete
  dsimp only
  split_ifs <;> simp [h]

@[simp] theorem execPairOff_wf {s : State} (h : s.mem.wf = true) : Canonical (execPairOff s) := by
  unfold execPairOff
  split <;> simp [h]

@[simp] theorem State.exchangeCycles_wf {s : State} (h : s.mem.wf = true) (e : Nat) : (s.exchangeCycles e).mem.wf = true := by
  simp [State.exchangeCycles, h]

@[simp] theorem State.pairAgree_mem (s : State) (e : Nat) : (s.pairAgree e).mem = s.mem := rfl
@[simp] theorem State.pairBack_mem (s : State) (e fails : Nat) : (s.pairBack e fails).mem = s.mem := rfl
@[simp] theorem State.pairFail_wf {s : State} (h : s.mem.wf = true) (e : Nat) : (s.pairFail e).mem.wf = true := by
  unfold State.pairFail
  exact State.pay_wf (State.trapAt_wf (by simp [h]) _ _ _ _) _ _ _ _

@[simp] theorem execPairExchange_wf {s : State} (h : s.mem.wf = true) (g : Nat) (odd : Word) :
    Canonical (execPairExchange g odd s) := by
  unfold execPairExchange
  dsimp only
  split_ifs <;> simp [h]

end Sys2Proof.Machine
end

section
/-! Memory stays canonical: barrier domains. -/

namespace Sys2Proof.Machine

@[simp] theorem State.barEnd_mem (s : State) (q : QReg) (b : Bool) : (s.barEnd q b).mem = s.mem := rfl
@[simp] theorem State.barrier_wf {s : State} (h : s.mem.wf = true) (q : QReg) (dom : Nat) (sstep : Bool) :
    Canonical (s.barrier q dom sstep) := by
  unfold State.barrier
  dsimp only
  (repeat' split) <;> simp [h]

@[simp] theorem execBar_wf {s : State} (h : s.mem.wf = true) (q : QReg) (dom : BitVec 5) : Canonical (execBar q dom s) := by
  simp [execBar, h]

@[simp] theorem execSstep_wf {s : State} (h : s.mem.wf = true) (q : QReg) (dom : BitVec 5) : Canonical (execSstep q dom s) := by
  simp [execSstep, h]

@[simp] theorem State.rewatch_mem (s : State) (die n : Nat) : (s.rewatch die n).mem = s.mem := rfl
@[simp] theorem execBarrierArrival_wf {s : State} (h : s.mem.wf = true) (g : Nat) : Canonical (execBarrierArrival g s) := by
  unfold execBarrierArrival
  split
  · simp [h]
  · dsimp only
    split
    · simp [h]
    · exact canonical_next_of (foldl_mem_wf (fun s d h => by simpa using h) _ (by simpa using h))

@[simp] theorem State.waitUntil_wf {s : State} (h : s.mem.wf = true) (b g : Nat) : (s.waitUntil b g).mem.wf = true := by
  simp [State.waitUntil, h]

@[simp] theorem State.releaseDomain_wf {s : State} (h : s.mem.wf = true) (die n : Nat) :
    (s.releaseDomain die n).mem.wf = true := by
  unfold State.releaseDomain
  extract_lets hs sstep ws base t
  have ht : t.mem.wf = true := by
    unfold t
    rw [State.meetAll_mem]
    exact foldl_mem_wf (fun s g h => by simp [h]) _ h
  refine foldl_mem_wf (fun s d h => ?_) _ ht
  dsimp only
  split <;> exact h

@[simp] theorem execBarrierRelease_wf {s : State} (h : s.mem.wf = true) (die dom : Nat) :
    Canonical (execBarrierRelease die dom s) := by
  unfold execBarrierRelease
  split <;> simp [h]

@[simp] theorem execBarrierWatchdogExpiry_wf {s : State} (h : s.mem.wf = true) (die dom : Nat) :
    Canonical (execBarrierWatchdogExpiry die dom s) := by
  unfold execBarrierWatchdogExpiry
  dsimp only
  split_ifs <;> simp [h]

@[simp] theorem execDomainArm_wf {s : State} (h : s.mem.wf = true) (die dom : Nat) (v : Word) :
    Canonical (execDomainArm die dom v s) := by
  unfold execDomainArm
  dsimp only
  split
  · simp [h]
  split
  · simp [h]
  · exact canonical_next_of (foldl_mem_wf (fun s d h => by simpa using h) _ (by simp [h]))

@[simp] theorem execDomainDisarm_wf {s : State} (h : s.mem.wf = true) (die dom : Nat) (v : Word) :
    Canonical (execDomainDisarm die dom v s) := by
  unfold execDomainDisarm
  split <;> simp [h]

@[simp] theorem execQmaskWrite_wf {s : State} (h : s.mem.wf = true) (die dom i : Nat) (v : Word) :
    Canonical (execQmaskWrite die dom i v s) := by
  unfold execQmaskWrite
  split <;> simp [h]

end Sys2Proof.Machine
end

section
/-! Memory stays canonical: messages. -/

namespace Sys2Proof.Machine

@[simp] theorem execSend_wf {s : State} (h : s.mem.wf = true) (d a : Reg) (n : BitVec 3) : Canonical (execSend d a n s) := by
  have hr : (s.takeV a.toNat).1.mem.wf = true := by rwa [State.takeV_mem]
  unfold execSend
  generalize s.takeV a.toNat = r at hr ⊢
  obtain ⟨t, r⟩ := r
  extract_lets g w ctx s1 s2
  have h1 : s1.mem.wf = true := h
  have h2 : s2.mem.wf = true := h
  split
  · simp [h]
  split
  · simp [h]
  cases r with
  | ok v =>
    dsimp only
    split
    · exact State.hold_wf h1 _
    split
    · simp [hr]
    split
    · simp [h2]
    split
    · exact State.hold_wf h2 _
    split
    · split <;> simp [h2, hr]
    · exact State.hold_wf h2 _
  | _ => simp [hr]

@[simp] theorem execSpilltoExpiry_wf {s : State} (h : s.mem.wf = true) (g : Nat) : Canonical (execSpilltoExpiry g s) := by
  unfold execSpilltoExpiry
  dsimp only
  (repeat' split) <;> simp [h]

@[simp] theorem execDiversionCellGrant_wf {s : State} (h : s.mem.wf = true) (g : Nat) :
    Canonical (execDiversionCellGrant g s) := by
  unfold execDiversionCellGrant
  dsimp only
  (repeat' split) <;> simp [h]

@[simp] theorem State.chPop_mem (s : State) (ch : RecvCh) : (s.chPop ch).mem = s.mem := by
  unfold State.chPop
  split <;> simp

@[simp] theorem State.recvWait_wf {s : State} (h : s.mem.wf = true) : Canonical s.recvWait := by
  simp [State.recvWait, h]

@[simp] theorem State.park_wf {s : State} (h : s.mem.wf = true) (m : Nat) : Canonical (s.park m) := by
  unfold State.park
  dsimp only
  split
  · simp [h]
  · refine canonical_next_of (State.suspendTo_wf (by simp [h]) _ _ fun s t r h => ?_)
    split_ifs <;> simp [h]

@[simp] theorem State.afterVlds_wf {s : State} (h : s.mem.wf = true) {f : State → Step} (hf : ∀ t : State, t.mem.wf = true → Canonical (f t)) :
    Canonical (s.afterVlds f) := by
  unfold State.afterVlds
  split
  · simp [h]
  · next t ht => exact hf t (by rwa [State.fixVlds_mem ht])

@[simp] theorem execRecv_wf {s : State} (h : s.mem.wf = true) (d a : Reg) (q : QReg) (ch : RecvCh) :
    Canonical (execRecv d a q ch s) := by
  unfold execRecv
  split
  · simp [h]
  · refine State.afterVlds_wf h fun t ht => ?_
    split
    · split <;> simp [ht]
    · split
      · simp [ht]
      · cases ch with
        | rq => simp [ht]
        | mb m => dsimp only; split <;> simp [ht]

@[simp] theorem State.accumulatePackets_mem (t : VType) (d : Nat) (limit : Word) (f : Nat) (s : State) :
    (State.accumulatePackets t d limit f s).mem = s.mem := by
  induction f generalizing s with
  | zero => rfl
  | succ f ih =>
    unfold State.accumulatePackets
    split_ifs
    · rfl
    · split
      · split_ifs <;> simp [ih]
      · rfl

@[simp] theorem execRecvAcc_wf {s : State} (h : s.mem.wf = true) (d a : Reg) (q : QReg) (t : VType) :
    Canonical (execRecvAcc d a q t s) := by
  unfold execRecvAcc
  split
  · simp [h]
  · refine State.afterVlds_wf h fun u hu => ?_
    dsimp only
    split
    · simp [hu]
    split
    · simp [hu]
    · split <;> [(split <;> simp [hu]); simp [hu]]

@[simp] theorem execRecvTimeout_wf {s : State} (h : s.mem.wf = true) (g : Nat) : Canonical (execRecvTimeout g s) := by
  unfold execRecvTimeout
  dsimp only
  split_ifs <;> simp [h]

@[simp] theorem State.exchangeTokens_mem (s : State) (mask : Nat) : (s.exchangeTokens mask).mem = s.mem := by
  unfold State.exchangeTokens
  exact foldl_mem_eq (fun s c => by split_ifs <;> rfl) _ _

@[simp] theorem State.xchgEnd_mem (s : State) (d : Reg) (q : QReg) (r : BitVec 4096 × Bool) : (s.xchgEnd d q r).mem = s.mem := rfl
@[simp] theorem State.xchgWait_wf {s : State} (h : s.mem.wf = true) (d : Reg) (q : QReg) : Canonical (s.xchgWait d q) := by
  unfold State.xchgWait
  split <;> simp [h]

@[simp] theorem execXchg_wf {s : State} (h : s.mem.wf = true) (d a : Reg) (q : QReg) (mask : BitVec 4) :
    Canonical (execXchg d a q mask s) := by
  have hr : (s.takeV a.toNat).1.mem.wf = true := by rwa [State.takeV_mem]
  unfold execXchg
  generalize s.takeV a.toNat = r at hr ⊢
  obtain ⟨t, r⟩ := r
  split
  · simp [illegalStep, h]
  split
  · simp [h]
  cases r with
  | ok v => exact State.xchgWait_wf (by simpa using hr) d q
  | _ => simp [hr]

@[simp] theorem execPacketArrival_wf {s : State} (h : s.mem.wf = true) (g i : Nat) : Canonical (execPacketArrival g i s) := by
  unfold execPacketArrival
  dsimp only
  (repeat' split) <;> simp [h]

@[simp] theorem execSpillQueueDrain_wf {s : State} (h : s.mem.wf = true) (q : SpillRef) :
    Canonical (execSpillQueueDrain q s) := by
  unfold execSpillQueueDrain
  (repeat' split) <;> simp [h]

@[simp] theorem execHostDoorbell_wf {s : State} (h : s.mem.wf = true) (ctx : BitVec 12) (mb : BitVec 3) (msg : BitVec 512) :
    Canonical (execHostDoorbell ctx mb msg s) := by
  unfold execHostDoorbell
  dsimp only
  (repeat' split) <;> simp [h]

end Sys2Proof.Machine
end

section
/-! Memory stays canonical: levels. -/

namespace Sys2Proof.Machine

@[simp] theorem State.levelIssued_mem (s : State) (n l : Nat) : (s.levelIssued n l).mem = s.mem := rfl
@[simp] theorem levelTrap_wf {s : State} (h : s.mem.wf = true) (l reason : Nat) : Canonical (levelTrap s l reason) := by
  simp [levelTrap, h]

theorem State.sendEntry_mem {s t : State} {n g rcv : Nat} {e : IlEntry} {late : Bool} (ht : s.sendEntry n g rcv e late = some t) :
    t.mem = s.mem := by
  unfold State.sendEntry at ht
  dsimp only at ht
  split at ht
  · cases ht; rfl
  split at ht
  · cases ht
  split at ht
  · cases ht; rfl
  split at ht
  · split at ht <;> cases ht
    simp
  · cases ht

@[simp] theorem State.sendAll_mem (s : State) (n : Nat) (dests : List (Nat × Nat)) (ent : Nat → IlEntry) (late : Bool) :
    (s.sendAll n dests ent late).1.mem = s.mem := by
  refine foldl_fst_mem_eq (fun r d => ?_) _ _
  grind [State.sendEntry_mem]

@[simp] theorem State.sendLevel_wf {s : State} (h : s.mem.wf = true) (l a : Nat) (p : LvPath) (dests : List (Nat × Nat)) :
    Canonical (s.sendLevel l a p dests) := by
  have hr : (s.takeV a).1.mem.wf = true := by rwa [State.takeV_mem]
  unfold State.sendLevel
  generalize s.takeV a = r at hr ⊢
  obtain ⟨t, r⟩ := r
  extract_lets g n u
  have hu : u.mem.wf = true := h
  split
  · simp [h]
  cases r with
  | ok v =>
    dsimp only
    split
    · simp [h]
    · split <;> simp [hu, hr]
  | _ => simp [hr]

@[simp] theorem execRestrUp_wf {s : State} (h : s.mem.wf = true) (lv a : Reg) : Canonical (execRestrUp lv a s) := by
  unfold execRestrUp
  dsimp only
  (repeat' split) <;> simp [h]

@[simp] theorem execProlgDown_wf {s : State} (h : s.mem.wf = true) (lv a : Reg) (mask : BitVec 4) :
    Canonical (execProlgDown lv a mask s) := by
  unfold execProlgDown
  dsimp only
  (repeat' split) <;> simp [h]

@[simp] theorem State.flyTake_mem (s : State) (d q n : Nat) (b : Bool) : (s.flyTake d q n b).mem = s.mem := rfl
@[simp] theorem State.takeLevel_wf {s : State} (h : s.mem.wf = true) (l : Nat) (d : Reg) (q : QReg) (up : Bool) (entry tag : Nat)
    (srcs : List (Nat × Nat)) :
    Canonical (s.takeLevel l d q up entry tag srcs) := by
  unfold State.takeLevel
  dsimp only
  (repeat' split) <;> simp [h]

@[simp] theorem execRestrTake_wf {s : State} (h : s.mem.wf = true) (lv a : Reg) (q : QReg) (mask : BitVec 4) :
    Canonical (execRestrTake lv a q mask s) := by
  unfold execRestrTake
  dsimp only
  (repeat' split) <;> simp [h]

@[simp] theorem execProlgTake_wf {s : State} (h : s.mem.wf = true) (lv a : Reg) (q : QReg) :
    Canonical (execProlgTake lv a q s) := by
  unfold execProlgTake
  dsimp only
  (repeat' split) <;> simp [h]

@[simp] theorem State.putWeights_wf {s : State} (h : s.mem.wf = true) (n l : Nat) (bs : List Byte) (rep : Bool) :
    (s.putWeights n l bs rep).mem.wf = true := by
  simp [State.putWeights, h]

@[simp] theorem execWload_wf {s : State} (h : s.mem.wf = true) (lv : Reg) (rep : Bool) (m : MemOp) :
    Canonical (execWload lv rep m s) := by
  unfold execWload
  dsimp only
  split
  · simp [h]
  · refine Got.step_wf (by simp [h]) fun t r ht => ?_
    split <;> simp [ht]

@[simp] theorem execCyc_wf {s : State} (h : s.mem.wf = true) (lv : Reg) (b : Bind) : Canonical (execCyc lv b s) := by
  unfold execCyc
  split <;> simp [h]

@[simp] theorem execInterlayerEntryArrival_wf {s : State} (h : s.mem.wf = true) (g i : Nat) :
    Canonical (execInterlayerEntryArrival g i s) := by
  unfold execInterlayerEntryArrival
  (repeat' split) <;> simp [h]

end Sys2Proof.Machine
end

section
/-! Memory stays canonical: pages, generations and the divided memories. -/

namespace Sys2Proof.Machine

@[simp] theorem State.clearMap_wf {s : State} (h : s.mem.wf = true) (image : Nat) : (s.clearMap image).mem.wf = true := by
  simp [State.clearMap, h]

@[simp] theorem State.cut_wf {s : State} (h : s.mem.wf = true) (image : Nat) : (s.cut image).mem.wf = true := by
  unfold State.cut
  exact foldl_mem_wf (fun s b h => by split_ifs <;> simp [h]) _ (State.putBytes_wf (State.clearMap_wf h image) _ _ _)

@[simp] theorem execSnap_wf {s : State} (h : s.mem.wf = true) (q : QReg) (a : Reg) : Canonical (execSnap q a s) := by
  have hr : (s.translate s.cur (s.me.x a).toNat .write).1.mem.wf = true := by rwa [State.translate_mem]
  unfold execSnap
  dsimp only
  generalize s.translate s.cur (s.me.x a).toNat .write = r at hr ⊢
  obtain ⟨t, r⟩ := r
  split
  · simp [h]
  split
  · simp [h]
  cases r with
  | error e => simp [hr]
  | ok x =>
    dsimp only
    split_ifs <;> simp [hr]

@[simp] theorem execGenq_wf {s : State} (h : s.mem.wf = true) (d : Reg) (item : BitVec 2) : Canonical (execGenq d item s) := by
  unfold execGenq
  split <;> simp [h]

@[simp] theorem State.finalHeader_wf {s : State} (h : s.mem.wf = true) (st : Nat) : (s.finalHeader st).mem.wf = true :=
  State.putBytes_wf (State.putBytes_wf (State.putBytes_wf h _ _ _) _ _ _) _ _ _

@[simp] theorem State.endDrain_wf {s : State} (h : s.mem.wf = true) : s.endDrain.mem.wf = true := by
  unfold State.endDrain
  extract_lets t u
  have ht : t.mem.wf = true := foldl_mem_wf (fun s b h => by split_ifs <;> simp [h]) _ h
  have hu : u.mem.wf = true := State.finalHeader_wf ht 1
  exact hu

@[simp] theorem execCarafeDrainBlock_wf {s : State} (h : s.mem.wf = true) (die : Nat) :
    Canonical (execCarafeDrainBlock die s) := by
  unfold execCarafeDrainBlock
  (repeat' split) <;> simp [h]

@[simp] theorem State.failDrain_wf {s : State} (h : s.mem.wf = true) : s.failDrain.mem.wf = true := by
  unfold State.failDrain
  extract_lets t u
  have ht : t.mem.wf = true := foldl_mem_wf (fun s b h => by split_ifs <;> simp [h]) _ h
  change u.mem.wf = true
  unfold u
  split_ifs <;> simp [ht]

@[simp] theorem execDrainFail_wf {s : State} (h : s.mem.wf = true) : Canonical (execDrainFail s) := by
  unfold execDrainFail
  split <;> simp [h]

@[simp] theorem State.checkImage_wf {s : State} (h : s.mem.wf = true) : s.checkImage.mem.wf = true := by
  unfold State.checkImage
  split <;> simp [h]

@[simp] theorem State.forgetRange_wf {s : State} (h : s.mem.wf = true) (lo hi : Nat) : (s.forgetRange lo hi).mem.wf = true := by
  simp [State.forgetRange, h]

@[simp] theorem execGenctlWrite_wf {s : State} (h : s.mem.wf = true) (v : Word) : Canonical (execGenctlWrite v s) := by
  unfold execGenctlWrite
  dsimp only
  split_ifs <;> simp [h]

@[simp] theorem State.queuedBias_mem (s : State) (page : Nat) : (s.queuedBias page).mem = s.mem := rfl
@[simp] theorem State.queueBias_wf {s : State} (h : s.mem.wf = true) (page : Nat) : Canonical (s.queueBias page) := by
  unfold State.queueBias
  (repeat' split) <;> simp [h]

@[simp] theorem execBias_wf {s : State} (h : s.mem.wf = true) (d a : Reg) (dev : Bool) : Canonical (execBias d a dev s) := by
  have hr : (s.translate s.cur (s.me.x a).toNat .write).1.mem.wf = true := by rwa [State.translate_mem]
  unfold execBias
  dsimp only
  generalize s.translate s.cur (s.me.x a).toNat .write = r at hr ⊢
  obtain ⟨t, r⟩ := r
  split
  · simp [h]
  cases r with
  | error e => simp [hr]
  | ok x =>
    dsimp only
    split
    · simp [hr]
    split
    · split
      · split <;> simp [hr]
      · simp [hr]
    · split
      · simp [hr]
      · split_ifs <;> simp [hr]

@[simp] theorem State.flipped_mem (s : State) (page : Nat) (b : Bias) : (s.flipped page b).mem = s.mem := rfl
@[simp] theorem execBiasFlipComplete_wf {s : State} (h : s.mem.wf = true) (page : Nat) :
    Canonical (execBiasFlipComplete page s) := by
  unfold execBiasFlipComplete
  dsimp only
  (repeat' split) <;> simp [h]

@[simp] theorem State.dropTlb_mem (s : State) (hit : TlbEntry → Bool) : (s.dropTlb hit).mem = s.mem := rfl
@[simp] theorem execTlbiVa_wf {s : State} (h : s.mem.wf = true) (a : Reg) : Canonical (execTlbiVa a s) := by
  unfold execTlbiVa
  dsimp only
  split_ifs <;> simp [h]

@[simp] theorem State.reloadCopies_wf {s : State} (h : s.mem.wf = true) (n : Nat) : (s.reloadCopies n).mem.wf = true := by
  unfold State.reloadCopies
  refine (State.updCtx_mem _ _ _).symm ▸ foldl_mem_wf (fun s g h => ?_) _ h
  dsimp only
  split <;> simp [h]

@[simp] theorem execTlbiAll_wf {s : State} (h : s.mem.wf = true) : Canonical (execTlbiAll s) := by
  unfold execTlbiAll
  dsimp only
  split_ifs <;> simp [h]

@[simp] theorem execFmtld_wf {s : State} (h : s.mem.wf = true) (m : MemOp) : Canonical (execFmtld m s) := by
  unfold execFmtld
  dsimp only
  split
  · simp [h]
  · refine Got.step_wf (by simp [h]) fun t r ht => ?_
    split <;> simp [ht]

@[simp] theorem execScrubStart_wf {s : State} (h : s.mem.wf = true) (die : Nat) (v : Word) :
    Canonical (execScrubStart die v s) := by
  unfold execScrubStart
  split <;> simp [h]

@[simp] theorem State.zeroBlock_wf {s : State} (h : s.mem.wf = true) (b : Nat) : (s.zeroBlock b).mem.wf = true := by
  unfold State.zeroBlock
  (repeat' split) <;> simp [h]

@[simp] theorem execScrubComplete_wf {s : State} (h : s.mem.wf = true) (die : Nat) (good : Bool) :
    Canonical (execScrubComplete die good s) := by
  unfold execScrubComplete
  dsimp only
  (repeat' split) <;> simp [h]

@[simp] theorem State.updSlice_mem (s : State) (die sl : Nat) (f : Slice → Slice) : (s.updSlice die sl f).mem = s.mem := rfl
@[simp] theorem State.zeroWindow_wf {s : State} (h : s.mem.wf = true) (die sl lo hi : Nat) :
    (s.zeroWindow die sl lo hi).mem.wf = true := by
  simp [State.zeroWindow, h]

@[simp] theorem execWaypartWrite_wf {s : State} (h : s.mem.wf = true) (die slice : Nat) (v : Word) :
    Canonical (execWaypartWrite die slice v s) := by
  unfold execWaypartWrite
  dsimp only
  split_ifs <;> simp [h]

@[simp] theorem execSurrenderComplete_wf {s : State} (h : s.mem.wf = true) (die slice : Nat) :
    Canonical (execSurrenderComplete die slice s) := by
  unfold execSurrenderComplete
  split <;> simp [h]

@[simp] theorem execReclaimComplete_wf {s : State} (h : s.mem.wf = true) (die slice : Nat) :
    Canonical (execReclaimComplete die slice s) := by
  unfold execReclaimComplete
  dsimp only
  split <;> simp [h]

end Sys2Proof.Machine
end

section
/-! Memory stays canonical: contexts and the events of the dispensers. -/

namespace Sys2Proof.Machine

@[simp] theorem State.ctxErr_mem (s : State) (n e : Nat) : (s.ctxErr n e).mem = s.mem := rfl
@[simp] theorem execCtxdescWrite_wf {s : State} (h : s.mem.wf = true) (n : BitVec 12) (v : Word) :
    Canonical (execCtxdescWrite n v s) := by
  unfold execCtxdescWrite
  split_ifs <;> simp [h]

@[simp] theorem State.resetLevels_wf {s : State} (h : s.mem.wf = true) (n : Nat) : (s.resetLevels n).mem.wf = true := by
  unfold State.resetLevels
  exact foldl_mem_wf (fun s l h => by simp [h]) _ h

@[simp] theorem execCtxCreate_wf {s : State} (h : s.mem.wf = true) (n : BitVec 12) : Canonical (execCtxCreate n s) := by
  unfold execCtxCreate
  dsimp only
  split_ifs <;> simp [h]

@[simp] theorem execCtxStart_wf {s : State} (h : s.mem.wf = true) (n : BitVec 12) : Canonical (execCtxStart n s) := by
  unfold execCtxStart
  dsimp only
  (repeat' split) <;> simp [h]

@[simp] theorem execCtxStop_wf {s : State} (h : s.mem.wf = true) (n : BitVec 12) : Canonical (execCtxStop n s) := by
  unfold execCtxStop
  dsimp only
  split_ifs <;> simp [h]

@[simp] theorem execCtxDestroy_wf {s : State} (h : s.mem.wf = true) (n : BitVec 12) : Canonical (execCtxDestroy n s) := by
  unfold execCtxDestroy
  dsimp only
  split_ifs <;> simp [h]

@[simp] theorem State.ctxCommand_wf {s : State} (h : s.mem.wf = true) (n cmd : Nat) : Canonical (s.ctxCommand n cmd) := by
  unfold State.ctxCommand
  (repeat' split) <;> simp [h]

theorem State.arm_mem {s : State} {phase : Bool} {p : Word × State} (hp : s.arm phase = some p) : p.2.mem = s.mem := by
  unfold State.arm at hp
  split at hp
  · cases hp
  · next t ht =>
    extract_lets n u c ph more mark job at hp
    have hu : u.mem = s.mem := by simp [u]
    have hmore (s : State) (id : Nat) : (more s id).mem = s.mem := by unfold more; split <;> rfl
    split at hp
    · obtain ⟨q, hq, rfl⟩ := Option.map_eq_some_iff.mp hp
      simp [hmore, State.newObj_mem hq, hu]
    · obtain ⟨q, hq, hp⟩ := Option.bind_eq_some_iff.mp hp
      obtain ⟨q', hq', rfl⟩ := Option.map_eq_some_iff.mp hp
      simp [hmore, State.newObj_mem hq', State.newObj_mem hq, hu]

@[simp] theorem State.pushLd_mem (s : State) (d : Reg) (v : Word) (pa : Nat) : (s.pushLd d v pa).mem = s.mem := rfl
@[simp] theorem State.armInto_wf {s : State} (h : s.mem.wf = true) (d : Reg) (phase : Bool) : Canonical (s.armInto d phase) := by
  unfold State.armInto
  split
  · next v t ht =>
    have : t.mem.wf = true := by rwa [State.arm_mem ht]
    simp [this]
  · simp [h]

@[simp] theorem execArmg_wf {s : State} (h : s.mem.wf = true) (d : Reg) : Canonical (execArmg d s) := by
  simp [execArmg, h]

@[simp] theorem execArmp_wf {s : State} (h : s.mem.wf = true) (d : Reg) : Canonical (execArmp d s) := by
  simp [execArmp, h]

@[simp] theorem State.startOn_wf {s : State} (h : s.mem.wf = true) (g : Nat) (it : Item) (r : Rec) :
    (s.startOn g it r).mem.wf = true := by
  unfold State.startOn
  split <;> simp [h]

@[simp] theorem State.generate_mem (s : State) (n id : Nat) (t : Template) : (s.generate n id t).mem = s.mem := by
  unfold State.generate
  split <;> rfl

@[simp] theorem State.serve_wf {s : State} (h : s.mem.wf = true) (it : Item) (g : Nat) : (s.serve it g).mem.wf = true := by
  unfold State.serve
  dsimp only
  (repeat' split) <;> simp [h]

@[simp] theorem execDispatch_wf {s : State} (h : s.mem.wf = true) (die layer : Nat) : Canonical (execDispatch die layer s) := by
  unfold execDispatch
  (repeat' split) <;> simp [h]

@[simp] theorem State.updItem_mem (s : State) (rid : Nat) (f : Item → Item) : (s.updItem rid f).mem = s.mem := rfl
@[simp] theorem execAffinityWindowExpiry_wf {s : State} (h : s.mem.wf = true) (rid : Nat) :
    Canonical (execAffinityWindowExpiry rid s) := by
  simp [execAffinityWindowExpiry, h]

@[simp] theorem execAgingPromotion_wf {s : State} (h : s.mem.wf = true) (rid : Nat) : Canonical (execAgingPromotion rid s) := by
  unfold execAgingPromotion
  dsimp only
  (repeat' split) <;> simp [h]

@[simp] theorem execSleepWake_wf {s : State} (h : s.mem.wf = true) (rid : Nat) : Canonical (execSleepWake rid s) := by
  unfold execSleepWake
  (repeat' split) <;> simp [h]

@[simp] theorem execPreemption_wf {s : State} (h : s.mem.wf = true) (g : Nat) : Canonical (execPreemption g s) := by
  unfold execPreemption
  split <;> simp [h]

@[simp] theorem execAsyncTrapTake_wf {s : State} (h : s.mem.wf = true) (g : Nat) : Canonical (execAsyncTrapTake g s) := by
  unfold execAsyncTrapTake
  dsimp only
  split
  · simp [h]
  split
  · simp [h]
  · next t ht =>
    have : t.mem.wf = true := State.takeAsync_wf (State.bringUp_wf h g) ht
    split
    · split_ifs <;> simp [this]
    · simp [this]

@[simp] theorem execStrandWatchdogExpiry_wf {s : State} (h : s.mem.wf = true) (g : Nat) :
    Canonical (execStrandWatchdogExpiry g s) := by
  unfold execStrandWatchdogExpiry
  dsimp only
  (repeat' split) <;> simp [h]

@[simp] theorem State.killOn_wf {s : State} (h : s.mem.wf = true) (n g : Nat) : (s.killOn n g).mem.wf = true := by
  unfold State.killOn
  extract_lets s1 s2 s3 s4 s5 s6 s7
  have h1 : s1.mem.wf = true := by simp [s1, h]
  have h2 : s2.mem.wf = true := by unfold s2; split <;> simp [h1]
  have h3 : s3.mem.wf = true := foldl_mem_wf (fun s k h => by dsimp only; split <;> simp [h]) _ h2
  have h6 : s6.mem.wf = true := by simp [s6, s5, s4, h3]
  have h7 : s7.mem.wf = true := by unfold s7; split <;> simp [h6]
  simp [h7]

@[simp] theorem State.killGraphs_mem (s : State) (n : Nat) : (s.killGraphs n).mem = s.mem := rfl
@[simp] theorem State.tear_wf {s : State} (h : s.mem.wf = true) (n : Nat) : (s.tear n).mem.wf = true := by
  unfold State.tear
  extract_lets s1 s2 s3 s4 s5 s6
  have h2 : s2.mem.wf = true := foldl_mem_wf (fun s g h => by simp [h]) _ h
  have h3 : s3.mem.wf = true := by
    refine foldl_mem_wf (fun s d h => foldl_mem_wf (fun s k h => ?_) _ h) _ h2
    dsimp only
    split_ifs <;> simp [h]
  have h6 : s6.mem.wf = true := foldl_mem_wf (fun s p h => by simp [h]) _ (by simpa [s5, s4] using h3)
  split
  · exact h
  split
  · simp [h]
  · simp [h6]

@[simp] theorem State.quarantine_wf {s : State} (h : s.mem.wf = true) (b : Nat) : (s.quarantine b).mem.wf = true := by
  unfold State.quarantine
  dsimp only
  split_ifs <;> simp [h]

@[simp] theorem State.countUe_mem (s : State) (die pa : Nat) : (s.countUe die pa).mem = s.mem := rfl
@[simp] theorem execAddressSpaceTeardown_wf {s : State} (h : s.mem.wf = true) (u : FailUnit) :
    Canonical (execAddressSpaceTeardown u s) := by
  unfold execAddressSpaceTeardown
  extract_lets t
  have ht : t.mem.wf = true := by
    unfold t
    split
    · simp [h]
    · rw [State.countUe_mem]
      exact foldl_mem_wf (fun s b h => State.quarantine_wf h b) _ h
    · exact h
  exact canonical_next_of (foldl_mem_wf (fun s n h => State.tear_wf h n) _ ht)

@[simp] theorem execTeardownComplete_wf {s : State} (h : s.mem.wf = true) (n : BitVec 12) :
    Canonical (execTeardownComplete n s) := by
  unfold execTeardownComplete
  dsimp only
  split <;> simp [h]

@[simp] theorem execAcctFlush_wf {s : State} (h : s.mem.wf = true) (g : Nat) : Canonical (execAcctFlush g s) := by
  unfold execAcctFlush
  dsimp only
  split <;> simp [h]

@[simp] theorem execAcctOverflowRecord_wf {s : State} (h : s.mem.wf = true) (g : Nat) :
    Canonical (execAcctOverflowRecord g s) := by
  unfold execAcctOverflowRecord
  dsimp only
  split <;> simp [h]

end Sys2Proof.Machine
end

section
/-! Memory stays canonical: budget, power and telemetry. -/

namespace Sys2Proof.Machine

@[simp] theorem State.setLevel_mem (s : State) (l : Nat) (p : Nat × Nat) : (s.setLevel l p).mem = s.mem := rfl
@[simp] theorem State.gangLevels_mem (s : State) (rs : List (Nat × Nat)) : (s.gangLevels rs).mem = s.mem := by
  unfold State.gangLevels
  exact foldl_mem_eq (fun s r => by simp) _ _

@[simp] theorem State.levelGangs_mem (s : State) : s.levelGangs.mem = s.mem := by
  unfold State.levelGangs
  exact foldl_mem_eq (fun _ _ => foldl_mem_eq State.gangLevels_mem _ _) _ _

@[simp] theorem State.sampleRegions_mem (s : State) (inp : DivInput) (now : Nat) : (s.sampleRegions inp now).mem = s.mem := by
  simp [State.sampleRegions]

@[simp] theorem State.ladderStep_mem (s : State) (inp : DivInput) : (s.ladderStep inp).mem = s.mem := by
  unfold State.ladderStep
  split <;> rfl

@[simp] theorem State.reclock_mem (s t : State) : (s.reclock t).mem = t.mem := rfl
@[simp] theorem State.takeEffect_wf {s t : State} (hs : s.mem.wf = true) (ht : t.mem.wf = true) :
    (s.takeEffect t).mem.wf = true := by
  unfold State.takeEffect
  extract_lets moved u
  have hu : u.mem.wf = true := foldl_mem_wf (fun s p h => foldl_mem_wf (fun s g h => State.bringUp_wf h g) _ h) _ hs
  split
  · exact ht
  · exact hu

@[simp] theorem State.writeSamples_wf {s : State} (h : s.mem.wf = true) (samples : List Nat) (tel : Word) :
    (s.writeSamples samples tel).mem.wf = true := by
  unfold State.writeSamples
  dsimp only
  split
  · exact h
  split
  · simp [h]
  · exact foldl_mem_wf (fun s p h => by simp [h]) _ h

@[simp] theorem State.telemetry_wf {s : State} (h : s.mem.wf = true) (inp : DivInput) (time seq : Nat) :
    (s.telemetry inp time seq).mem.wf = true := by
  unfold State.telemetry
  exact foldl_mem_wf (fun s c h => by split_ifs <;> simp [h]) _ h

@[simp] theorem execBudgetDivision_wf {s : State} (h : s.mem.wf = true) (inp : DivInput) :
    Canonical (execBudgetDivision inp s) := by
  unfold execBudgetDivision
  extract_lets seq time s1 t1 t2 t3 t4
  have h1 : s1.mem.wf = true := by simp [s1, h]
  have ht1 : t1.mem.wf = true := by simp [t1, h1]
  have ht3 : t3.mem.wf = true := State.takeEffect_wf h1 ht1
  have ht4 : t4.mem.wf = true := foldl_mem_wf (fun t d h => by simpa using h) _ ht3
  split
  · simp [h]
  · simpa using State.telemetry_wf ht4 inp time seq

@[simp] theorem execSlewStep_wf {s : State} (h : s.mem.wf = true) (dom : Nat) : Canonical (execSlewStep dom s) := by
  simp [execSlewStep, h]

@[simp] theorem State.putPwrctl_mem (s : State) (v : Word) (mode : Bool) : (s.putPwrctl v mode).mem = s.mem := by
  unfold State.putPwrctl
  dsimp only
  split <;> rfl

@[simp] theorem execPwrctlWrite_wf {s : State} (h : s.mem.wf = true) (v : Word) : Canonical (execPwrctlWrite v s) := by
  simp [execPwrctlWrite, h]

@[simp] theorem execTctlWrite_wf {s : State} (h : s.mem.wf = true) (die : Nat) (v : Word) :
    Canonical (execTctlWrite die v s) := by
  unfold execTctlWrite
  split <;> simp [h]

@[simp] theorem execRamptblWrite_wf {s : State} (h : s.mem.wf = true) (die : Nat) (v : Word) :
    Canonical (execRamptblWrite die v s) := by
  simp [execRamptblWrite, h]

end Sys2Proof.Machine
end

section
/-! Memory stays canonical: containment, retirement, debug halt, firmware and attestation. -/

namespace Sys2Proof.Machine

@[simp] theorem execCoreContainment_wf {s : State} (h : s.mem.wf = true) (g : Nat) (why : FailReason) (pa : Nat) :
    Canonical (execCoreContainment g why pa s) := by
  unfold execCoreContainment
  (repeat' split) <;> simp [h]

@[simp] theorem State.preemptQuad_mem (s : State) (q : Nat) : (s.preemptQuad q).mem = s.mem := rfl
@[simp] theorem State.retire_wf {s : State} (h : s.mem.wf = true) (q : Nat) : (s.retire q).mem.wf = true := by
  unfold State.retire
  dsimp only
  split_ifs <;> simp [h]

@[simp] theorem execQuadRetire_wf {s : State} (h : s.mem.wf = true) (quad : Nat) : Canonical (execQuadRetire quad s) := by
  simp [execQuadRetire, h]

@[simp] theorem State.restore_wf {s : State} (h : s.mem.wf = true) (g : Nat) : (s.restore g).mem.wf = true := by
  unfold State.restore
  split <;> simp [h]

@[simp] theorem State.takeSpare_wf {s : State} (h : s.mem.wf = true) (q : Nat) : (s.takeSpare q).mem.wf = true := by
  unfold State.takeSpare
  exact foldl_mem_wf (fun s c h => by simp [h]) _ (by simp [h])

@[simp] theorem execRetirementComplete_wf {s : State} (h : s.mem.wf = true) (quad : Nat) :
    Canonical (execRetirementComplete quad s) := by
  unfold execRetirementComplete
  split_ifs <;> simp [h]

@[simp] theorem execSelfTestComplete_wf {s : State} (h : s.mem.wf = true) (g : Nat) (pass : Bool) :
    Canonical (execSelfTestComplete g pass s) := by
  unfold execSelfTestComplete
  split_ifs <;> simp [h]

@[simp] theorem State.rewatchAll_mem (s : State) : s.rewatchAll.mem = s.mem := by
  unfold State.rewatchAll
  exact foldl_mem_eq (fun s d => foldl_mem_eq (fun s n => by simp) _ _) _ _

@[simp] theorem execDebugHalt_wf {s : State} (h : s.mem.wf = true) (quad : Nat) : Canonical (execDebugHalt quad s) := by
  unfold execDebugHalt
  extract_lets t
  have ht : t.mem.wf = true := foldl_mem_wf (fun s c h => by simp [h]) _ h
  split <;> simp [h, ht]

@[simp] theorem execDebugResume_wf {s : State} (h : s.mem.wf = true) (quad : Nat) : Canonical (execDebugResume quad s) := by
  unfold execDebugResume
  extract_lets past t
  have ht : t.mem.wf = true := foldl_mem_wf (fun s c h => by simp [h]) _ h
  split <;> simp [h, ht]

@[simp] theorem State.haltedWrite_mem (s : State) (q c i : Nat) (v : Word) : (s.haltedWrite q c i v).mem = s.mem := by
  unfold State.haltedWrite
  split <;> rfl

@[simp] theorem State.fwLoad_mem (s : State) (unit : Nat) (pa : Word) : (s.fwLoad unit pa).mem = s.mem := rfl
@[simp] theorem execFwLoadArbiter_wf {s : State} (h : s.mem.wf = true) (pa : Word) : Canonical (execFwLoadArbiter pa s) := by
  simp [execFwLoadArbiter, h]

@[simp] theorem execFwLoadDispensers_wf {s : State} (h : s.mem.wf = true) (pa : Word) :
    Canonical (execFwLoadDispensers pa s) := by
  simp [execFwLoadDispensers, h]

@[simp] theorem execFwLoadLink_wf {s : State} (h : s.mem.wf = true) (pa : Word) : Canonical (execFwLoadLink pa s) := by
  simp [execFwLoadLink, h]

@[simp] theorem execFwVerifyComplete_wf {s : State} (h : s.mem.wf = true) : Canonical (execFwVerifyComplete s) := by
  unfold execFwVerifyComplete
  dsimp only
  split_ifs <;> simp [h]

@[simp] theorem execFwTakeover_wf {s : State} (h : s.mem.wf = true) : Canonical (execFwTakeover s) := by
  simp [execFwTakeover, h]

@[simp] theorem execAttestNonce_wf {s : State} (h : s.mem.wf = true) (nonce : BitVec 384) :
    Canonical (execAttestNonce nonce s) := by
  simp [execAttestNonce, h]

@[simp] theorem execAttestReportComplete_wf {s : State} (h : s.mem.wf = true) : Canonical (execAttestReportComplete s) := by
  unfold execAttestReportComplete
  dsimp only
  split <;> simp [h]

end Sys2Proof.Machine
end

section
/-! Memory stays canonical: atomics at their sites. -/

namespace Sys2Proof.Machine

@[simp] theorem State.performAmo_wf {s : State} (h : s.mem.wf = true) (exempt : Bool) (r : AmoReq) :
    (s.performAmo exempt r).1.mem.wf = true := by
  simp [State.performAmo, h]

@[simp] theorem State.record_mem (s : State) (die port g : Nat) (e : Replay) : (s.record die port g e).mem = s.mem := rfl
@[simp] theorem State.reach_wf {s : State} (h : s.mem.wf = true) (g : Nat) (exempt : Bool) (r : AmoReq) :
    (s.reach g exempt r).1.mem.wf = true := by
  unfold State.reach
  (repeat' split) <;> simp [h]

@[simp] theorem State.loseAmo_wf {s : State} (h : s.mem.wf = true) (g i : Nat) : (s.loseAmo g i).mem.wf = true := by
  unfold State.loseAmo
  dsimp only
  (repeat' split) <;> simp [h]

@[simp] theorem State.loseAmos_wf {s : State} (h : s.mem.wf = true) (ends : List (Nat × Nat)) :
    (s.loseAmos ends).mem.wf = true := by
  unfold State.loseAmos
  refine foldl_mem_wf (fun s g h => foldl_mem_wf (fun s i h => ?_) _ h) _ h
  split <;> [(split_ifs <;> simp [h]); exact h]

end Sys2Proof.Machine
end

section
/-! Memory stays canonical: ports and peer launch packets. -/

namespace Sys2Proof.Machine

@[simp] theorem State.updLink_mem (s : State) (die port : Nat) (f : Link → Link) : (s.updLink die port f).mem = s.mem := rfl
@[simp] theorem State.loseCxl_mem (s : State) (die port : Nat) : (s.loseCxl die port).mem = s.mem := by
  unfold State.loseCxl
  exact (foldl_mem_eq (fun _ _ => by rfl) _ _).trans (foldl_mem_eq (fun s i => by rfl) _ _)

@[simp] theorem State.loseHost_wf {s : State} (h : s.mem.wf = true) : s.loseHost.mem.wf = true := by
  unfold State.loseHost
  exact foldl_mem_wf (fun s n h => State.tear_wf h n) _ (foldl_mem_wf (fun s d h => by exact h) _ h)

@[simp] theorem State.loseGraphs_mem (s : State) (die port : Nat) : (s.loseGraphs die port).mem = s.mem := rfl
@[simp] theorem State.loseTraffic_wf {s : State} (h : s.mem.wf = true) (die port : Nat) :
    (s.loseTraffic die port).mem.wf = true := by
  unfold State.loseTraffic
  split_ifs <;> simp [h]

@[simp] theorem State.linkDown_wf {s : State} (h : s.mem.wf = true) (die port : Nat) : (s.linkDown die port).mem.wf = true := by
  unfold State.linkDown
  extract_lets t
  have ht : t.mem.wf = true := by simp [t, h]
  split
  · exact foldl_mem_wf (fun s n h => State.tear_wf h n) _ ht
  · exact ht

@[simp] theorem execLinkEnable_wf {s : State} (h : s.mem.wf = true) (die port : Nat) : Canonical (execLinkEnable die port s) := by
  unfold execLinkEnable
  split <;> simp [h]

@[simp] theorem execLinkDisable_wf {s : State} (h : s.mem.wf = true) (die port : Nat) :
    Canonical (execLinkDisable die port s) := by
  unfold execLinkDisable
  split <;> simp [h]

@[simp] theorem execLinkRetireLanes_wf {s : State} (h : s.mem.wf = true) (die port : Nat) :
    Canonical (execLinkRetireLanes die port s) := by
  unfold execLinkRetireLanes
  dsimp only
  split <;> simp [h]

@[simp] theorem execLinkRestoreLanes_wf {s : State} (h : s.mem.wf = true) (die port pass : Nat) :
    Canonical (execLinkRestoreLanes die port pass s) := by
  unfold execLinkRestoreLanes
  dsimp only
  split <;> simp [h]

@[simp] theorem execLinkTrainingDone_wf {s : State} (h : s.mem.wf = true) (die port pass : Nat) :
    Canonical (execLinkTrainingDone die port pass s) := by
  unfold execLinkTrainingDone
  dsimp only
  split_ifs <;> simp [h]

@[simp] theorem execLinkTrainingTimeout_wf {s : State} (h : s.mem.wf = true) (die port : Nat) :
    Canonical (execLinkTrainingTimeout die port s) := by
  unfold execLinkTrainingTimeout
  split <;> simp [h]

@[simp] theorem State.replays_mem (s : State) (die port : Nat) : (s.replays die port).mem = s.mem := rfl
@[simp] theorem execLaneErrorLimit_wf {s : State} (h : s.mem.wf = true) (die port lane : Nat) :
    Canonical (execLaneErrorLimit die port lane s) := by
  unfold execLaneErrorLimit
  dsimp only
  split <;> simp [h]

@[simp] theorem execLinkLost_wf {s : State} (h : s.mem.wf = true) (die port : Nat) : Canonical (execLinkLost die port s) := by
  unfold execLinkLost
  split <;> simp [h]

@[simp] theorem execRemoteResponseTimeout_wf {s : State} (h : s.mem.wf = true) (g i : Nat) :
    Canonical (execRemoteResponseTimeout g i s) := by
  unfold execRemoteResponseTimeout
  dsimp only
  (repeat' split) <;> simp [h]

@[simp] theorem State.acceptLaunch_mem (s : State) (h : LaunchHead) (r : Rec) : (s.acceptLaunch h r).mem = s.mem := by
  unfold State.acceptLaunch
  dsimp only
  split
  · rfl
  · next id t ht =>
    have := State.newObj_mem ht
    split <;> simpa using this

@[simp] theorem State.answer_mem (s : State) (die port peer seq st : Nat) : (s.answer die port peer seq st).mem = s.mem := rfl
@[simp] theorem execPeerLaunchPacket_wf {s : State} (h : s.mem.wf = true) (die port : Nat) (pkt : BitVec 640) :
    Canonical (execPeerLaunchPacket die port pkt s) := by
  unfold execPeerLaunchPacket
  dsimp only
  (repeat' split) <;> simp [h]

end Sys2Proof.Machine
end

section
/-! Memory stays canonical: fabric graphs. -/

namespace Sys2Proof.Machine

@[simp] theorem State.updGraph_mem (s : State) (die port slot : Nat) (f : Graph → Graph) :
    (s.updGraph die port slot f).mem = s.mem := rfl

@[simp] theorem execGraphHeaderWrite_wf {s : State} (h : s.mem.wf = true) (die port slot : Nat) (v : Word) :
    Canonical (execGraphHeaderWrite die port slot v s) := by
  unfold execGraphHeaderWrite
  split <;> simp [h]

@[simp] theorem execGraphNodeWrite_wf {s : State} (h : s.mem.wf = true) (die port slot node : Nat) (v : Word) :
    Canonical (execGraphNodeWrite die port slot node v s) := by
  unfold execGraphNodeWrite
  split <;> simp [h]

@[simp] theorem GraphRun.view_mem (r : GraphRun) (s : State) : (GraphRun.view r s).mem = s.mem := rfl
theorem GraphRun.read_mem {r : GraphRun} {s : State} {die : Nat} {me : Eng} {va n : Nat} {p : State × Except Nat (List Byte)}
    (hp : r.read s die me va n = some p) : p.1.mem = s.mem := by
  unfold GraphRun.read at hp
  split at hp
  · cases hp
  · cases hp; rfl
  · dsimp only at hp
    split at hp <;> cases hp <;> simp

@[simp] theorem GraphRun.srcm_mem (r : GraphRun) (s : State) (die : Nat) (me : Eng) (n : Node) :
    (r.srcm s die me n).1.mem = s.mem := by
  unfold GraphRun.srcm
  grind [→ GraphRun.read_mem]

@[simp] theorem GraphRun.outputs_mem (r : GraphRun) (s : State) (die port slot stamp : Nat) :
    (r.outputs s die port slot stamp).1.mem = s.mem := by
  refine foldl_fst_mem_eq (fun acc n => ?_) _ _
  dsimp only
  split_ifs <;> simp

theorem GraphRun.putStatus_wf {r : GraphRun} {s t : State} (h : s.mem.wf = true) {me : Eng} {v : Nat} (ht : r.putStatus s me v = some t) :
    t.mem.wf = true := by
  unfold GraphRun.putStatus at ht
  split at ht
  · dsimp only at ht
    split at ht <;> cases ht
    exact State.homeWrite_wf (by simpa using h) _ _ _
  · cases ht; exact h
  · cases ht

@[simp] theorem State.ring_wf {s : State} (h : s.mem.wf = true) (die port slot : Nat) (va cb : Word) :
    Canonical (s.ring die port slot va cb) := by
  unfold State.ring
  extract_lets x me a r bad
  have hbad {t : State} (ht : t.mem.wf = true) : Canonical (bad t) := by
    unfold bad
    split
    · next u hu => exact canonical_next_of (GraphRun.putStatus_wf ht hu)
    · simp [ht]
  split
  · simp [h]
  split
  · simp [h]
  split
  · exact hbad h
  split
  · simp [h]
  · next t _ ht => exact hbad (by rwa [GraphRun.read_mem ht])
  · next t bs ht =>
    have ht : t.mem.wf = true := by rwa [GraphRun.read_mem ht]
    dsimp only
    split
    · exact hbad ht
    · split <;> simp [ht]

@[simp] theorem execCollectiveStart_wf {s : State} (h : s.mem.wf = true) (die port slot : Nat) (a : Reg) :
    Canonical (execCollectiveStart die port slot a s) := by
  unfold execCollectiveStart
  split <;> simp [h]

@[simp] theorem execGraphTokenArrival_wf {s : State} (h : s.mem.wf = true) (die port slot : Nat) (t : Token) :
    Canonical (execGraphTokenArrival die port slot t s) := by
  unfold execGraphTokenArrival
  dsimp only
  split <;> simp [h]

theorem GraphRun.commit_wf {r : GraphRun} {s : State} (h : s.mem.wf = true) {die port slot : Nat} {p : Nat × Node} {v : Flowing}
    {q : State × GraphRun} (hq : r.commit s die port slot p v = some q) : q.1.mem.wf = true := by
  unfold GraphRun.commit at hq
  extract_lets me n stopAt stop send w put dst at hq
  have hsend (t : Token) : (send s t).mem.wf = true := by simpa [send] using h
  split at hq
  · cases hq
  · cases hq
    dsimp only [stop, stopAt]
    split <;> simp [h, hsend]
  · split at hq
    · split at hq
      · cases hq; exact hsend _
      · split at hq <;> cases hq
        exact hsend _
    · dsimp only at hq
      split at hq
      · split at hq
        · cases hq; exact h
        · cases hq
        · cases hq; exact h
        · cases hq
        · split at hq <;> cases hq
          exact State.engineWrite_wf (State.engineWrite_wf (by simpa using h) _ _) _ _
      · dsimp only [put] at hq
        split at hq
        · cases hq
        · cases hq
          exact h
        · split at hq <;> cases hq
          exact State.engineWrite_wf (by simpa using h) _ _

theorem GraphRun.commitAll_wf {r : GraphRun} {s : State} (h : s.mem.wf = true) {die port slot : Nat} {outs : List Flowing}
    {p : State × GraphRun} (hp : r.commitAll s die port slot outs = some p) : p.1.mem.wf = true := by
  unfold GraphRun.commitAll at hp
  refine List.foldlRecOn (motive := fun o => ∀ p, o = some p → p.1.mem.wf = true) r.sinks _ ?_ (fun o ho q _ p hp => ?_) p hp
  · rintro _ ⟨⟩
    exact h
  · split at hp
    · cases hp
    · next t u =>
      have ht : t.mem.wf = true := ho _ rfl
      split at hp
      · cases hp; exact ht
      · exact GraphRun.commit_wf ht hp

@[simp] theorem execGraphTokenCommit_wf {s : State} (h : s.mem.wf = true) (die port slot : Nat) :
    Canonical (execGraphTokenCommit die port slot s) := by
  unfold execGraphTokenCommit
  dsimp only
  split
  · simp [h]
  · split
    · simp [h]
    · split
      · simp [h]
      · next t r ht =>
        have : t.mem.wf = true := GraphRun.commitAll_wf (by rwa [GraphRun.outputs_mem]) ht
        simp [this]

@[simp] theorem execCollectiveEnd_wf {s : State} (h : s.mem.wf = true) (die port slot : Nat) :
    Canonical (execCollectiveEnd die port slot s) := by
  unfold execCollectiveEnd
  dsimp only
  split
  · simp [h]
  · split
    · simp [h]
    · split
      · simp [h]
      · next t ht =>
        have : t.mem.wf = true := GraphRun.putStatus_wf (by simpa using h) ht
        simp [this]

end Sys2Proof.Machine
end

section
/-! Memory stays canonical: reset, loss of power and the accesses of the host. -/

namespace Sys2Proof.Machine

@[simp] theorem State.cleared_wf {s : State} (h : s.mem.wf = true) (powered : Bool) : (s.cleared powered).mem.wf = true := by
  simp [State.cleared, h]

@[simp] theorem execPackageReset_wf {s : State} (h : s.mem.wf = true) : Canonical (execPackageReset s) := by
  simp [execPackageReset, h]

@[simp] theorem execPowerRemoval_wf {s : State} (h : s.mem.wf = true) : Canonical (execPowerRemoval s) := by
  simp [execPowerRemoval, h]

@[simp] theorem execHostMemoryAccess_wf {s : State} (h : s.mem.wf = true) (write : Bool) (pa : BitVec 52) (bytes : List Byte) :
    Canonical (execHostMemoryAccess write pa bytes s) := by
  unfold execHostMemoryAccess
  dsimp only
  split_ifs <;> simp [h]

end Sys2Proof.Machine
end

section
/-! Memory stays canonical: device control space. -/

namespace Sys2Proof.Machine

@[simp] theorem State.writeQuadReg_wf {s : State} (h : s.mem.wf = true) (q : Nat) (v : Word) (x3 : QuadReg) :
    Canonical (s.writeQuadReg q v x3) := by
  unfold State.writeQuadReg
  (repeat' split) <;> simp [h]

@[simp] theorem State.writeLnkctl_wf {s : State} (h : s.mem.wf = true) (d p : Nat) (v : Word) :
    Canonical (s.writeLnkctl d p v) := by
  unfold State.writeLnkctl
  split <;> simp [h]

@[simp] theorem State.writeFwctl_wf {s : State} (h : s.mem.wf = true) (v : Word) : Canonical (s.writeFwctl v) := by
  unfold State.writeFwctl
  split <;> simp [h]

@[simp] theorem State.ctlWrite_wf {s : State} (h : s.mem.wf = true) (v : Word) (x2 : CtlReg) : Canonical (s.ctlWrite v x2) := by
  unfold State.ctlWrite
  (repeat' split) <;> simp [h]

@[simp] theorem execRegisterWrite_wf {s : State} (h : s.mem.wf = true) (pa : BitVec 52) (v : Word) :
    Canonical (execRegisterWrite pa v s) := by
  unfold execRegisterWrite
  (repeat' split) <;> simp [h]

end Sys2Proof.Machine
end

section
/-! Memory stays canonical: loads, stores, hints, atomics and fences. -/

namespace Sys2Proof.Machine

@[simp] theorem State.migrate_wf {s : State} (h : s.mem.wf = true) (k : Nat) : Canonical (s.migrate k) := by
  unfold State.migrate
  dsimp only
  split
  · simp [h]
  · exact canonical_next_of (State.suspendTo_wf (by simp [h]) _ _ fun s t r h => by simpa using h)

theorem State.dataAccess_wf {s : State} (h : s.mem.wf = true) (ea : Word) (n : Nat) (write aligned ctl : Bool) {onCtl : State → Nat → Step}
    {onMem : State → List (Nat × Xlated) → List Nat → Step} (hctl : ∀ (t : State) (k : Nat), t.mem.wf = true → Canonical (onCtl t k))
    (hmem : ∀ (t : State) (tr : List (Nat × Xlated)) (ks : List Nat), t.mem.wf = true → Canonical (onMem t tr ks)) :
    Canonical (s.dataAccess ea n write aligned ctl onCtl onMem) := by
  unfold State.dataAccess
  split
  · simp [h]
  · refine Got.step_wf (by rwa [State.access_mem]) fun t tr ht => ?_
    dsimp only
    split
    · exact hctl _ _ ht
    split
    · simp [ht]
    split
    · simp [ht]
    split
    · simp [ht]
    · exact hmem _ _ _ ht

/-- The definition is put in place of its name as a whole, so that no check meets the address of the word as a number to count down
from. -/
@[simp] theorem State.ctlLoad_wf {s : State} (h : s.mem.wf = true) (d : Reg) (k : LdKind) (pa : Nat) :
    Canonical (s.ctlLoad d k pa) := by
  obtain ⟨f, hf⟩ : ∃ f, f = @State.ctlLoad := ⟨_, rfl⟩
  rw [← hf]
  delta State.ctlLoad at hf
  subst hf
  beta_reduce
  extract_lets half
  generalize s.ctlReg (pa / 8 * 8) = r
  cases r with
  | none => dsimp only; split <;> simp [h]
  | some r =>
    dsimp only
    split
    · simp [h]
    split
    · simp [h]
    · split <;> simp [h]

/-- As for `State.ctlLoad`. -/
@[simp] theorem State.ctlStore_wf {s : State} (h : s.mem.wf = true) (ea v : Word) (n pa : Nat) :
    Canonical (s.ctlStore ea v n pa) := by
  obtain ⟨f, hf⟩ : ∃ f, f = @State.ctlStore := ⟨_, rfl⟩
  rw [← hf]
  delta State.ctlStore at hf
  subst hf
  beta_reduce
  generalize s.ctlReg (pa / 8 * 8) = r
  cases r with
  | none => dsimp only; split <;> simp [h]
  | some r =>
    dsimp only
    split
    · simp [h]
    split
    · simp [h]
    · split
      · simp [h]
      · split <;> simp [h]
      · simp [h]
      · simp [h]

@[simp] theorem State.memLoad_wf {s : State} (h : s.mem.wf = true) (ea : Word) (n : Nat) (o : MemOrd × Scope) (keys : List Nat)
    (res : List Byte → List (Nat × Word)) : Canonical (s.memLoad ea n o keys res) := by
  unfold State.memLoad
  dsimp only
  split
  · simp [h]
  split
  · exact Got.step_wf (by simp [h]) fun t r ht => by simp [ht]
  split
  · exact Got.step_wf (by simp [h]) fun t r ht => by simp [ht]
  · exact Got.step_wf (by simp [h]) fun t r ht => by simp [ht]

@[simp] theorem State.memStore_wf {s : State} (h : s.mem.wf = true) (ea : Word) (bs : List Byte) (o : MemOrd × Scope) :
    Canonical (s.memStore ea bs o) := by
  unfold State.memStore
  exact Got.step_wf (by simp [h]) fun t _ ht => by simp [ht]

@[simp] theorem execLd_wf {s : State} (h : s.mem.wf = true) (d : Reg) (k : LdKind) (m : MemOp) : Canonical (execLd d k m s) := by
  unfold execLd
  exact State.dataAccess_wf h _ _ _ _ _ (fun t k ht => by simp [ht]) (fun t tr ks ht => by simp [ht])

@[simp] theorem execSt_wf {s : State} (h : s.mem.wf = true) (d : Reg) (z : Size) (m : MemOp) : Canonical (execSt d z m s) := by
  unfold execSt
  exact State.dataAccess_wf h _ _ _ _ _ (fun t k ht => by simp [ht]) (fun t tr ks ht => by simp [ht])

@[simp] theorem execLdp_wf {s : State} (h : s.mem.wf = true) (d : Reg) (dbl : Bool) (m : MemOp) :
    Canonical (execLdp d dbl m s) := by
  unfold execLdp
  exact State.dataAccess_wf h _ _ _ _ _ (fun t k ht => by simp [ht]) (fun t tr ks ht => by simp [ht])

@[simp] theorem execStp_wf {s : State} (h : s.mem.wf = true) (d : Reg) (dbl : Bool) (m : MemOp) :
    Canonical (execStp d dbl m s) := by
  unfold execStp
  exact State.dataAccess_wf h _ _ _ _ _ (fun t k ht => by simp [ht]) (fun t tr ks ht => by simp [ht])

@[simp] theorem execPref_wf {s : State} (h : s.mem.wf = true) (_k : BitVec 2) (_m : MemOp) : Canonical (execPref _k _m s) := by
  simp [execPref, h]

@[simp] theorem execCflush_wf {s : State} (h : s.mem.wf = true) (l : FlushLevel) (m : MemOp) : Canonical (execCflush l m s) := by
  have hr : (s.translate s.cur (MemOp.ea s.me 32 m).toNat .read).1.mem.wf = true := by rwa [State.translate_mem]
  unfold execCflush
  dsimp only
  generalize s.translate s.cur (MemOp.ea s.me 32 m).toNat .read = r at hr ⊢
  obtain ⟨t, r⟩ := r
  split
  · simp [h]
  cases r with
  | error e => simp [hr]
  | ok x =>
    dsimp only
    split
    · simp [hr]
    split
    · simp [hr]
    · split <;> simp [hr]

@[simp] theorem State.startAmo_wf {s : State} (h : s.mem.wf = true) (d : Reg) (o : MemOrd × Scope) (exempt : Bool) (r : AmoReq) :
    Canonical (s.startAmo d o exempt r) := by
  unfold State.startAmo
  dsimp only
  split_ifs <;> simp [h]

@[simp] theorem State.amoAnswer_wf {s : State} (h : s.mem.wf = true) (d : Reg) (ea : Word) (t : IType) (tokened : Bool) (key : Nat) (a : AmoSt) :
    Canonical (s.amoAnswer d ea t tokened key a) := by
  unfold State.amoAnswer
  split <;> simp [h]

@[simp] theorem State.amoTarget_wf {s : State} (h : s.mem.wf = true) (d : Reg) (o : MemOrd × Scope) (x : Xlated) (r : AmoReq) :
    Canonical (s.amoTarget d o x r) := by
  unfold State.amoTarget
  dsimp only
  (repeat' split) <;> simp [h]

@[simp] theorem State.atomic_wf {s : State} (h : s.mem.wf = true) (d : Reg) (ea : Word) (t : IType) (op : Option AmoOp) (b dv : Word)
    (tok : Option Nat) (o : MemOrd × Scope) : Canonical (s.atomic d ea t op b dv tok o) := by
  have hr : (s.translate s.cur ea.toNat .atomic).1.mem.wf = true := by rwa [State.translate_mem]
  unfold State.atomic
  dsimp only
  generalize s.translate s.cur ea.toNat .atomic = r at hr ⊢
  obtain ⟨u, r⟩ := r
  split
  · simp [h]
  split
  · simp [h]
  split
  · simp [h]
  split
  · simp [h]
  cases r with
  | error e => simp [hr]
  | ok x =>
    dsimp only
    split
    · simp [hr]
    split
    · simp [hr]
    · split <;> simp [hr]

@[simp] theorem execAmo_wf {s : State} (h : s.mem.wf = true) (d a b : Reg) (t : IType) (op : AmoOp) (c : AtomCtl) :
    Canonical (execAmo d a b t op c s) := by
  simp [execAmo, h]

@[simp] theorem execCas_wf {s : State} (h : s.mem.wf = true) (d a b : Reg) (t : IType) (c : Option AtomCtl) :
    Canonical (execCas d a b t c s) := by
  unfold execCas
  split <;> simp [h]

@[simp] theorem execFence_wf {s : State} (h : s.mem.wf = true) (o : FenceOrd) (sc : Scope) : Canonical (execFence o sc s) := by
  unfold execFence
  split <;> simp [h]

@[simp] theorem State.passOrderPoint_mem (s : State) (g : Nat) : (s.passOrderPoint g).mem = s.mem := by
  unfold State.passOrderPoint
  dsimp only
  (repeat' split) <;> rfl

@[simp] theorem State.performStore_wf {s : State} (h : s.mem.wf = true) (die i : Nat) (p : PastStore) :
    (s.performStore die i p).mem.wf = true := by
  unfold State.performStore
  exact foldl_mem_wf (fun s x h => by simpa using h) _ (State.homeWrite_wf (by simpa using h) _ _ _)

@[simp] theorem execStorePerform_wf {s : State} (h : s.mem.wf = true) (src : StoreSrc) : Canonical (execStorePerform src s) := by
  unfold execStorePerform
  (repeat' split) <;> simp [h]

@[simp] theorem State.landLoad_mem (s : State) (g i : Nat) (l : LoadP) : (s.landLoad g i l).mem = s.mem := rfl
@[simp] theorem execLoadComplete_wf {s : State} (h : s.mem.wf = true) (g i : Nat) : Canonical (execLoadComplete g i s) := by
  unfold execLoadComplete
  (repeat' split) <;> simp [h]

@[simp] theorem State.respond_wf {s : State} (h : s.mem.wf = true) (g i key : Nat) (r : AmoReq) :
    (s.respond g i key r).mem.wf = true := by
  unfold State.respond
  dsimp only
  split_ifs <;> simp [h]

@[simp] theorem execAtomicResponse_wf {s : State} (h : s.mem.wf = true) (g i : Nat) : Canonical (execAtomicResponse g i s) := by
  unfold execAtomicResponse
  (repeat' split) <;> simp [h]

end Sys2Proof.Machine
end

section
/-! Memory stays canonical: the Percolator. -/

namespace Sys2Proof.Machine

@[simp] theorem execPercBaseStep_wf {s : State} (h : s.mem.wf = true) (g : Nat) : Canonical (execPercBaseStep g s) := by
  unfold execPercBaseStep
  dsimp only
  split_ifs <;> simp [h]

@[simp] theorem State.updPerc_mem (s : State) (f : Perc → Perc) : (s.updPerc f).mem = s.mem := rfl
@[simp] theorem State.percImage_wf {s : State} (h : s.mem.wf = true) (ea : Word) (n : Nat) (ok : Nat → Word → Bool) (f : List Word → Perc → Perc) :
    Canonical (s.percImage ea n ok f) := by
  unfold State.percImage
  split
  · simp [h]
  split
  · exact Got.step_wf (by simp [h]) fun t _ ht => by simp [ht]
  · refine Got.step_wf (by simp [h]) fun t r ht => ?_
    dsimp only
    split <;> simp [ht]

@[simp] theorem execPpatch_wf {s : State} (h : s.mem.wf = true) (m : MemOp) : Canonical (execPpatch m s) := by
  simp [execPpatch, h]

theorem State.percRange_wf {s t : State} (h : s.mem.wf = true) {b : Reg} (ht : s.percRange b = .error t) : t.mem.wf = true := by
  unfold State.percRange at ht
  dsimp only at ht
  split at ht
  · cases ht; simp [h]
  · split at ht <;> cases ht
    simp [h]

@[simp] theorem execPset_wf {s : State} (h : s.mem.wf = true) (a b : Reg) (w : Bool) : Canonical (execPset a b w s) := by
  unfold execPset
  split
  · next t ht => exact canonical_next_of (State.percRange_wf h ht)
  · exact Got.step_wf (by simp [h]) fun t v ht => by split <;> simp [h, ht]

@[simp] theorem execPget_wf {s : State} (h : s.mem.wf = true) (d b : Reg) (sel : PercSel) : Canonical (execPget d b sel s) := by
  unfold execPget
  split
  · simp [h]
  split
  · next t ht => exact canonical_next_of (State.percRange_wf h ht)
  · split <;> simp [h]

@[simp] theorem execPstep_wf {s : State} (h : s.mem.wf = true) (d a b : Reg) (lanes : Bool) :
    Canonical (execPstep d a b lanes s) := by
  unfold execPstep
  extract_lets n go
  have hgo {t : State} (ht : t.mem.wf = true) (v : BitVec 4096) : Canonical (go t v) := by
    unfold go
    split
    · simp [ht]
    · split <;> exact canonical_next_of ht
  have hr : (s.takeV b.toNat).1.mem.wf = true := by rwa [State.takeV_mem]
  generalize s.takeV b.toNat = r at hr ⊢
  obtain ⟨t, r⟩ := r
  split
  · cases r with
    | ok v => dsimp only; split <;> exact hgo (by assumption) _
    | _ => simp [h]
  · exact hgo h _

@[simp] theorem execPsave_wf {s : State} (h : s.mem.wf = true) (m : MemOp) : Canonical (execPsave m s) := by
  unfold execPsave
  dsimp only
  split
  · simp [h]
  split
  · exact Got.step_wf (by simp [h]) fun t _ ht => by simp [ht]
  · refine Got.step_wf (by simp [h]) fun t n ht => ?_
    split <;> simp [ht]

@[simp] theorem execPrest_wf {s : State} (h : s.mem.wf = true) (m : MemOp) : Canonical (execPrest m s) := by
  simp [execPrest, h]

end Sys2Proof.Machine
end

section
/-! Memory stays canonical: the one dispatch over the opcode table. -/

namespace Sys2Proof.Machine

@[simp] theorem exec_wf {s : State} (h : s.mem.wf = true) (i : Instr) : Canonical (exec i s) := by
  unfold exec
  split <;> simp [h]

end Sys2Proof.Machine
end

section
/-! Memory stays canonical: the turn of a core. -/

namespace Sys2Proof.Machine

@[simp] theorem State.fetch_wf {s : State} (h : s.mem.wf = true) (g : Nat) : (s.fetch g).1.mem.wf = true := by
  have hr : (s.translate g (s.core g).arch.pc.toNat .fetch).1.mem.wf = true := by rwa [State.translate_mem]
  unfold State.fetch
  dsimp only
  generalize s.translate g (s.core g).arch.pc.toNat .fetch = r at hr ⊢
  obtain ⟨t, r⟩ := r
  split
  · exact h
  split
  · exact h
  · exact h
  split
  · exact h
  cases r with
  | error e => exact hr
  | ok x =>
    dsimp only
    split
    · exact hr
    split
    · exact hr
    split
    · simp [hr]
    · split <;> simp [hr]

@[simp] theorem State.keepOlds_mem (s0 s1 s : State) (c : Instr) : (State.keepOlds s0 s1 s c).mem = s.mem := by
  unfold State.keepOlds; dsimp only; split_ifs <;> rfl

@[simp] theorem State.unissued_mem (s0 s : State) : (s0.unissued s).mem = s0.mem := rfl
@[simp] theorem State.execBeside_wf {s0 s1 : State} (h0 : s0.mem.wf = true) (h1 : s1.mem.wf = true) (a : Instr) :
    Canonical (s0.execBeside s1 a) := by
  unfold State.execBeside
  split
  · split
    · split <;> simp [h1]
    · exact exec_wf h0 _
  · exact exec_wf h1 a

@[simp] theorem State.issueA_wf {s0 s1 : State} (h0 : s0.mem.wf = true) (h1 : s1.mem.wf = true) (c a : Instr) :
    Canonical (s0.issueA s1 c a) := by
  have hb := State.execBeside_wf h0 h1 a
  unfold State.issueA
  split
  · next t ht =>
    have ht := hb t ht
    split <;> simp [h0, ht]
  · exact hb

@[simp] theorem State.noteA_mem (s0 s : State) (c : Instr) : (s0.noteA s c).mem = s.mem := rfl
@[simp] theorem State.issueAfter_wf {s : State} (h : s.mem.wf = true) (c a : Instr) : Canonical (s.issueAfter c a) := by
  have ha := exec_wf h a
  unfold State.issueAfter
  split
  · next t ht =>
    have ht : t.mem.wf = true := ha t ht
    have hc := exec_wf ht c
    split
    · simp [h]
    · simp [h]
    · split
      · next u hu =>
        have hu := hc u hu
        split
        · split <;> simp [hu]
        · simp [h]
        · simp [hu]
      · exact hc
  · exact ha

@[simp] theorem State.issue_wf {s : State} (h : s.mem.wf = true) (c : Instr) (a : Option Instr) : Canonical (s.issue c a) := by
  unfold State.issue
  extract_lets s0
  have h0 : s0.mem.wf = true := h
  have hc := exec_wf h0 c
  split
  · next t a ht =>
    have ht : t.mem.wf = true := hc t ht
    split
    · simp [ht]
    · split <;> simp [h0, ht]
    · split <;> simp [h0, ht]
    · split
      · simp [h0]
      split
      · split
        · split <;> simp [h0, ht]
        · exact exec_wf h0 _
      · simp [ht]
  · exact hc

@[simp] theorem State.pairRetire_mem (s0 s1 : State) (c : Instr) : (s0.pairRetire s1 c).mem = s1.mem := by
  unfold State.pairRetire; dsimp only; split_ifs <;> simp

@[simp] theorem State.startExchange_mem (s : State) : s.startExchange.mem = s.mem := rfl
@[simp] theorem State.firstCheckpoint_mem (s : State) : s.firstCheckpoint.mem = s.mem := by
  unfold State.firstCheckpoint
  split <;> rfl

@[simp] theorem State.finish_wf {s : State} (h : s.mem.wf = true) (tm : Bool) (b : Bundle) (pc w : Word) (stall : Nat) :
    (s.finish tm b pc w stall).mem.wf = true := by
  unfold State.finish
  extract_lets g ic rft s1 s2 r _ _ s3 s4 s5
  have h3 : s3.mem.wf = true := by simp [s3, s2, s1, h]
  have h4 : s4.mem.wf = true := State.charge_wf h3 _ _ _ _ _
  simp [s5, h4]

@[simp] theorem State.endClaim_wf {s : State} (h : s.mem.wf = true) (g : Nat) : (s.endClaim g).mem.wf = true := by
  unfold State.endClaim
  dsimp only
  split <;> simp [h]

@[simp] theorem State.settle_wf {s : State} (h : s.mem.wf = true) (pc : Word) : (s.settle pc).mem.wf = true := by
  unfold State.settle
  extract_lets g t
  have ht : t.mem.wf = true := by unfold t; split <;> simp [h]
  clear_value t
  split
  · exact ht
  · simp only [State.spend_mem]
    exact State.bill_wf (by simp [ht]) _ _ _ _ _
  · split <;> simp [ht]
  · exact ht

@[simp] theorem State.setMop_mem (s : State) (n : Nat) : (s.setMop n).mem = s.mem := rfl
@[simp] theorem State.microEnd_wf {s : State} (h : s.mem.wf = true) : s.microEnd.mem.wf = true := by
  simp [State.microEnd, h]

@[simp] theorem State.microDone_wf {s : State} (h : s.mem.wf = true) (s0 : State) (m : Micro) (b stall : Nat) (c a : Option Instr) :
    (s0.microDone s m b stall c a).mem.wf = true := by
  unfold State.microDone
  extract_lets pc s1 s2 s3 s4
  have h2 : s2.mem.wf = true := by simp [s2, s1, h]
  have h4 : s4.mem.wf = true := by simp [s4, s3, h2]
  split <;> simp [h4]

@[simp] theorem State.microA_wf {s0 s : State} (h0 : s0.mem.wf = true) (h : s.mem.wf = true) (m : Micro) (b stall : Nat) (c : Option Instr)
    (a : Option (Option Instr)) : Canonical (s0.microA s m b stall c a) := by
  unfold State.microA
  split
  · simp [h]
  · simp [h]
  · next a =>
    extract_lets s1 s2
    have h2 : s2.mem.wf = true := by simp [s2, s1, h]
    have hb := State.execBeside_wf h0 h2 a
    split
    · simp [s1, h]
    · split
      · next t ht =>
        have ht := hb t ht
        split
        · refine canonical_next_of (State.microDone_wf ?_ _ _ _ _ _ _)
          split <;> simp [ht]
        · simp [h0]
        · simp [ht]
      · exact hb

@[simp] theorem State.microTurn_wf {s : State} (h : s.mem.wf = true) (m : Micro) : Canonical (s.microTurn m) := by
  unfold State.microTurn
  dsimp -zeta only
  extract_lets mop b
  split
  · simp [h]
  · next w _ =>
    extract_lets u tm as
    have hu : u.mem.wf = true := by simp [u, h]
    clear_value as tm u
    generalize microBundle m w = p
    obtain ⟨c, a, stall⟩ := p
    dsimp only
    split
    · split
      · simp [hu]
      · split
        · simp [hu]
        · exact State.microA_wf hu hu _ _ _ _ _
    · split
      · simp [hu]
      · next c =>
        have hc := exec_wf hu c
        split
        · simp [hu]
        split
        · simp [hu]
        split
        · simp [hu]
        split
        · simp [hu]
        split
        · simp [hu]
        split
        · next t ht =>
          have ht : t.mem.wf = true := hc t ht
          split
          · exact State.microA_wf hu ht _ _ _ _ _
          · simp [ht]
          · simp [ht]
        · exact hc

@[simp] theorem State.startMicro_wf {s0 s : State} (h0 : s0.mem.wf = true) (h : s.mem.wf = true) (b : Bundle) (a : Option Instr) (pc w : Word) :
    (s0.startMicro s b a pc w).mem.wf = true := by
  unfold State.startMicro
  extract_lets t1 t2 t3
  have h1 : t1.mem.wf = true := State.charge_wf (State.payXl_wf h _ _) _ _ _ _ _
  have h3 : t3.mem.wf = true := by simp [t3, t2, h1]
  split
  · simp [h0]
  · exact h3

@[simp] theorem State.go_wf {s : State} (h : s.mem.wf = true) (b : Bundle) (pc w : Word) : Canonical (s.go b pc w) := by
  unfold State.go
  extract_lets a
  have hi := State.issue_wf h b.c a
  split
  · simp [h]
  split
  · simp [h]
  split
  · simp [h]
  split
  · next t ht =>
    have ht : t.mem.wf = true := hi t ht
    split
    · dsimp only
      split <;> simp [h, ht]
    · simp [ht]
  · exact hi

@[simp] theorem State.present_wf {s : State} (h : s.mem.wf = true) (pc w : Word) : Canonical (s.present pc w) := by
  unfold State.present
  dsimp only
  (repeat' split) <;> simp [h]

@[simp] theorem State.reread_wf {s : State} (h : s.mem.wf = true) (g : Nat) : (s.reread g).1.mem.wf = true := by
  have hr : (s.readWindows g (s.core g).arch.slottbl).1.mem.wf = true := State.readWindows_wf h _ _
  unfold State.reread
  dsimp only
  generalize s.readWindows g (s.core g).arch.slottbl = r at hr ⊢
  obtain ⟨t, r⟩ := r
  split
  · cases r <;> simpa using hr
  · exact h

@[simp] theorem State.bundleTurn_wf {s : State} (h : s.mem.wf = true) (g : Nat) : Canonical (s.bundleTurn g) := by
  have hr : (s.reread g).1.mem.wf = true := State.reread_wf h g
  unfold State.bundleTurn
  dsimp only
  generalize s.reread g = r at hr ⊢
  obtain ⟨t, r⟩ := r
  cases r with
  | ok _ =>
    dsimp only
    split
    · exact State.microTurn_wf hr _
    · have hf : (t.fetch g).1.mem.wf = true := State.fetch_wf hr g
      generalize t.fetch g = f at hf ⊢
      obtain ⟨u, f⟩ := f
      cases f with
      | ok w => dsimp only; split <;> simp [hf]
      | _ => simp [hf]
  | _ => simp [hr]

@[simp] theorem State.runTurn_wf {s : State} (h : s.mem.wf = true) (g : Nat) : Canonical (s.runTurn g) := by
  unfold State.runTurn
  dsimp only
  split
  · simp [h]
  split
  · simp [h]
  split
  · simp [h]
  split
  · next t ht =>
    have : t.mem.wf = true := State.takeAsync_wf h ht
    simp [this]
  · simp [h]

@[simp] theorem State.turn_wf {s : State} (h : s.mem.wf = true) (g : Nat) : Canonical (s.turn g) := by
  unfold State.turn
  dsimp only
  split
  · simp [h]
  split
  · split <;> simp [h]
  split
  · simp [h]
  · exact State.runTurn_wf (by simp [h]) g

@[simp] theorem State.deed_wf {s : State} (h : s.mem.wf = true) : Canonical s.deed := by
  unfold State.deed
  split
  · split
    · exact exec_wf (by exact h) _
    · simp
  · split
    · exact State.turn_wf h _
    · exact State.turn_wf (by exact h) _
    · split
      · exact exec_wf (by exact h) _
      · simp
    · simpa using h
    · simpa using h

@[simp] theorem State.advance_wf {s : State} (h : s.mem.wf = true) : Canonical s.advance := by
  have hd := State.deed_wf h
  unfold State.advance
  split
  · next t ht => exact canonical_next_of (State.mirror_wf s (hd t ht))
  · exact hd

/-- Settles O60: the deed of every step, whichever event or turn it is, keeps memory canonical, and bringing the images up to date
after it does too. -/
theorem memoryStaysCanonical : Obligations.MemoryStaysCanonical := by
  intro s t h ht
  exact State.advance_wf h t ht

end Sys2Proof.Machine
end

section
/-! What an atomic computes (R147). -/

namespace Sys2Proof.Machine

/-- The number that the low bits of a word are in a type, as the atomics compare them. -/
theorem intVal_eq_valueOf (t : IType) (n : Nat) : intVal t.signed t.width n = valueOf t (BitVec.ofNat 64 n) := by
  rw [intVal, valueOf, sextNat_eq_toInt, BitVec.setWidth_ofNat_of_le (width_le_64 t), BitVec.toNat_ofNat]

theorem amoResult_eq_extendTo {t : IType} {old : Nat} (h : old < 2 ^ t.width) : amoResult t old = extendTo t (BitVec.ofNat 64 old) := by
  rw [← extResult_eq_extendTo, amoResult, extResult, Nat.mod_eq_of_lt h]

section
variable {r : AmoReq} {old : Nat}

theorem amoNew_lt (h : old < 2 ^ r.t.width) : amoNew r old < 2 ^ r.t.width := by
  have hpos : 0 < 2 ^ r.t.width := by positivity
  have hlo : r.b % 2 ^ r.t.width < 2 ^ r.t.width := Nat.mod_lt _ hpos
  unfold amoNew
  dsimp only
  split
  · split_ifs <;> assumption
  · exact Nat.mod_lt _ hpos
  · exact Nat.and_lt_two_pow _ hlo
  · exact Nat.or_lt_two_pow h hlo
  · exact Nat.xor_lt_two_pow h hlo
  · split_ifs <;> assumption
  · split_ifs <;> assumption
  · exact hlo

theorem amoNew_add (hop : r.op = some .add) (old : Nat) : amoNew r old = (old + r.b) % 2 ^ r.t.width := by
  simp [amoNew, hop]

/-- The lesser number: x[b] where it is less than the old one. -/
theorem amoNew_min (hop : r.op = some .min) (old : Nat) :
    amoNew r old = if valueOf r.t (BitVec.ofNat 64 (r.b % 2 ^ r.t.width)) < valueOf r.t (BitVec.ofNat 64 old)
      then r.b % 2 ^ r.t.width else old := by
  simp only [amoNew, hop, intVal_eq_valueOf, decide_eq_true_eq]

/-- The greater number: x[b] where the old one is less than it. -/
theorem amoNew_max (hop : r.op = some .max) (old : Nat) :
    amoNew r old = if valueOf r.t (BitVec.ofNat 64 old) < valueOf r.t (BitVec.ofNat 64 (r.b % 2 ^ r.t.width))
      then r.b % 2 ^ r.t.width else old := by
  simp only [amoNew, hop, intVal_eq_valueOf, decide_eq_true_eq]

end

/-- Settles O25, operation by operation. -/
theorem atomicValues : Obligations.AtomicValues := by
  intro r old hold _ _
  dsimp only
  refine ⟨amoNew_lt hold, amoResult_eq_extendTo hold, ?_⟩
  split
  case h_1 hop => simp [amoNew, hop]
  case h_2 hop => exact amoNew_add hop old
  case h_3 hop => simp [amoNew, hop]
  case h_4 hop => simp [amoNew, hop, Nat.testBit_and]
  case h_5 hop => simp [amoNew, hop, Nat.testBit_or]
  case h_6 hop => simp [amoNew, hop, Nat.testBit_xor]
  case h_7 hop =>
    rw [amoNew_min hop]
    split_ifs with hless
    · exact ⟨(min_eq_right hless.le).symm, .inr rfl⟩
    · exact ⟨(min_eq_left (not_lt.1 hless)).symm, .inl rfl⟩
  case h_8 hop =>
    rw [amoNew_max hop]
    split_ifs with hless
    · exact ⟨(max_eq_right hless.le).symm, .inr rfl⟩
    · exact ⟨(max_eq_left (not_lt.1 hless)).symm, .inl rfl⟩

end Sys2Proof.Machine
end

section
/-! What a load of a core is served by (R142, R246): the stores that overlap it, and the youngest of them. -/

namespace Sys2Proof.Machine

/-- The store holds one of the keys. -/
def SbEntry.overlaps (keys : List Nat) (e : SbEntry) : Bool := keys.any e.has

theorem SbEntry.overlaps_iff {keys : List Nat} {e : SbEntry} : e.overlaps keys = true ↔ ∃ k ∈ keys, e.has k = true :=
  List.any_eq_true

theorem SbEntry.overlaps_eq_false_iff {keys : List Nat} {e : SbEntry} : e.overlaps keys = false ↔ ∀ k ∈ keys, e.has k = false := by
  simp [SbEntry.overlaps]

section
variable {s : State} {g : Nat} {keys : List Nat} {e : SbEntry} {l r : List SbEntry}

theorem loadBytes_of_apart (h : ∀ e ∈ s.storesOf g, ∀ k ∈ keys, e.has k = false) :
    s.loadBytes g keys = some (keys.map (s.dieByte (dieOf g))) := by
  have hnear : ((s.storesOf g).filter fun e => keys.any e.has) = [] :=
    List.filter_eq_nil_iff.2 fun e he => Bool.not_eq_true _ ▸ SbEntry.overlaps_eq_false_iff.2 (h e he)
  simp [State.loadBytes, hnear]

/-- With entry e the youngest that overlaps the load, the load takes e's bytes, or the journal's byte by byte, or it waits. -/
theorem loadBytes_of_youngest (hstores : s.storesOf g = l ++ e :: r) (he : ∃ k ∈ keys, e.has k = true)
    (hr : ∀ x ∈ r, ∀ k ∈ keys, x.has k = false) :
    s.loadBytes g keys =
      if e.awaits.isNone && keys.all e.has then some (keys.map fun k => SMap.get e.bytes 0 k)
      else if s.dual g && (s.core g).sb.all (fun x => !x.overlaps keys)
          && ((s.storesOf g).filter (SbEntry.overlaps keys)).all (fun x => x.awaits.isNone) then
        some (keys.map (s.viewByte g))
      else none := by
  have hyounger : r.filter (SbEntry.overlaps keys) = [] :=
    List.filter_eq_nil_iff.2 fun x hx => Bool.not_eq_true _ ▸ SbEntry.overlaps_eq_false_iff.2 (hr x hx)
  have hlast : ((s.storesOf g).filter (SbEntry.overlaps keys)).getLast? = some e := by
    rw [hstores, List.filter_append, List.filter_cons_of_pos (SbEntry.overlaps_iff.2 he), hyounger, List.getLast?_concat]
  change (match ((s.storesOf g).filter (SbEntry.overlaps keys)).getLast? with
    | none => _
    | some e => _) = _
  rw [hlast]
  rfl

end

/-- Settles O21: by the youngest store that overlaps the load, if there is one. -/
theorem storeToLoadForwarding : Obligations.StoreToLoadForwarding := by
  intro s g keys
  refine ⟨loadBytes_of_apart, fun l r e hstores he hr => ⟨?whole, fun hpart => ?part⟩⟩
  case whole =>
    rintro ⟨hdata, hall⟩
    have hfull : (e.awaits.isNone && keys.all e.has) = true := by simpa [hdata] using hall
    rw [loadBytes_of_youngest hstores he hr, if_pos hfull]
  case part =>
    have hfull : (e.awaits.isNone && keys.all e.has) = false := by
      rcases hpart with hwaits | ⟨k, hk, hout⟩
      · simp [hwaits]
      · exact Bool.and_eq_false_iff.2 (.inr (List.all_eq_false.2 ⟨k, hk, by simp [hout]⟩))
    rw [loadBytes_of_youngest hstores he hr, hfull]
    refine ⟨fun hdual => by simp [hdual], fun hdual hsb hdata => ?forwarded, fun hdual hlate => ?waits⟩
    case forwarded =>
      have hsb : (s.core g).sb.all (fun x => !x.overlaps keys) = true :=
        List.all_eq_true.2 fun x hx => by simpa using SbEntry.overlaps_eq_false_iff.2 (hsb x hx)
      have hdata : ((s.storesOf g).filter (SbEntry.overlaps keys)).all (fun x => x.awaits.isNone) = true := by
        refine List.all_eq_true.2 fun x hx => ?_
        obtain ⟨hx, hover⟩ := List.mem_filter.1 hx
        simp [hdata x hx (SbEntry.overlaps_iff.1 hover)]
      simp [hdual, hsb, hdata]
    case waits =>
      have hheld : ((s.core g).sb.all (fun x => !x.overlaps keys)
          && ((s.storesOf g).filter (SbEntry.overlaps keys)).all (fun x => x.awaits.isNone)) = false := by
        rcases hlate with ⟨x, hx, hover⟩ | ⟨x, hx, hover, hwaits⟩
        · exact Bool.and_eq_false_iff.2 (.inl (List.all_eq_false.2 ⟨x, hx, by simp [SbEntry.overlaps_iff.2 hover]⟩))
        · exact Bool.and_eq_false_iff.2 (.inr (List.all_eq_false.2
            ⟨x, List.mem_filter.2 ⟨hx, SbEntry.overlaps_iff.2 hover⟩, by simpa using hwaits⟩))
      rw [Bool.and_assoc, hheld, Bool.and_false]
      rfl

end Sys2Proof.Machine
end

section
/-! What the checks of an access leave of the cores: TLBs are filled, errors fire and cycles are charged, but strands and registers stand
as they are (R136, R141, R258, R421). -/

namespace Sys2Proof.Machine

/-- From s to t translations and checks of accesses have been made: no strand has moved and no register has changed. -/
structure Checked (s t : State) : Prop where
  cur : t.cur = s.cur
  core : ∀ g, (t.core g).strandState = (s.core g).strandState

theorem checked_refl (s : State) : Checked s s := ⟨rfl, fun _ => rfl⟩

theorem Quiet.checked {s t : State} (h : Quiet s t) : Checked s t := ⟨h.cur, h.core⟩

section
variable {s t : State} (h : Checked s t)
include h

theorem Checked.trans {u : State} (h' : Checked t u) : Checked s u :=
  ⟨h'.cur.trans h.cur, fun g => (h'.core g).trans (h.core g)⟩

theorem Checked.arch (g : Nat) : (t.core g).arch = (s.core g).arch := congrArg (fun p => p.2.2.2.1) (h.core g)

theorem Checked.me_arch : t.me.arch = s.me.arch := by rw [State.me, State.me, h.cur, h.arch]

theorem Checked.me_x (r : Reg) : t.me.x r = s.me.x r := by rw [Core.x, Core.x, h.me_arch]

/-- A change of other parts of the package. -/
theorem Checked.elsewhere {u : State} (hcores : u.cores = t.cores) (hcur : u.cur = t.cur) : Checked s u :=
  h.trans ⟨hcur, fun g => by simp only [State.core, hcores]⟩

theorem Checked.updCore {g : Nat} {f : Core → Core} (hf : ∀ c, (f c).strandState = c.strandState) : Checked s (t.updCore g f) :=
  h.trans ((quiet_refl t).updCore hf).checked

theorem Checked.foldl {α : Type} {f : State → α → State} (hf : ∀ t a, Checked t (f t a)) (l : List α) : Checked s (l.foldl f t) := by
  induction l generalizing t with
  | nil => exact h
  | cons a r ih => exact ih (h.trans (hf t a))

end

/-! ## Translation -/

section
variable (s : State) (g va n : Nat) (k : XKind)

theorem checked_fireSector (die : Nat) (direct : Bool) (sector : Nat) : Checked s (s.fireSector die direct sector).1 :=
  ((quiet_refl s).fireSector die direct sector).checked

theorem checked_startWalk : Checked s (s.startWalk g n).1 := by
  unfold State.startWalk
  split <;> exact (checked_refl s).elsewhere rfl rfl

theorem checked_fillTlb (x : Xlated) : Checked s (s.fillTlb g x) := by
  unfold State.fillTlb
  split
  · exact checked_refl s
  · next e _ =>
    have hcore : Checked s (s.updCore g fun c => { c with tlb := if c.tlb.contains e then c.tlb else (e :: c.tlb).take 64 }) :=
      (checked_refl s).updCore fun _ => rfl
    exact hcore.elsewhere rfl rfl

theorem checked_translated : Checked s (s.translated g va k).1 := by
  have hwalk : Checked s (((s.walkOf g va k).foldl (fun s a => (s.fireSector (dieOf g) false (a / 32)).1) s).startWalk g
      (s.walkOf g va k).length).1 :=
    ((checked_refl s).foldl (fun t a => checked_fireSector t _ _ _) _).trans (checked_startWalk _ _ _)
  unfold State.translated
  dsimp only
  split
  · exact hwalk.trans (checked_fillTlb _ _ _)
  · exact hwalk

theorem checked_translate : Checked s (s.translate g va k).1 := by
  unfold State.translate
  dsimp only
  split
  · exact checked_translated s g va k
  · exact (checked_translated s g va k).updCore fun _ => rfl

theorem checked_translateRange : Checked s (s.translateRange g va n k).1 := by
  unfold State.translateRange
  refine List.foldlRecOn (motive := fun r : State × Except (Nat × Nat) (List (Nat × Xlated)) => Checked s r.1) _ _ (checked_refl s)
    fun r hr p _ => ?_
  split
  · exact hr
  · have hnext := hr.trans (checked_translate r.1 g (p % 2 ^ 64) k)
    split <;> next htr => rwa [htr] at hnext

theorem checked_recordBias (biasd : Bool) (pa : Nat) : Checked s (s.recordBias biasd pa) := by
  unfold State.recordBias
  split
  · exact (checked_refl s).elsewhere rfl rfl
  · exact checked_refl s

theorem checked_recordBiases (tr : List (Nat × Xlated)) : Checked s (s.recordBiases tr) := by
  refine (checked_refl s).foldl (fun t p => ?_) tr
  exact checked_recordBias t _ _

end

theorem checked_access (s : State) (g : Nat) (va : Word) (n : Nat) (k : XKind) (bp : List Nat) (ctl : CtlRule) :
    Checked s (s.access g va n k bp ctl).1 := by
  have htr := checked_translateRange s g va.toNat n k
  unfold State.access
  split
  · exact checked_refl s
  split
  · exact checked_refl s
  split
  · next heq => rwa [heq] at htr
  · next t tr heq =>
    rw [heq] at htr
    split
    · exact htr
    dsimp only
    split
    · exact htr
    split
    · exact htr
    · exact htr.trans (checked_recordBiases t tr)

theorem Accessible.checked {s t : State} {ea : Word} {n : Nat} {write : Bool} {ctl : CtlRule} {tr : List (Nat × Xlated)}
    (h : Accessible s ea n write ctl t tr) : Checked s t := by
  have hacc := checked_access s s.cur ea n (if write then .write else .read) [if write then 3 else 2] ctl
  rwa [h.passes] at hacc

end Sys2Proof.Machine
end

section
/-! Stores of memory: ST and STP, and the entries that a store makes of its bytes (R139, R141, R142, R246). -/

namespace Sys2Proof.Machine

/-! ## The stores that a core holds -/

theorem dual_pushStore (s : State) (g : Nat) (e : SbEntry) : (s.pushStore g e).dual g = s.dual g := by
  unfold State.pushStore
  split
  · by_cases hg : g = g / 2 * 2
    · rw [← hg, State.dual, State.core_updCore_same]
      rfl
    · rw [State.dual, State.core_updCore_other _ _ hg]
      rfl
  · rw [State.dual, State.core_updCore_same]
    rfl

/-- A store joins its core's stores behind those before it: in the store buffer, or in a pair's journal. -/
theorem storesOf_pushStore (s : State) (g : Nat) (e : SbEntry) : (s.pushStore g e).storesOf g = s.storesOf g ++ [e] := by
  rw [State.storesOf, State.storesOf, dual_pushStore]
  cases hdual : s.dual g with
  | true =>
    have hsb : ((s.pushStore g e).core g).sb = (s.core g).sb := by
      rw [State.pushStore, if_pos hdual]
      by_cases hg : g = g / 2 * 2
      · rw [← hg, State.core_updCore_same]
      · rw [State.core_updCore_other _ _ hg]
    have hjournal : ((s.pushStore g e).core (g / 2 * 2)).pair.journal = (s.core (g / 2 * 2)).pair.journal ++ [e] := by
      rw [State.pushStore, if_pos hdual, State.core_updCore_same]
    rw [hsb, if_pos rfl, if_pos rfl, hjournal, List.append_assoc]
  | false =>
    simp [State.pushStore, hdual]

theorem storesOf_foldl_pushStore {α : Type} (entry : α → SbEntry) (l : List α) (s : State) (g : Nat) :
    (l.foldl (fun s p => s.pushStore g (entry p)) s).storesOf g = s.storesOf g ++ l.map entry := by
  induction l generalizing s with
  | nil => simp
  | cons p r ih => rw [List.foldl_cons, ih, storesOf_pushStore, List.append_assoc, List.map_cons, List.singleton_append]

theorem sameMemory_pushStore (s : State) (g : Nat) (e : SbEntry) : SameMemory s (s.pushStore g e) := by
  unfold State.pushStore
  split <;> exact ⟨fun _ => rfl, fun _ _ => rfl⟩

theorem sameMemory_foldl_pushStore {α : Type} (entry : α → SbEntry) (l : List α) (s : State) (g : Nat) :
    SameMemory s (l.foldl (fun s p => s.pushStore g (entry p)) s) := by
  induction l generalizing s with
  | nil => exact ⟨fun _ => rfl, fun _ _ => rfl⟩
  | cons p r ih =>
    obtain ⟨hmem, hdie⟩ := sameMemory_pushStore s g (entry p)
    obtain ⟨hmem', hdie'⟩ := ih (s.pushStore g (entry p))
    exact ⟨fun k => (hmem' k).trans (hmem k), fun d k => (hdie' d k).trans (hdie d k)⟩

/-! ## The entries of a store -/

/-- The entry of one part of a store, as (offset, length). -/
def partEntry (tr : List (Nat × Xlated)) (va : Word) (bs : List Byte) (rel : Option Scope) (p : Nat × Nat) : SbEntry :=
  let ks := ((keysOf tr va.toNat bs.length).drop p.1).take p.2
  { bytes := sortCells (ks.zip ((bs.drop p.1).take p.2)), words := fullWords ks, rel := rel, awaits := none, flush := false,
    exempt := snapAt tr (va.toNat + p.1) }

/-- A store that passes its checks makes an entry of each of its parts, and does nothing else. -/
theorem coreWrite_entries {s t u : State} {g : Nat} {va : Word} {bs : List Byte} {rel : Option Scope} {ctl : CtlRule}
    {tr : List (Nat × Xlated)} (hacc : s.access g va bs.length .write [3] ctl = (u, .ok tr))
    (hwrite : s.coreWrite g va bs rel ctl = (t, .ok ())) :
    t = (lineParts va.toNat bs.length).foldl (fun s p => s.pushStore g (partEntry tr va bs rel p)) u := by
  rw [State.coreWrite, hacc] at hwrite
  dsimp only at hwrite
  split at hwrite
  · cases hwrite
  split at hwrite
  · cases hwrite
  split at hwrite
  · cases hwrite
  · cases hwrite
    rfl

theorem partEntry_bytes (tr : List (Nat × Xlated)) (va : Word) (bs : List Byte) (rel : Option Scope) (p : Nat × Nat) :
    (partEntry tr va bs rel p).bytes = sortCells (((keysOf tr va.toNat bs.length).zip bs).drop p.1 |>.take p.2) := by
  rw [partEntry, List.zip, List.drop_zipWith, List.take_zipWith]

theorem length_cells (tr : List (Nat × Xlated)) (va : Nat) (bs : List Byte) : ((keysOf tr va bs.length).zip bs).length = bs.length := by
  simp [keysOf]

theorem lineParts_bytes (tr : List (Nat × Xlated)) (va : Word) (bs : List Byte) (rel : Option Scope) :
    let cells := (keysOf tr va.toNat bs.length).zip bs
    let m := 32 - va.toNat % 32
    ((lineParts va.toNat bs.length).map (partEntry tr va bs rel)).map (·.bytes)
      = if bs.length ≤ m then [sortCells cells] else [sortCells (cells.take m), sortCells (cells.drop m)] := by
  intro cells m
  change ((if bs.length ≤ m then [(0, bs.length)] else [(0, m), (m, bs.length - m)]).map (partEntry tr va bs rel)).map (·.bytes) = _
  have hcells : cells.length = bs.length := length_cells tr va.toNat bs
  have hrest : (cells.drop m).length ≤ bs.length - m := by rw [List.length_drop, hcells]
  split_ifs <;> simp only [List.map_cons, List.map_nil, partEntry_bytes, List.drop_zero]
  · rw [List.take_of_length_le hcells.le]
  · rw [List.take_of_length_le hrest]

/-! ## ST and STP -/

theorem State.memStore_completes {s t : State} {ea : Word} {bs : List Byte} {o : MemOrd × Scope}
    (h : s.coreWrite s.cur ea bs (if MemOrd.isRel o.1 then some o.2 else none) .align = (t, .ok ())) :
    s.memStore ea bs o = .next (t.extraCycles ((pagesOf ea.toNat bs.length).length - 1)) := by
  rw [State.memStore, h, Got.step]

/-- A store that goes on: the bytes are those of the registers as they stood at issue, and the checks have not changed them. -/
theorem StoreReady.completes {s t : State} {ea : Word} {bs : List Byte} {o : MemOrd × Scope} {rule : CtlRule} {aligned ctl : Bool}
    {n : Nat} (hn : bs.length = n) (h : StoreReady s ea bs o rule t) (haligned : aligned = true → ea.toNat % n = 0)
    (hrule : (if ctl && decide (4 ≤ n) && decide (ea.toNat % n = 0) then CtlRule.allow else .align) = rule)
    (onCtl : State → Nat → Step) {bytes : State → List Byte} (hbytes : ∀ u, Checked s u → bytes u = bs) :
    s.dataAccess ea n true aligned ctl onCtl (fun s _ _ => s.memStore ea (bytes s) o)
      = .next (t.extraCycles ((pagesOf ea.toNat n).length - 1)) := by
  subst hn
  obtain ⟨u, tr, hacc, hwrite⟩ := h.ready
  rw [hacc.dataAccess haligned hrule]
  rw [hbytes u hacc.checked]
  exact State.memStore_completes hwrite

theorem length_leBytes (n v : Nat) : (leBytes n v).length = n := by
  induction n generalizing v with
  | zero => rfl
  | succ n ih => rw [leBytes, List.length_cons, ih]

section
variable {s t : State} {d : Reg} {m : MemOp} {n : Nat} {ea : Word}

theorem exec_st_completes {z : Size} (hn : Size.bytes z = n) (hea : MemOp.ea s.me n m = ea)
    (h : StoreReady s ea (leBytes n (s.me.x d).toNat) (MemOp.ord m) (ctlRuleOf n ea) t) :
    exec (.st d z m) s = .next (t.extraCycles ((pagesOf ea.toNat n).length - 1)) := by
  subst hn hea
  have haligned : AlignedFor (MemOp.ord m) (Size.bytes z) (MemOp.ea s.me (Size.bytes z) m) := by
    simpa only [length_leBytes] using h.aligned
  change execSt d z m s = _
  unfold execSt
  exact h.completes (length_leBytes _ _) haligned.of_annotated (ctlRuleOf_eq _ _) _
    (bytes := fun u => leBytes (Size.bytes z) (u.me.x d).toNat) fun u hu => by rw [hu.me_x]

theorem exec_stp_completes {dbl : Bool} (hn : pairHalf dbl = n) (hea : MemOp.ea s.me (2 * n) m = ea)
    (h : StoreReady s ea (leBytes n (s.me.x d).toNat ++ leBytes n (s.me.x (d + 1)).toNat) (MemOp.ord m) .align t)
    (haligned : ea.toNat % (2 * n) = 0) :
    exec (.stp d dbl m) s = .next (t.extraCycles ((pagesOf ea.toNat (2 * n)).length - 1)) := by
  subst hn hea
  have hlength : (leBytes (pairHalf dbl) (s.me.x d).toNat ++ leBytes (pairHalf dbl) (s.me.x (d + 1)).toNat).length
      = 2 * pairHalf dbl := by
    rw [List.length_append, length_leBytes, length_leBytes, Nat.two_mul]
  change execStp d dbl m s = _
  unfold execStp
  exact h.completes (ctl := false) hlength (fun _ => haligned) rfl _
    (bytes := fun u => leBytes (pairHalf dbl) (u.me.x d).toNat ++ leBytes (pairHalf dbl) (u.me.x (d + 1)).toNat)
    fun u hu => by rw [hu.me_x, hu.me_x]

end

/-- Settles O19: ST and STP are one checked write of their registers' bytes, and such a write makes one entry per line it touches. -/
theorem storesEnterTheBuffer : Obligations.StoresEnterTheBuffer := by
  intro s t d z dbl m
  refine ⟨?st, ?stp, fun u va bs rel tr hacc hwrite => ?entries⟩
  case st => cases z <;> exact exec_st_completes rfl rfl
  case stp => exact exec_stp_completes rfl rfl
  case entries =>
    refine ⟨(lineParts va.toNat bs.length).map (partEntry tr va bs rel), ?_, ?_, fun e he => ?_, lineParts_bytes tr va bs rel⟩
    · rw [coreWrite_entries hacc hwrite]
      exact storesOf_foldl_pushStore _ _ u s.cur
    · rw [coreWrite_entries hacc hwrite]
      exact sameMemory_foldl_pushStore _ _ u s.cur
    · obtain ⟨p, -, rfl⟩ := List.mem_map.1 he
      exact ⟨rfl, rfl⟩

end Sys2Proof.Machine
end

section
/-! Atomics performed at once (R147, R148, R235): what a write of a little-endian value leaves in memory, and the way of an AMO or CAS
from its checks to its site. -/

namespace Sys2Proof.Machine

/-! ## Little-endian values in memory -/

theorem cellsOf_succ (k n v : Nat) : cellsOf k (n + 1) v = cellsOf k n v ++ [(k + n, byteOf v n)] := by
  simp [cellsOf, List.range_succ]

theorem wrs_cellsOf_succ (m : Memory) (k n v : Nat) :
    m.wrs (cellsOf k (n + 1) v) = (m.wrs (cellsOf k n v)).wr (k + n) (byteOf v n) := by
  rw [cellsOf_succ, Memory.wrs, List.foldl_append]
  rfl

theorem rd_wrs_cellsOf (m : Memory) (k v : Nat) {n i : Nat} (hi : i < n) : (m.wrs (cellsOf k n v)).rd (k + i) = byteOf v i := by
  induction n with
  | zero => exact absurd hi (Nat.not_lt_zero i)
  | succ n ih =>
    rw [wrs_cellsOf_succ]
    rcases Nat.lt_succ_iff_lt_or_eq.1 hi with hlt | rfl
    · rw [Memory.rd_wr_other _ _ (by omega), ih hlt]
    · rw [Memory.rd_wr_same]

theorem rd_wrs_cellsOf_other (m : Memory) (k n v : Nat) {j : Nat} (hj : ∀ i < n, j ≠ k + i) : (m.wrs (cellsOf k n v)).rd j = m.rd j := by
  refine Memory.rd_wrs_other _ _ _ fun c hc => ?_
  obtain ⟨i, hi, rfl⟩ := List.mem_map.1 hc
  exact (hj i (List.mem_range.1 hi)).symm

theorem byteOf_succ (v i : Nat) : byteOf v (i + 1) = byteOf (v >>> 8) i := by
  rw [byteOf, byteOf, ← Nat.shiftRight_add, Nat.mul_succ, Nat.add_comm]

theorem leValue_byteOf (v n : Nat) : leValue ((List.range n).map (byteOf v)) = v % 2 ^ (8 * n) := by
  induction n generalizing v with
  | zero => simp [leValue, Nat.mod_one]
  | succ n ih =>
    have htail : (List.range n).map (byteOf v ∘ Nat.succ) = (List.range n).map (byteOf (v >>> 8)) :=
      List.map_congr_left fun i _ => byteOf_succ v i
    rw [List.range_succ_eq_map, List.map_cons, List.map_map, htail, leValue, ih, Nat.shiftRight_eq_div_pow, Nat.mul_succ,
      Nat.add_comm (8 * n), Nat.pow_add, Nat.mod_mul]
    simp [byteOf]

/-- What was written is read again, modulo its width. -/
theorem le_wrs_cellsOf (m : Memory) (k n v : Nat) : (m.wrs (cellsOf k n v)).le k n = v % 2 ^ (8 * n) := by
  have hbytes : (List.range n).map (fun i => (m.wrs (cellsOf k n v)).rd (k + i)) = (List.range n).map (byteOf v) :=
    List.map_congr_left fun i hi => rd_wrs_cellsOf m k v (List.mem_range.1 hi)
  rw [Memory.le, hbytes, leValue_byteOf]

/-! ## The location -/

section
variable (s : State) (exempt : Bool) (r : AmoReq)

theorem performAmo_mem : (s.performAmo exempt r).1.mem = s.mem.wrs (cellsOf r.pa r.bytes (amoNew r (s.mem.le r.pa r.bytes))) := rfl

theorem performAmo_old : (s.performAmo exempt r).2 = s.mem.le r.pa r.bytes := rfl

theorem performAmo_frame {k : Nat} (hk : k ∉ r.keys) : (s.performAmo exempt r).1.mem.rd k = s.mem.rd k := by
  rw [performAmo_mem]
  refine rd_wrs_cellsOf_other _ _ _ _ fun i hi heq => hk ?_
  exact List.mem_map.2 ⟨i, List.mem_range.2 hi, heq.symm⟩

theorem bytes_mul_eight : 8 * r.bytes = r.t.width := by
  unfold AmoReq.bytes
  cases r.t <;> rfl

theorem performAmo_new :
    (s.performAmo exempt r).1.mem.le r.pa r.bytes = amoNew r (s.mem.le r.pa r.bytes) % 2 ^ r.t.width := by
  rw [performAmo_mem, le_wrs_cellsOf, bytes_mul_eight]

end

/-! ## The way to the location -/

section
variable {s : State} {d : Reg} {o : MemOrd × Scope} {r : AmoReq}

/-- State w once an atomic has been performed in it: the old value waits for its register (R48). -/
def State.amoDone (w : State) (d : Reg) (exempt : Bool) (r : AmoReq) : State :=
  (w.performAmo exempt r).1.pushLoad
    { dsts := [(d.toNat, amoResult r.t (w.mem.le r.pa r.bytes))], atomic := true, held := none, since := w.clock, pa := r.pa }

theorem startAmo_completes {w : State} {exempt : Bool} (hwait : s.amoWait s.cur o r = false) (hlinks : linksTo (dieOf s.cur) r.pa = [])
    (hfree : s.siteFree s.cur exempt r = true) (hfire : s.fireKeys (dieOf s.cur) true r.keys = (w, false))
    (hclean : ∀ k ∈ r.keys, w.poisonSeen w.cur k = false) : s.startAmo d o exempt r = .next (w.amoDone d exempt r) := by
  have hquiet := (quiet_refl s).fireKeys (dieOf s.cur) true r.keys
  rw [hfire] at hquiet
  have hpoison : r.keys.any (w.poisonSeen s.cur) = false := by
    rw [← hquiet.cur]
    simpa using hclean
  simp only [State.startAmo, hwait, hlinks, hfree, hfire, hpoison, performAmo_old, ← hquiet.clock, List.isEmpty_nil, Bool.false_eq_true,
    Bool.not_true, if_true, if_false]
  rfl

theorem amoTarget_starts {x : Xlated} (hown : s.ownWait s.cur none r.keys = none)
    (hclean : ∀ k ∈ r.keys, s.poisonSeen s.cur k = false ∧ blockIs s k .quarantined = false)
    (hstays : s.migrateKey s.cur [(r.ea.toNat, x)] = none) (hopen : s.window x.pa = .opened) (hstill : s.moving x.pa = false) :
    s.amoTarget d o x r = (s.recordBias x.biasd x.pa).startAmo d o x.snapx r := by
  have hpoison : (r.keys.any fun k => s.poisonSeen s.cur k || blockIs s k .quarantined) = false := by
    simpa using hclean
  simp only [State.amoTarget, hown, hpoison, hstays, hopen, hstill, reduceCtorEq, Bool.false_eq_true, or_self, if_false]

theorem atomic_meets_target {u : State} {x : Xlated} (haligned : r.ea.toNat % (r.t.width / 8) = 0)
    (hread : s.me.breakHit r.ea.toNat (r.t.width / 8) 2 = none) (hwrite : s.me.breakHit r.ea.toNat (r.t.width / 8) 3 = none)
    (hnew : s.me.amoSt s.me.amoKey = none) (hwalk : s.walkHeld r.ea.toNat .atomic = false)
    (htr : s.translate s.cur r.ea.toNat .atomic = (u, .ok x)) (hpa : r.pa = x.pa) {b dv : Word} (hb : r.b = b.toNat) (hd : r.d = dv.toNat)
    (hsupported : amoSupported x.pa r = true) (hmemory : u.hasMemory x.pa = true) (hperforms : hostPerforms x.pa r = true)
    (hopen : u.window x.pa = .opened) :
    s.atomic d r.ea r.t r.op b dv r.tok o = u.amoTarget d o x r := by
  have hr : ({ ea := r.ea, pa := x.pa, t := r.t, op := r.op, b := b.toNat, d := dv.toNat, tok := r.tok } : AmoReq) = r := by
    rw [← hpa, ← hb, ← hd]
  simp [State.atomic, haligned, hread, hwrite, hnew, hwalk, htr, hr, hsupported, hmemory, hperforms, hopen]

end

/-- Settles O24: the atomic goes from its checks through its target to its site, and the site's bytes are rewritten. -/
theorem atomicsAtOnce : Obligations.AtomicsAtOnce := by
  intro s u v d a b t op ctl x g n run
  have hrun (i : Instr) (ea : Word) (r : AmoReq) (o : MemOrd × Scope)
      (hexec : exec i s = s.atomic d ea t r.op (s.me.x b) (s.me.x d) r.tok o) : run i ea r o := by
    rintro haligned hread hwrite hnew hwalk htr ⟨rfl, hpa, rfl, hb, hd⟩ hsupported hmemory hperforms hopen hstill hown hclean hstays rfl hwait
      hlinks hfree w hfire hpoison
    have hdone : exec i s = .next (w.amoDone d x.snapx r) := by
      rw [hexec, atomic_meets_target haligned hread hwrite hnew hwalk htr hpa hb hd hsupported hmemory hperforms hopen,
        amoTarget_starts hown hclean hstays hopen hstill, startAmo_completes hwait hlinks hfree hfire hpoison]
    rw [hdone, State.amoDone, hpa]
    refine ⟨rfl, fun k => performAmo_frame w x.snapx r, ?_⟩
    rw [← hpa]
    exact performAmo_new w x.snapx r
  refine ⟨fun r hop htok => hrun _ _ r _ ?amo, fun r hop htok => hrun _ _ r _ ?cas, fun r hop htok => hrun _ _ r _ ?annotated⟩
  all_goals
    rw [hop, htok]
    rfl

end Sys2Proof.Machine
end

section
/-! Hints and fences: PREF, CFLUSH and FENCE (R143, R144, R150). -/

namespace Sys2Proof.Machine

/-! ## CFLUSH -/

section
variable {s u : State} {l : FlushLevel} {m : MemOp} {x : Xlated} (hwalk : s.walkHeld (MemOp.ea s.me 32 m).toNat .read = false)
  (htr : s.translate s.cur (MemOp.ea s.me 32 m).toNat .read = (u, .ok x)) (hmem : isControl x.pa = false)
include hwalk htr hmem

theorem exec_cflush_window (hwindow : isSpad x.pa = true ∨ apertureOf x.pa ≠ none) : exec (.cflush l m) s = .next u := by
  have hskip : (isSpad x.pa || (apertureOf x.pa).isSome) = true := by
    simpa [Option.isSome_iff_ne_none] using hwindow
  change execCflush l m s = _
  simp only [execCflush, hwalk, htr, hmem, hskip, Bool.false_eq_true, if_false, if_true]

theorem exec_cflush_memory (hspad : isSpad x.pa = false) (hwindow : apertureOf x.pa = none) (hroom : u.sbWait u.cur 1 = none) :
    exec (.cflush l m) s = .next (u.pushStore u.cur
      { bytes := [], words := [], rel := none, awaits := none, flush := true, exempt := false }) := by
  change execCflush l m s = _
  simp only [execCflush, hwalk, htr, hmem, hspad, hwindow, hroom, Option.isSome_none, Bool.or_self, Bool.false_eq_true, if_false]

end

/-! ## FENCE -/

theorem Scope.wide_eq_false_iff (sc : Scope) : Scope.wide sc = false ↔ sc = .core ∨ sc = .quad ∨ sc = .die := by
  cases sc <;> decide

/-- What a fence of the kind and scope waits for is done. -/
def State.FenceDone (s : State) (o : FenceOrd) (sc : Scope) : Prop :=
  let narrow := sc = .core ∨ sc = .quad ∨ sc = .die
  match o with
  | .acq => s.me.vmemDone = true ∧ (narrow ∨ s.me.loads = [])
  | .rel => (narrow ∨ (s.me.loads = [] ∧ s.storesDone s.cur sc = true)) ∧ (sc = .core ∨ s.hostOut s.cur = false)
  | .ar => s.me.vmemDone = true ∧ (narrow ∨ (s.me.loads = [] ∧ s.storesDone s.cur sc = true)) ∧ (sc = .core ∨ s.hostOut s.cur = false)
  | .sc => s.me.vmemDone = true ∧ s.me.loads = [] ∧ s.storesDone s.cur sc = true
  | .eng => s.me.enginesDone = true

theorem fenceWait_eq_false_iff (s : State) (o : FenceOrd) (sc : Scope) : s.fenceWait s.cur o sc = false ↔ s.FenceDone o sc := by
  have hloads : (s.core s.cur).loads = [] ↔ (s.core s.cur).loadsDone = true := List.isEmpty_iff.symm
  cases o <;> simp only [State.FenceDone, State.me, ← Scope.wide_eq_false_iff, hloads] <;>
    simp [State.fenceWait, and_assoc, or_iff_not_imp_left]

theorem exec_fence_completes {s : State} {o : FenceOrd} {sc : Scope} (h : s.FenceDone o sc) : exec (.fence o sc) s = .next s :=
  if_neg (by rw [(fenceWait_eq_false_iff s o sc).2 h]; decide)

theorem exec_fence_waits {s : State} {o : FenceOrd} {sc : Scope} (h : ¬ s.FenceDone o sc) :
    exec (.fence o sc) s = .next (s.holding cMEM) :=
  if_pos (by rwa [← fenceWait_eq_false_iff, Bool.not_eq_false] at h)

/-- Settles O23: a hint by what its translation comes to, a fence by what it waits for. -/
theorem hintsAndFences : Obligations.HintsAndFences := by
  intro s k l m o sc
  refine ⟨rfl, fun u x hwalk htr hmem => ⟨exec_cflush_window hwalk htr hmem, exec_cflush_memory hwalk htr hmem⟩, ?fence⟩
  case fence => exact ⟨exec_fence_completes, exec_fence_waits⟩

end Sys2Proof.Machine
end

section
/-! Streams and copies: SBIND, SDROP, ACOPY, CHWAIT, and the engine's grants (R151 to R156, R296). -/

namespace Sys2Proof.Machine

theorem hold_eq_holding (s : State) (cause : Nat) : s.hold cause = .next (s.holding cause) := rfl

/-! ## SBIND -/

section
variable {s u : State} {d : Reg} {m : MemOp} {bs : List Byte} {pa : Nat}

theorem exec_sbind_misaligned (h : (MemOp.ea s.me 32 m).toNat % 32 ≠ 0) :
    exec (.sbind d m) s = .next (s.trap cALIGN (MemOp.ea s.me 32 m)) := if_pos h

section
variable (haligned : (MemOp.ea s.me 32 m).toNat % 32 = 0)
  (hread : s.coreRead s.cur (MemOp.ea s.me 32 m) 32 .read .align = (u, .ok (bs, pa)))
include haligned hread

theorem exec_sbind_invalid (hok : (streamOf bs u.me.arch.vshape).ok = false) :
    exec (.sbind d m) s = .next (u.trap cSTREAM (MemOp.ea s.me 32 m)) := by
  change execSbind d m s = _
  simp [execSbind, haligned, hread, Got.step, hok, trapStep]

variable (hok : (streamOf bs u.me.arch.vshape).ok = true)
include hok

theorem exec_sbind_full (hfull : cmdDepth ≤ u.me.cmds.length) : exec (.sbind d m) s = .next (u.holding cSTRM) := by
  change execSbind d m s = _
  simp [execSbind, haligned, hread, Got.step, hok, hfull, hold_eq_holding]

variable (hroom : u.me.cmds.length < cmdDepth)
include hroom

theorem exec_sbind_used (huses : u.me.arch.vUses d.toNat = true) : exec (.sbind d m) s = .next (u.holding cVSEQ) := by
  change execSbind d m s = _
  simp [execSbind, haligned, hread, Got.step, hok, hroom.not_ge, huses, hold_eq_holding]

theorem exec_sbind_enters (huses : u.me.arch.vUses d.toNat = false) :
    exec (.sbind d m) s = .next (u.pushCmd (.bind d.toNat (streamOf bs u.me.arch.vshape))) := by
  change execSbind d m s = _
  simp [execSbind, haligned, hread, Got.step, hok, hroom.not_ge, huses]

end

end

/-! ## SDROP -/

section
variable {s : State} {d : Reg}

theorem exec_sdrop_binding (h : s.me.binding d.toNat = true) : exec (.sdrop d) s = .next (s.holding cSTRM) := if_pos h

section
variable (hbinding : s.me.binding d.toNat = false)
include hbinding

theorem exec_sdrop_unbound (hbound : (s.me.arch.stream d.toNat).bound = false) : exec (.sdrop d) s = .next s := by
  change execSdrop d s = _
  simp [execSdrop, hbinding, hbound]

variable (hbound : (s.me.arch.stream d.toNat).bound = true)
include hbound

theorem exec_sdrop_used (huses : s.me.arch.vUses d.toNat = true) : exec (.sdrop d) s = .next (s.holding cVSEQ) := by
  change execSdrop d s = _
  simp [execSdrop, hbinding, hbound, huses, hold_eq_holding]

theorem exec_sdrop_drops (huses : s.me.arch.vUses d.toNat = false) :
    exec (.sdrop d) s = .next (s.updArch fun a =>
      { a with streams := SMap.del a.streams d.toNat }.wv d.toNat (s.me.arch.stream d.toNat).last) := by
  change execSdrop d s = _
  simp only [execSdrop, hbinding, hbound, huses, Bool.not_true, Bool.false_eq_true, if_false]
  rfl

end

end

/-! ## ACOPY and CHWAIT -/

section
variable {s : State} {d a b : Reg} {c : BitVec 2}

theorem exec_acopy_long (h : 2 ^ 32 ≤ (s.me.x b).toNat) : exec (.acopy d a b c) s = .next (s.trap cENGINE (s.me.x b)) := if_pos h

/-- Nothing earlier of the core or on its way home can still touch the lines of an ACOPY's destination. -/
def State.CopyClear (s : State) (keys : List Nat) : Prop :=
  s.me.sb = [] ∧ (∀ e ∈ s.me.vwork, e.isVld = false) ∧ ∀ p ∈ (s.die 0).past ++ (s.die 1).past, ∀ k ∈ keys, p.ent.has k = false

theorem copyClear_iff (s : State) (keys : List Nat) :
    s.CopyClear keys ↔ (!s.me.sb.isEmpty || s.me.vwork.any VEntry.isVld
      || [0, 1].any (fun d => (s.die d).past.any fun p => keys.any p.ent.has)) = false := by
  simp [State.CopyClear, or_imp, forall_and, and_assoc]

variable (hlen : (s.me.x b).toNat < 2 ^ 32)
include hlen

theorem exec_acopy_full (hfull : cmdDepth ≤ s.me.cmds.length) : exec (.acopy d a b c) s = .next (s.holding cSTRM) :=
  (if_neg hlen.not_ge).trans (if_pos hfull)

variable (hroom : s.me.cmds.length < cmdDepth)
include hroom

theorem exec_acopy_early (hclear : ¬ s.CopyClear (s.destKeys s.cur (s.me.x d).toNat (s.me.x b).toNat)) :
    exec (.acopy d a b c) s = .next (s.holding cMEM) := by
  rw [copyClear_iff, Bool.not_eq_false] at hclear
  exact (if_neg hlen.not_ge).trans ((if_neg hroom.not_ge).trans (if_pos hclear))

variable (hclear : s.CopyClear (s.destKeys s.cur (s.me.x d).toNat (s.me.x b).toNat))
include hclear

theorem exec_acopy_owned {h : Nat} (hown : s.ownWait s.cur none (s.destKeys s.cur (s.me.x d).toNat (s.me.x b).toNat) = some h) :
    exec (.acopy d a b c) s = .next (s.holding h) := by
  rw [copyClear_iff] at hclear
  change execAcopy d a b c s = _
  unfold execAcopy
  dsimp only
  rw [if_neg hlen.not_ge, if_neg hroom.not_ge, hclear, hown]
  rfl

/-- The copy enters the queue with its destination's lines owned; its stamp is the next free number. -/
theorem exec_acopy_enters (hown : s.ownWait s.cur none (s.destKeys s.cur (s.me.x d).toNat (s.me.x b).toNat) = none) :
    let z := s.recordDest (s.me.x d).toNat (s.me.x b).toNat
    exec (.acopy d a b c) s = .next ((z.fresh.2.takeLines (.chan z.cur c.toNat z.stamp)
        (s.destKeys s.cur (s.me.x d).toNat (s.me.x b).toNat)).pushCmd
      (.copy c.toNat { dst := z.me.x d, src := z.me.x a, len := (s.me.x b).toNat, pos := 0, flt := false, cause := 0, first := 0,
                       stamp := z.stamp, born := 0 })) := by
  rw [copyClear_iff] at hclear
  change execAcopy d a b c s = _
  unfold execAcopy
  dsimp only
  rw [if_neg hlen.not_ge, if_neg hroom.not_ge, hclear, hown]
  rfl

end

theorem exec_chwait_done {s : State} {d : Reg} {c : BitVec 2} (h : s.me.chanBusy c.toNat = false) :
    exec (.chwait d c) s = .next (if d = 0 then s else s.pushXI d (SMap.get s.me.arch.chstat 0 c.toNat)) := by
  change execChwait d c s = _
  simp only [execChwait, h, Bool.false_eq_true, if_false]

theorem exec_chwait_busy {s : State} {d : Reg} {c : BitVec 2} (h : s.me.chanBusy c.toNat = true) :
    exec (.chwait d c) s = .next (s.holding cSTRM) := if_pos h

/-! ## The engine's grants -/

section
variable {s : State} {g : Nat}

/-- The client that the rotation asks in place j. -/
def State.clientAt (s : State) (g j : Nat) : Nat := ((s.core g).grant + 1 + j) % 12

theorem exec_copyEngineGrant_eq (s : State) (g : Nat) : exec (.copyEngineGrant g) s
    = match (List.range 12).findSome? (fun j => ((s.acceptCmds g).engineClient g ((s.acceptCmds g).clientAt g j)).map
        fun t => ((s.acceptCmds g).clientAt g j, t)) with
      | some (i, t) => .next (t.updCore g fun c => { c with grant := i })
      | none => .next (s.acceptCmds g) := by
  change execCopyEngineGrant g s = _
  unfold execCopyEngineGrant
  dsimp only
  rw [List.findSome?_map]
  rfl

/-- The first of the first n places in order with an answer gives it. -/
theorem findSome?_range_first {α : Type} {f : Nat → Option α} {n j : Nat} {x : α} (hj : j < n) (hx : f j = some x)
    (hbefore : ∀ k < j, f k = none) : (List.range n).findSome? f = some x := by
  have hnone : (List.range j).findSome? f = none := List.findSome?_eq_none_iff.2 fun k hk => hbefore k (List.mem_range.1 hk)
  obtain ⟨m, rfl⟩ : ∃ m, n = j + (m + 1) := ⟨n - j - 1, by omega⟩
  rw [List.range_add, List.findSome?_append, hnone, List.range_succ_eq_map, List.map_cons, Nat.add_zero, List.findSome?_cons, hx]
  rfl

theorem exec_copyEngineGrant_moves {j : Nat} {t : State} (hj : j < 12)
    (hclient : (s.acceptCmds g).engineClient g ((s.acceptCmds g).clientAt g j) = some t)
    (hbefore : ∀ k, k < j → (s.acceptCmds g).engineClient g ((s.acceptCmds g).clientAt g k) = none) :
    exec (.copyEngineGrant g) s = .next (t.updCore g fun k => { k with grant := (s.acceptCmds g).clientAt g j }) := by
  rw [exec_copyEngineGrant_eq, findSome?_range_first hj (by rw [hclient]; rfl) fun k hk => by rw [hbefore k hk]; rfl]

theorem exec_copyEngineGrant_idle (h : ∀ j, j < 12 → (s.acceptCmds g).engineClient g ((s.acceptCmds g).clientAt g j) = none) :
    exec (.copyEngineGrant g) s = .next (s.acceptCmds g) := by
  rw [exec_copyEngineGrant_eq, List.findSome?_eq_none_iff.2 fun j hj => by rw [h j (List.mem_range.1 hj)]; rfl]

end

/-- Settles O35, instruction by instruction in the order of their checks. -/
theorem streamsAndCopies : Obligations.StreamsAndCopies := by
  intro s u d a b c m bs pa
  refine ⟨exec_sbind_misaligned, fun haligned hread => ?sbind, exec_sdrop_binding, fun hbinding => ?sdrop, ?acopy,
    exec_chwait_done, exec_chwait_busy, fun g => ⟨fun j t hj => exec_copyEngineGrant_moves hj, exec_copyEngineGrant_idle⟩⟩
  case sbind =>
    exact ⟨exec_sbind_invalid haligned hread, exec_sbind_full haligned hread, exec_sbind_used haligned hread,
      exec_sbind_enters haligned hread⟩
  case sdrop => exact ⟨exec_sdrop_unbound hbinding, exec_sdrop_used hbinding, exec_sdrop_drops hbinding⟩
  case acopy =>
    exact ⟨exec_acopy_long, exec_acopy_full, exec_acopy_early, fun hlen hroom hclear h => exec_acopy_owned hlen hroom hclear,
      exec_acopy_enters⟩

end Sys2Proof.Machine
end

section
/-! Pages and generations: SNAP, GENQ, BIAS, TLBI, FMTLD, the drain of an image, and GENCTL (R157 to R162, R329 to R341). -/

namespace Sys2Proof.Machine

/-! ## What a block's write leaves of the generation -/

/-- The generation, whether its image drains, and where the image is. -/
def Gen.cutState (g : Gen) : Nat × Bool × Nat := (g.gen, g.draining, g.image)

theorem touchBlock_cutState (exempt : Bool) (m : Memory) (p : SMap PoisonMask) (g : Gen) (b : Nat) :
    (touchBlock exempt m p g b).cutState = g.cutState := by
  unfold touchBlock
  split
  · rfl
  · split
    · rfl
    · split <;> rfl
    · rfl

theorem homeWrite_cutState (s : State) (exempt : Bool) (cs : List Host.Cell) (ws : List Nat) :
    (s.homeWrite exempt cs ws).gen.cutState = s.gen.cutState := by
  unfold State.homeWrite
  dsimp only
  exact List.foldlRecOn (motive := fun g : Gen => g.cutState = s.gen.cutState) _ _ rfl
    fun g hg b _ => (touchBlock_cutState exempt s.mem s.poison g b).trans hg

theorem putBytes_cutState (s : State) (k n v : Nat) : (s.putBytes k n v).gen.cutState = s.gen.cutState := homeWrite_cutState s _ _ _

theorem putCode_cutState (s : State) (b c : Nat) : (s.putCode b c).gen.cutState = s.gen.cutState := putBytes_cutState s _ _ _

theorem cut_cutState (s : State) (image : Nat) : (s.cut image).gen.cutState = (s.gen.gen + 1, true, image) := by
  unfold State.cut
  refine List.foldlRecOn (motive := fun t : State => t.gen.cutState = (s.gen.gen + 1, true, image)) _ _ ?_ fun t ht b _ => ?_
  · rw [putBytes_cutState]
    rfl
  · split_ifs
    · exact (putCode_cutState t _ _).trans ht
    · exact ht

/-! ## SNAP -/

section
variable {s u : State} {q : QReg} {a : Reg} {x : Xlated}

theorem exec_snap_misaligned (h : (s.me.x a).toNat % 4096 ≠ 0) : exec (.snap q a) s = .next (s.trap cALIGN (s.me.x a)) := if_pos h

variable (haligned : (s.me.x a).toNat % 4096 = 0) (hwalk : s.walkHeld (s.me.x a).toNat .write = false)
  (htr : s.translate s.cur (s.me.x a).toNat .write = (u, .ok x))
include haligned hwalk htr

theorem exec_snap_noImage (himage : u.imageOk x.pa = false) : exec (.snap q a) s = .next (u.trap cPROT (s.me.x a)) := by
  change execSnap q a s = _
  simp [execSnap, haligned, hwalk, htr, himage, trapStep]

variable (himage : u.imageOk x.pa = true)
include himage

theorem exec_snap_busy (hbusy : u.gen.draining = true ∨ (u.gen.ctx ≠ 0 ∧ u.gen.ctx ≠ u.me.ctxNum)) :
    exec (.snap q a) s = .next (u.pushQI q false) := by
  have hcond : (u.gen.draining || (decide (u.gen.ctx ≠ 0) && decide (u.gen.ctx ≠ u.me.ctxNum))) = true := by simpa using hbusy
  change execSnap q a s = _
  simp only [execSnap, haligned, hwalk, htr, himage, hcond, ne_eq, not_true_eq_false, Bool.not_true, Bool.false_eq_true, if_false, if_true]

theorem exec_snap_cuts (hidle : u.gen.draining = false) (hctx : u.gen.ctx = 0 ∨ u.gen.ctx = u.me.ctxNum) (hloads : u.me.loadsDone = true)
    (hstores : u.storesDone u.cur .sys = true) (hvmem : u.me.vmemDone = true) (hpast0 : (u.die 0).past = [])
    (hpast1 : (u.die 1).past = []) :
    exec (.snap q a) s = .next ((u.cut x.pa).pushQI q true) := by
  have hcond : (u.gen.draining || (decide (u.gen.ctx ≠ 0) && decide (u.gen.ctx ≠ u.me.ctxNum))) = false := by
    rcases hctx with h | h <;> simp [hidle, h]
  have hdone : (!u.me.loadsDone || !u.storesDone u.cur .sys || !u.me.vmemDone || [0, 1].any (fun d => !(u.die d).past.isEmpty)) = false := by
    simp [hloads, hstores, hvmem, hpast0, hpast1]
  change execSnap q a s = _
  simp only [execSnap, haligned, hwalk, htr, himage, hcond, hdone, ne_eq, not_true_eq_false, Bool.not_true, Bool.false_eq_true, if_false]

end

/-! ## BIAS -/

section
variable {s u : State} {d a : Reg} {dev : Bool} {x : Xlated} (hwalk : s.walkHeld (s.me.x a).toNat .write = false)
  (htr : s.translate s.cur (s.me.x a).toNat .write = (u, .ok x))
include hwalk htr

theorem exec_bias_notHost (hhost : isHost x.pa = false) : exec (.bias d a dev) s = .next (u.trap cPROT (s.me.x a)) := by
  change execBias d a dev s = _
  simp [execBias, hwalk, htr, hhost, trapStep]

variable (hhost : isHost x.pa = true)
include hhost

theorem exec_bias_flipped (hmine : (u.recordBias x.biasd x.pa).me.arch.wait.bias = some (x.pa / 4096, !dev))
    (hdone : (u.recordBias x.biasd x.pa).me.arch.wait.biasDone = true) :
    exec (.bias d a dev) s = .next (((u.recordBias x.biasd x.pa).updWait fun z => { z with bias := none, biasDone := false }).pushXI d
      (BitVec.ofNat 64 (!dev).toNat)) := by
  change execBias d a dev s = _
  simp [execBias, hwalk, htr, hhost, hmine, hdone]

/-- The BIAS may look at its page: no flip and no earlier BIAS of it is in the way, and its core's accesses are performed. -/
structure BiasFree (w : State) (pa : Nat) : Prop where
  fresh : w.me.arch.wait.bias = none
  still : w.moving pa = false
  first : w.biasBehind (pa / 4096) = false
  done : w.accessesDone w.cur = true

variable (hfree : BiasFree (u.recordBias x.biasd x.pa) x.pa)
include hfree

theorem exec_bias_same (hsame : biasDev (SMap.get (u.recordBias x.biasd x.pa).bias .host (x.pa / 4096)) = dev) :
    exec (.bias d a dev) s = .next (((u.recordBias x.biasd x.pa).updWait fun z => { z with biasAt := none }).pushXI d
      (BitVec.ofNat 64 dev.toNat)) := by
  change execBias d a dev s = _
  simp [execBias, hwalk, htr, hhost, hfree.fresh, hfree.still, hfree.first, hfree.done, hsame]

theorem exec_bias_flips (hother : biasDev (SMap.get (u.recordBias x.biasd x.pa).bias .host (x.pa / 4096)) ≠ dev) :
    let w := (u.recordBias x.biasd x.pa).updWait fun z => { z with biasAt := none }
    exec (.bias d a dev) s = .next (({ w.updWait fun z => { z with bias := some (x.pa / 4096, !dev), biasDone := false } with
      bias := SMap.set w.bias (x.pa / 4096) (if dev then .toDevice else .toHost) } : State).holding cMEM) := by
  change execBias d a dev s = _
  simp only [execBias, hwalk, htr, hhost, hfree.fresh, hfree.still, hfree.first, hfree.done, hother, Bool.not_true, Bool.or_self,
    Bool.false_eq_true, if_false]
  rfl

end

/-! ## BIAS_FLIP_COMPLETE -/

/-- A map over the strands' state acts on each core's, where it leaves that of an untouched core as it is. -/
theorem core_mapArch {f : Arch → Arch} (hf : f Core.reset.arch = Core.reset.arch) (s : State) (g : Nat) :
    ((s.mapArch f).core g).arch = f (s.core g).arch := by
  have hcores (l : SMap Core) : (SMap.get (SMap.mapVals l fun _ c => { c with arch := f c.arch }) Core.reset g).arch
      = f (SMap.get l Core.reset g).arch := by
    induction l with
    | nil => exact hf.symm
    | cons p r ih =>
      simp only [SMap.mapVals, List.map_cons, SMap.get] at ih ⊢
      split_ifs
      · rfl
      · exact ih
  exact hcores s.cores

section
variable {s : State} {page g : Nat} {b : Bias}

/-- The BIAS at work asked for a flip of the page. -/
def WaitSt.flips (w : WaitSt) (page : Nat) : Bool := match w.bias with | some (p, _) => decide (p = page) | none => false

/-- What a flip of the page does to a strand: the BIAS that asked for it is completed. -/
def Arch.biasCompleted (page : Nat) (a : Arch) : Arch :=
  if a.wait.flips page then { a with wait := { a.wait with biasDone := true } } else a

theorem core_flipped : ((s.flipped page b).core g).arch = (s.core g).arch.biasCompleted page :=
  core_mapArch (f := Arch.biasCompleted page) rfl { s with bias := SMap.set s.bias page b } g

theorem flipped_wait_hit {prev : Bool} (h : (s.core g).arch.wait.bias = some (page, prev)) :
    ((s.flipped page b).core g).arch.wait = { (s.core g).arch.wait with biasDone := true } := by
  have hflips : (s.core g).arch.wait.flips page = true := by simp [WaitSt.flips, h]
  rw [core_flipped, Arch.biasCompleted, if_pos hflips]

theorem flipped_wait_miss (h : ¬ ∃ prev, (s.core g).arch.wait.bias = some (page, prev)) :
    ((s.flipped page b).core g).arch.wait = (s.core g).arch.wait := by
  have hflips : (s.core g).arch.wait.flips page ≠ true := by
    unfold WaitSt.flips
    split
    · next p prev heq => exact fun hp => h ⟨prev, by rw [heq, of_decide_eq_true hp]⟩
    · decide
  rw [core_flipped, Arch.biasCompleted, if_neg hflips]

theorem exec_biasFlipComplete (hdrained : ∀ e p, (e = 0 ∨ e = 1) → p ∈ (s.die e).past → ∀ c ∈ p.ent.bytes, c.1 / 4096 ≠ page)
    {k : Bool} (hflip : SMap.get? s.bias page = some (if k then .toDevice else .toHost)) :
    exec (.biasFlipComplete page) s = .next (s.flipped page (if k then .device else .host)) := by
  have hbusy : ([0, 1].any fun d => (s.die d).past.any fun p => p.ent.bytes.any fun c => decide (c.1 / 4096 = page)) = false := by
    refine List.any_eq_false.2 fun e he hany => ?_
    obtain ⟨p, hp, hcell⟩ := List.any_eq_true.1 hany
    obtain ⟨c, hc, hpage⟩ := List.any_eq_true.1 hcell
    exact hdrained e p (by simpa using he) hp c hc (of_decide_eq_true hpage)
  change execBiasFlipComplete page s = _
  cases k <;> simp [execBiasFlipComplete, hflip, hbusy]

end

/-! ## TLBI and FMTLD -/

section
variable {s : State} {a : Reg}

theorem exec_tlbiVa_user (hpl : s.me.arch.pl = false) : exec (.tlbiVa a) s = .next s.priv := if_pos (by rw [hpl]; rfl)

theorem exec_tlbiAll_user (hpl : s.me.arch.pl = false) : exec .tlbiAll s = .next s.priv := if_pos (by rw [hpl]; rfl)

variable (hpl : s.me.arch.pl = true) (hhome : s.storesHome s.cur = true)
  (huses : ∀ g ∈ s.coresOfCtx s.me.ctxNum, s.usesTlb g = false)
include hpl hhome huses

theorem exec_tlbiVa_drops : exec (.tlbiVa a) s
    = .next (s.dropTlb fun e => decide (e.ctx = s.me.ctxNum) && decide ((s.me.x a).toNat >>> e.p = e.vpage)) := by
  have hfree : (s.coresOfCtx s.me.ctxNum).any s.usesTlb = false := by simpa using huses
  change execTlbiVa a s = _
  simp only [execTlbiVa, hpl, hhome, hfree, Bool.not_true, Bool.or_self, Bool.false_eq_true, if_false]

theorem exec_tlbiAll_drops (hdone : ∀ g ∈ s.coresOfCtx s.me.ctxNum, s.accessesDone g = true) :
    exec .tlbiAll s = .next ((s.dropTlb fun e => decide (e.ctx = s.me.ctxNum)).reloadCopies s.me.ctxNum) := by
  have hfree : ((s.coresOfCtx s.me.ctxNum).any fun g => s.usesTlb g || !s.accessesDone g) = false := by
    simp only [List.any_eq_false]
    exact fun g hg => by simp [huses g hg, hdone g hg]
  change execTlbiAll s = _
  simp only [execTlbiAll, hpl, hhome, hfree, Bool.not_true, Bool.or_self, Bool.false_eq_true, if_false]

end

theorem exec_fmtld_loads {s u : State} {m : MemOp} {bs : List Byte} {pa : Nat} (haligned : (MemOp.ea s.me 64 m).toNat % 64 = 0)
    (hread : s.coreRead s.cur (MemOp.ea s.me 64 m) 1024 .read .align = (u, .ok (bs, pa)))
    (hv : u.me.arch.vseq.any (fun e => vUsesTab e.ins) = false) (hm : u.me.mUsesTab = false) :
    exec (.fmtld m) s = .next ((u.updArch fun z => { z with tab := tabOf bs }).extraCycles
      ((pagesOf (MemOp.ea s.me 64 m).toNat 1024).length - 1)) := by
  change execFmtld m s = _
  simp only [execFmtld, haligned, hread, Got.step, hv, hm, ne_eq, not_true_eq_false, Bool.or_self, Bool.false_eq_true, if_false]

/-! ## The drain -/

section
variable {s : State} {die : Nat} (hdrain : s.gen.draining = true)
include hdrain

theorem exec_carafeDrainBlock_next (hup : s.imageUp = true) {b : Nat} (hnext : s.nextBlock die = some b) :
    exec (.carafeDrainBlock die) s = .next (s.drainBlock b) := by
  change execCarafeDrainBlock die s = _
  simp [execCarafeDrainBlock, hdrain, hup, hnext]

theorem exec_carafeDrainBlock_last (hup : s.imageUp = true) (hnext : s.nextBlock die = none) (hleft : s.gen.left = 0) :
    exec (.carafeDrainBlock die) s = .next s.endDrain := by
  change execCarafeDrainBlock die s = _
  simp [execCarafeDrainBlock, hdrain, hup, hnext, hleft]

theorem exec_drainFail_fails : exec .drainFail s = .next s.failDrain := congrArg Host.Outcome.next (if_pos hdrain)

end

/-! ## GENCTL -/

section
variable {s : State} {v : Word}

theorem exec_genctlWrite_draining (hdrain : s.gen.draining = true) (hrsv : fld v 4 0 ≠ s.gen.rsv) :
    exec (.genctlWrite v) s = .next { s with gen := { s.gen with ctx := fld v 43 32, err := 1 } } := if_pos ⟨hdrain, hrsv⟩

variable (hfree : s.gen.draining = false ∨ fld v 4 0 = s.gen.rsv)
include hfree

theorem not_draining_change : ¬ (s.gen.draining = true ∧ fld v 4 0 ≠ s.gen.rsv) := by
  rintro ⟨hdrain, hrsv⟩
  rcases hfree with h | h
  · exact Bool.noConfusion (hdrain.symm.trans h)
  · exact hrsv h

theorem exec_genctlWrite_large (hlarge : 16 < fld v 4 0) :
    exec (.genctlWrite v) s = .next { s with gen := { s.gen with ctx := fld v 43 32, err := 2 } } :=
  (if_neg (not_draining_change hfree)).trans (if_pos hlarge)

/-- The state before RSV changes: with the context set, and what the region newly takes in forgotten. -/
def State.regrown (s : State) (v : Word) : State :=
  let t : State := { s with gen := { s.gen with ctx := fld v 43 32 } }
  if s.gen.rsv < fld v 4 0 then t.forgetRange (64 - fld v 4 0) (64 - s.gen.rsv) else t

omit hfree in
theorem regrown_gen (s : State) (v : Word) :
    (s.regrown v).gen.ctx = fld v 43 32 ∧ (s.regrown v).gen.retired = s.gen.retired := by
  unfold State.regrown
  dsimp only
  split_ifs <;> exact ⟨rfl, rfl⟩

/-- A byte of either die's DRAM within GiB lo to hi of it. -/
def inDramRange (lo hi k : Nat) : Bool :=
  decide (k < 2 ^ 37) && decide (lo * 2 ^ 30 ≤ k % 2 ^ 36) && decide (k % 2 ^ 36 < hi * 2 ^ 30)

omit hfree in
theorem forgetRange_mem (s : State) (lo hi : Nat) : (s.forgetRange lo hi).mem = s.mem.filter fun c => !inDramRange lo hi c.1 := rfl

omit hfree in
theorem regrown_rd {k : Nat} (hdram : k < 2 ^ 37) (hlo : (64 - fld v 4 0) * 2 ^ 30 ≤ k % 2 ^ 36)
    (hhi : k % 2 ^ 36 < (64 - s.gen.rsv) * 2 ^ 30) : (s.regrown v).mem.rd k = unwritten := by
  have hgrows : s.gen.rsv < fld v 4 0 := by omega
  have hinside : inDramRange (64 - fld v 4 0) (64 - s.gen.rsv) k = true := by
    rw [inDramRange, decide_eq_true hdram, decide_eq_true hlo, decide_eq_true hhi]
    rfl
  rw [State.regrown, if_pos hgrows, forgetRange_mem, Memory.rd]
  rw [SMap.get_filter_key s.mem unwritten (fun k => !inDramRange (64 - fld v 4 0) (64 - s.gen.rsv) k) k, hinside]
  rfl

theorem exec_genctlWrite_sets (hsmall : fld v 4 0 ≤ 16) :
    exec (.genctlWrite v) s
      = .next { s.regrown v with gen := { (s.regrown v).gen with err := 0, rsv := fld v 4 0 } } :=
  (if_neg (not_draining_change hfree)).trans (if_neg hsmall.not_gt)

end

/-- Settles O49, instruction by instruction and event by event. -/
theorem pagesAndGenerations : Obligations.PagesAndGenerations := by
  intro s u q d a x dev m bs pa die page v y n
  refine ⟨exec_snap_misaligned, fun haligned hwalk htr => ?snap, ⟨rfl, rfl, rfl⟩, fun hwalk htr => ?bias, ?flip,
    fun hpl => ⟨exec_tlbiVa_user hpl, exec_tlbiAll_user hpl⟩,
    fun hpl hhome huses => ⟨exec_tlbiVa_drops hpl hhome huses, exec_tlbiAll_drops hpl hhome huses⟩, exec_fmtld_loads,
    fun hdrain hup => ⟨fun b => exec_carafeDrainBlock_next hdrain hup,
      fun hnext hleft => ⟨_, exec_carafeDrainBlock_last hdrain hup hnext hleft, rfl, rfl⟩⟩,
    fun hdrain => ⟨_, exec_drainFail_fails hdrain, rfl, rfl⟩, exec_genctlWrite_draining, exec_genctlWrite_large, fun hfree hsmall => ?genctl⟩
  case snap =>
    refine ⟨exec_snap_noImage haligned hwalk htr, exec_snap_busy haligned hwalk htr,
      fun himage hidle hctx hloads hstores hvmem hpast0 hpast1 =>
        ⟨exec_snap_cuts haligned hwalk htr himage hidle hctx hloads hstores hvmem hpast0 hpast1, ?_⟩⟩
    simpa [Gen.cutState] using cut_cutState u x.pa
  case bias =>
    refine ⟨exec_bias_notHost hwalk htr, fun hhost => ⟨fun hfresh hstill hfirst hdone => ?_, exec_bias_flipped hwalk htr hhost⟩⟩
    have hcur := ((checked_refl u).trans (checked_recordBias u x.biasd x.pa)).cur
    have hfree : BiasFree (u.recordBias x.biasd x.pa) x.pa := ⟨hfresh, hstill, hfirst, hcur ▸ hdone⟩
    exact ⟨exec_bias_same hwalk htr hhost hfree, exec_bias_flips hwalk htr hhost hfree⟩
  case flip =>
    intro hdrained waits k hflip
    exact ⟨_, exec_biasFlipComplete hdrained hflip, rfl, rfl, fun g => ⟨fun ⟨_, hprev⟩ => flipped_wait_hit hprev, flipped_wait_miss⟩⟩
  case genctl =>
    obtain ⟨hctx, hretired⟩ := regrown_gen s v
    exact ⟨_, exec_genctlWrite_sets hfree hsmall, rfl, rfl, hctx, hretired, fun k => regrown_rd⟩

end Sys2Proof.Machine
end

section
/-! The elements of a vector register (R164), and what the integer, logic and permute entries write in them (R174 to R177). -/

namespace Sys2Proof.Machine

/-! ## Elements of a register -/

theorem elemAt_eq_div_mod {n : Nat} (v : BitVec n) (w e : Nat) : elemAt v w e = v.toNat / 2 ^ (w * e) % 2 ^ w := by
  rw [elemAt, Nat.shiftRight_eq_div_pow]

theorem elemAt_lt {n : Nat} (v : BitVec n) (w e : Nat) : elemAt v w e < 2 ^ w := Nat.mod_lt _ (Nat.two_pow_pos w)

theorem testBit_elemAt {n : Nat} (v : BitVec n) (w e i : Nat) :
    (elemAt v w e).testBit i = (decide (i < w) && v.getLsbD (w * e + i)) := by
  rw [elemAt, Nat.testBit_mod_two_pow, Nat.testBit_shiftRight, BitVec.testBit_toNat]

/-- The number that packed elements of w bits make, lowest first. -/
def packNat (w : Nat) (l : List Nat) : Nat := l.foldr (fun x acc => x % 2 ^ w + acc <<< w) 0

theorem packElems_eq_ofNat (n w : Nat) (l : List Nat) : packElems n w l = BitVec.ofNat n (packNat w l) := rfl

theorem packNat_cons (w x : Nat) (l : List Nat) : packNat w (x :: l) = 2 ^ w * packNat w l + x % 2 ^ w := by
  rw [packNat, List.foldr_cons, ← packNat, Nat.shiftLeft_eq, Nat.mul_comm, Nat.add_comm]

theorem packNat_lt (w : Nat) (l : List Nat) : packNat w l < 2 ^ (l.length * w) := by
  induction l with
  | nil => simp [packNat]
  | cons x l ih =>
    have hx : x % 2 ^ w < 2 ^ w := Nat.mod_lt _ (Nat.two_pow_pos w)
    calc packNat w (x :: l) = 2 ^ w * packNat w l + x % 2 ^ w := packNat_cons w x l
      _ < 2 ^ w * (packNat w l + 1) := by rw [Nat.mul_succ]; omega
      _ ≤ 2 ^ w * 2 ^ (l.length * w) := Nat.mul_le_mul_left _ ih
      _ = 2 ^ ((x :: l).length * w) := by rw [← Nat.pow_add, List.length_cons, Nat.succ_mul, Nat.add_comm]

theorem packNat_elem (w : Nat) {l : List Nat} {e : Nat} (he : e < l.length) : packNat w l / 2 ^ (w * e) % 2 ^ w = l[e] % 2 ^ w := by
  induction l generalizing e with
  | nil => exact absurd he (Nat.not_lt_zero e)
  | cons x l ih =>
    have hx : x % 2 ^ w < 2 ^ w := Nat.mod_lt _ (Nat.two_pow_pos w)
    cases e with
    | zero => simp [packNat_cons]
    | succ e =>
      rw [packNat_cons, Nat.mul_succ, Nat.add_comm (w * e), Nat.pow_add, ← Nat.div_div_eq_div_mul,
        Nat.mul_add_div (Nat.two_pow_pos w), Nat.div_eq_of_lt hx, Nat.add_zero, ih (Nat.lt_of_succ_lt_succ he), List.getElem_cons_succ]

section
variable {n w : Nat} {l : List Nat} (hfits : l.length * w ≤ n)
include hfits

theorem toNat_packElems : (packElems n w l).toNat = packNat w l := by
  rw [packElems_eq_ofNat, BitVec.toNat_ofNat]
  exact Nat.mod_eq_of_lt ((packNat_lt w l).trans_le (Nat.pow_le_pow_right Nat.zero_lt_two hfits))

theorem elemAt_packElems {e : Nat} (he : e < l.length) : elemAt (packElems n w l) w e = l[e] % 2 ^ w := by
  rw [elemAt_eq_div_mod, toNat_packElems hfits, packNat_elem w he]

end

/-- A write of one element leaves every other as it was. -/
theorem elemAt_setFld {n w e : Nat} (v : BitVec n) (k x : Nat) (hw : 0 < w) (hfits : w * e + w ≤ n) :
    elemAt (setFld v (w * k + w - 1) (w * k) x) w e = if e = k then x % 2 ^ w else elemAt v w e := by
  refine Nat.eq_of_testBit_eq fun i => ?_
  rw [testBit_elemAt]
  by_cases hi : i < w
  · have hbit := bitAt_setFld v (show w * e + i < n by omega) x (show w * k ≤ w * k + w - 1 by omega)
    rw [bitAt, BitVec.testBit_toNat] at hbit
    rw [hbit]
    rcases Nat.lt_trichotomy e k with hlt | rfl | hgt
    · have hbelow : w * e + w ≤ w * k := Nat.mul_le_mul_left w hlt
      rw [if_neg (by omega), if_neg hlt.ne, testBit_elemAt, bitAt, BitVec.testBit_toNat]
    · rw [if_pos (by omega), if_pos rfl, Nat.add_sub_cancel_left, Nat.testBit_mod_two_pow]
    · have habove : w * k + w ≤ w * e := Nat.mul_le_mul_left w hgt
      rw [if_neg (by omega), if_neg hgt.ne', testBit_elemAt, bitAt, BitVec.testBit_toNat]
  · split_ifs <;> simp [hi, testBit_elemAt, Nat.testBit_mod_two_pow]

theorem vBytes_cases (sh : Word) : vBytes sh = 1 ∨ vBytes sh = 2 ∨ vBytes sh = 4 ∨ vBytes sh = 8 := by
  have hcode : fld sh 1 0 < 4 := Nat.mod_lt _ (by decide)
  unfold vBytes
  interval_cases fld sh 1 0 <;> simp

/-- An element that begins in a register lies in it (R164). -/
theorem element_fits {sh : Word} {e : Nat} (he : e * (8 * vBytes sh) < 4096) : 8 * vBytes sh * e + 8 * vBytes sh ≤ 4096 := by
  rcases vBytes_cases sh with h | h | h | h <;> rw [h] at he ⊢ <;> omega

/-! ## Results of an entry, element by element -/

/-- A result is one vector of elements f e, zero above them, with no flag. -/
def VOut.IsVector (o : VOut) (sh : Word) (f : Nat → Nat) : Prop :=
  ∃ v, o.v = some v ∧ o.v1 = none ∧ o.x = none ∧ o.fl = 0 ∧ (∀ e, e < vElems sh → elemAt v (8 * vBytes sh) e = f e)
    ∧ v.toNat < 2 ^ (vElems sh * (8 * vBytes sh))

section
variable {sh : Word} (hfits : vElems sh * (8 * vBytes sh) ≤ 4096)
include hfits

theorem ofV_vPack_isVector {l : List Nat} (hl : l.length = vElems sh) {f : Nat → Nat}
    (hf : ∀ e (he : e < l.length), l[e] % 2 ^ (8 * vBytes sh) = f e) : (VOut.ofV (vPack sh l)).IsVector sh f := by
  rw [← hl] at hfits
  refine ⟨_, rfl, rfl, rfl, rfl, fun e he => ?_, ?_⟩
  · exact (elemAt_packElems hfits (hl ▸ he)).trans (hf e _)
  · rw [vPack, toNat_packElems hfits, ← hl]
    exact packNat_lt _ _

theorem ofV_vPack_map_isVector {f g : Nat → Nat} (hf : ∀ e, g e % 2 ^ (8 * vBytes sh) = f e) :
    (VOut.ofV (vPack sh ((List.range (vElems sh)).map g))).IsVector sh f :=
  ofV_vPack_isVector hfits (by simp) fun e _ => by simp [hf]

end

theorem length_drawsFor (r : Rnd) (n : Nat) (seed : BitVec 32) : (drawsFor r n seed).length = n := by
  have hdraws : ∀ (n : Nat) (s : BitVec 32), (draws n s).length = n := by
    intro n
    induction n with
    | zero => exact fun _ => rfl
    | succ n ih => exact fun s => congrArg (· + 1) (ih (xs s))
  rw [drawsFor]
  split_ifs
  · exact hdraws n seed
  · exact List.length_replicate

theorem collect_noFlags {α : Type} (l : List α) (g : α → Nat) : collect (l.map fun a => (g a, 0)) = (l.map g, 0) := by
  have hflags : ∀ l : List α, orFlags (l.map fun _ => (0 : FpFlags)) = 0 := fun l => by
    induction l with
    | nil => rfl
    | cons a l ih => simpa [orFlags] using ih
  simp only [collect, List.map_map, Function.comp_def, hflags]

/-- Where no element raises a flag or draws, an element-wise entry's result is the vector of its elements' results. -/
theorem vMap_isVector {sh : Word} (hfits : vElems sh * (8 * vBytes sh) ≤ 4096) {r : Rnd} {seed : BitVec 32} {src : VSrc}
    {f : Nat → Nat → Nat → Nat → Nat × FpFlags} {g : Nat → Nat}
    (hf : ∀ rnd e, f rnd (elemAt src.a (8 * vBytes sh) e) (elemAt src.b (8 * vBytes sh) e) (elemAt src.d (8 * vBytes sh) e) = (g e, 0))
    (hg : ∀ e, g e < 2 ^ (8 * vBytes sh)) : (vMap sh r seed src f).IsVector sh g := by
  have hlength : (List.range (vElems sh)).length ≤ (drawsFor r (vElems sh) seed).length := by simp [length_drawsFor]
  have hzip : ((List.range (vElems sh)).zip (drawsFor r (vElems sh) seed)).map (fun p => g p.1) = (List.range (vElems sh)).map g := by
    conv_rhs => rw [← List.map_fst_zip hlength, List.map_map]
    rfl
  have hresult : vMap sh r seed src f = VOut.ofV (vPack sh ((List.range (vElems sh)).map g)) := by
    simp only [vMap, hf, collect_noFlags, hzip]
    rfl
  rw [hresult]
  exact ofV_vPack_map_isVector hfits fun e => Nat.mod_eq_of_lt (hg e)

/-! ## Wrapping integer elements (R91, R174) -/

section
variable (t : IType)

theorem ofInt_intVal (x : Nat) : BitVec.ofInt t.width (intVal t.signed t.width x) = BitVec.ofNat t.width x := by
  rw [intVal_eq_valueOf, ofInt_valueOf, BitVec.setWidth_ofNat_of_le (width_le_64 t)]

theorem vArith_add_wrap (rnd x y : Nat) : vArith .add (.int t false) rnd x y = ((x + y) % 2 ^ t.width, 0) := by
  simp [vArith, intBits_wrap, BitVec.ofInt_add, ofInt_intVal]

theorem vArith_sub_wrap (rnd x : Nat) {y : Nat} (hy : y < 2 ^ t.width) :
    vArith .sub (.int t false) rnd x y = ((x + 2 ^ t.width - y) % 2 ^ t.width, 0) := by
  rw [vArith, intBits_wrap, Int.sub_eq_add_neg, BitVec.ofInt_add, BitVec.ofInt_neg, ofInt_intVal, ofInt_intVal, ← BitVec.sub_eq_add_neg,
    BitVec.toNat_sub]
  congr 1
  simp only [BitVec.toNat_ofNat]
  rw [Nat.mod_eq_of_lt hy, Nat.add_mod_mod]
  congr 1
  omega

theorem vArith_mul_wrap (rnd x y : Nat) : vArith .mul (.int t false) rnd x y = (x * y % 2 ^ t.width, 0) := by
  simp [vArith, intBits_wrap, BitVec.ofInt_mul, ofInt_intVal]

end

theorem complement_eq_sub {w x : Nat} (hx : x < 2 ^ w) : 2 ^ w - 1 ^^^ x = 2 ^ w - 1 - x := by
  have hnot : (BitVec.allOnes w ^^^ BitVec.ofNatLT x hx).toNat = (~~~BitVec.ofNatLT x hx).toNat :=
    congrArg BitVec.toNat BitVec.allOnes_xor
  rwa [BitVec.toNat_xor, BitVec.toNat_allOnes, BitVec.toNat_not, BitVec.toNat_ofNatLT] at hnot

/-- Settles O29: each entry's result is a vector packed of its elements' results, from which they are read back. -/
theorem vectorElements : Obligations.VectorElements := by
  intro tab free freeV sh seed p q src d a b x y z t
  dsimp only
  intro hfits ht
  simp only [← elemAt_eq_div_mod]
  have hlt (v : BitVec 4096) (e : Nat) := elemAt_lt v (8 * vBytes sh) e
  have hmod (k : Nat) : k % 2 ^ (8 * vBytes sh) < 2 ^ (8 * vBytes sh) := Nat.mod_lt _ (Nat.two_pow_pos _)
  refine ⟨?vadd, ?vsub, ?vmul, ?vand, ?vor, ?vxor, ?vnot, ?vperm, ?viota, ?fill, rfl, ?put, rfl, ?get⟩
  case vadd => exact vMap_isVector hfits (fun rnd e => ht ▸ vArith_add_wrap t rnd _ _) fun e => hmod _
  case vsub => exact vMap_isVector hfits (fun rnd e => ht ▸ vArith_sub_wrap t rnd _ (ht ▸ hlt src.b e)) fun e => hmod _
  case vmul => exact vMap_isVector hfits (fun rnd e => ht ▸ vArith_mul_wrap t rnd _ _) fun e => hmod _
  case vand => exact vMap_isVector hfits (fun rnd e => rfl) fun e => Nat.and_lt_two_pow _ (hlt src.b e)
  case vor => exact vMap_isVector hfits (fun rnd e => rfl) fun e => Nat.or_lt_two_pow (hlt src.a e) (hlt src.b e)
  case vxor => exact vMap_isVector hfits (fun rnd e => rfl) fun e => Nat.xor_lt_two_pow (hlt src.a e) (hlt src.b e)
  case vnot =>
    refine vMap_isVector hfits (fun rnd e => ?_) fun e => ?_
    · rw [vLogic, Nat.mod_eq_of_lt (hlt src.a e), complement_eq_sub (hlt src.a e)]
    · have := hlt src.a e
      omega
  case vperm =>
    refine vMap_isVector hfits (fun rnd e => rfl) fun e => ?_
    split_ifs
    · exact hlt src.a _
    · exact Nat.two_pow_pos _
  case viota => exact ofV_vPack_map_isVector hfits fun e => rfl
  case fill => exact ofV_vPack_isVector hfits List.length_replicate fun e he => by rw [List.getElem_replicate]; rfl
  case put =>
    refine ⟨_, rfl, fun e he => ?_⟩
    change elemAt (if q.toNat < vElems sh then _ else src.d) _ e = _
    have hpos : 0 < 8 * vBytes sh := ht ▸ width_pos t
    by_cases hq : q.toNat < vElems sh
    · simp only [hq, if_true, and_true]
      exact elemAt_setFld src.d q.toNat p.toNat hpos (element_fits he)
    · simp only [hq, if_false, and_false]
  case get =>
    change some (BitVec.ofNat 64 (if p.toNat < vElems sh then elemAt src.a (8 * vBytes sh) p.toNat else 0)) = _
    split_ifs <;> rfl

end Sys2Proof.Machine
end

section
/-! The vector sequencer at issue: what enters it, and VREP bodies (R36, R83, R165, R168, R173, R184). -/

namespace Sys2Proof.Machine

/-! ## An entry joins the sequencer -/

/-- The entry that instruction i makes of the sequencer's state a. -/
def Arch.newEntry (a : Arch) (stamp clock : Nat) (i : Instr) (xs : List Word) : VEntry :=
  { stamp := stamp, ins := i, shape := a.vshape, xs := xs, seed := a.srseed, addrs := [], beats := 0, olds := [], body := a.openRep.isSome,
    hand := a.tm, seen := none, born := clock }

section
variable {a : Arch} {stamp clock : Nat} {i : Instr} {xs : List Word}

theorem Arch.enter_noBody (hopen : a.openRep = none) : a.enter stamp clock i xs [] =
    { a with vseq := a.vseq ++ [a.newEntry stamp clock i xs], srseed := xsN (vDraws a.vshape i) a.srseed } := by
  simp only [Arch.enter, Arch.newEntry, hopen]

variable {r : VRep} (hopen : a.openRep = some r)
include hopen

theorem Arch.enter_body (hmissing : 1 < r.missing) : a.enter stamp clock i xs [] =
    { a with vseq := a.vseq ++ [a.newEntry stamp clock i xs],
             vreps := a.vreps.dropLast ++ [{ r with missing := r.missing - 1, size := r.size + 1 }],
             srseed := if r.left = 0 then a.srseed else xsN (vDraws a.vshape i) a.srseed } := by
  simp only [Arch.enter, Arch.newEntry, hopen]
  exact if_neg (by omega)

theorem Arch.enter_lastOfNone (hmissing : r.missing = 1) (hleft : r.left = 0) : a.enter stamp clock i xs [] =
    { a with vseq := (a.vseq ++ [a.newEntry stamp clock i xs]).take (a.vseq.length - r.size), vreps := a.vreps.dropLast } := by
  simp [Arch.enter, Arch.newEntry, hopen, hmissing, hleft, Arch.closeRep]

theorem Arch.enter_lastOfSome (hmissing : r.missing = 1) (hleft : r.left ≠ 0) : a.enter stamp clock i xs [] =
    (let vseq := a.vseq ++ [a.newEntry stamp clock i xs]
     let seed := xsN (vDraws a.vshape i) a.srseed
     let d := ((vseq.drop (a.vseq.length - r.size)).map fun z => vDraws z.shape z.ins).sum
     Arch.repTurn { a with vseq := vseq, srseed := xsN ((r.left.toNat - 1) * d) seed,
                           vreps := a.vreps.dropLast ++ [{ r with missing := 0, size := r.size + 1, base := seed }] }) := by
  have hsome : r.left ≠ 0#64 := hleft
  simp [Arch.enter, Arch.newEntry, hopen, hmissing, hsome, Arch.closeRep]

end

/-! ## A vector A instruction at issue -/

section
variable {s : State} {i : Instr} {xs : List Word}

theorem State.issueV_illegal (h : vShapeOk s.me.arch.vshape i = false ∨ s.me.writesBound i = true) :
    s.issueV i xs = .next (s.trap 0x01 s.me.bundle) :=
  if_pos (by rcases h with h | h <;> simp [h])

variable (hshape : vShapeOk s.me.arch.vshape i = true) (hfree : s.me.writesBound i = false)
include hshape hfree

theorem State.issueV_full (hfull : 16 ≤ s.me.arch.vseq.length) : s.issueV i xs = .next (s.holding cVSEQ) := by
  simp only [State.issueV, hshape, hfree, Bool.not_true, Bool.or_self, Bool.false_eq_true, if_false]
  exact if_pos hfull

theorem State.issueV_enters (hroom : s.me.arch.vseq.length < 16) : s.issueV i xs =
    .next (({ s with stamp := s.stamp + 1 } : State).updMe fun c => { c with arch := s.me.arch.enter s.stamp s.clock i xs [] }) := by
  simp only [State.issueV, hshape, hfree, Bool.not_true, Bool.or_self, Bool.false_eq_true, if_false]
  exact if_neg hroom.not_ge

end

/-! ## VMOV and VREP -/

section
variable {s : State} (d a b : Reg) (imm : BitVec 11) (nb : BitVec 4)

theorem exec_vmov_openBody (hopen : s.me.arch.openRep ≠ none) : exec (.vmov d a b 2) s = .next (s.trap 0x01 s.me.bundle) :=
  if_pos (by simpa [Option.isSome_iff_ne_none] using hopen)

theorem exec_vmov_issues (m : BitVec 2) : ¬(m = 2 ∧ s.me.arch.openRep ≠ none) → exec (.vmov d a b m) s = s.issueV (.vmov d a b m)
    (match m with | 0 => [] | 1 => [s.me.x a] | 2 => [s.me.x b] | _ => [s.me.x a, s.me.x b]) := by
  intro h
  obtain rfl | rfl | rfl | rfl : m = 0 ∨ m = 1 ∨ m = 2 ∨ m = 3 := by clear h; revert m; decide
  · rfl
  · rfl
  · exact if_neg (by simpa using h)
  · rfl

theorem exec_vrep_opens (hopen : s.me.arch.openRep = none) :
    exec (.vrep nb a imm) s = .next (s.updMe fun c => { c with arch := { c.arch with vreps := c.arch.vreps ++
      [{ missing := nb.toNat + 1, size := 0, left := if a = 0 then imm.setWidth 64 else s.me.x a, idx := 0, base := 0 }] } }) :=
  if_neg (by simp [hopen])

end

/-- Settles O28: where no body is open VREP opens one, and where one is each of the six is refused by its first check. -/
theorem vectorRepeat : Obligations.VectorRepeat := by
  intro s nb a d b imm row m sc
  refine ⟨exec_vrep_opens a imm nb, fun hopen => ?_⟩
  have hsome : s.me.arch.openRep.isSome = true := Option.isSome_iff_ne_none.mpr hopen
  exact ⟨if_pos hsome, exec_vmov_openBody d a b hopen, if_pos (by simp [hsome]), if_pos hsome, if_pos (by simp [hsome]),
    if_pos (by simp [hsome])⟩

/-- Settles O27: each vector A instruction goes to `State.issueV`, but for VMOV of mode 10 in an open body; there it is refused, waits, or
enters the sequencer as `Arch.enter` says. -/
theorem vectorIssue : Obligations.VectorIssue := by
  intro s i xs hxs a toX n e goes
  have hexec : (¬(toX ∧ a.openRep ≠ none) → exec i s = s.issueV i xs)
      ∧ (toX ∧ a.openRep ≠ none → exec i s = .next (s.trap 0x01 s.me.bundle)) := by
    dsimp only [toX, a]
    split at hxs
    case h_23 x y z m =>
      subst hxs
      refine ⟨exec_vmov_issues x y z m, fun h => ?_⟩
      obtain ⟨rfl, hopen⟩ := h
      exact exec_vmov_openBody x y z hopen
    case h_24 => exact hxs.elim
    all_goals
      subst hxs
      exact ⟨fun _ => rfl, fun h => h.1.elim⟩
  obtain ⟨hissues, hopenBody⟩ := hexec
  refine ⟨fun hshape hfree hroom => ?enters, ?refuses,
    fun hshape hfree htoX hfull => (hissues htoX).trans (State.issueV_full hshape hfree hfull)⟩
  case enters =>
    have hgoes {x : Arch} (hbody : ¬(toX ∧ a.openRep ≠ none)) (hx : a.enter s.stamp s.clock i xs [] = x) : goes x :=
      (hissues hbody).trans (hx ▸ State.issueV_enters hshape hfree hroom)
    refine ⟨fun hopen => hgoes (fun h => h.2 hopen) (Arch.enter_noBody hopen), fun r hopen htoX => ?_⟩
    have hbody : ¬(toX ∧ a.openRep ≠ none) := fun h => htoX h.1
    exact ⟨fun hmissing => hgoes hbody (Arch.enter_body hopen hmissing),
      fun hmissing hleft => hgoes hbody (Arch.enter_lastOfNone hopen hmissing hleft),
      fun hmissing hleft => hgoes hbody (Arch.enter_lastOfSome hopen hmissing hleft)⟩
  case refuses =>
    intro h
    by_cases hbody : toX ∧ a.openRep ≠ none
    · exact hopenBody hbody
    · exact (hissues hbody).trans (State.issueV_illegal (h.imp_right fun h => h.resolve_right hbody))

end Sys2Proof.Machine
end

section
/-! The units that perform vector entries: the arbiter of a lane group and of the stream port, and the SFU (R137, R168, R169, R183). -/

namespace Sys2Proof.Machine

/-! ## The arbiter (R169) -/

section
variable {all : List Nat} {w : Nat → Nat} {req : Nat → Bool} {cr : SMap Int}

theorem arbitrate_none (h : all.filter req = []) : (arbitrate all w req cr).1 = none := by
  simp [arbitrate, h, bestBy]

theorem arbitrate_single {c : Nat} (h : all.filter req = [c]) : (arbitrate all w req cr).1 = some c := by
  by_cases hw : 0 < w c <;> simp [arbitrate, h, hw, bestBy]

end

/-! ## The requesters of a quad -/

/-- The credits of an arbiter are no part of what the head of a core waits for. -/
theorem vHead_updQuad (s : State) {quad : Nat} {f : Quad → Quad} (hf : (f (s.quad quad)).retSt = (s.quad quad).retSt) (g : Nat) (u : VUnit) :
    (s.updQuad quad f).vHead g u = s.vHead g u := by
  have hmoving (k : Nat) : (s.updQuad quad f).moving k = s.moving k := by
    have hquad : ((s.updQuad quad f).quad (spadQuad k)).retSt = (s.quad (spadQuad k)).retSt := by
      by_cases hk : spadQuad k = quad
      · rw [hk, State.quad_updQuad_same, hf]
      · rw [State.quad_updQuad_other _ _ hk]
    simp only [State.moving, State.spadMoving, hquad]
    rfl
  have hready (e : VEntry) : (s.updQuad quad f).vReady g e = s.vReady g e := by
    simp only [State.vReady, hmoving]
    rfl
  simp only [State.vHead, hready]
  rfl

section
variable {t : State} {quad : Nat} {u : VUnit} {cr : SMap Int}

theorem vGrant_none (h : ∀ k, k < 4 → t.vHead (4 * quad + k) u = none) : (t.vGrant quad u cr).1 = none :=
  arbitrate_none (List.filter_eq_nil_iff.mpr fun k hk => by simp [h k (List.mem_range.mp hk)])

theorem vGrant_single {c : Nat} {e : VEntry} (hc : c < 4) (he : t.vHead (4 * quad + c) u = some e)
    (h : ∀ k, k < 4 → k ≠ c → t.vHead (4 * quad + k) u = none) : (t.vGrant quad u cr).1 = some c := by
  refine arbitrate_single ?_
  have hreq : ∀ k ∈ List.range 4, (t.vHead (4 * quad + k) u).isSome = decide (k = c) := fun k hk => by
    by_cases hkc : k = c
    · simp [hkc, he]
    · simp [hkc, h k (List.mem_range.mp hk) hkc]
  rw [List.filter_congr hreq]
  have hfilter : ∀ c < 4, (List.range 4).filter (fun k => decide (k = c)) = [c] := by decide
  exact hfilter c hc

end

/-! ## The grants -/

section
variable {s : State} {quad group : Nat}

theorem exec_vectorBeatGrant_none (hgroup : group < 4) (h : ∀ k, k < 4 → (s.sfuReturns quad).vHead (4 * quad + k) .lane = none) :
    ∃ cr, exec (.vectorBeatGrant quad group) s = .next ((s.sfuReturns quad).updQuad quad fun q => { q with credits := cr }) := by
  refine ⟨((s.sfuReturns quad).vGrant quad .lane ((s.sfuReturns quad).quad quad).credits).2, ?_⟩
  change execVectorBeatGrant quad group s = _
  simp only [execVectorBeatGrant, hgroup.not_ge, if_false, vGrant_none h]

theorem exec_streamPortGrant_none (h : ∀ k, k < 4 → (s.sfuReturns quad).vHead (4 * quad + k) .port = none) :
    ∃ cr, exec (.streamPortGrant quad) s = .next ((s.sfuReturns quad).updQuad quad fun q => { q with portCredits := cr }) := by
  refine ⟨((s.sfuReturns quad).vGrant quad .port ((s.sfuReturns quad).quad quad).portCredits).2, ?_⟩
  change execStreamPortGrant quad s = _
  simp only [execStreamPortGrant, vGrant_none h]

variable {c : Nat} {e : VEntry} (hc : c < 4)
include hc

theorem exec_vectorBeatGrant_single (hgroup : group < 4) (he : (s.sfuReturns quad).vHead (4 * quad + c) .lane = some e)
    (h : ∀ k, k < 4 → k ≠ c → (s.sfuReturns quad).vHead (4 * quad + k) .lane = none) :
    ∃ cr, exec (.vectorBeatGrant quad group) s =
      .next (((s.sfuReturns quad).updQuad quad fun q => { q with credits := cr }).vBeat (4 * quad + c) e) := by
  refine ⟨((s.sfuReturns quad).vGrant quad .lane ((s.sfuReturns quad).quad quad).credits).2, ?_⟩
  change execVectorBeatGrant quad group s = _
  simp only [execVectorBeatGrant, hgroup.not_ge, if_false, vGrant_single hc he h, vHead_updQuad, he]

theorem exec_streamPortGrant_single (he : (s.sfuReturns quad).vHead (4 * quad + c) .port = some e)
    (h : ∀ k, k < 4 → k ≠ c → (s.sfuReturns quad).vHead (4 * quad + k) .port = none) :
    ∃ cr, exec (.streamPortGrant quad) s =
      .next (((s.sfuReturns quad).updQuad quad fun q => { q with portCredits := cr }).vBeat (4 * quad + c) e) := by
  refine ⟨((s.sfuReturns quad).vGrant quad .port ((s.sfuReturns quad).quad quad).portCredits).2, ?_⟩
  change execStreamPortGrant quad s = _
  simp only [execStreamPortGrant, vGrant_single hc he h, vHead_updQuad, he]

end

/-! ## Beats -/

theorem State.owe_zero (s : State) (g : Nat) : s.owe g 0 = s := if_pos rfl

theorem vBeat_last {s : State} {g : Nat} {e : VEntry} (hlast : e.beatsNeeded ≤ e.beats + 1) (hhalf : s.vHalf g = false) :
    s.vBeat g e = s.vPerform g e := by
  simp [State.vBeat, hhalf, State.owe_zero, hlast]

/-! ## The SFU (R183) -/

section
variable {s : State} {quad : Nat} {r : SfuReq} {rest : List SfuReq} (hq : (s.quad quad).sfuQ = r :: rest)
  (hhalf : s.vHalf r.core = false) (hdrop : r.drop = false)
include hq hhalf hdrop

theorem sfuCycle_goesOn (h : r.cycles + 1 < (r.elems + 15) / 16) :
    s.sfuCycle quad = s.updQuad quad fun q => { q with sfuQ := { r with cycles := r.cycles + 1 } :: rest } := by
  simp [State.sfuCycle, hq, hhalf, hdrop, State.owe_zero, ceilDiv, h]

theorem sfuCycle_last (h : (r.elems + 15) / 16 ≤ r.cycles + 1) :
    s.sfuCycle quad = (s.updQuad quad fun q => { q with sfuQ := rest }).sfuLand r.core := by
  simp [State.sfuCycle, hq, hhalf, hdrop, State.owe_zero, ceilDiv, h.not_gt]

end

/-- The turn of a body's repetitions writes no register. -/
theorem Arch.repTurn_results (a : Arch) : a.repTurn.sfu = a.sfu ∧ a.repTurn.v = a.v ∧ a.repTurn.fpst = a.fpst := by
  unfold Arch.repTurn
  split
  · exact ⟨rfl, rfl, rfl⟩
  · split_ifs <;> exact ⟨rfl, rfl, rfl⟩

theorem Arch.vDone_results (a : Arch) : a.vDone.sfu = a.sfu ∧ a.vDone.v = a.v ∧ a.vDone.fpst = a.fpst := by
  unfold Arch.vDone
  split
  · exact ⟨rfl, rfl, rfl⟩
  · split_ifs
    · exact ⟨rfl, rfl, rfl⟩
    · split
      · exact ⟨rfl, rfl, rfl⟩
      · exact Arch.repTurn_results _

theorem core_printEntry_arch (s : State) (g : Nat) (trap : Bool) (i : Instr) : ((s.printEntry g trap i).core g).arch = (s.core g).arch := by
  unfold State.printEntry State.foldLate
  split_ifs
  · rw [State.core_updCore_same]
  · rfl

section
variable {s : State} {g i : Nat} {e : VEntry} (hat : (s.core g).arch.vAt = some (i, e))
include hat

theorem sfuLand_result (hfault : (s.core g).arch.streamFault e.ins = none) :
    ∃ v : SfuRet, ((s.sfuLand g).core g).arch.sfu = some v ∧ v.land = s.clock + 8 * s.periodOf g := by
  simp [State.sfuLand, hat, hfault]

theorem sfuReturn_early {r : SfuRet} (hsfu : (s.core g).arch.sfu = some r) (hland : s.clock < r.land) : s.sfuReturn g = s := by
  simp [State.sfuReturn, hat, hsfu, hland]

theorem sfuReturn_writes {r : SfuRet} (hsfu : (s.core g).arch.sfu = some r) (hland : r.land ≤ s.clock) :
    ((s.sfuReturn g).core g).arch.sfu = none ∧ ((s.sfuReturn g).core g).arch.rv (vFields e.ins).1 = r.val
      ∧ ((s.sfuReturn g).core g).arch.fpst = (s.core g).arch.fpst ||| r.fl := by
  have harch : ((s.sfuReturn g).core g).arch =
      ({ (s.core g).arch with sfu := none }.putV e.ins { v := some r.val, v1 := none, x := none, fl := r.fl }).vDone := by
    simp only [State.sfuReturn, hat, hsfu, hland.not_gt, if_false, core_printEntry_arch, State.core_updCore_same, Core.updArch_arch]
  obtain ⟨hret, hv, hfpst⟩ := Arch.vDone_results
    ({ (s.core g).arch with sfu := none }.putV e.ins { v := some r.val, v1 := none, x := none, fl := r.fl })
  rw [harch, hret, hfpst, Arch.rv, hv]
  exact ⟨rfl, Arch.rv_wv_same _ _ _, rfl⟩

end

/-- Settles O31: the grants by who asks for the unit, the SFU by the request at its queue's head and the result in the return slot. -/
theorem vectorUnitsServe : Obligations.VectorUnitsServe := by
  refine ⟨fun s quad group c e hgroup hc => exec_vectorBeatGrant_single hc hgroup, fun s quad c e hc => exec_streamPortGrant_single hc,
    fun s quad group hgroup => ⟨exec_vectorBeatGrant_none hgroup, exec_streamPortGrant_none⟩, fun s g e => vBeat_last, ?service, ?returns⟩
  case service =>
    intro s quad r rest t hq hhalf hdrop
    exact ⟨fun h => congrArg Host.Outcome.next (sfuCycle_goesOn hq hhalf hdrop h),
      fun h => congrArg Host.Outcome.next (sfuCycle_last hq hhalf hdrop h)⟩
  case returns =>
    intro s g i e r hat
    exact ⟨sfuLand_result hat, sfuReturn_early hat, sfuReturn_writes hat⟩

end Sys2Proof.Machine
end

section
/-! XCHG: the meeting of a core that is its mask's only participant, its end, and the quarters of a result (R185, R208, R228). -/

namespace Sys2Proof.Machine

/-! ## The quarters of a result (R228) -/

/-- Quarter i of what participant c receives. -/
def xchgQuarter (c : Nat) (l : List (Nat × Nat × BitVec 4096 × Bool)) (i : Nat) : Nat :=
  match l.find? (fun e => decide (e.1 = i)) with
  | none => 0
  | some e => if e.2.2.2 then elemAt e.2.2.1 1024 0 else elemAt e.2.2.1 1024 c

section
variable {l : List (Nat × Nat × BitVec 4096 × Bool)} {c i : Nat}

theorem xchgQuarter_lt : xchgQuarter c l i < 2 ^ 1024 := by
  have hpos : 0 < 2 ^ 1024 := by positivity
  unfold xchgQuarter
  split
  · exact hpos
  · split_ifs <;> exact elemAt_lt _ _ _

theorem xchgQuarter_found {st : Nat} {v : BitVec 4096} (h : l.find? (fun e => decide (e.1 = i)) = some (i, st, v, false)) :
    xchgQuarter c l i = elemAt v 1024 c := by
  simp [xchgQuarter, h]

theorem xchgResult_eq_packElems (c : Nat) (l : List (Nat × Nat × BitVec 4096 × Bool)) :
    (xchgResult c l).1 = packElems 4096 1024 ((List.range 4).map (xchgQuarter c l)) := by
  have hmod (i : Nat) : xchgQuarter c l i % 2 ^ 1024 = xchgQuarter c l i := Nat.mod_eq_of_lt xchgQuarter_lt
  change BitVec.ofNat 4096 (xchgQuarter c l 0 + xchgQuarter c l 1 <<< 1024 + xchgQuarter c l 2 <<< 2048 + xchgQuarter c l 3 <<< 3072)
    = BitVec.ofNat 4096 (xchgQuarter c l 0 % 2 ^ 1024 + (xchgQuarter c l 1 % 2 ^ 1024 + (xchgQuarter c l 2 % 2 ^ 1024
      + (xchgQuarter c l 3 % 2 ^ 1024 + 0 <<< 1024) <<< 1024) <<< 1024) <<< 1024)
  simp only [hmod]
  refine congrArg (BitVec.ofNat 4096) ?_
  have hadd (x y k : Nat) : (x + y) <<< k = x <<< k + y <<< k := by simp only [Nat.shiftLeft_eq, Nat.add_mul]
  simp only [hadd, ← Nat.shiftLeft_add, Nat.zero_shiftLeft, Nat.add_zero, Nat.add_assoc, Nat.reduceAdd]

theorem elemAt_xchgResult (hi : i < 4) : elemAt (xchgResult c l).1 1024 i = xchgQuarter c l i := by
  have hlength : ((List.range 4).map (xchgQuarter c l)).length = 4 := by simp
  rw [xchgResult_eq_packElems, elemAt_packElems (by rw [hlength]) (by rwa [hlength]), List.getElem_map, List.getElem_range,
    Nat.mod_eq_of_lt xchgQuarter_lt]

/-- With one contribution the result holds one quarter, in its contributor's place. -/
theorem xchgResult_single (st : Nat) (v : BitVec 4096) (hi : i < 4) :
    xchgResult c [(i, st, v, false)] = (BitVec.ofNat 4096 (elemAt v 1024 c <<< (1024 * i)), true) := by
  obtain rfl | rfl | rfl | rfl : i = 0 ∨ i = 1 ∨ i = 2 ∨ i = 3 := by omega
  all_goals simp [xchgResult, elemAt, -Nat.reducePow]

end

/-! ## The instruction -/

section
variable {s : State} {d a : Reg} {q : QReg} {mask : BitVec 4}

theorem exec_xchg_illegal (h : mask.toNat.testBit (coreIn s.cur) = false ∨ s.me.bound d.toNat = true) :
    exec (.xchg d a q mask) s = .next (s.trap 0x01 s.me.bundle) := if_pos h

/-- The state in which an exchange that is complete leaves the core, before q is written. -/
def State.exchangeDone (s : State) (d : Reg) (r : BitVec 4096 × Bool) : State :=
  (s.updWait fun w => { w with xchg := none, xchgDone := none }).updArch fun x => x.wv d.toNat r.1

theorem xchgWait_done {r : BitVec 4096 × Bool} (h : s.me.arch.wait.xchgDone = some r) :
    s.xchgWait d q = .next ((s.exchangeDone d r).pushQI q r.2) := by
  simp only [State.xchgWait, h]
  rfl

theorem onlyMe_exchangeDone (s : State) (d : Reg) (r : BitVec 4096 × Bool) : OnlyMe s (s.exchangeDone d r) :=
  (onlyMe_updMe s _).trans (onlyMe_updMe _ _)

theorem exchangeDone_arch (s : State) (d : Reg) (r : BitVec 4096 × Bool) : (s.exchangeDone d r).me.arch =
    { s.me.arch with wait := { s.me.arch.wait with xchg := none, xchgDone := none } }.wv d.toNat r.1 := by
  simp [State.exchangeDone, State.updArch, State.updWait]

variable (hmask : mask.toNat.testBit (coreIn s.cur) = true) (hbound : s.me.bound d.toNat = false)
include hmask hbound

theorem exec_xchg_complete {st : Nat} {r : BitVec 4096 × Bool} (hxchg : s.me.arch.wait.xchg = some st)
    (hdone : s.me.arch.wait.xchgDone = some r) : exec (.xchg d a q mask) s = .next ((s.exchangeDone d r).pushQI q r.2) := by
  change execXchg d a q mask s = _
  simp [execXchg, hmask, hbound, hxchg, xchgWait_done hdone]

/-- The state in which the only participant of a mask has contributed v under the next number. -/
def State.contributed (s : State) (mask : BitVec 4) (v : BitVec 4096) : State :=
  (({ s with stamp := s.stamp + 1 } : State).updWait fun w => { w with xchg := some s.stamp, xchgDone := none }).updQuad (quadOf s.cur) fun x =>
    { x with xchg := SMap.upd x.xchg [] mask.toNat fun l => l ++ [(coreIn s.cur, s.stamp, v, false)] }

theorem exec_xchg_first (hxchg : s.me.arch.wait.xchg = none) (hsource : s.me.bound a.toNat = false) :
    exec (.xchg d a q mask) s = (((s.contributed mask (s.me.arch.rv a.toNat)).exchangeTokens mask.toNat).xchgMeet
      (quadOf s.cur) mask.toNat).xchgWait d q := by
  change execXchg d a q mask s = _
  rw [execXchg, if_neg (by simp [hmask, hbound]), if_neg (by simp [hxchg]), State.takeV, if_neg (by simp [hsource])]
  rfl

end

/-! ## The only participant -/

theorem coreIn_lt (g : Nat) : coreIn g < 4 := Nat.mod_lt g (by decide)

/-- No other participant is there to contribute an error token. -/
theorem exchangeTokens_alone {s : State} (hself : (s.core s.cur).contained = false) : s.exchangeTokens (2 ^ coreIn s.cur) = s := by
  refine List.foldl_fixed' (fun c => if_neg ?_) _
  by_cases hc : coreIn s.cur = c
  · have hcur : 4 * quadOf s.cur + c = s.cur := by rw [← hc]; exact Nat.div_add_mod s.cur 4
    simp [hcur, hself]
  · simp [hc]

/-- The meeting of one contribution leaves the table, and its result goes to the bundle that waits for that number. -/
theorem xchgMeet_alone {s : State} {quad st i : Nat} {v : BitVec 4096} (hi : i < 4)
    (hq : SMap.get (s.quad quad).xchg [] (2 ^ i) = [(i, st, v, false)]) : s.xchgMeet quad (2 ^ i) =
      (s.updQuad quad fun q => { q with xchg := SMap.del q.xchg (2 ^ i) }).mapArch fun a =>
        { a with wait := a.wait.exchanged st (xchgResult i [(i, st, v, false)]) } := by
  have hmet : ((List.range 4).filterMap fun c => if (2 ^ i).testBit c then
      [(i, st, v, false)].find? (fun e => decide (e.1 = c)) else none) = [(i, st, v, false)] := by
    obtain rfl | rfl | rfl | rfl : i = 0 ∨ i = 1 ∨ i = 2 ∨ i = 3 := by omega
    all_goals rfl
  have hall : ((List.range 4).all fun c => !(2 ^ i).testBit c || [(i, st, v, false)].any fun e => decide (e.1 = c)) = true := by
    simp [Nat.testBit_two_pow]
  have hrest : [(i, st, v, false)].filter (fun e => !List.contains [(i, st, v, false)] e) = [] := by simp
  simp only [State.xchgMeet, hq, hmet, hall, hrest, List.isEmpty_nil, if_true, List.foldl, Bool.false_eq_true, if_false]

theorem exchanged_xchgDone {w : WaitSt} {num : Nat} (h : w.xchg = some num) (r : BitVec 4096 × Bool) :
    (w.exchanged num r).xchgDone = some r := by
  simp only [WaitSt.exchanged, h, if_true]
  split_ifs <;> rfl

section
variable {s : State} (mask : BitVec 4) (v : BitVec 4096)

theorem core_contributed : (s.contributed mask v).core s.cur =
    s.me.updArch fun a => { a with wait := { a.wait with xchg := some s.stamp, xchgDone := none } } :=
  State.core_updMe_same ({ s with stamp := s.stamp + 1 } : State)
    fun c => c.updArch fun a => { a with wait := { a.wait with xchg := some s.stamp, xchgDone := none } }

theorem contributed_xchg (hq : SMap.get (s.quad (quadOf s.cur)).xchg [] mask.toNat = []) :
    SMap.get ((s.contributed mask v).quad (quadOf s.cur)).xchg [] mask.toNat = [(coreIn s.cur, s.stamp, v, false)] := by
  rw [State.contributed, State.quad_updQuad_same, SMap.get_upd_same]
  exact congrArg (· ++ _) hq

/-- An only participant's contribution meets at once, and its own quarter comes back. -/
theorem contributed_meets (hmask : mask.toNat = 2 ^ coreIn s.cur) (hself : s.me.contained = false)
    (hq : SMap.get (s.quad (quadOf s.cur)).xchg [] mask.toNat = []) :
    (((s.contributed mask v).exchangeTokens mask.toNat).xchgMeet (quadOf s.cur) mask.toNat).me.arch.wait.xchgDone =
      some (xchgResult (coreIn s.cur) [(coreIn s.cur, s.stamp, v, false)]) := by
  have htokens : (s.contributed mask v).exchangeTokens (2 ^ coreIn s.cur) = s.contributed mask v :=
    exchangeTokens_alone ((congrArg Core.contained (core_contributed mask v)).trans hself)
  have htable := contributed_xchg mask v hq
  rw [hmask] at htable
  rw [hmask, htokens, xchgMeet_alone (coreIn_lt s.cur) htable, State.me, core_mapArch rfl]
  exact exchanged_xchgDone (congrArg (·.arch.wait.xchg) (core_contributed mask v)) _

end

/-- Settles O38: an exchange that is complete ends; a first one of an only participant contributes, meets and ends; and a result is packed
of its quarters. -/
theorem exchangeMeets : Obligations.ExchangeMeets := by
  intro s d a q mask
  refine ⟨exec_xchg_illegal, fun hmask hbound => ⟨fun st r hxchg hdone => ?complete, fun hxchg hsource hself hq hcontained => ?alone⟩,
    fun l c i st v _ hi hfound => (elemAt_xchgResult hi).trans (xchgQuarter_found hfound)⟩
  case complete =>
    refine ⟨_, exec_xchg_complete hmask hbound hxchg hdone, onlyMe_exchangeDone s d r, ?_⟩
    rw [exchangeDone_arch]
    exact ⟨Arch.rv_wv_same _ _ _, rfl, rfl⟩
  case alone =>
    have hdone := contributed_meets mask (s.me.arch.rv a.toNat) hself hcontained hq
    rw [xchgResult_single _ _ (coreIn_lt s.cur)] at hdone
    refine ⟨_, (exec_xchg_first hmask hbound hxchg hsource).trans (xchgWait_done hdone), ?_⟩
    rw [exchangeDone_arch]
    exact ⟨Arch.rv_wv_same _ _ _, rfl⟩

end Sys2Proof.Machine
end

section
/-! Matrix instructions at issue: the entry that joins the MXU queue, and the checks that come before it (R83, R189, R192 to R194, R200
to R206). -/

namespace Sys2Proof.Machine

/-! ## The entry joins the queue -/

/-- What a matrix instruction whose checks have passed leaves: with the queue full a held bundle, else the entry in the queue with its
draws claimed and the issue side's bank changed (R83, R189). -/
def State.matrixJoined (s : State) (i : Instr) (xs : List Word) (draws : Nat) (g : Bank → Bank) : State :=
  if mxqDepth ≤ s.me.arch.mxq.length then s.holding cMXQ
  else ((s.updArch fun a => { a with srseed := xsN draws a.srseed }).updBank g).pushMxq i s.me.arch.tm xs s.me.arch.srseed []

theorem Core.setBankOf_tm (c : Core) (trap : Bool) (b : Bank) : (c.setBankOf trap b).arch.tm = c.arch.tm := by
  cases trap <;> rfl

theorem State.updBank_tm (s : State) (g : Bank → Bank) : (s.updBank g).me.arch.tm = s.me.arch.tm := by
  rw [State.updBank, State.me_updMe, Core.setBankOf_tm]

theorem State.issueM_eq (s : State) (i : Instr) (xs : List Word) (draws : Nat) (g : Bank → Bank) :
    s.issueM i xs draws g = .next (s.matrixJoined i xs draws g) := by
  have htm : ((s.updArch fun a => { a with srseed := xsN draws a.srseed }).updBank g).me.arch.tm = s.me.arch.tm := by
    rw [State.updBank_tm, State.updArch, State.me_updMe]
    rfl
  unfold State.issueM State.matrixJoined
  split_ifs
  · rfl
  · simp only [htm]

/-! ## The checks -/

theorem State.mxfmt_eq (s : State) (reg code : Nat) : s.mxfmt reg code = .next (s.trap cMXFMT (BitVec.ofNat 64 (16 * reg + code))) := by
  rw [State.mxfmt, Nat.shiftLeft_eq, Nat.mul_comm]
  rfl

theorem State.isOpen_iff (s : State) (n : Nat) : s.isOpen n = true ↔ n ∈ s.me.bank.iopen := List.contains_iff_mem

theorem kOk_iff (sc : Bool) (k : Nat) : kOk sc k = true ↔ (sc = true → k % 32 = 0) := by
  cases sc <;> simp [kOk]

section
variable {s : State} {d a b : Reg}

theorem exec_mfmt_ok {ta tb : MType} {sa sb : Bool} (ovr : Bool) (h : mfmtOk ta tb sa sb = true) :
    exec (.mfmt ta tb sa sb ovr) s = .next (s.matrixJoined (.mfmt ta tb sa sb ovr) [] 0
      fun x => { x with ifmt := { ta := ta, tb := tb, sa := sa, sb := sb, ovr := ovr } }) :=
  (if_neg (by simp [h])).trans (s.issueM_eq ..)

theorem exec_mfmt_bad {ta tb : MType} {sa sb : Bool} (ovr : Bool) (h : mfmtOk ta tb sa sb = false) :
    exec (.mfmt ta tb sa sb ovr) s = .next (s.trap cMXFMT (BitVec.ofNat 64 (16 * 0 + 6))) :=
  (if_pos (by simp [h])).trans (s.mxfmt_eq ..)

/-! ### An accumulator alone: MZERO, MOPEN, MCLOSE -/

theorem exec_mzero_tile (s : State) (d : Reg) : exec (.mzero d true) s = .next (s.matrixJoined (.mzero d true) [] 0 id) :=
  s.issueM_eq ..

section
variable (hopen : d.toNat ∈ s.me.bank.iopen)
include hopen

theorem exec_mzero_open : exec (.mzero d false) s = .next (s.trap cMXFMT (BitVec.ofNat 64 (16 * d.toNat + 4))) :=
  (if_pos (by simpa [State.isOpen_iff])).trans (s.mxfmt_eq ..)

theorem exec_mopen_open : exec (.mopen d) s = .next (s.trap cMXFMT (BitVec.ofNat 64 (16 * d.toNat + 2))) :=
  (if_pos ((s.isOpen_iff _).2 hopen)).trans (s.mxfmt_eq ..)

theorem exec_mclose_open : exec (.mclose d) s = .next (s.matrixJoined (.mclose d) [] 0
    fun x => { x with iopen := x.iopen.filter (· ≠ d.toNat) }) :=
  (if_neg (by simpa [State.isOpen_iff])).trans (s.issueM_eq ..)

end

section
variable (hclosed : d.toNat ∉ s.me.bank.iopen)
include hclosed

theorem exec_mzero_closed : exec (.mzero d false) s = .next (s.matrixJoined (.mzero d false) [] 0 id) :=
  (if_neg (by simpa [State.isOpen_iff])).trans (s.issueM_eq ..)

theorem exec_mopen_closed : exec (.mopen d) s = .next (s.matrixJoined (.mopen d) [] 0 fun x => { x with iopen := d.toNat :: x.iopen }) :=
  (if_neg (by simpa [State.isOpen_iff])).trans (s.issueM_eq ..)

theorem exec_mclose_closed : exec (.mclose d) s = .next (s.trap cMXFMT (BitVec.ofNat 64 (16 * d.toNat + 3))) :=
  (if_pos (by simpa [← Bool.not_eq_true, State.isOpen_iff])).trans (s.mxfmt_eq ..)

end

/-! ### MMA, MMAS, MDIST -/

/-- The first operand tile of an accumulating entry fits the issue side's format context (R201). -/
def State.FitsLeft (s : State) (a : Reg) : Prop :=
  fld (s.ishape a.toNat) 1 0 = MType.wCode s.me.bank.ifmt.ta ∧ tKax (s.ishape a.toNat) = false
    ∧ (s.me.bank.ifmt.sa = true → tCols (s.ishape a.toNat) % 32 = 0)

/-- Its second operand tile does. -/
def State.FitsRight (s : State) (b : Reg) : Prop :=
  fld (s.ishape b.toNat) 1 0 = MType.wCode s.me.bank.ifmt.tb ∧ tKax (s.ishape b.toNat) = true
    ∧ (s.me.bank.ifmt.sb = true → tRows (s.ishape b.toNat) % 32 = 0)

/-- The model's check of the first tile. -/
def State.misfitsLeft (s : State) (a : Reg) : Bool :=
  fld (s.ishape a.toNat) 1 0 ≠ MType.wCode s.me.bank.ifmt.ta || tKax (s.ishape a.toNat)
    || !kOk s.me.bank.ifmt.sa (tCols (s.ishape a.toNat))

/-- The model's check of the second tile. -/
def State.misfitsRight (s : State) (b : Reg) : Bool :=
  fld (s.ishape b.toNat) 1 0 ≠ MType.wCode s.me.bank.ifmt.tb || !tKax (s.ishape b.toNat)
    || !kOk s.me.bank.ifmt.sb (tRows (s.ishape b.toNat))

theorem State.misfitsLeft_iff (s : State) (a : Reg) : s.misfitsLeft a = true ↔ ¬ s.FitsLeft a := by
  rw [← not_iff_not, not_not]
  simp [State.misfitsLeft, State.FitsLeft, ← kOk_iff, and_assoc]

theorem State.misfitsRight_iff (s : State) (b : Reg) : s.misfitsRight b = true ↔ ¬ s.FitsRight b := by
  rw [← not_iff_not, not_not]
  simp [State.misfitsRight, State.FitsRight, ← kOk_iff, and_assoc]

/-- The draws that an accumulating entry claims (R83, R94). -/
def State.accumulateDraws (s : State) (a b : Reg) (r : Rnd) : Nat :=
  if r = .sr then tRows (s.ishape a.toNat) * tCols (s.ishape b.toNat) * ceilDiv (tCols (s.ishape a.toNat)) (MType.chunk s.me.bank.ifmt.ta)
  else 0

section
variable {i : Instr} {r : Rnd} (hi : i = .mma d a b r ∨ i = .mmas d a b r ∨ i = .mdist d a b r)
include hi

theorem exec_accumulate : exec i s = s.accumulate i d a b r := by
  obtain rfl | rfl | rfl := hi <;> rfl

theorem exec_accumulate_closed (hclosed : d.toNat ∉ s.me.bank.iopen) :
    exec i s = .next (s.trap cMXFMT (BitVec.ofNat 64 (16 * d.toNat + 1))) :=
  (exec_accumulate hi).trans ((if_pos (by simpa [← Bool.not_eq_true, State.isOpen_iff])).trans (s.mxfmt_eq ..))

variable (hopen : d.toNat ∈ s.me.bank.iopen)
include hopen

theorem exec_accumulate_open : exec i s =
    if s.misfitsLeft a then s.mxfmt a.toNat 5
    else if s.misfitsRight b then s.mxfmt b.toNat 5
    else if tCols (s.ishape a.toNat) ≠ tRows (s.ishape b.toNat) then s.mxfmt b.toNat 5
    else s.issueM i [] (s.accumulateDraws a b r) id :=
  (exec_accumulate hi).trans (if_neg (by simpa [State.isOpen_iff]))

theorem exec_accumulate_left (hleft : ¬ s.FitsLeft a) : exec i s = .next (s.trap cMXFMT (BitVec.ofNat 64 (16 * a.toNat + 5))) := by
  rw [exec_accumulate_open hi hopen, if_pos ((s.misfitsLeft_iff a).2 hleft), s.mxfmt_eq]

variable (hleft : s.FitsLeft a)
include hleft

theorem exec_accumulate_right (hright : ¬ (s.FitsRight b ∧ tCols (s.ishape a.toNat) = tRows (s.ishape b.toNat))) :
    exec i s = .next (s.trap cMXFMT (BitVec.ofNat 64 (16 * b.toNat + 5))) := by
  rw [exec_accumulate_open hi hopen, if_neg ((s.misfitsLeft_iff a).not.2 (not_not.2 hleft)), s.mxfmt_eq]
  by_cases hfits : s.FitsRight b
  · rw [if_neg ((s.misfitsRight_iff b).not.2 (not_not.2 hfits)), if_pos fun hk => hright ⟨hfits, hk⟩]
  · rw [if_pos ((s.misfitsRight_iff b).2 hfits)]

theorem exec_accumulate_joins (hright : s.FitsRight b) (hk : tCols (s.ishape a.toNat) = tRows (s.ishape b.toNat)) :
    exec i s = .next (s.matrixJoined i [] (s.accumulateDraws a b r) id) := by
  rw [exec_accumulate_open hi hopen, if_neg ((s.misfitsLeft_iff a).not.2 (not_not.2 hleft)),
    if_neg ((s.misfitsRight_iff b).not.2 (not_not.2 hright)), if_neg (not_not.2 hk), s.issueM_eq]

end

/-! ### MTRAN, MCVT, MEW, MTOPK -/

/-- The ends of an instruction that checks first that its accumulator is closed and then that its tile fits (R193, R194). -/
theorem closed_then_fits {misfit : Bool} {fits : Prop} {acc reg code : Nat} {i : Instr} {xs : List Word} {draws : Nat} {r : Step}
    (hrun : r = if s.isOpen acc then s.mxfmt acc 4 else if misfit then s.mxfmt reg code else s.issueM i xs draws id)
    (hfits : fits ↔ misfit = false) :
    (acc ∈ s.me.bank.iopen → r = .next (s.trap cMXFMT (BitVec.ofNat 64 (16 * acc + 4))))
    ∧ (acc ∉ s.me.bank.iopen → ¬ fits → r = .next (s.trap cMXFMT (BitVec.ofNat 64 (16 * reg + code))))
    ∧ (acc ∉ s.me.bank.iopen → fits → r = .next (s.matrixJoined i xs draws id)) := by
  simp only [hfits, ← s.isOpen_iff, hrun, ← State.mxfmt_eq, ← State.issueM_eq]
  refine ⟨fun h => if_pos h, fun h hmis => ?_, fun h hfit => ?_⟩
  · rw [if_neg h, if_pos (by simpa using hmis)]
  · rw [if_neg h, if_neg (by simp [hfit])]

/-- The tiles of MTRAN have each other's transposed shape (R203). -/
def State.Transposed (s : State) (d a : Reg) : Prop :=
  tRows (s.ishape d.toNat) = tCols (s.ishape a.toNat) ∧ tCols (s.ishape d.toNat) = tRows (s.ishape a.toNat)
    ∧ fld (s.ishape d.toNat) 1 0 = fld (s.ishape a.toNat) 1 0 ∧ tKax (s.ishape d.toNat) ≠ tKax (s.ishape a.toNat)

theorem State.transposed_iff (s : State) (d a : Reg) : s.Transposed d a ↔
    ¬ (tRows (s.ishape d.toNat) ≠ tCols (s.ishape a.toNat) || tCols (s.ishape d.toNat) ≠ tRows (s.ishape a.toNat)
      || fld (s.ishape d.toNat) 1 0 ≠ fld (s.ishape a.toNat) 1 0 || tKax (s.ishape d.toNat) == tKax (s.ishape a.toNat)) = true := by
  simp [State.Transposed, and_assoc]

theorem exec_mtran_fits (h : s.Transposed d a) : exec (.mtran d a) s = .next (s.matrixJoined (.mtran d a) [] 0 id) :=
  (if_neg ((s.transposed_iff d a).1 h)).trans (s.issueM_eq ..)

theorem exec_mtran_misfit (h : ¬ s.Transposed d a) :
    exec (.mtran d a) s = .next (s.trap cMXFMT (BitVec.ofNat 64 (16 * d.toNat + 5))) :=
  (if_pos (not_not.1 fun hc => h ((s.transposed_iff d a).2 hc))).trans (s.mxfmt_eq ..)

/-- The destination tile of MCVT fits its type (R204). -/
theorem mcvtFits_iff (sh : Word) (t : EType) (sc : Bool) :
    (fld sh 1 0 = mcvtW t ∧ (sc = true → EType.narrow t = true ∧ tK sh % 32 = 0) ∧ (sc = false → t ≠ .e2m1)) ↔
      (fld sh 1 0 ≠ mcvtW t || (sc && (!EType.narrow t || tK sh % 32 ≠ 0)) || (!sc && decide (t = .e2m1))) = false := by
  cases sc <;> simp

/-- The source tile of MEW is of 32 bits or of the format context's width, or not read (R205). -/
theorem mewFits_iff (op : MewOp) (w c : Nat) :
    (op = .relu ∨ w = 3 ∨ w = c) ↔ (op ≠ .relu && decide (w ≠ 3) && decide (w ≠ c)) = false := by
  simp [← or_iff_not_imp_left]

/-- The destination tile and the row count of MTOPK fit (R206). -/
theorem mtopkFits_iff (sh : Word) (n k : Nat) :
    (fld sh 1 0 = 2 ∧ tCols sh ≤ 16 ∧ 1 ≤ n ∧ n ≤ side k) ↔ (fld sh 1 0 ≠ 2 || 16 < tCols sh || n = 0 || side k < n) = false := by
  simp [Nat.one_le_iff_ne_zero, and_assoc]

end

/-- Settles O32: each instruction's checks in their order, and the entry behind them. -/
theorem matrixIssue : Obligations.MatrixIssue := by
  intro s d a b ta tb sa sb ovr r t sc bc largest ov op
  exact ⟨exec_mfmt_ok ovr, exec_mfmt_bad ovr,
    fun i hi => ⟨exec_accumulate_closed hi, exec_accumulate_left hi, exec_accumulate_right hi, exec_accumulate_joins hi⟩,
    exec_mzero_tile s d,
    fun hclosed => ⟨exec_mzero_closed hclosed, exec_mopen_closed hclosed, exec_mclose_closed hclosed⟩,
    fun hopen => ⟨exec_mzero_open hopen, exec_mopen_open hopen, exec_mclose_open hopen⟩,
    ⟨exec_mtran_fits, exec_mtran_misfit⟩,
    closed_then_fits (s := s) (r := exec (.mcvt d a t sc ov r) s) rfl (mcvtFits_iff ..),
    closed_then_fits (s := s) (r := exec (.mew d a op bc r) s) rfl (mewFits_iff ..),
    closed_then_fits (s := s) (r := exec (.mtopk d a b largest) s) rfl (mtopkFits_iff ..)⟩

end Sys2Proof.Machine
end

section
/-! Tile transfers at issue, and MWAIT (R136, R139, R145, R146, R198, R207). -/

namespace Sys2Proof.Machine

/-! ## MWAIT (R207) -/

/-- An entry of the MXU queue that MWAIT waits for. -/
def State.MwaitNames (s : State) (d : Reg) (named : Bool) (e : MEntry) : Prop :=
  named = false ∨ e.isTst = true ∨ (s.me.arch.tm = true ∧ e.trap = false) ∨ (e.trap = s.me.arch.tm ∧ accOf e.ins = some d.toNat)

section
variable {s : State} {d : Reg} {named : Bool}

theorem mwaitNames_any : (s.me.arch.mxq.any fun e => !named || e.isTst || (s.me.arch.tm && !e.trap)
    || (decide (e.trap = s.me.arch.tm) && decide (accOf e.ins = some d.toNat))) = true
    ↔ ∃ e ∈ s.me.arch.mxq, s.MwaitNames d named e := by
  simp [State.MwaitNames, or_assoc]

theorem exec_mwait_goes (h : ∀ e ∈ s.me.arch.mxq, ¬ s.MwaitNames d named e) : exec (.mwait d named) s = .next s :=
  if_neg (mwaitNames_any.not.2 (by simpa using h))

theorem exec_mwait_waits (h : ∃ e ∈ s.me.arch.mxq, s.MwaitNames d named e) : exec (.mwait d named) s = .next (s.holding cMXQ) :=
  if_pos (mwaitNames_any.2 h)

end

/-! ## TLD and TST -/

section
variable {s u : State} {write : Bool} {i : Instr} {d : Reg} {sc : Bool} {m : MemOp} {pages : List (Nat × Nat)}

theorem tileMove_misaligned (h : (MemOp.ea s.me 64 m).toNat % 64 ≠ 0) :
    s.tileMove write i d sc m = .next (s.trap cALIGN (MemOp.ea s.me 64 m)) := if_pos h

theorem tileMove_misfit (haligned : (MemOp.ea s.me 64 m).toNat % 64 = 0) (hsc : sc = true) (hk : tK (s.ishape d.toNat) % 32 ≠ 0) :
    s.tileMove write i d sc m = .next (s.trap cMXFMT (BitVec.ofNat 64 (16 * d.toNat + 5))) :=
  (if_neg (not_not.2 haligned)).trans ((if_pos (by simp [hsc, hk])).trans (s.mxfmt_eq ..))

/-- The keys of the bytes that a transfer reads or writes. -/
def State.tileKeys (s : State) (d : Reg) (sc : Bool) (ea : Nat) (pages : List (Nat × Nat)) : List Nat :=
  (tileOffsets (s.ishape d.toNat) sc).map fun o => pageKey pages (ea + o)

/-- A tile transfer of operand m passes the checks of its address and shape, and its pages translate to places that can be reached
now: u is the state after their walks. -/
structure TileReached (s u : State) (k : XKind) (d : Reg) (sc : Bool) (m : MemOp) (pages : List (Nat × Nat)) : Prop where
  aligned : (MemOp.ea s.me 64 m).toNat % 64 = 0
  fits : sc = true → tK (s.ishape d.toNat) % 32 = 0
  walks : ∀ p ∈ tilePages (s.ishape d.toNat) (MemOp.ea s.me 64 m).toNat sc,
    s.walkWaits (s.linksWait (dieOf s.cur)) s.cur p 1 k = false
  xlate : s.tileXlate s.cur k (tilePages (s.ishape d.toNat) (MemOp.ea s.me 64 m).toNat sc) = (u, .ok pages)
  opened : ∀ x ∈ s.tileKeys d sc (MemOp.ea s.me 64 m).toNat pages, u.window x ≠ .waits ∧ u.moving x = false

/-- What remains of the issue of a transfer that has reached its pages: room in the queue, the core's stores, the lines (R207, R139). -/
def State.tileEnters (u : State) (write : Bool) (i : Instr) (keys : List Nat) (ea : Word) (pages : List (Nat × Nat)) : Step :=
  if mxqDepth ≤ u.me.arch.mxq.length then u.hold cMXQ
  else if write && (!u.me.sb.isEmpty || u.me.vwork.any VEntry.isVld
      || [0, 1].any fun n => (u.die n).past.any fun p => keys.any p.ent.has) then u.hold cMEM
  else
    match (if write then u.ownWait u.cur none keys else none) with
    | some c => u.hold c
    | none =>
      let z := u.recordHosts (if write then .ewrite else .eread) (pages.map Prod.fst)
      let own := if write then z.takeLines (.entry z.cur z.stamp) keys else z
      .next ((own.extraCycles (pages.length - 1)).pushMxq i z.me.arch.tm [ea] 0 pages)

theorem TileReached.tileMove (h : TileReached s u (if write then .ewrite else .eread) d sc m pages) :
    s.tileMove write i d sc m =
      u.tileEnters write i (s.tileKeys d sc (MemOp.ea s.me 64 m).toNat pages) (MemOp.ea s.me 64 m) pages := by
  have hfits : (sc && decide (tK (s.ishape d.toNat) % 32 ≠ 0)) = false := by simpa using h.fits
  have hwalks : ((tilePages (s.ishape d.toNat) (MemOp.ea s.me 64 m).toNat sc).any fun p =>
      s.walkWaits (s.linksWait (dieOf s.cur)) s.cur p 1 (if write then .ewrite else .eread)) = false := by
    simpa using h.walks
  have hopened : ((s.tileKeys d sc (MemOp.ea s.me 64 m).toNat pages).any (fun x => decide (u.window x = .waits))
      || (s.tileKeys d sc (MemOp.ea s.me 64 m).toNat pages).any u.moving) = false := by
    simpa [forall_and] using h.opened
  unfold State.tileMove
  dsimp only
  rw [if_neg (not_not.2 h.aligned), hfits, hwalks, h.xlate]
  exact if_neg (Bool.eq_false_iff.1 hopened)

section
variable (h : TileReached s u .eread d sc m pages)
include h

theorem TileReached.exec_tld_full (hfull : mxqDepth ≤ u.me.arch.mxq.length) : exec (.tld d sc m) s = .next (u.holding cMXQ) :=
  (TileReached.tileMove (write := false) h).trans (if_pos hfull)

theorem TileReached.exec_tld_joins (hroom : u.me.arch.mxq.length < mxqDepth) :
    let z := u.recordHosts .eread (pages.map Prod.fst)
    exec (.tld d sc m) s = .next ((z.extraCycles (pages.length - 1)).pushMxq (.tld d sc m) z.me.arch.tm [MemOp.ea s.me 64 m] 0 pages) :=
  (TileReached.tileMove (write := false) h).trans (if_neg hroom.not_ge)

end

theorem TileReached.exec_tst_joins (h : TileReached s u .ewrite d false m pages) (hroom : u.me.arch.mxq.length < mxqDepth)
    (hclear : u.CopyClear (s.tileKeys d false (MemOp.ea s.me 64 m).toNat pages))
    (hown : u.ownWait u.cur none (s.tileKeys d false (MemOp.ea s.me 64 m).toNat pages) = none) :
    let z := u.recordHosts .ewrite (pages.map Prod.fst)
    exec (.tst d m) s = .next (((z.takeLines (.entry z.cur z.stamp) (s.tileKeys d false (MemOp.ea s.me 64 m).toNat pages)).extraCycles
      (pages.length - 1)).pushMxq (.tst d m) z.me.arch.tm [MemOp.ea s.me 64 m] 0 pages) := by
  rw [copyClear_iff] at hclear
  refine (TileReached.tileMove (write := true) h).trans ((if_neg hroom.not_ge).trans ?_)
  rw [hclear, Bool.and_false, if_neg Bool.false_ne_true, if_pos rfl, hown]
  rfl

end

/-- Settles O33: MWAIT by what it names, the traps of TLD and TST in their order, and the transfers that reach their pages. -/
theorem tileTransfersAndWaits : Obligations.TileTransfersAndWaits := by
  intro s u d sc named m pages
  refine ⟨exec_mwait_goes, exec_mwait_waits, fun h => ⟨tileMove_misaligned h, tileMove_misaligned h⟩,
    fun hsc ha hk => tileMove_misfit ha hsc hk,
    fun ha hfits hwalks hx hkeys => ?tld, fun ha hwalks hx hkeys hroom hsb hvld hpast hown => ?tst⟩
  case tld =>
    have h : TileReached s u .eread d sc m pages := ⟨ha, hfits, hwalks, hx, by simpa [State.tileKeys] using hkeys⟩
    exact ⟨h.exec_tld_joins, h.exec_tld_full⟩
  case tst =>
    have h : TileReached s u .ewrite d false m pages := ⟨ha, by simp, hwalks, hx, hkeys⟩
    exact h.exec_tst_joins hroom ⟨hsb, hvld, hpast⟩ hown

end Sys2Proof.Machine
end

section
/-! A cycle of the MXU begins with the slew step that is due in it (R403, R408). -/

namespace Sys2Proof.Machine

theorem exec_mxuGranuleGrant (s : State) (m : Nat) :
    exec (.mxuGranuleGrant m) s = .next (((s.shapeWrites m).slewNow (slewDomOf m)).arrayCycle m) := rfl

/-- The first strand on core 0, right after its MZERO t0 has joined the empty queue of an MXU whose slew domain is quiescent: the case
of R408. -/
def mzeroQueued : State := (State.reset.place []).matrixJoined (.mzero 0 true) [] 0 id

theorem exec_mzero_queued : exec (.mzero 0 true) (State.reset.place []) = .next mzeroQueued := exec_mzero_tile _ 0

theorem mzeroQueued_slewStep : (((mzeroQueued.shapeWrites 0).slewNow (slewDomOf 0)).arrayCycle 0).slews ≠ [] := by decide +kernel

theorem mzeroQueued_noSlewStep : ((mzeroQueued.shapeWrites 0).arrayCycle 0).slews = [] := by decide +kernel

/-- Refutes O34: MXU_GRANULE_GRANT is more than the array's cycle. Where a step of the cluster's slew domain is due it is taken first, and
the granule works with the columns that it grants (R408); behind a first MZERO that step opens the domain's count. -/
theorem not_matrixEntries : ¬ Obligations.MatrixEntries := by
  intro h
  obtain ⟨-, hunits⟩ := h
  obtain ⟨hgrant, -⟩ := hunits mzeroQueued 0
  have hstates := Host.Outcome.next.inj ((exec_mxuGranuleGrant mzeroQueued 0).symm.trans hgrant)
  exact mzeroQueued_slewStep ((congrArg State.slews hstates).trans mzeroQueued_noSlewStep)

end Sys2Proof.Machine
end

section
/-! What the proofs about messages, barriers and pairs need of the sparse map and of the state's updates. -/

namespace Sys2Proof

theorem SMap.set_set {α : Type} (m : SMap α) (n : Nat) (a b : α) : SMap.set (SMap.set m n a) n b = SMap.set m n b := by
  induction m with
  | nil => simp [SMap.set]
  | cons p r ih =>
    obtain ⟨k, v⟩ := p
    simp only [SMap.set]
    split_ifs with hlt heq
    · simp [SMap.set]
    · simp [SMap.set]
    · simp [SMap.set, hlt, heq, ih]

namespace Machine

/-- A map over the cores by their numbers keeps a part that it keeps of each. -/
theorem core_mapCores {β : Type} {part : Core → β} {f : Nat → Core → Core} (hf : ∀ k c, part (f k c) = part c) (s : State) (g : Nat) :
    part (({ s with cores := SMap.mapVals s.cores f } : State).core g) = part (s.core g) := by
  suffices hget : ∀ l : SMap Core, part (SMap.get (SMap.mapVals l f) Core.reset g) = part (SMap.get l Core.reset g) from hget s.cores
  intro l
  induction l with
  | nil => rfl
  | cons p r ih =>
    simp only [SMap.mapVals, List.map_cons, SMap.get] at ih ⊢
    split_ifs
    · exact hf _ _
    · exact ih

/-- A fold of operations that each keep a part of the state keeps it. -/
theorem foldl_part_eq {α β : Type} {part : State → β} {f : State → α → State} (hf : ∀ s a, part (f s a) = part s) (l : List α)
    (s : State) : part (l.foldl f s) = part s := by
  induction l generalizing s with
  | nil => rfl
  | cons a r ih => exact (ih (f s a)).trans (hf s a)

theorem State.updCore_updCore (s : State) (g : Nat) (f f' : Core → Core) : (s.updCore g f).updCore g f' = s.updCore g fun c => f' (f c) := by
  rw [State.updCore, State.core_updCore_same]
  simp only [State.updCore, State.setCore, SMap.set_set]

/-- An update keeps, of every core, a part that it keeps of its own. -/
theorem State.core_updCore_part {β : Type} {part : Core → β} {f : Core → Core} (hf : ∀ c, part (f c) = part c) (s : State) (h g : Nat) :
    part ((s.updCore h f).core g) = part (s.core g) := by
  by_cases hg : g = h
  · rw [hg, State.core_updCore_same, hf]
  · rw [State.core_updCore_other s f hg]

end Machine
end Sys2Proof
end

section
/-! SPAWN and CANCEL (R210 to R212, R217, R276 to R278). -/

namespace Sys2Proof.Machine

variable {s : State} {t : Strand} {d a : Reg} {e : SpawnTo} {mask : BitVec 4} {force : Bool}

/-- The entry of a launch's strands: a register, or a label's distance in bundles. -/
theorem spawnEntry_eq (s : State) (e : SpawnTo) :
    spawnEntry s e = match e with | .reg b => s.me.x b | .label o => s.me.arch.pc + 8 * o.signExtend 64 := by
  cases e with
  | reg b => rfl
  | label o => exact s.target_toInt o

/-- The template that a SPAWN of strand t makes (R212). -/
def State.spawnRec (s : State) (t : Strand) (w pc : Word) (lmask : BitVec 4) : Rec :=
  { pc := pc, me := false, pl := t.r.pl, launch := 0, index := 0, afq := 0, afv := false, age := 0, cx := false, spl := false,
    kind := 4, pr := false, lmask := lmask, pri := if bitAt w 39 then fld w 38 32 else t.pri, spix := 0,
    xs := [0, s.me.x 2, s.me.x 3, s.me.x 4, s.me.x 5], bad := false }

section
variable (hstrand : s.me.strand = some t)
include hstrand

theorem exec_spawn_trap {o : Step} (htrap : s.spawnTrap (s.me.x a) t e = some o) : exec (.spawn d a e mask) s = o := by
  change execSpawn d a e mask s = o
  simp only [execSpawn, hstrand, htrap]

/-- A launch word with reserved bits, or of too many strands (R211). -/
theorem exec_spawn_engine (hw : fld (s.me.x a) 63 40 ≠ 0 ∨ fld (s.me.x a) 31 25 ≠ 0 ∨ 2 ^ 24 < fld (s.me.x a) 24 0) :
    exec (.spawn d a e mask) s = .next (s.trap 0x17 (s.me.x a)) := exec_spawn_trap hstrand (if_pos hw)

theorem exec_spawn_launch {lmask : BitVec 4} (hmask : lmask = if mask = 0 then t.r.lmask else mask) (htrap : s.spawnTrap (s.me.x a) t e = none)
    (hstores : s.storesDone s.cur .pkg = true) (hpool : s.slotsUsed t.ctx + 1 + (launchPlaces lmask).length ≤ 2 ^ 20) {id : Nat} {u : State}
    (hnew : s.newLaunch t.ctx ((s.ctx t.ctx).spawnGraph t s.me.arch.arming) (s.spawnRec t (s.me.x a) (spawnEntry s e) lmask)
      (fld (s.me.x a) 24 0) = some (id, u)) :
    exec (.spawn d a e mask) s = .next ((u.updArch fun x => { x with arming := 0 }).pushXI d (handleWord 1 t.ctx id)) := by
  subst hmask
  change execSpawn d a e mask s = _
  simp only [execSpawn, hstrand, htrap, hstores, Bool.not_true, Bool.false_eq_true, if_false]
  rw [if_neg (show ¬ poolSlots < _ from Nat.not_lt.mpr hpool)]
  split
  · next h => cases hnew.symm.trans h
  · next h =>
    cases hnew.symm.trans h
    rfl

theorem exec_cancel_named {id : Nat} (h : (s.ctx t.ctx).named t.ctx (s.me.x a) = some id) :
    exec (.cancel a force) s = .next (s.cancelObj t.ctx id force (s.me.x a)) := by
  change execCancel a force s = _
  simp only [execCancel, hstrand, h]

theorem exec_cancel_unnamed (h : (s.ctx t.ctx).named t.ctx (s.me.x a) = none) : exec (.cancel a force) s = .next (s.trap 0x06 (s.me.x a)) := by
  change execCancel a force s = _
  simp only [execCancel, hstrand, h]
  rfl

end

/-- Settles O43: SPAWN makes its launch or traps for its launch word, and CANCEL marks the object that its handle names. -/
theorem spawnAndCancel : Obligations.SpawnAndCancel := by
  intro s u t d a e mask force id hstrand w lmask entry r
  refine ⟨fun htrap hstores hpool hnew => ?_, exec_spawn_engine hstrand, exec_cancel_named hstrand, exec_cancel_unnamed hstrand⟩
  exact exec_spawn_launch hstrand rfl htrap hstores hpool ((spawnEntry_eq s e).symm ▸ hnew)

end Sys2Proof.Machine
end

section
/-! RECV and RECV.acc (R208, R224 to R227): what a pop leaves of the core and of its receive queue, and the ends of a wait. -/

namespace Sys2Proof.Machine

/-! ## What enters a receive queue leaves what stands there -/

/-- From s to t no packet has left a receive queue. -/
structure KeepsRq (s t : State) : Prop where
  queue : ∀ g, (s.core g).rq ⊆ (t.core g).rq

theorem keepsRq_of_cores {s t : State} (h : t.cores = s.cores) : KeepsRq s t :=
  ⟨fun g => by simp only [State.core, h]; exact List.Subset.refl _⟩

theorem KeepsRq.trans {s t u : State} (h : KeepsRq s t) (h' : KeepsRq t u) : KeepsRq s u :=
  ⟨fun g => List.Subset.trans (h.queue g) (h'.queue g)⟩

theorem keepsRq_foldl {α : Type} {f : State → α → State} (hf : ∀ s a, KeepsRq s (f s a)) (l : List α) (s : State) :
    KeepsRq s (l.foldl f s) := by
  induction l generalizing s with
  | nil => exact keepsRq_of_cores rfl
  | cons a r ih => exact (hf s a).trans (ih (f s a))

theorem keepsRq_updCore (s : State) (g : Nat) {f : Core → Core} (hf : ∀ c, c.rq ⊆ (f c).rq) : KeepsRq s (s.updCore g f) := by
  refine ⟨fun k => ?_⟩
  by_cases hk : k = g
  · rw [hk, State.core_updCore_same]
    exact hf _
  · rw [State.core_updCore_other s f hk]
    exact List.Subset.refl _

theorem subset_insertRq (l : List RqPacket) (e : RqPacket) : l ⊆ insertRq l e := by
  intro x hx
  simp only [insertRq, List.mem_append, List.mem_cons, List.mem_filter]
  by_cases hlater : (decide (x.born = e.born) && decide (e.rank < x.rank)) = true
  · exact .inr (.inr ⟨hx, hlater⟩)
  · exact .inl ⟨hx, by rw [Bool.eq_false_of_not_eq_true hlater]; rfl⟩

theorem keepsRq_claim (s : State) (n : Nat) (d : Dest) (p : Packet) (present counted : Bool) (rank : Nat) :
    KeepsRq s (s.claim n d p present counted rank) := by
  unfold State.claim
  cases d with
  | core g =>
    refine keepsRq_updCore s g ?_
    exact fun c => subset_insertRq c.rq _
  | mbox c m => exact keepsRq_of_cores rfl

theorem keepsRq_drainCore {s t : State} {g n : Nat} (h : s.drainCore g n = some t) : KeepsRq s t := by
  unfold State.drainCore at h
  split at h
  · cases h
  · rename_i e r hq
    have hpop : KeepsRq s (s.updCtx n fun c => { c with spillQ := SMap.set c.spillQ g r }) := keepsRq_of_cores rfl
    dsimp only at h
    split at h
    · split_ifs at h
      cases h
      exact hpop.trans (keepsRq_claim ..)
    · split_ifs at h
      cases h
      exact hpop.trans (keepsRq_updCore _ g fun _ => List.Subset.refl _)
    · cases h
      exact hpop

theorem keepsRq_drainAll (f : Nat) (s : State) (g n : Nat) : KeepsRq s (State.drainAll f s g n) := by
  induction f generalizing s with
  | zero => exact keepsRq_of_cores rfl
  | succ f ih =>
    unfold State.drainAll
    cases hd : s.drainCore g n with
    | none => exact keepsRq_of_cores rfl
    | some t => exact (keepsRq_drainCore hd).trans (ih t)

theorem keepsRq_postDone (s : State) (p : Post) : KeepsRq s (s.postDone p) := by
  unfold State.postDone
  split
  · split_ifs
    · exact keepsRq_updCore s _ fun _ => List.Subset.refl _
    · exact keepsRq_of_cores rfl
  · exact keepsRq_of_cores rfl

theorem State.pushSpill_cores (s : State) (n : Nat) (d : Dest) (e : SpillEntry) : (s.pushSpill n d e).cores = s.cores := by
  cases d <;> rfl

theorem keepsRq_deliver {s t : State} {p : Post} (h : s.deliver p = some t) : KeepsRq s t := by
  unfold State.deliver at h
  extract_lets away k room at h
  split_ifs at h with hsealed hcross hroom hlate
  · cases h
    exact keepsRq_postDone s p
  · split at h
    · cases h
      exact keepsRq_claim ..
    · cases h
      exact keepsRq_updCore s _ fun _ => List.Subset.refl _
    · cases h
      exact keepsRq_of_cores rfl
  · obtain ⟨res, -, rfl⟩ := Option.map_eq_some_iff.mp h
    exact (keepsRq_of_cores (State.pushSpill_cores ..)).trans (keepsRq_postDone _ p)

theorem keepsRq_servePosts (s : State) (f : Post → Bool) : KeepsRq s (s.servePosts f) := by
  unfold State.servePosts
  refine (keepsRq_of_cores rfl : KeepsRq s { s with posts := s.posts.filter fun p => !f p }).trans (keepsRq_foldl (fun t p => ?_) _ _)
  cases hdel : t.deliver p with
  | some u => exact keepsRq_deliver hdel
  | none => exact keepsRq_of_cores rfl

theorem keepsRq_offer (s : State) (g : Nat) : KeepsRq s (s.offer g) := by
  unfold State.offer
  refine KeepsRq.trans ?_ (keepsRq_servePosts _ _)
  cases (s.core g).strand with
  | none => exact keepsRq_of_cores rfl
  | some t =>
    dsimp only
    split_ifs
    · exact keepsRq_of_cores rfl
    · exact keepsRq_drainAll _ s g t.ctx

/-! ## A pop of the receive queue (R298, R305) -/

theorem chPop_rq_cur (s : State) : (s.chPop .rq).cur = s.cur := (offer_quiet _ _).1.cur

theorem chPop_rq_arch (s : State) : (s.chPop .rq).me.arch = s.me.arch := by
  have hpop := (offer_quiet (s.updMe fun c => { c with rq := c.rq.drop 1 }) s.cur).1.arch s.cur
  rw [State.me, chPop_rq_cur]
  exact hpop.trans (by rw [State.core_updMe_same])

theorem chPop_rq_keeps (s : State) : s.me.rq.drop 1 ⊆ (s.chPop .rq).me.rq := by
  have hpop := (keepsRq_offer (s.updMe fun c => { c with rq := c.rq.drop 1 }) s.cur).queue s.cur
  rw [State.core_updMe_same] at hpop
  rw [State.me.eq_1 (s.chPop .rq), chPop_rq_cur]
  exact hpop

/-! ## RECV -/

section
variable {s u : State} {d a : Reg} {q : QReg}

section
variable {ch : RecvCh} (hbound : s.me.bound d.toNat = false) (hvlds : s.fixVlds s.cur = some u)
include hbound hvlds

theorem exec_recv_takes {p : Packet} (hlimit : u.recvExpired (u.chFirst ch) (u.me.x a) = false) (hhead : u.chHead ch = some p)
    (hacq : p.host = true → u.acquireWait u.cur .sys [] = false) :
    exec (.recv d a q ch) s = .next (((u.chPop ch).updArch fun x => x.wv d.toNat p.toV).pushQI q (!p.tok)) := by
  have hgo : (p.host && u.acquireWait u.cur .sys []) = false := by
    cases hp : p.host with
    | false => rfl
    | true => exact hacq hp
  change execRecv d a q ch s = _
  simp only [execRecv, hbound, State.afterVlds, hvlds, hlimit, hhead, hgo, Bool.false_eq_true, if_false]

theorem exec_recv_expired (hlimit : u.recvExpired (u.chFirst ch) (u.me.x a) = true) (hch : ch = .rq ∨ u.me.arch.tm = true) :
    exec (.recv d a q ch) s = .next (u.pushQI q false) := by
  change execRecv d a q ch s = _
  simp only [execRecv, hbound, State.afterVlds, hvlds, hlimit, Bool.not_true, Bool.false_eq_true, if_false, if_true]
  cases ch with
  | rq => rfl
  | mb m => exact if_pos (hch.resolve_left (by simp))

end

/-! ## RECV.acc -/

section
variable {t : VType}

theorem accumulatePackets_zero (d : Nat) (limit : Word) (f : Nat) (hrcnt : u.me.arch.rcnt = 0) : State.accumulatePackets t d limit f u = u := by
  cases f with
  | zero => rfl
  | succ f => exact if_pos (.inl hrcnt)

/-- The packet at the head is added to v[d] (R226). -/
def State.accumulated (s : State) (t : VType) (d : Nat) (p : Packet) : State :=
  (s.chPop .rq).updArch fun a =>
    { a.wv d (addPacket t (s.me.arch.rv d) p).1 with
      rcnt := a.rcnt - 1, fpst := a.fpst ||| (addPacket t (s.me.arch.rv d) p).2, wait := { a.wait with since := none } }

theorem accumulatePackets_head {d : Nat} {limit : Word} {f : Nat} {p : Packet} (hrcnt : u.me.arch.rcnt ≠ 0)
    (hlimit : u.recvExpired (u.chFirst .rq) limit = false) (hhead : u.chHead .rq = some p) (htok : p.tok = false) :
    State.accumulatePackets t d limit (f + 1) u = State.accumulatePackets t d limit f (u.accumulated t d p) := by
  simp only [State.accumulatePackets, hrcnt, hlimit, hhead, htok, Bool.false_eq_true, or_self, if_false]
  rfl

theorem accumulated_arch (d : Nat) (p : Packet) : (u.accumulated t d p).me.arch =
    { u.me.arch.wv d (addPacket t (u.me.arch.rv d) p).1 with
      rcnt := u.me.arch.rcnt - 1, fpst := u.me.arch.fpst ||| (addPacket t (u.me.arch.rv d) p).2,
      wait := { u.me.arch.wait with since := none } } := by
  rw [State.accumulated, State.updArch, State.me_updMe, Core.updArch_arch, chPop_rq_arch]

theorem accumulated_rq (d : Nat) (p : Packet) : (u.accumulated t d p).me.rq = (u.chPop .rq).me.rq := by
  rw [State.accumulated, State.updArch, State.me_updMe]
  rfl

variable (hbound : s.me.bound d.toNat = false) (hvlds : s.fixVlds s.cur = some u)
include hbound hvlds

theorem exec_recvAcc_counted (hdone : (State.accumulatePackets t d.toNat (u.me.x a) rqDepth u).me.arch.rcnt = 0) :
    exec (.recvAcc d a q t) s = .next ((State.accumulatePackets t d.toNat (u.me.x a) rqDepth u).pushQI q true) := by
  change execRecvAcc d a q t s = _
  simp only [execRecvAcc, hbound, State.afterVlds, hvlds, hdone, Bool.false_eq_true, if_false, if_true]

theorem exec_recvAcc_zero (hrcnt : u.me.arch.rcnt = 0) : exec (.recvAcc d a q t) s = .next (u.pushQI q true) := by
  have hstay := accumulatePackets_zero (t := t) d.toNat (u.me.x a) rqDepth hrcnt
  have hend := exec_recvAcc_counted (q := q) (a := a) (t := t) hbound hvlds (by rw [hstay, hrcnt])
  rwa [hstay] at hend

theorem exec_recvAcc_last {p : Packet} (hrcnt : u.me.arch.rcnt = 1) (hlimit : u.recvExpired (u.chFirst .rq) (u.me.x a) = false)
    (hhead : u.chHead .rq = some p) (htok : p.tok = false) :
    exec (.recvAcc d a q t) s = .next ((u.accumulated t d.toNat p).pushQI q true) := by
  have hzero : (u.accumulated t d.toNat p).me.arch.rcnt = 0 := by
    rw [accumulated_arch, hrcnt]
    rfl
  have hone : State.accumulatePackets t d.toNat (u.me.x a) rqDepth u = u.accumulated t d.toNat p := by
    rw [rqDepth, accumulatePackets_head (by rw [hrcnt]; decide) hlimit hhead htok]
    exact accumulatePackets_zero _ _ _ hzero
  have hend := exec_recvAcc_counted (q := q) (a := a) (t := t) hbound hvlds (by rw [hone, hzero])
  rwa [hone] at hend

end
end

/-! ## RECV_TIMEOUT -/

theorem Core.heldC_of_decode {c : Core} {b : Bundle} (h : decodeBundle c.bundle = .ok b) : c.heldC = some b.c := by
  simp only [Core.heldC, h]

/-- The wait of the bundle on core g has ended (R224, R301). -/
def State.waitExpired (s : State) (g : Nat) : State :=
  s.updCore g fun c => c.updArch fun a => { a with wait := { a.wait with expired := true } }

theorem waitExpired_expired (s : State) (g : Nat) : ((s.waitExpired g).core g).arch.wait.expired = true := by
  rw [State.waitExpired, State.core_updCore_same]
  rfl

theorem exec_recvTimeout_empty {s : State} {g n : Nat} {d a : Reg} {q : QReg} {ch : RecvCh} (hheld : (s.core g).flow = .held cMSG)
    (hc : (s.core g).heldC = some (.recv d a q ch)) (hsince : (s.core g).arch.wait.since = some n)
    (hbounded : (s.core g).x a ≠ 0xFFFFFFFFFFFFFFFF#64)
    (hlimit : (s.core g).now + (((s.core g).x a).toNat + n) * s.periodOf g ≤ s.clock + (s.core g).cycle * s.periodOf g)
    (hempty : ({ s with cur := g } : State).chFirst ch = none) : exec (.recvTimeout g) s = .next (s.waitExpired g) := by
  have hpast : (s.core g).now + (((s.core g).x a).toNat + n) * s.periodOf g - (s.core g).cycle * s.periodOf g ≤ s.clock := by omega
  change execRecvTimeout g s = _
  simp only [execRecvTimeout, Core.heldBy, hheld, hc, hsince, State.recvLimit, hbounded, hempty, if_false, Option.getD_some, Option.isSome_some,
    hpast, decide_true, Bool.and_self, if_true]
  rfl

/-- Settles O37: RECV takes the head of its channel or ends at its limit, RECV.acc adds the last packet that it counts, and RECV_TIMEOUT
ends a wait whose channel is empty. -/
theorem receivesTake : Obligations.ReceivesTake := by
  refine ⟨fun s u d a q ch p hbound hvlds => ⟨exec_recv_takes hbound hvlds, exec_recv_expired hbound hvlds⟩,
    fun s u d a q t hbound hvlds => ⟨exec_recvAcc_zero hbound hvlds, fun p hrcnt hlimit hhead htok => ?last⟩, ?timeout⟩
  case last =>
    refine ⟨_, exec_recvAcc_last hbound hvlds hrcnt hlimit hhead htok, ?_⟩
    rw [accumulated_arch, accumulated_rq, hrcnt]
    exact ⟨Arch.rv_wv_same _ _ _, rfl, fun x hx => chPop_rq_keeps u hx, rfl⟩
  case timeout =>
    intro s g b d a q ch n hdec hb hheld hsince hbounded hlimit hempty
    have hc : (s.core g).heldC = some (.recv d a q ch) := hb ▸ Core.heldC_of_decode hdec
    exact ⟨_, exec_recvTimeout_empty hheld hc hsince hbounded hlimit hempty, waitExpired_expired s g, rfl⟩

end Sys2Proof.Machine
end

section
/-! SEND (R208, R220 to R222, R297, R301, R304, R433): a claim of room, a diversion, and the events that end a wait. -/

namespace Sys2Proof.Machine

/-! ## What the notes of a waiting bundle leave -/

section
variable (s : State) (f : WaitSt → WaitSt)

/-- A part of a core outside its waiting bundle's notes. -/
theorem core_updWait_part {β : Type} {part : Core → β} (hpart : ∀ c, part { c with arch := { c.arch with wait := f c.arch.wait } } = part c)
    (g : Nat) : part ((s.updWait f).core g) = part (s.core g) := State.core_updCore_part hpart s s.cur g

theorem updWait_updWait (f' : WaitSt → WaitSt) : (s.updWait f).updWait f' = s.updWait fun w => f' (f w) := by
  unfold State.updWait State.updArch State.updMe
  exact State.updCore_updCore s s.cur _ _

@[simp] theorem updWait_clock : (s.updWait f).clock = s.clock := rfl

@[simp] theorem updWait_resident (g n : Nat) : (s.updWait f).resident g n = s.resident g n := by
  simp only [State.resident, core_updWait_part s f (part := Core.strand) fun _ => rfl]

@[simp] theorem updWait_hasRoom (d : Dest) (k : Nat) : (s.updWait f).hasRoom d k = s.hasRoom d k := by
  cases d with
  | core g => simp only [State.hasRoom, core_updWait_part s f (part := Core.rq) fun _ => rfl]
  | mbox c m => rfl

@[simp] theorem updWait_spillOf (n : Nat) (d : Dest) : (s.updWait f).spillOf n d = s.spillOf n d := by
  cases d with
  | core g => simp only [State.spillOf, updWait_resident]; rfl
  | mbox c m => rfl

@[simp] theorem updWait_mustDivert (n g : Nat) (d : Dest) : (s.updWait f).mustDivert n g d = s.mustDivert n g d := by
  cases d <;> simp only [State.mustDivert, State.behindSpill, updWait_spillOf, updWait_resident]

@[simp] theorem updWait_behindPost (g : Nat) (d : Dest) : (s.updWait f).behindPost g d = s.behindPost g d := rfl

@[simp] theorem updWait_scheduled : (s.updWait f).scheduled = s.scheduled :=
  core_updWait_part s f (part := fun c => c.stepClock.isSome && !c.arch.windows.isEmpty) (fun _ => rfl) s.cur

@[simp] theorem updWait_sb : (s.updWait f).me.sb = s.me.sb := core_updWait_part s f (part := Core.sb) (fun _ => rfl) s.cur

@[simp] theorem updWait_vmemDone : (s.updWait f).me.vmemDone = s.me.vmemDone := core_updWait_part s f (part := Core.vmemDone) (fun _ => rfl) s.cur

end

/-! ## The instruction -/

section
variable {s t : State} {d a : Reg} {n : BitVec 3}

theorem exec_send_nowhere (hdest : destOf s.me.ctxNum (s.me.x d) = none) : exec (.send d a n) s = .next (s.trap 0x06 (s.me.x d)) := by
  change execSend d a n s = _
  simp only [execSend, hdest]
  rfl

variable {dst : Dest} (hdest : destOf s.me.ctxNum (s.me.x d) = some dst)
include hdest

theorem exec_send_sealed (hsealed : s.isSealed s.me.ctxNum dst = true) : exec (.send d a n) s = .next (s.trap 0x0C (s.me.x d)) := by
  have htrap : s.sendTrap (s.me.x d) dst = some (cSEALED, s.me.x d) := if_pos hsealed
  change execSend d a n s = _
  simp only [execSend, hdest, htrap]
  rfl

variable {v : BitVec 4096} (htrap : s.sendTrap (s.me.x d) dst = none) (hsb : s.me.sb = []) (hvmem : s.me.vmemDone = true)
  (hbehind : s.behindPost s.cur dst = false) (htake : s.takeV a.toNat = (t, .ok v))
include htrap hsb hvmem hbehind htake

/-- The packet claims its entries at the receiver (R297, R433). -/
theorem exec_send_claims (haway : s.mustDivert s.me.ctxNum s.cur dst = false)
    (hroom : s.hasRoom dst (packetOf s.cur (n.toNat + 1) v).size = true) : exec (.send d a n) s =
      .next ((t.claim s.me.ctxNum dst (packetOf s.cur (n.toNat + 1) v) false true
        (if s.scheduled = true then 2 + s.cur else 2 + 2720 + s.cur)).updMe fun c => { c with outstanding := c.outstanding + 1 }) := by
  change execSend d a n s = _
  simp only [execSend, hdest, htrap, htake, updWait_sb, hsb, updWait_vmemDone, hvmem, updWait_behindPost, hbehind, updWait_mustDivert, haway,
    updWait_hasRoom, hroom, updWait_scheduled, List.isEmpty_nil, Bool.not_true, Bool.not_false, Bool.or_self, Bool.and_self, Bool.false_eq_true,
    if_false, if_true]
  rfl

/-- The packet joins its receiver's spill queue (R221, R301, R304). -/
theorem exec_send_diverts {r : Bool} {z : State} (hz : z = s.updWait fun y => { y with checked := true, since := y.since <|> some s.clock })
    (haway : s.mustDivert s.me.ctxNum s.cur dst = true
      ∨ (s.hasRoom dst (packetOf s.cur (n.toNat + 1) v).size = false ∧ (s.scheduled = true ∨ z.sendExpired s.cur = true)))
    (hcross : s.crossWaits (dieOf s.cur) (s.destDie dst) = false)
    (hcells : z.cellsNow s.me.ctxNum s.cur (packetOf s.cur (n.toNat + 1) v).size = some r) :
    exec (.send d a n) s = .next (t.divert s.me.ctxNum s.cur dst (packetOf s.cur (n.toNat + 1) v) r) := by
  have hnoted : ((s.updWait fun w => { w with checked := true }).updWait fun w => { w with since := w.since <|> some s.clock }) = z :=
    (updWait_updWait s _ _).trans hz.symm
  have hfull : (!s.mustDivert s.me.ctxNum s.cur dst && s.hasRoom dst (packetOf s.cur (n.toNat + 1) v).size) = false := by
    obtain haway | ⟨hroom, -⟩ := haway
    · rw [haway]; rfl
    · rw [hroom, Bool.and_false]
  have hcarries : z.crossWaits (dieOf s.cur) (z.destDie dst) = false := by rw [hz]; exact hcross
  have hgo : (z.mustDivert s.me.ctxNum s.cur dst || z.scheduled || z.sendExpired s.cur) = true := by
    have hmust : z.mustDivert s.me.ctxNum s.cur dst = s.mustDivert s.me.ctxNum s.cur dst := by rw [hz, updWait_mustDivert]
    have hscheduled : z.scheduled = s.scheduled := by rw [hz, updWait_scheduled]
    rw [hmust, hscheduled]
    obtain haway | ⟨-, hsched | hlate⟩ := haway
    · simp [haway]
    · simp [hsched]
    · simp [hlate]
  change execSend d a n s = _
  simp only [execSend, hdest, htrap, htake, updWait_sb, hsb, updWait_vmemDone, hvmem, updWait_behindPost, hbehind, updWait_mustDivert,
    updWait_hasRoom, updWait_clock, hnoted, hfull, hcarries, hgo, hcells, List.isEmpty_nil, Bool.not_true, Bool.not_false, Bool.or_self,
    Bool.true_and, Bool.false_eq_true, if_false, if_true]

end

/-! ## The events of a waiting SEND -/

section
variable {s u : State} {g : Nat} {d a : Reg} {n : BitVec 3} (hu : u = s.servePosts fun x => decide (x.holder = g))
  (hc : (u.core g).heldC = some (.send d a n)) (hheld : (u.core g).flow = .held cMSG)
include hu hc hheld

theorem exec_spilltoExpiry_late (hsince : (u.core g).arch.wait.since.isSome = true) (hlate : u.sendExpired g = true) :
    exec (.spilltoExpiry g) s = .next (u.waitExpired g) := by
  change execSpilltoExpiry g s = _
  simp only [execSpilltoExpiry, ← hu, hc, Core.heldBy, hheld, hsince, hlate, decide_true, Bool.and_self, if_true]
  rfl

theorem exec_diversionCellGrant_gives {dst : Dest} {r : Bool} (hdest : destOf (u.core g).ctxNum ((u.core g).x d) = some dst)
    (haway : u.mustDivert (u.core g).ctxNum g dst = true ∨ u.sendExpired g = true) (hnone : (u.core g).arch.wait.cells = none)
    (hcells : u.cellsFor (u.core g).ctxNum g (n.toNat + 1) false = some r) : exec (.diversionCellGrant g) s =
      .next (u.updCore g fun c => c.updArch fun a => { a with wait := { a.wait with cells := some (n.toNat + 1, r) } }) := by
  have hwants : u.diversionWants g = some (n.toNat + 1) := by
    have hgo : (u.mustDivert (u.core g).ctxNum g dst || u.sendExpired g) = true := Bool.or_eq_true_iff.mpr haway
    simp only [State.diversionWants, Core.heldBy, hheld, hc, hdest, hgo, decide_true, Bool.not_true, Bool.false_eq_true, if_false, if_true]
  change execDiversionCellGrant g s = _
  simp only [execDiversionCellGrant, ← hu, hwants, hnone, hcells, Option.isSome_none, Bool.false_eq_true, if_false]

end

/-- Settles O36: SEND traps, claims its receiver's room or is diverted, and the two events act on the wait of a SEND that is held. -/
theorem sendDelivers : Obligations.SendDelivers := by
  refine ⟨fun s d a n => ⟨exec_send_nowhere, fun dst hdest => ⟨exec_send_sealed hdest, ?send⟩⟩, ?events⟩
  case send =>
    intro htrap hsb hvmem hbehind t v htake
    exact ⟨exec_send_claims hdest htrap hsb hvmem hbehind htake,
      fun haway hcross r hcells => exec_send_diverts hdest htrap hsb hvmem hbehind htake rfl haway hcross hcells⟩
  case events =>
    intro s g b d a n u hdec hb hheld
    have hc : (u.core g).heldC = some (.send d a n) := hb ▸ Core.heldC_of_decode hdec
    refine ⟨fun hsince hlate => ?late, fun dst r hdest haway hnone hcells => ?grant⟩
    case late =>
      exact ⟨_, exec_spilltoExpiry_late rfl hc hheld hsince hlate, waitExpired_expired u g, State.servePosts_mem s _⟩
    case grant =>
      refine ⟨_, exec_diversionCellGrant_gives rfl hc hheld hdest haway hnone hcells, ?_⟩
      rw [State.core_updCore_same]
      rfl

end Sys2Proof.Machine
end

section
/-! Pairs (R229, R246, R322 to R326): the claim, the end of a pair, and what an exchange of fingerprints does. -/

namespace Sys2Proof.Machine

/-! ## What cores keep while cycles are charged, and through the operations on a pair -/

section
variable {G : Set Nat} {s t : State} (h : Books G s t)
include h

theorem Books.pair (g : Nat) : (t.core g).pair = (s.core g).pair := (congrArg Core.pair (h.core g) :)
theorem Books.sb (g : Nat) : (t.core g).sb = (s.core g).sb := (congrArg Core.sb (h.core g) :)
theorem Books.wait (g : Nat) : (t.core g).arch.wait = (s.core g).arch.wait := (congrArg (·.arch.wait) (h.core g) :)

end

theorem core_alike_even (s : State) (e : Nat) : (s.alike e).core e = s.core e := State.core_updCore_other s _ (Nat.ne_add_one e)

theorem core_alike_pair (s : State) (e g : Nat) : ((s.alike e).core g).pair = (s.core g).pair := by
  unfold State.alike
  refine State.core_updCore_part (part := Core.pair) ?_ s _ g
  exact fun _ => rfl

/-- STATUS.PR as the bit that is written. -/
theorem pr_setBit (st : Word) (b : Bool) : bitAt (setBit st 18 b) 18 = b := by
  rw [bitAt_setBit st (by decide), if_pos rfl]

theorem pr_setStatus (a : Arch) (b : Bool) : (a.setStatus fun st => setBit st 18 b).pr = b := pr_setBit a.status b

/-- An even core is the even core of its pair. -/
theorem evenCore_eq {e : Nat} (he : e % 2 = 0) : e / 2 * 2 = e := Nat.div_mul_cancel (Nat.dvd_of_mod_eq_zero he)

/-- A pair ends: its even core keeps its registers, and both cores are single (R229). -/
theorem separate_singles {s : State} {e : Nat} (he : e % 2 = 0) : ((s.separate e).core e).arch = (s.core e).arch
    ∧ ((s.separate e).core e).pair.st = .single ∧ ((s.separate e).core (e + 1)).pair.st = .single := by
  have hodd : e ≠ e + 1 := Nat.ne_add_one e
  have hquiet := ((quiet_refl ((s.zeroJournal e).alike e)).endRuns (e + 1)).flushAcct (e + 1)
  have harch := (hquiet.arch e).trans (congrArg Core.arch (core_alike_even (s.zeroJournal e) e))
  unfold State.separate
  rw [evenCore_eq he]
  dsimp only
  rw [State.core_updCore_same, State.core_updCore_other _ _ hodd, State.core_updCore_same]
  exact ⟨harch, rfl, rfl⟩

/-! ## PAIR.on and PAIR.off -/

section
variable {s : State}

theorem exec_pairOn_paired (h : s.dual s.cur = true) : exec .pairOn s = .next s := if_pos h

theorem exec_pairOn_noRoom (h : s.dual s.cur = false) (hroom : (s.journalFits s.cur).2 = false) :
    exec .pairOn s = .next (s.trap 0x06 (BitVec.ofNat 64 ((s.quad (quadOf s.cur)).spad * 4096))) := by
  change execPairOn s = _
  simp only [execPairOn, h, hroom, Bool.not_false, Bool.false_eq_true, if_false, if_true]
  rfl

theorem exec_pairOn_claims (h : s.dual s.cur = false) (hroom : (s.journalFits s.cur).2 = true) (hnew : s.me.pair.st ≠ .claiming) :
    exec .pairOn s = (s.claimPair s.cur).hold cPAIR := by
  change execPairOn s = _
  simp only [execPairOn, h, hroom, hnew, Bool.not_true, Bool.false_eq_true, if_false]

/-- The strand at work runs unpaired from its next bundle on. -/
def State.unpaired (s : State) : State :=
  s.updMe fun c =>
    { c with arch := c.arch.setStatus fun st => setBit st 18 false, strand := c.strand.map fun t => { t with r := { t.r with pr := false } } }

theorem exec_pairOff_paired (h : s.dual s.cur = true) : exec .pairOff s = .next (s.unpaired.separate s.cur) := by
  change execPairOff s = _
  simp only [execPairOff, h, Bool.not_true, Bool.false_eq_true, if_false]
  rfl

theorem pairOff_ends (h : s.dual s.cur = true) : ∃ t : State, exec .pairOff s = .next t ∧ (t.core s.cur).arch.pr = false
    ∧ (t.core s.cur).pair.st = .single ∧ (t.core (s.cur + 1)).pair.st = .single := by
  have heven : s.cur % 2 = 0 := of_decide_eq_true (Bool.and_eq_true_iff.mp h).1
  obtain ⟨harch, hpair, hodd⟩ := separate_singles (s := s.unpaired) heven
  have hunpaired : (s.unpaired.core s.cur).arch = s.me.arch.setStatus fun st => setBit st 18 false :=
    congrArg Core.arch (State.core_updMe_same s _)
  exact ⟨_, exec_pairOff_paired h, by rw [harch, hunpaired, pr_setStatus], hpair, hodd⟩

end

/-! ## The claim -/

section
variable {s : State} {e : Nat}

/-- A strand on the even core runs on both cores from now on (R229). -/
theorem pairUp_pairs : ((s.pairUp e).core e).arch.pr = true ∧ ((s.pairUp e).core e).pair.st = .paired
    ∧ ((s.pairUp e).core (e + 1)).pair.st = .paired := by
  have hodd : e ≠ e + 1 := Nat.ne_add_one e
  unfold State.pairUp
  dsimp only
  rw [core_alike_even, core_alike_pair, State.core_updCore_same, State.core_updCore_other _ _ hodd, State.core_updCore_same]
  exact ⟨pr_setBit _ true, rfl, rfl⟩

/-- The pair that a claim makes keeps no checkpoint until PAIR.on retires. -/
theorem pairClaim_pairs : ((((s.pairUp e).updCore e fun c => { c with pair := { c.pair with ckpt := none } }).offer e).core e).arch.pr = true
    ∧ ((((s.pairUp e).updCore e fun c => { c with pair := { c.pair with ckpt := none } }).offer e).core e).pair.st = .paired
    ∧ ((((s.pairUp e).updCore e fun c => { c with pair := { c.pair with ckpt := none } }).offer e).core (e + 1)).pair.st = .paired := by
  obtain ⟨hpr, heven, hodd⟩ := pairUp_pairs (s := s) (e := e)
  obtain ⟨hoffer, -⟩ := offer_quiet ((s.pairUp e).updCore e fun c => { c with pair := { c.pair with ckpt := none } }) e
  rw [hoffer.arch, hoffer.pair, hoffer.pair, State.core_updCore_same, State.core_updCore_other _ _ (Nat.succ_ne_self e)]
  exact ⟨hpr, heven, hodd⟩

variable (he : e % 2 = 0)
include he

theorem exec_pairClaimComplete_even (hclaim : (s.core e).pair.st = .claiming) (hodd : (s.core e).pair.odd = false)
    (hfree : s.partnerFree (e + 1) = true) (hstrand : (s.core e).strand ≠ none) : exec (.pairClaimComplete e) s =
      .next (((s.pairUp e).updCore e fun c => { c with pair := { c.pair with ckpt := none } }).offer e) := by
  have hpartner : partner e = e + 1 := by simp only [partner, evenCore_eq he, he]
  have hstays : s.moveEven e = s := if_pos he
  change execPairClaimComplete e s = _
  simp only [execPairClaimComplete, evenCore_eq he, hodd, Bool.false_eq_true, if_false, hpartner, hstays]
  exact if_pos ⟨hclaim, hfree, hstrand⟩

end

/-! ## The exchange -/

section
variable {s : State} {e : Nat} {odd : Word} (he : e % 2 = 0) (hst : (s.core e).pair.st = .exchanging) (hdone : (s.core e).intervalDone = true)
include he hst hdone

theorem exec_pairExchange_equal (heq : (s.core e).pair.late.foldl crcWord (s.core e).pair.print = odd) :
    exec (.pairExchange e odd) s = .next ((s.exchangeCycles e).pairAgree e) := by
  change execPairExchange e odd s = _
  simp only [execPairExchange, evenCore_eq he, hst, hdone, heq, ne_eq, not_true_eq_false, Bool.true_eq_false, or_self, if_false, if_true]

theorem exec_pairExchange_different (hne : (s.core e).pair.late.foldl crcWord (s.core e).pair.print ≠ odd) (hfails : (s.core e).pair.fails < 2) :
    exec (.pairExchange e odd) s = .next ((s.exchangeCycles e).pairBack e ((s.core e).pair.fails + 1)) := by
  change execPairExchange e odd s = _
  have hmore : (s.core e).pair.fails + 1 < 3 := by omega
  simp only [execPairExchange, evenCore_eq he, hst, hdone, hne, hmore, ne_eq, not_true_eq_false, Bool.true_eq_false, or_self, if_false, if_true]

end

/-- The cycles of an exchange are charged, and that is all. -/
theorem exchangeCycles_books (s : State) (e : Nat) : Books Set.univ s (s.exchangeCycles e) := (books_refl Set.univ s).pay _ _ _ _

theorem pairAgree_accepts (s : State) (e : Nat) :
    let t := (s.exchangeCycles e).pairAgree e
    (t.core e).sb = (s.core e).sb ++ (s.core e).pair.journal ∧ (t.core e).pair.journal = [] ∧ (t.core e).pair.fails = 0
      ∧ (t.core e).pair.ckpt = some ((s.exchangeCycles e).core e).landEvery.arch ∧ (t.core e).pair.st = .paired := by
  have hbooks := exchangeCycles_books s e
  intro t
  have hcore := State.core_updCore_same (s.exchangeCycles e) e fun c =>
    { c with sb := c.sb ++ c.pair.journal, pair := { Pair.single with st := .paired, ckpt := some c.landEvery.arch, asked := c.pair.asked } }
  change t.core e = _ at hcore
  rw [hcore, ← hbooks.sb, ← hbooks.pair]
  exact ⟨rfl, rfl, rfl, rfl, rfl⟩

theorem pairBack_restores {s : State} {e : Nat} {k : Arch} (hk : (s.core e).pair.ckpt = some k) (fails : Nat) :
    let t := (s.exchangeCycles e).pairBack e fails
    (t.core e).arch = (if (s.core e).pair.solo = true then ((s.exchangeCycles e).core e).landEvery.arch else k)
      ∧ (t.core e).pair.journal = [] ∧ (t.core e).pair.fails = fails ∧ (t.core e).sb = (s.core e).sb := by
  have hbooks := exchangeCycles_books s e
  have hck : ((s.exchangeCycles e).core e).pair.ckpt = some k := (congrArg Pair.ckpt (hbooks.pair e)).trans hk
  rw [← hbooks.sb, ← hbooks.pair]
  dsimp only
  unfold State.pairBack
  rw [core_alike_even, State.core_updCore_same, hck]
  exact ⟨rfl, rfl, rfl, rfl⟩

/-- Settles O44: PAIR.on and PAIR.off case by case, the claim's pair, and the two ends of an exchange. -/
theorem pairsAgree : Obligations.PairsAgree := by
  refine ⟨fun s => exec_pairOn_paired, fun s => exec_pairOn_noRoom, fun s => exec_pairOn_claims, fun s => pairOff_ends, ?claim, ?exchange⟩
  case claim =>
    intro s e he hclaim hodd hfree hstrand
    exact ⟨_, exec_pairClaimComplete_even he hclaim hodd hfree hstrand, pairClaim_pairs⟩
  case exchange =>
    intro s e odd he hst hdone c now
    refine ⟨fun heq => ⟨_, exec_pairExchange_equal he hst hdone heq, pairAgree_accepts s e⟩, fun k hne hfails hk => ?_⟩
    exact ⟨_, exec_pairExchange_different he hst hdone hne hfails, pairBack_restores hk _⟩

end Sys2Proof.Machine
end

section
/-! Barrier domains (R208, R218, R219, R311 to R316, R320): BAR and SSTEP, an arrival, a release and a break. -/

namespace Sys2Proof.Machine

/-! ## Cycles that are charged leave the domains alone -/

/-- The barrier domains of a die. -/
def State.doms (s : State) (d : Nat) : SMap Domain := (s.die d).doms

theorem die_domain_eq {s t : State} {d : Nat} (h : t.doms d = s.doms d) (n : Nat) : (t.die d).domain n = (s.die d).domain n :=
  congrArg (SMap.get · Domain.reset n) h

section
variable (s : State) (d : Nat)

theorem updDie_doms (h : Nat) {f : Die → Die} (hf : ∀ x, (f x).doms = x.doms) : (s.updDie h f).doms d = s.doms d := by
  unfold State.doms
  by_cases hd : d = h
  · rw [hd, State.die_updDie_same, hf]
  · rw [State.die_updDie_other s f hd]

theorem updCore_doms (g : Nat) (f : Core → Core) : (s.updCore g f).doms d = s.doms d := rfl

theorem setPoison_doms (k : Nat) : (s.setPoison k).doms d = s.doms d := rfl

theorem setGen_doms (gen : Gen) : ({ s with gen := gen } : State).doms d = s.doms d := rfl

theorem putBytes_doms (k n v : Nat) : (s.putBytes k n v).doms d = s.doms d := rfl

theorem putCode_doms (b c : Nat) : (s.putCode b c).doms d = s.doms d := rfl

theorem thaw_doms (b : Nat) : (s.thaw b).doms d = s.doms d := by
  unfold State.thaw
  split <;> rfl

/-- An error that is met is counted at its die. -/
theorem fireSector_doms (die : Nat) (direct : Bool) (k : Nat) : (s.fireSector die direct k).1.doms d = s.doms d := by
  unfold State.fireSector
  dsimp only
  split_ifs
  · rfl
  · rfl
  · exact (setPoison_doms _ d k).trans (updDie_doms _ d die fun _ => rfl)
  · exact updDie_doms _ d _ fun _ => rfl

theorem fireKeys_doms (die : Nat) (direct : Bool) (ks : List Nat) : (s.fireKeys die direct ks).1.doms d = s.doms d := by
  unfold State.fireKeys
  generalize (ks.map (· / 32)).eraseDups = l
  generalize false = b
  induction l generalizing s b with
  | nil => rfl
  | cons k l ih => exact (ih _ _).trans (fireSector_doms s d die direct k)

theorem drainBlock_doms (b : Nat) : (s.drainBlock b).doms d = s.doms d := by
  unfold State.drainBlock
  split
  · rfl
  · dsimp only
    rw [thaw_doms]
    rw [setGen_doms, putCode_doms, foldl_part_eq (part := fun s : State => s.doms d) (fun _ _ => setPoison_doms _ _ _), putBytes_doms]
    split_ifs
    · rfl
    · exact fireKeys_doms s d _ _ _

theorem ownWrite_doms (cs : List Host.Cell) (ws : List Nat) : (s.ownWrite cs ws).doms d = s.doms d := by
  refine foldl_part_eq (part := fun s => s.doms d) (fun s b => ?_) _ s
  dsimp only
  split_ifs
  · exact drainBlock_doms s d b
  · rfl

theorem hwWrite_doms (pa n v : Nat) : (s.hwWrite pa n v).doms d = s.doms d := by
  unfold State.hwWrite
  dsimp only
  split_ifs
  · exact ownWrite_doms s d _ _
  · rfl

theorem ringPut_doms (c : Core) (r : Nat) : (s.ringPut c r).doms d = s.doms d := by
  unfold State.ringPut
  rw [hwWrite_doms, hwWrite_doms]

theorem putOverflow_doms (g : Nat) : (s.putOverflow g).doms d = s.doms d := by
  unfold State.putOverflow
  dsimp only
  split_ifs
  · rfl
  · split
    · rfl
    · rw [updCore_doms, ringPut_doms]

theorem endRun_doms (g k : Nat) : (s.endRun g k).doms d = s.doms d := by
  have hover := foldl_part_eq (part := fun s => s.doms d) (f := fun s (_ : Nat) => s.putOverflow g) (fun s _ => putOverflow_doms s d g)
    (List.range 32) s
  unfold State.endRun
  dsimp only
  split
  · rfl
  · rw [updCore_doms]
    split_ifs
    · rfl
    · exact hover
    · exact (ringPut_doms _ d _ _).trans hover

theorem extendRun_doms (f g k x c n : Nat) (pc : Word) : (State.extendRun f s g k x c n pc).doms d = s.doms d := by
  induction f generalizing s n with
  | zero => rfl
  | succ f ih =>
    unfold State.extendRun
    extract_lets run t old m r u
    have ht : t.doms d = s.doms d := by
      unfold t
      cases run with
      | none => rfl
      | some r =>
        dsimp only
        split_ifs
        · rfl
        · exact endRun_doms s d g k
    split_ifs
    · exact ht
    · exact (ih u _).trans ht

theorem chargeSlot_doms (g k x c n : Nat) (pc : Word) : (s.chargeSlot g k x c n pc).doms d = s.doms d := extendRun_doms s d _ g k x c n pc

theorem charge_doms (g c a n : Nat) (pc : Word) : (s.charge g c a n pc).doms d = s.doms d := by
  unfold State.charge
  dsimp only
  split_ifs <;> simp only [chargeSlot_doms]

theorem spend_doms (g n : Nat) : (s.spend g n).doms d = s.doms d := by
  unfold State.spend
  dsimp only
  split_ifs <;> rfl

theorem pay_doms (g c n : Nat) (pc : Word) : (s.pay g c n pc).doms d = s.doms d := (spend_doms _ d g n).trans (charge_doms s d g c c n pc)

theorem bill_doms (g c a n : Nat) (pc : Word) : (s.bill g c a n pc).doms d = s.doms d := by
  unfold State.bill
  dsimp only
  split_ifs
  · exact (charge_doms _ d _ _ _ _ _).trans (charge_doms s d _ _ _ _ _)
  · exact charge_doms s d _ _ _ _ _

theorem catchUp_doms (g : Nat) : (s.catchUp g).doms d = s.doms d := (spend_doms _ d _ _).trans (bill_doms s d _ _ _ _ _)

theorem chargeIdle_doms (g : Nat) : (s.chargeIdle g).doms d = s.doms d := by
  unfold State.chargeIdle
  dsimp only
  split_ifs
  · rfl
  all_goals refine (spend_doms _ d g _).trans ?_
  · rfl
  · exact charge_doms s d _ _ _ _ _
  · exact foldl_part_eq (part := fun s => s.doms d) (fun s _ => charge_doms s d _ _ _ _ _) _ s
  · exact charge_doms s d _ _ _ _ _

theorem bringUp_doms (g : Nat) : (s.bringUp g).doms d = s.doms d := by
  unfold State.bringUp
  dsimp only
  generalize (if s.dual (g / 2 * 2) = true then g / 2 * 2 else g) = e
  split_ifs
  · exact chargeIdle_doms s d e
  · exact pay_doms s d _ _ _ _
  · exact catchUp_doms s d e

end
/-! ## One half of a domain -/

section
variable (s : State) {die n : Nat} {f : Domain → Domain}

theorem domain_updDomain_same : ((s.updDomain die n f).die die).domain n = f ((s.die die).domain n) := by
  rw [State.updDomain, State.die_updDie_same]
  exact SMap.get_set_same _ _ _ _

theorem domain_updDomain_other {d : Nat} (h : d ≠ die) : ((s.updDomain die n f).die d).domain n = (s.die d).domain n := by
  rw [State.updDomain, State.die_updDie_other _ _ h]

/-- A half's update keeps, of both halves, a part that it keeps of its own. -/
theorem domain_updDomain_part {β : Type} {part : Domain → β} (hf : ∀ d, part (f d) = part d) (d : Nat) :
    part (((s.updDomain die n f).die d).domain n) = part ((s.die d).domain n) := by
  by_cases h : d = die
  · rw [h, domain_updDomain_same, hf]
  · rw [domain_updDomain_other s h]

theorem halves_cases (die n : Nat) : s.halves die n = [die, 1 - die] ∨ s.halves die n = [die] := by
  unfold State.halves
  dsimp only
  split_ifs
  · exact .inl rfl
  · exact .inr rfl

theorem mem_halves (die n : Nat) : die ∈ s.halves die n := by
  obtain h | h := halves_cases s die n <;> simp [h]

/-- A walk over a domain's halves changes a half as its own step does. -/
theorem foldl_halves_domain {k : State → Nat → State} (hsame : ∀ t h, ((k t h).die h).domain n = f ((t.die h).domain n))
    (hother : ∀ t h d, d ≠ h → ((k t h).die d).domain n = (t.die d).domain n) (t : State) (die : Nat) :
    (((s.halves die n).foldl k t).die die).domain n = f ((t.die die).domain n) := by
  have hne : die ≠ 1 - die := by omega
  obtain h | h := halves_cases s die n
  · simp only [h, List.foldl, hother _ _ _ hne, hsame]
  · simp only [h, List.foldl, hsame]

end

/-! ## What a domain gives its waiting members (R314, R316) -/

section
variable {w : WaitSt} {tm b : Bool} {clock die n : Nat} {dies : List Nat} {wd : Option Word}

theorem meet_empty : WaitSt.empty.meet tm clock dies n b wd = WaitSt.empty := by
  simp [WaitSt.meet, WaitSt.onDomain, Outer.onDomain, WaitSt.empty, Outer.empty]

/-- A member whose arrival is made and whose wait has not ended. -/
structure WaitSt.Waits (w : WaitSt) (die n : Nat) : Prop where
  bar : w.bar.map (fun b => (b.1, b.2.1)) = some (die, n)
  arrived : w.barArrived = true
  unmet : w.barDone = none

theorem WaitSt.Waits.here (h : w.Waits die n) (hmem : die ∈ dies) : (dies.any fun d => w.onDomain clock d n b) = true := by
  obtain ⟨⟨d, k, i⟩, hbar, hdk⟩ := Option.map_eq_some_iff.mp h.bar
  obtain ⟨rfl, rfl⟩ := Prod.mk.inj hdk
  exact List.any_eq_true.mpr ⟨d, hmem, by simp [WaitSt.onDomain, hbar, h.arrived, h.unmet]⟩

theorem WaitSt.Waits.meet_barDone (h : w.Waits die n) (hmem : die ∈ dies) : (w.meet tm clock dies n b wd).barDone = some b := by
  simp only [WaitSt.meet, h.here hmem, if_true]
  split_ifs <;> rfl

theorem WaitSt.Waits.meet_watchdog (h : w.Waits die n) (hmem : die ∈ dies) (x : Word) :
    (if tm = true then (w.meet tm clock dies n b (some x)).wdTm else (w.meet tm clock dies n b (some x)).barWd) = some x := by
  simp only [WaitSt.meet, h.here hmem, Bool.true_or, Option.isSome_some, Bool.and_self, if_true]
  cases tm <;> rfl

/-- A broken domain's second word changes nothing for a member that has had the first. -/
theorem meet_broken (h : w.barDone = some false) : (w.meet tm clock dies n false none).barDone = some false
    ∧ (w.meet tm clock dies n false none).wdTm = w.wdTm ∧ (w.meet tm clock dies n false none).barWd = w.barWd := by
  simp only [WaitSt.meet, Option.isSome_none, Bool.and_false, Bool.false_eq_true, if_false]
  split_ifs <;> simp [h]

theorem core_meetAll (s : State) (dies : List Nat) (n : Nat) (b : Bool) (wd : Option Word) (g : Nat) : ((s.meetAll dies n b wd).core g).arch =
    { (s.core g).arch with wait := (s.core g).arch.wait.meet (s.core g).arch.tm s.clock dies n b wd } := by
  refine core_mapArch ?_ s g
  exact congrArg (fun w => { Arch.reset with wait := w }) meet_empty

end

/-! ## BAR and SSTEP -/

section
variable {s : State} {q : QReg} {dom : Nat} {k : Bool}

/-- The state in which BAR or SSTEP leaves the core, before its predicate is written. -/
def State.barLeft (s : State) : State :=
  s.updArch fun a => { a with wait := { a.wait with bar := none, barArrived := false, barDone := none } }

theorem barLeft_wait (s : State) : s.barLeft.me.arch.wait = { s.me.arch.wait with bar := none, barArrived := false, barDone := none } := by
  rw [State.barLeft, State.updArch, State.me_updMe]
  rfl

theorem barrier_done {b b' : Bool} (hbar : s.me.arch.wait.bar = some (dieOf s.cur, dom, b')) (hdone : s.me.arch.wait.barDone = some b) :
    s.barrier q dom k = .next (s.barLeft.pushQI q b) := by
  simp only [State.barrier, hbar, hdone, Option.map_some, if_true]
  rfl

section
variable (hnew : s.me.arch.wait.bar.map (fun b => (b.1, b.2.1)) ≠ some (dieOf s.cur, dom))
include hnew

theorem barrier_stranger (hmay : s.mayArrive dom = false) : s.barrier q dom k = .next (s.trap 0x06 (BitVec.ofNat 64 dom)) := by
  simp only [State.barrier, hnew, hmay, false_and, not_false_eq_true, and_self, if_false, if_true]
  rfl

theorem barrier_unarmed (hmay : s.mayArrive dom = true) (hst : ((s.die (dieOf s.cur)).domain dom).st ≠ .armed) :
    s.barrier q dom k = .next (s.barLeft.pushQI q false) := by
  simp only [State.barrier, hnew, hmay, isArmed, hst, false_and, and_false, decide_false, Bool.not_false, Bool.true_eq_false, if_false, if_true]
  rfl

end

theorem exec_barrier {dom : BitVec 5} {i : Instr} (hi : i = .bar q dom ∨ i = .sstep q dom) :
    ∃ k, exec i s = s.barrier q dom.toNat k := by
  obtain rfl | rfl := hi
  · exact ⟨false, rfl⟩
  · exact ⟨true, rfl⟩

end

/-! ## BARRIER_ARRIVAL -/

theorem rewatch_arrived (s : State) (h n d : Nat) : (((s.rewatch h n).die d).domain n).arrived = ((s.die d).domain n).arrived := by
  unfold State.rewatch
  refine domain_updDomain_part (part := Domain.arrived) s (fun x => ?_) d
  split <;> split_ifs <;> rfl

/-- The member on core g has arrived in its half's round (R314). -/
def State.arrive (s : State) (g die n : Nat) (sstep : Bool) : State :=
  (s.updDomain die n fun d => { d with arrived := d.arrived ++ [g], sstep := d.sstep || sstep }).updCore g fun c =>
    c.updArch fun a => { a with wait := { a.wait with barArrived := true, barDone := none } }

section
variable {s : State} {g die n : Nat} {k : Bool}

theorem exec_barrierArrival_arrives (hbar : (s.core g).arch.wait.bar = some (die, n, k)) (hstrand : (s.core g).strand ≠ none)
    (hopen : (s.core g).arch.wait.barArrived = false) (hst : ((s.die die).domain n).st = .armed) (hnew : g ∉ ((s.die die).domain n).arrived)
    (hdone : s.storesDone g (s.barScope die n) = true) : exec (.barrierArrival g) s =
      .next (((s.arrive g die n k).halves die n).foldl (fun s h => s.rewatch h n) (s.arrive g die n k)) := by
  have hnew' : ((s.die die).domain n).arrived.contains g = false := by simpa using hnew
  change execBarrierArrival g s = _
  simp only [execBarrierArrival, hbar, hstrand, hopen, isArmed, hst, hnew', hdone, decide_true, Bool.false_eq_true, Bool.true_eq_false, or_self,
    if_false]
  rfl

theorem arrive_arrived (s : State) (g die n : Nat) (k : Bool) :
    (((s.arrive g die n k).die die).domain n).arrived = ((s.die die).domain n).arrived ++ [g] := by
  unfold State.arrive
  rw [die_domain_eq (updCore_doms _ die g _) n, domain_updDomain_same]

theorem arrive_core (s : State) (g die n : Nat) (k : Bool) : ((s.arrive g die n k).core g).arch.wait.barArrived = true := by
  rw [State.arrive, State.core_updCore_same]
  rfl

theorem barrierArrival_adds (l : List Nat) :
    let t := l.foldl (fun s h => s.rewatch h n) (s.arrive g die n k)
    ((t.die die).domain n).arrived = ((s.die die).domain n).arrived ++ [g] ∧ (t.core g).arch.wait.barArrived = true :=
  ⟨(foldl_part_eq (part := fun s => ((s.die die).domain n).arrived) (fun s h => rewatch_arrived s h n die) l _).trans (arrive_arrived s g die n k),
    (foldl_part_eq (part := fun s => (s.core g).arch.wait.barArrived) (f := fun s h => s.rewatch h n) (fun _ _ => rfl) l _).trans
      (arrive_core s g die n k)⟩

end

/-! ## BARRIER_RELEASE -/

/-- The step clocks of a half's members restart or stop (R316). -/
def State.restep (s : State) (sstep : Bool) (base n h : Nat) : State :=
  let d := (s.die h).domain n
  if d.sched then
    { s with cores := SMap.mapVals s.cores fun g c =>
        if decide (dieOf g = h) && d.member g then { c with stepClock := if sstep then some base else none } else c }
  else s

/-- A half begins its next round. -/
def Domain.nextRound (d : Domain) : Domain :=
  { d with round := (d.round + 1) % 2 ^ 16, arrived := [], sstep := false, started := none, counted := 0 }

def State.nextRound (sstep : Bool) (base n : Nat) (s : State) (h : Nat) : State := (s.restep sstep base n h).updDomain h n Domain.nextRound

/-- The members on L0 have waited until the cycle of the release (R327). -/
def State.gathered (s : State) (die n : Nat) : State :=
  (s.waiters (s.halves die n) n).foldl (State.waitUntil · (s.releaseCycle (s.waiters (s.halves die n) n))) s

theorem releaseDomain_eq (s : State) (die n : Nat) : s.releaseDomain die n =
    (s.halves die n).foldl (State.nextRound ((s.halves die n).any fun h => ((s.die h).domain n).sstep)
      (s.releaseCycle (s.waiters (s.halves die n) n)) n) ((s.gathered die n).meetAll (s.halves die n) n true none) := rfl

section
variable (s : State)

theorem waitUntil_books (b g : Nat) : Books Set.univ s (s.waitUntil b g) := ((books_refl Set.univ s).bringUp g).pay _ _ _ _

theorem waitUntil_doms (b g d : Nat) : (s.waitUntil b g).doms d = s.doms d := (pay_doms _ d _ _ _ _).trans (bringUp_doms s d g)

theorem gathered_books (die n : Nat) : Books Set.univ s (s.gathered die n) :=
  (books_refl Set.univ s).foldl (fun t g ht => ht.trans (waitUntil_books t _ g)) _

theorem gathered_doms (die n d : Nat) : (s.gathered die n).doms d = s.doms d :=
  foldl_part_eq (part := fun s => s.doms d) (fun t g => waitUntil_doms t _ g d) _ s

variable (sstep : Bool) (base n : Nat)

theorem restep_dies (h : Nat) : (s.restep sstep base n h).dies = s.dies := by
  unfold State.restep
  dsimp only
  split_ifs <;> rfl

theorem restep_arch (h g : Nat) : ((s.restep sstep base n h).core g).arch = (s.core g).arch := by
  unfold State.restep
  by_cases hsched : ((s.die h).domain n).sched = true
  · simp only [hsched, if_true]
    refine core_mapCores (part := Core.arch) (fun k c => ?_) s g
    split_ifs <;> rfl
  · simp only [hsched, if_false, Bool.false_eq_true]

theorem nextRound_same (h : Nat) : ((State.nextRound sstep base n s h).die h).domain n = ((s.die h).domain n).nextRound := by
  rw [State.nextRound, domain_updDomain_same, State.die, restep_dies]
  rfl

theorem nextRound_other {h d : Nat} (hd : d ≠ h) : ((State.nextRound sstep base n s h).die d).domain n = (s.die d).domain n := by
  rw [State.nextRound, domain_updDomain_other _ hd, State.die, restep_dies]
  rfl

theorem nextRound_arch (h g : Nat) : ((State.nextRound sstep base n s h).core g).arch = (s.core g).arch := restep_arch s sstep base n h g

end

theorem exec_barrierRelease_releases {s : State} {die n : Nat} (h : s.releasable die n = true) :
    exec (.barrierRelease die n) s = .next (s.releaseDomain die n) := congrArg Host.Outcome.next (if_pos h)

theorem releaseDomain_domain (s : State) (die n : Nat) : (((s.releaseDomain die n).die die).domain n).arrived = []
    ∧ (((s.releaseDomain die n).die die).domain n).round = (((s.die die).domain n).round + 1) % 2 ^ 16 := by
  have hround := foldl_halves_domain s (f := Domain.nextRound) (fun t h => nextRound_same t
      ((s.halves die n).any fun h => ((s.die h).domain n).sstep) (s.releaseCycle (s.waiters (s.halves die n) n)) n h)
    (fun t h d hd => nextRound_other t _ _ n hd) ((s.gathered die n).meetAll (s.halves die n) n true none) die
  have hbefore : (((s.gathered die n).meetAll (s.halves die n) n true none).die die).domain n = (s.die die).domain n :=
    die_domain_eq (gathered_doms s die n die) n
  rw [releaseDomain_eq, hround, hbefore]
  exact ⟨rfl, rfl⟩

theorem releaseDomain_gives {s : State} {die n g : Nat} (h : (s.core g).arch.wait.Waits die n) :
    ((s.releaseDomain die n).core g).arch.wait.barDone = some true := by
  rw [releaseDomain_eq, foldl_part_eq (part := fun s => (s.core g).arch) (fun t h => nextRound_arch t _ _ n h g), core_meetAll,
    (gathered_books s die n).wait]
  exact h.meet_barDone (mem_halves s die n)

/-! ## BARRIER_WATCHDOG_EXPIRY -/

/-- A half without a round, in a state. -/
def Domain.ended (to' : DomState) (d : Domain) : Domain := { d with st := to', arrived := [], sstep := false, started := none, counted := 0 }

/-- A half leaves for FREE or BROKEN, its members' step clocks stopped (R316). -/
def State.endHalf (n : Nat) (to' : DomState) (s : State) (h : Nat) : State :=
  (s.stopClocks h n).updDomain h n (Domain.ended to')

theorem endDomain_eq (s : State) (die n : Nat) (to' : DomState) : s.endDomain die n to' =
    (s.halves die n).foldl (State.endHalf n to') ((s.idleUp (s.gangOf die n)).meetAll (s.halves die n) n false none) := rfl

section
variable (s : State) (n : Nat) (to' : DomState)

theorem idleUp_books (l : List Nat) : Books Set.univ s (s.idleUp l) := by
  refine (books_refl Set.univ s).foldl (fun t g ht => ?_) l
  split_ifs
  · exact ht.bringUp g
  · exact ht

theorem stopClocks_eq (h : Nat) : s.stopClocks h n = s.restep false 0 n h := rfl

theorem endHalf_same (h : Nat) : ((State.endHalf n to' s h).die h).domain n = ((s.die h).domain n).ended to' := by
  rw [State.endHalf, domain_updDomain_same, State.die, stopClocks_eq, restep_dies]
  rfl

theorem endHalf_other {h d : Nat} (hd : d ≠ h) : ((State.endHalf n to' s h).die d).domain n = (s.die d).domain n := by
  rw [State.endHalf, domain_updDomain_other _ hd, State.die, stopClocks_eq, restep_dies]
  rfl

theorem endHalf_arch (h g : Nat) : ((State.endHalf n to' s h).core g).arch = (s.core g).arch := restep_arch s false 0 n h g

theorem endDomain_st (die : Nat) : (((s.endDomain die n to').die die).domain n).st = to' := by
  have hend := foldl_halves_domain s (f := Domain.ended to') (fun t h => endHalf_same t n to' h) (fun t h d hd => endHalf_other t n to' hd)
    ((s.idleUp (s.gangOf die n)).meetAll (s.halves die n) n false none) die
  rw [endDomain_eq, hend]
  rfl

/-- A waiting member that already has its word keeps it, and its watchdog's. -/
theorem endDomain_keeps (die : Nat) {g : Nat} (h : (s.core g).arch.wait.barDone = some false) :
    ((s.endDomain die n to').core g).arch.wait.barDone = some false
      ∧ ((s.endDomain die n to').core g).arch.wait.wdTm = (s.core g).arch.wait.wdTm
      ∧ ((s.endDomain die n to').core g).arch.wait.barWd = (s.core g).arch.wait.barWd := by
  rw [endDomain_eq, foldl_part_eq (part := fun s => (s.core g).arch) (fun t h => endHalf_arch t n to' h g), core_meetAll,
    (idleUp_books s (s.gangOf die n)).wait]
  exact meet_broken h

end

/-- The watchdog of a domain that is not complete has broken it (R314). -/
def State.watchdogBreaks (s : State) (die n : Nat) : State :=
  (s.meetAll (s.halves die n) n false (some (BitVec.ofNat 64 (0x100 + n)))).endDomain die n .broken

theorem exec_barrierWatchdogExpiry_breaks {s : State} {die n : Nat} (hst : ((s.die die).domain n).st = .armed)
    (hlimit : fld ((s.die die).domain n).dctl 31 0 ≠ 0) (hround : s.gathering die n = true)
    (hlate : fld ((s.die die).domain n).dctl 31 0 * 1000 * 11088 ≤ s.watched die n) (hnot : s.releasable die n = false) :
    exec (.barrierWatchdogExpiry die n) s = .next (s.watchdogBreaks die n) := by
  have hlate' : ¬ s.watched die n < fld ((s.die die).domain n).dctl 31 0 * 1000 * unitsPerNs := Nat.not_lt.mpr hlate
  change execBarrierWatchdogExpiry die n s = _
  simp only [execBarrierWatchdogExpiry, isArmed, hst, hlimit, hround, hlate', hnot, decide_true, Bool.true_eq_false, Bool.false_eq_true, or_self,
    if_false]
  rfl

theorem watchdogBreaks_gives {s : State} {die n g : Nat} (h : (s.core g).arch.wait.Waits die n) :
    ((s.watchdogBreaks die n).core g).arch.wait.barDone = some false
      ∧ (if (s.core g).arch.tm = true then ((s.watchdogBreaks die n).core g).arch.wait.wdTm
          else ((s.watchdogBreaks die n).core g).arch.wait.barWd) = some (BitVec.ofNat 64 (0x100 + n)) := by
  have hmet := core_meetAll s (s.halves die n) n false (some (BitVec.ofNat 64 (0x100 + n))) g
  have hmem := mem_halves s die n
  obtain ⟨hdone, htm, hwd⟩ := endDomain_keeps (s.meetAll (s.halves die n) n false (some (BitVec.ofNat 64 (0x100 + n)))) n .broken die (g := g)
    (by rw [hmet]; exact h.meet_barDone hmem)
  rw [State.watchdogBreaks, htm, hwd, hmet]
  exact ⟨hdone, h.meet_watchdog hmem _⟩

/-- Settles O40: BAR and SSTEP case by case, and what an arrival, a release and a break do to the domain and to its waiting members. -/
theorem barrierRounds : Obligations.BarrierRounds := by
  refine ⟨?bar, ?arrival, ?release, ?watchdog⟩
  case bar =>
    intro s q dom i hi die w
    obtain ⟨k, hexec⟩ := exec_barrier (s := s) hi
    refine ⟨fun hnew hmay hst => ?_, fun k b hbar hdone => ?_, fun hnew hmay => hexec.trans (barrier_stranger hnew hmay)⟩
    · exact ⟨_, hexec.trans (barrier_unarmed hnew hmay hst), onlyMe_updMe s _, congrArg WaitSt.bar (barLeft_wait s)⟩
    · exact ⟨_, hexec.trans (barrier_done hbar hdone), onlyMe_updMe s _, congrArg WaitSt.bar (barLeft_wait s),
        congrArg WaitSt.barArrived (barLeft_wait s)⟩
  case arrival =>
    intro s g die n k hbar hstrand hopen hst hnew hdone
    exact ⟨_, exec_barrierArrival_arrives hbar hstrand hopen hst hnew hdone, barrierArrival_adds _⟩
  case release =>
    intro s die n h
    obtain ⟨harrived, hround⟩ := releaseDomain_domain s die n
    exact ⟨_, exec_barrierRelease_releases h, harrived, hround, fun g hbar harr hopen => releaseDomain_gives ⟨hbar, harr, hopen⟩⟩
  case watchdog =>
    intro s die n hst hlimit hround hlate hnot
    exact ⟨_, exec_barrierWatchdogExpiry_breaks hst hlimit hround hlate hnot, endDomain_st _ n .broken die,
      fun g hbar harr hopen => watchdogBreaks_gives ⟨hbar, harr, hopen⟩⟩

end Sys2Proof.Machine
end

section
/-! STORE_PERFORM, LOAD_COMPLETE and ATOMIC_RESPONSE: stores pass their die's order point and reach their homes, loads land in their
registers, and a request that waits under a key meets its site (R142, R147, R149, R232, R233). -/

namespace Sys2Proof

/-- A listed key has a value. -/
theorem SMap.get?_isSome_of_mem {α : Type} {m : SMap α} {p : Nat × α} (h : p ∈ m) : (SMap.get? m p.1).isSome = true := by
  induction m with
  | nil => exact absurd h List.not_mem_nil
  | cons q r ih =>
    obtain ⟨k, v⟩ := q
    rw [SMap.get?]
    split_ifs with hk
    · rfl
    · rcases List.mem_cons.1 h with rfl | hr
      · exact absurd rfl hk
      · exact ih hr

namespace Machine

/-! ## The order point (R232) -/

section
variable {s : State} {g : Nat} {e : SbEntry} {rest : List SbEntry}

/-- The oldest entry e of core g has left the store buffer, which holds the rest, for the stores past its die's order point. -/
def State.passed (s : State) (g : Nat) (e : SbEntry) (rest : List SbEntry) : State :=
  let t := s.updCore g fun c => { c with sb := rest }
  if e.flush then t else t.updDie (dieOf g) fun d => { d with past := d.past ++ [{ core := g, ent := e }] }

/-- A release no wider than its core, and any entry of a core without stores on their way to the host, is not held (R236, R237). -/
theorem relHeld_eq_false (h : s.hostStores g = false ∨ e.rel = none ∨ e.rel = some .core) : s.relHeld g e = false := by
  rcases h with hnone | hrel | hrel
  · rw [State.relHeld, hnone, Bool.and_false]
  · rw [State.relHeld, hrel, Bool.false_and]
  · simp [State.relHeld, hrel]

theorem exec_storePerform_passes (hg : g < numCores) (hsb : (s.core g).sb = e :: rest) (hdata : e.awaits = none)
    (hown : s.ownWait g none (SMap.keys e.bytes) = none) (hstill : ∀ k ∈ SMap.keys e.bytes, s.moving k = false)
    (hrel : s.relHeld g e = false) : exec (.storePerform (.orderPoint g)) s = .next (s.passed g e rest) := by
  have hmoving : (SMap.keys e.bytes).any s.moving = false := by simpa using hstill
  change execStorePerform (.orderPoint g) s = _
  simp only [execStorePerform, if_pos hg, State.passOrderPoint, hsb, hdata, hown, hmoving, hrel, Option.isSome_none, Bool.or_self,
    Bool.false_eq_true, if_false]
  rfl

theorem passed_sb : ((s.passed g e rest).core g).sb = rest := by
  have hcore : (s.passed g e rest).core g = (s.updCore g fun c => { c with sb := rest }).core g := by
    unfold State.passed
    cases e.flush <;> rfl
  rw [hcore, State.core_updCore_same]

theorem passed_mem : (s.passed g e rest).mem = s.mem := by
  unfold State.passed
  cases e.flush <;> rfl

theorem passed_past : ((s.passed g e rest).die (dieOf g)).past
    = (s.die (dieOf g)).past ++ (if e.flush then [] else [{ core := g, ent := e }]) := by
  unfold State.passed
  cases e.flush with
  | true => exact (List.append_nil _).symm
  | false =>
    simp only [Bool.false_eq_true, if_false, State.die_updDie_same]
    rfl

end

/-! ## The home (R233) -/

section
variable (s : State) (die i : Nat) (p : PastStore)

variable {s die i p} in
theorem exec_storePerform_home (hp : (s.die die).past[i]? = some p) (hready : s.homeReady die i p = true) :
    exec (.storePerform (.home die i)) s = .next (s.performStore die i p) := by
  change execStorePerform (.home die i) s = _
  simp only [execStorePerform, hp, hready, if_true]

theorem die_homeWrite (exempt : Bool) (cs : List Host.Cell) (ws : List Nat) : (s.homeWrite exempt cs ws).die die = s.die die := rfl

/-- An error that is counted leaves the stores past the order points. -/
theorem countUe_past (d pa : Nat) : ((s.countUe d pa).die die).past = (s.die die).past := by
  unfold State.countUe
  by_cases hd : die = d
  · rw [hd, State.die_updDie_same]
  · rw [State.die_updDie_other s _ hd]

theorem performStore_past : ((s.performStore die i p).die die).past = dropAt (s.die die).past i := by
  unfold State.performStore
  dsimp only
  rw [foldl_part_eq (part := fun s => (s.die die).past)]
  case hf => exact fun s x => countUe_past (s.setPoison x) die _ _
  rw [die_homeWrite, State.die_updDie_same]

/-- The bytes that the home takes are the entry's, without those of blocks and memory that are lost. -/
theorem performStore_mem : ∃ taken : Host.Cell → Bool, (s.performStore die i p).mem = s.mem.wrs (p.ent.bytes.filter taken) := by
  unfold State.performStore
  dsimp only
  rw [foldl_part_eq (part := State.mem) (fun _ _ => by simp)]
  exact ⟨_, rfl⟩

theorem performStore_frame {k : Nat} (hk : p.ent.has k = false) : (s.performStore die i p).mem.rd k = s.mem.rd k := by
  obtain ⟨taken, hmem⟩ := performStore_mem s die i p
  rw [hmem]
  refine Memory.rd_wrs_other _ _ _ fun c hc hck => Bool.false_ne_true ?_
  rw [← hk, ← hck]
  exact SMap.get?_isSome_of_mem (List.mem_of_mem_filter hc)

end

/-! ## Results (R142, R147) -/

section
variable {s : State} {g i : Nat} {l : LoadP} (hl : (s.core g).loads[i]? = some l)

theorem landLoad_core : (s.landLoad g i l).core g =
    { s.core g with arch := l.dsts.foldl (fun a d => a.wx d.1 d.2) (s.core g).arch, loads := dropAt (s.core g).loads i } :=
  State.core_updCore_same s g _

include hl

theorem exec_loadComplete_lands (hload : l.atomic = false) (hlinks : s.linksWait (dieOf g) l.pa = false) :
    exec (.loadComplete g i) s = .next (s.landLoad g i l) := by
  change execLoadComplete g i s = _
  simp only [execLoadComplete, hl, hload, hlinks, Bool.or_self, Bool.false_eq_true, if_false]

theorem exec_atomicResponse_lands (hatomic : l.atomic = true) (hheld : l.held = none) :
    exec (.atomicResponse g i) s = .next (s.landLoad g i l) := by
  change execAtomicResponse g i s = _
  simp only [execAtomicResponse, hl, hatomic, hheld, Bool.not_true, Bool.false_eq_true, if_false]

theorem exec_atomicResponse_responds {key : Nat} {r : AmoReq} (hatomic : l.atomic = true) (hheld : l.held = some key)
    (hsent : (s.core g).amoSt key = some (.sent r)) : exec (.atomicResponse g i) s = .next (s.respond g i key r) := by
  change execAtomicResponse g i s = _
  simp only [execAtomicResponse, hl, hatomic, hheld, hsent, Bool.not_true, Bool.false_eq_true, if_false]

end

/-! ## A request that waits under its key meets its site (R149, log entry 41) -/

/-- An error in media changes no block's state. -/
theorem fireSector_gen (s : State) (die : Nat) (direct : Bool) (k : Nat) : (s.fireSector die direct k).1.gen = s.gen := by
  unfold State.fireSector
  dsimp only
  split_ifs <;> rfl

theorem fireKeys_gen (s : State) (die : Nat) (direct : Bool) (ks : List Nat) : (s.fireKeys die direct ks).1.gen = s.gen := by
  unfold State.fireKeys
  generalize (ks.map (· / 32)).eraseDups = l
  generalize false = b
  induction l generalizing s b with
  | nil => rfl
  | cons k l ih => exact (ih _ _).trans (fireSector_gen s die direct k)

theorem blockIs_of_gen {s t : State} (h : t.gen = s.gen) (k : Nat) (st : BlockState) : blockIs t k st = blockIs s k st := by
  simp only [blockIs, State.block, h]

theorem respond_performs {s u : State} {g i key : Nat} {r : AmoReq} (hlinks : s.linksWait (dieOf g) r.pa = false)
    (hfree : s.siteFree g (s.amoExempt g r) r = true) (hfire : s.fireKeys (dieOf g) true r.keys = (u, false))
    (hclean : ∀ k ∈ r.keys, u.poisonSeen g k = false ∧ blockIs u k .quarantined = false) :
    s.respond g i key r = (u.reach g (s.amoExempt g r) r).1.updCore g fun c =>
      { c.setAmo key (u.reach g (s.amoExempt g r) r).2 with loads := dropAt c.loads i } := by
  have hgen : u.gen = s.gen := by simpa only [hfire] using fireKeys_gen s (dieOf g) true r.keys
  have hpoison : (r.keys.any fun k => u.poisonSeen g k || blockIs s k .quarantined) = false := by
    simpa [blockIs_of_gen hgen] using hclean
  simp only [State.respond, hlinks, hfree, hfire, hpoison, Bool.not_true, Bool.or_self, Bool.false_eq_true, if_false]

/-- Settles O26: each event is one update of the state, and the parts that the statement names are read from that update. -/
theorem accessesArePerformed : Obligations.AccessesArePerformed := by
  refine ⟨?orderPoint, ?home, ?load, ?atomic, ?request⟩
  case orderPoint =>
    intro s g e rest hg hsb hdata hown hstill hrel
    exact ⟨_, exec_storePerform_passes hg hsb hdata hown hstill (relHeld_eq_false hrel), passed_sb, fun k => by rw [passed_mem], passed_past⟩
  case home =>
    intro s die i p hp hready
    exact ⟨_, exec_storePerform_home hp hready, rfl, performStore_past s die i p, fun k => performStore_frame s die i p⟩
  case load =>
    intro s g i l hl hload hlinks
    exact ⟨_, exec_loadComplete_lands hl hload hlinks, congrArg Core.loads landLoad_core, congrArg Core.arch landLoad_core, rfl⟩
  case atomic =>
    intro s g i l hl hatomic hheld
    exact ⟨_, exec_atomicResponse_lands hl hatomic hheld, congrArg Core.loads landLoad_core, congrArg Core.arch landLoad_core, rfl⟩
  case request =>
    intro s u g i l key r hl hatomic hheld hsent hlinks hfree hfire hclean
    rw [exec_atomicResponse_responds hl hatomic hheld hsent, respond_performs hlinks hfree hfire hclean]

end Machine
end Sys2Proof
end

section
/-! Contexts (R248, R249, R262, R291, R418): strands that leave. What a cancel and a teardown do besides ending strands. -/

namespace Sys2Proof

/-- A map over the values keeps, of what a number reads as, a part that it keeps of each value. -/
theorem SMap.get_mapVals_part {α β : Type} {part : α → β} {f : Nat → α → α} (hf : ∀ k a, part (f k a) = part a) (m : SMap α) (d : α)
    (n : Nat) : part (SMap.get (SMap.mapVals m f) d n) = part (SMap.get m d n) := by
  induction m with
  | nil => rfl
  | cons p r ih =>
    simp only [SMap.mapVals, List.map_cons, SMap.get] at ih ⊢
    split_ifs
    · exact hf _ _
    · exact ih

/-- A number that does not read as the default is listed. -/
theorem SMap.mem_of_get_ne {α : Type} {m : SMap α} {d : α} {n : Nat} (h : SMap.get m d n ≠ d) : (n, SMap.get m d n) ∈ m := by
  induction m with
  | nil => exact absurd rfl h
  | cons p r ih =>
    obtain ⟨k, v⟩ := p
    simp only [SMap.get] at h ⊢
    split_ifs with hk
    · exact hk ▸ List.mem_cons_self
    · rw [if_neg hk] at h
      exact List.mem_cons_of_mem _ (ih h)

namespace Machine

/-! ## States between which strands leave and none comes -/

/-- The context whose strand a core runs. -/
def Core.tenant (c : Core) : Option Nat := c.strand.map Strand.ctx

/-- What CTXCTL shows of a context (R248). -/
def Ctx.shown (c : Ctx) : CtxState × Nat := (c.st, c.err)

/-- From s to t no strand has come to a core, and no context's STATE or ERR has changed. -/
structure Departs (s t : State) : Prop where
  core : ∀ g, (t.core g).tenant = (s.core g).tenant ∨ (t.core g).tenant = none
  ctx : ∀ n, (t.ctx n).shown = (s.ctx n).shown

theorem departs_refl (s : State) : Departs s s := ⟨fun _ => .inl rfl, fun _ => rfl⟩

theorem State.tenant_of_strand {s : State} {g : Nat} {u : Strand} (h : (s.core g).strand = some u) : (s.core g).tenant = some u.ctx := by
  simp only [Core.tenant, h, Option.map_some]

section
variable {s t : State} (h : Departs s t)
include h

theorem Departs.trans {u : State} (h' : Departs t u) : Departs s u := by
  refine ⟨fun g => ?_, fun n => (h'.ctx n).trans (h.ctx n)⟩
  obtain hsame | hnone := h'.core g
  · rw [hsame]
    exact h.core g
  · exact .inr hnone

theorem Departs.st (n : Nat) : (t.ctx n).st = (s.ctx n).st := congrArg Prod.fst (h.ctx n)

/-- A core that a strand has left stays without one. -/
theorem Departs.vacated {g : Nat} (hg : (s.core g).tenant = none) : (t.core g).tenant = none := by
  obtain hsame | hnone := h.core g
  · rw [hsame, hg]
  · exact hnone

/-- A context that has no strand on any core gets none. -/
theorem Departs.untenanted {n : Nat} (hn : ∀ g, (s.core g).tenant ≠ some n) (g : Nat) : (t.core g).tenant ≠ some n := by
  obtain hsame | hnone := h.core g
  · rw [hsame]
    exact hn g
  · simp [hnone]

/-- A change of other parts of the package. -/
theorem Departs.elsewhere {u : State} (hcores : u.cores = t.cores) (hctxs : u.ctxs = t.ctxs) : Departs s u :=
  h.trans ⟨fun g => .inl (by simp only [State.core, hcores]), fun n => by simp only [State.ctx, hctxs]⟩

theorem Departs.books {G : Set Nat} {u : State} (hbooks : Books G t u) : Departs s u := by
  refine h.trans ⟨fun g => .inl ?_, fun n => by simp only [State.ctx, hbooks.ctxs]⟩
  have hstrand : (u.core g).strand = (t.core g).strand := (congrArg Core.strand (hbooks.core g) :)
  simp only [Core.tenant, hstrand]

theorem Departs.updCore (k : Nat) {f : Core → Core} (hf : ∀ c, (f c).tenant = c.tenant ∨ (f c).tenant = none) : Departs s (t.updCore k f) := by
  refine h.trans ⟨fun g => ?_, fun _ => rfl⟩
  by_cases hg : g = k
  · rw [hg, State.core_updCore_same]
    exact hf _
  · rw [State.core_updCore_other t f hg]
    exact .inl rfl

theorem Departs.updCtx (n : Nat) {f : Ctx → Ctx} (hf : ∀ c, (f c).shown = c.shown) : Departs s (t.updCtx n f) := by
  refine h.trans ⟨fun _ => .inl rfl, fun m => ?_⟩
  by_cases hm : m = n
  · rw [hm, State.ctx_updCtx_same, hf]
  · rw [State.ctx_updCtx_other t f hm]

theorem Departs.mapCores {f : Nat → Core → Core} (hf : ∀ k c, (f k c).tenant = c.tenant) :
    Departs s { t with cores := SMap.mapVals t.cores f } :=
  h.trans ⟨fun g => .inl (core_mapCores hf t g), fun _ => rfl⟩

theorem Departs.mapArch (f : Arch → Arch) : Departs s (t.mapArch f) := by
  refine h.trans ⟨fun g => .inl ?_, fun n => ?_⟩
  · exact core_mapCores (part := Core.tenant) (f := fun _ c => { c with arch := f c.arch }) (fun _ _ => rfl) t g
  · exact SMap.get_mapVals_part (part := Ctx.shown)
      (f := fun _ c => { c with spilled := SMap.mapVals c.spilled fun _ x => { x with arch := f x.arch } }) (fun _ _ => rfl) t.ctxs Ctx.reset n

theorem Departs.foldl {α : Type} {f : State → α → State} (hf : ∀ t a, Departs s t → Departs s (f t a)) (l : List α) :
    Departs s (l.foldl f t) := by
  induction l generalizing t with
  | nil => exact h
  | cons a r ih => exact ih (hf t a h)

theorem Departs.updQuad (q : Nat) (f : Quad → Quad) : Departs s (t.updQuad q f) := h.elsewhere rfl rfl

theorem Departs.releaseEntries (l : List Nat) : Departs s (t.releaseEntries l) := h.elsewhere rfl rfl

theorem Departs.setItems (l : List Item) : Departs s { t with items := l } := h.elsewhere rfl rfl

theorem Departs.noteWaits : Departs s t.noteWaits := h.elsewhere rfl rfl

theorem Departs.setObj (n id : Nat) (o : Obj) : Departs s (t.setObj n id o) := h.updCtx n fun _ => rfl

/-! ## Queues are filed and sealed (R301 to R309) -/

theorem Departs.lessOutstanding (g : Nat) : Departs s (t.lessOutstanding g) := h.updCore g fun _ => .inl rfl

theorem Departs.notOutstanding (l : List RqPacket) : Departs s (t.notOutstanding l) :=
  h.foldl (fun _ p ht => ht.lessOutstanding p.pkt.src) _

theorem Departs.claim (n : Nat) (d : Dest) (p : Packet) (present counted : Bool) (rank : Nat) :
    Departs s (t.claim n d p present counted rank) := by
  unfold State.claim
  cases d with
  | core g => exact h.updCore g fun _ => .inl rfl
  | mbox c m => exact h.updCtx c fun _ => rfl

theorem Departs.pushSpill (n : Nat) (d : Dest) (e : SpillEntry) : Departs s (t.pushSpill n d e) := by
  unfold State.pushSpill
  cases d with
  | core g =>
    refine h.updCtx n fun c => ?_
    split <;> rfl
  | mbox c m => exact h.updCtx c fun _ => rfl

theorem Departs.postDone (p : Post) : Departs s (t.postDone p) := by
  unfold State.postDone
  split
  · split_ifs
    · exact h.lessOutstanding _
    · exact h
  · exact h

theorem Departs.deliver {u : State} {p : Post} (hdel : t.deliver p = some u) : Departs s u := by
  unfold State.deliver at hdel
  extract_lets away k room at hdel
  split_ifs at hdel with hsealed hcross hroom hlate
  · cases hdel
    exact h.postDone p
  · split at hdel
    · cases hdel
      exact h.claim _ _ _ _ _ _
    · cases hdel
      exact h.updCore _ fun _ => .inl rfl
    · cases hdel
      exact h
  · obtain ⟨res, -, rfl⟩ := Option.map_eq_some_iff.mp hdel
    exact (h.pushSpill _ _ _).postDone p

theorem Departs.post (p : Post) : Departs s (t.post p) := by
  unfold State.post
  cases hdel : t.deliver p with
  | some u => exact h.deliver hdel
  | none => exact h.elsewhere rfl rfl

theorem Departs.servePosts (f : Post → Bool) : Departs s (t.servePosts f) := by
  unfold State.servePosts
  -- each that is served is offered as one that sets out
  exact (h.elsewhere (u := { t with posts := t.posts.filter fun p => !f p }) rfl rfl).foldl (fun _ p ht => ht.post p) _

/-- What is filed at a core that no strand runs on waits in spill queues. -/
theorem Departs.offerVacant {g : Nat} (hg : (t.core g).strand = none) : Departs s (t.offer g) := by
  rw [State.offer_no_strand hg]
  exact h.servePosts _

theorem Departs.emptyQueues (g : Nat) : Departs s (t.emptyQueues g) :=
  ((h.notOutstanding _).updCore g (f := fun c => { c with rq := [], ilq := [] }) fun _ => .inl rfl).elsewhere rfl rfl

theorem Departs.sealMboxes (n : Nat) : Departs s (t.sealMboxes n) := by
  unfold State.sealMboxes
  extract_lets w posted
  have hposted : Departs s posted := (h.notOutstanding _).elsewhere rfl rfl
  refine hposted.updCtx n ?_
  exact fun _ => rfl

/-! ## Exchanges, domains, graphs and spill areas -/

theorem Departs.xchgMeet (quad mask : Nat) : Departs s (t.xchgMeet quad mask) := by
  unfold State.xchgMeet
  extract_lets l met rest filed
  have hfiled : Departs s filed := h.updQuad quad _
  split
  · refine hfiled.foldl (fun w e hw => ?_) _
    split_ifs
    · exact hw
    · exact hw.mapArch _
  · exact h

theorem Departs.xchgTokens (code g : Nat) : Departs s (t.xchgTokens code g) := by
  unfold State.xchgTokens
  exact h.foldl (fun w m hw => (hw.updQuad _ _).xchgMeet _ m) _

theorem Departs.stopClocks (die n : Nat) : Departs s (t.stopClocks die n) := by
  unfold State.stopClocks
  dsimp only
  split_ifs
  · refine h.mapCores fun k c => ?_
    split_ifs <;> rfl
  · exact h

theorem Departs.endHalf (n : Nat) (to' : DomState) (die : Nat) : Departs s (State.endHalf n to' t die) :=
  (h.stopClocks die n).elsewhere rfl rfl

theorem Departs.endDomain (die n : Nat) (to' : DomState) : Departs s (t.endDomain die n to') := by
  rw [endDomain_eq]
  exact ((h.books (idleUp_books t _)).mapArch _).foldl (fun _ d hw => hw.endHalf n to' d) _

theorem Departs.dropArea (n slot idx : Nat) : Departs s (t.dropArea n slot idx) := by
  unfold State.dropArea
  split_ifs
  · exact h
  · split
    · exact (h.books ((books_refl Set.univ t).hwWrite _ _ _)).updCtx n fun _ => rfl
    · exact h.books ((books_refl Set.univ t).hwWrite _ _ _)

theorem Departs.loseArea (n slot idx : Nat) : Departs s (t.loseArea n slot idx) := by
  unfold State.loseArea
  split
  · exact h.dropArea n slot idx
  · exact (h.releaseEntries _).dropArea n slot idx

/-! ## A strand is killed (R262) -/

theorem Departs.freeCore (g : Nat) : Departs s (t.freeCore g) := by
  unfold State.freeCore
  extract_lets flushed
  have hflushed : Departs s flushed :=
    (h.books (((books_refl Set.univ t).endRuns (Set.mem_univ g)).flushAcct (Set.mem_univ g))).elsewhere rfl rfl
  refine Departs.offerVacant (hflushed.updCore g ?_) (by rw [State.core_updCore_same])
  exact fun _ => .inr rfl

theorem Departs.releaseLines (g : Nat) : Departs s (t.releaseLines g) := h.elsewhere rfl rfl

theorem Departs.killGraphs (n : Nat) : Departs s (t.killGraphs n) := h.elsewhere rfl rfl

theorem Departs.unclaim (g : Nat) : Departs s (t.unclaim g) := by
  unfold State.unclaim
  extract_lets charged
  have hcharged : Departs s charged := h.books (((books_refl Set.univ t).bringUp _).bringUp _)
  refine (hcharged.updCore _ ?_).updCore _ ?_ <;> exact fun _ => .inl rfl

theorem Departs.zeroJournal (e : Nat) : Departs s (t.zeroJournal e) := h.elsewhere rfl rfl

theorem Departs.alike (e : Nat) : Departs s (t.alike e) := by
  unfold State.alike
  refine h.updCore (e + 1) ?_
  exact fun _ => .inl rfl

theorem Departs.separate (g : Nat) : Departs s (t.separate g) := by
  unfold State.separate
  extract_lets e alone flushed
  have halone : Departs s alone := (h.zeroJournal e).alike e
  have hflushed : Departs s flushed :=
    halone.books (((books_refl Set.univ alone).endRuns (Set.mem_univ _)).flushAcct (Set.mem_univ _))
  refine (hflushed.updCore _ ?_).updCore _ ?_ <;> exact fun _ => .inl rfl

theorem Departs.killOn (n g : Nat) : Departs s (t.killOn n g) := by
  unfold State.killOn
  extract_lets paid single told released dropped emptied parted
  have hpaid : Departs s paid := h.books (((books_refl Set.univ t).bringUp g).pay _ _ _ _)
  have hsingle : Departs s single := by
    unfold single
    split_ifs
    · exact hpaid.unclaim g
    · exact hpaid
  have htold : Departs s told := by
    refine hsingle.foldl (fun w k hw => ?_) _
    dsimp only
    split_ifs
    · exact hw
    · exact hw.post _
  have hemptied : Departs s emptied := (((htold.xchgTokens 3 g).releaseLines g).updQuad _ _).emptyQueues g
  have hparted : Departs s parted := by
    unfold parted
    split_ifs
    · exact hemptied.separate g
    · exact hemptied
  refine (hparted.freeCore g).updCore g ?_
  exact fun _ => .inl rfl

end

theorem killOn_vacates (s : State) (n g : Nat) : ((s.killOn n g).core g).tenant = none := by
  unfold State.killOn
  extract_lets paid single told released dropped emptied parted
  obtain ⟨hstrand, -⟩ := (freeCore_leaves parted g).vacant
  rw [State.core_updCore_same]
  simp only [Core.tenant, Core.shutTrap, hstrand, Option.map_none]

/-- Once each of some cores has been killed, none of them has a strand. -/
theorem foldl_killOn_vacates (n : Nat) (l : List Nat) (s : State) {g : Nat} (hg : g ∈ l) :
    ((l.foldl (fun s g => s.killOn n g) s).core g).tenant = none := by
  induction l generalizing s with
  | nil => cases hg
  | cons k r ih =>
    simp only [List.foldl_cons]
    by_cases hin : g ∈ r
    · exact ih (s.killOn n k) hin
    · obtain rfl : g = k := (List.mem_cons.mp hg).resolve_right hin
      exact ((departs_refl (s.killOn n g)).foldl (fun _ k ht => ht.killOn n k) r).vacated (killOn_vacates s n g)

/-- A core that runs a strand of a context is one of the context's cores. -/
theorem mem_coresOfCtx {s : State} {n g : Nat} (h : (s.core g).tenant = some n) : g ∈ s.coresOfCtx n := by
  obtain ⟨u, hstrand, hctx⟩ := Option.map_eq_some_iff.mp h
  have hlisted : (g, s.core g) ∈ s.cores := SMap.mem_of_get_ne fun hreset : s.core g = Core.reset => by
    rw [hreset] at hstrand
    cases hstrand
  exact List.mem_filterMap.mpr ⟨_, hlisted, by simp only [hstrand, hctx, if_true]⟩

/-! ## A context is torn down (R262, R418) -/

/-- The context is TEARING, and no core runs a strand of it. -/
def State.Torn (s : State) (n : Nat) : Prop := (s.ctx n).st = .tearing ∧ ∀ g, (s.core g).tenant ≠ some n

theorem Departs.torn {s t : State} (h : Departs s t) {n : Nat} (hn : s.Torn n) : t.Torn n :=
  ⟨(h.st n).trans hn.1, h.untenanted hn.2⟩

/-- The killed context's graphs, queues, records and spill areas go. -/
theorem tear_live {s : State} {n : Nat} (hn : n ≠ 0) (hst : (s.ctx n).st = .live ∨ (s.ctx n).st = .stopping) :
    Departs (((s.updCtx n fun c => { c with st := .tearing }).coresOfCtx n).foldl (fun s g => s.killOn n g)
      (s.updCtx n fun c => { c with st := .tearing })) (s.tear n) := by
  unfold State.tear
  rw [if_neg hn, if_neg (by rintro ⟨hlive, hstopping⟩; exact hst.elim hlive hstopping)]
  extract_lets marked killed ended sealed' bare lost
  have hended : Departs killed ended := by
    refine (departs_refl killed).foldl (fun w d hw => hw.foldl (fun v k hv => ?_) _) _
    dsimp only
    split_ifs
    · exact hv.endDomain d k .free
    · exact hv
  have hsealed : Departs killed sealed' := (hended.killGraphs n).sealMboxes n
  have hbare : Departs killed bare := hsealed.setItems _
  have hlost : Departs killed lost := hbare.foldl (fun w p hw => hw.loseArea n p.1 p.2.idx) _
  refine (hlost.updCtx n ?_).noteWaits
  exact fun _ => rfl

section
variable (s : State) (n : Nat)

/-- A teardown takes effect in a tenant's context that is LIVE or STOPPING (R249). -/
def State.tearable : Prop := n ≠ 0 ∧ ((s.ctx n).st = .live ∨ (s.ctx n).st = .stopping)

theorem tear_idle (h : ¬ s.tearable n) : s.tear n = s ∨ s.tear n = s.ctxErr n 1 := by
  unfold State.tear
  split_ifs with hzero hst
  · exact .inl rfl
  · exact .inr rfl
  · exact absurd ⟨hzero, by tauto⟩ h

theorem tear_core (g : Nat) : ((s.tear n).core g).tenant = (s.core g).tenant ∨ ((s.tear n).core g).tenant = none := by
  by_cases h : s.tearable n
  · obtain ⟨hn, hst⟩ := h
    have hkilled := (departs_refl (s.updCtx n fun c => { c with st := .tearing })).foldl (fun _ g ht => ht.killOn n g)
      ((s.updCtx n fun c => { c with st := .tearing }).coresOfCtx n)
    exact (hkilled.trans (tear_live hn hst)).core g
  · obtain hidle | hidle := tear_idle s n h
    · exact .inl (by rw [hidle])
    · exact .inl (by rw [hidle]; rfl)

/-- No other context changes its STATE. -/
theorem tear_st_other {m : Nat} (hm : m ≠ n) : ((s.tear n).ctx m).st = (s.ctx m).st := by
  by_cases h : s.tearable n
  · obtain ⟨hn, hst⟩ := h
    have hkilled := (departs_refl (s.updCtx n fun c => { c with st := .tearing })).foldl (fun _ g ht => ht.killOn n g)
      ((s.updCtx n fun c => { c with st := .tearing }).coresOfCtx n)
    rw [(hkilled.trans (tear_live hn hst)).st, State.ctx_updCtx_other _ _ hm]
  · obtain hidle | hidle := tear_idle s n h
    · rw [hidle]
    · rw [hidle, State.ctxErr, State.ctx_updCtx_other _ _ hm]

variable {s n}

theorem tear_torn (h : s.tearable n) : (s.tear n).Torn n := by
  obtain ⟨hn, hst⟩ := h
  refine (tear_live hn hst).torn ?_
  generalize hmarked : (s.updCtx n fun c => { c with st := .tearing }) = marked
  have hkilled := (departs_refl marked).foldl (fun _ g ht => ht.killOn n g) (marked.coresOfCtx n)
  refine ⟨?_, fun g hg => ?_⟩
  · rw [hkilled.st, ← hmarked, State.ctx_updCtx_same]
  · obtain hsame | hnone := hkilled.core g
    · have hgone := foldl_killOn_vacates n (marked.coresOfCtx n) marked (mem_coresOfCtx (hsame.symm.trans hg))
      simp [hgone] at hg
    · simp [hnone] at hg

theorem torn_tear {m : Nat} (h : s.Torn m) : (s.tear n).Torn m := by
  obtain ⟨htearing, hgone⟩ := h
  refine ⟨?_, fun g => ?_⟩
  · by_cases hm : m = n
    · have hidle : ¬ s.tearable n := fun hlive => by simp [← hm, State.tearable, htearing] at hlive
      obtain hsame | hsame := tear_idle s n hidle
      · rw [hsame, htearing]
      · rw [hsame, State.ctxErr, ← hm, State.ctx_updCtx_same, htearing]
    · rw [tear_st_other s n hm, htearing]
  · obtain hsame | hnone := tear_core s n g
    · rw [hsame]
      exact hgone g
    · simp [hnone]

end

theorem foldl_tear_keeps (l : List Nat) {s : State} {m : Nat} (h : s.Torn m) : (l.foldl State.tear s).Torn m := by
  induction l generalizing s with
  | nil => exact h
  | cons n r ih => exact ih (torn_tear h)

/-- Of the contexts torn down one after the other, each that a teardown takes effect in ends TEARING. -/
theorem foldl_tear_torn (l : List Nat) {s : State} {m : Nat} (hm : m ∈ l) (h : s.tearable m) : (l.foldl State.tear s).Torn m := by
  induction l generalizing s with
  | nil => cases hm
  | cons n r ih =>
    by_cases hn : m = n
    · exact foldl_tear_keeps r (hn ▸ tear_torn h)
    · have hlater : (s.tear n).tearable m := by simpa only [State.tearable, tear_st_other s n hn] using h
      exact ih ((List.mem_cons.mp hm).resolve_left hn) hlater

/-! ## ADDRESS_SPACE_TEARDOWN -/

/-- The failing unit's error is counted, and the blocks it touched are quarantined (R343, R419). -/
def State.errorNoted (s : State) (u : FailUnit) : State :=
  match u with
  | .mxu m => s.countUe (m / 170) 0
  | .slice _ bs pa => (bs.foldl State.quarantine s).countUe (homeDie (unalias pa)) pa
  | _ => s

theorem exec_addressSpaceTeardown (u : FailUnit) (s : State) :
    exec (.addressSpaceTeardown u) s = .next (((s.errorNoted u).tornBy u).foldl State.tear (s.errorNoted u)) := by
  cases u <;> rfl

/-- The cores and the contexts are where no error is noted. -/
theorem quarantine_tables (s : State) (b : Nat) : ((s.quarantine b).cores, (s.quarantine b).ctxs) = (s.cores, s.ctxs) := by
  unfold State.quarantine
  dsimp only
  split_ifs <;> rfl

theorem errorNoted_tables (s : State) (u : FailUnit) : ((s.errorNoted u).cores, (s.errorNoted u).ctxs) = (s.cores, s.ctxs) := by
  cases u with
  | slice n bs pa => exact foldl_part_eq (part := fun s : State => (s.cores, s.ctxs)) quarantine_tables bs s
  | _ => rfl

theorem errorNoted_tornBy (s : State) (u : FailUnit) : (s.errorNoted u).tornBy u = s.tornBy u := by
  obtain ⟨hcores, hctxs⟩ := Prod.mk.inj (errorNoted_tables s u)
  simp only [State.tornBy, State.resident, State.core, hcores, hctxs]

theorem addressSpaceTeardown_tears (s : State) (u : FailUnit) : ∃ t : State, exec (.addressSpaceTeardown u) s = .next t
    ∧ ∀ m, m ∈ s.tornBy u → s.tearable m → t.Torn m := by
  refine ⟨_, exec_addressSpaceTeardown u s, fun m hm h => ?_⟩
  obtain ⟨-, hctxs⟩ := Prod.mk.inj (errorNoted_tables s u)
  rw [errorNoted_tornBy]
  exact foldl_tear_torn _ hm (by simpa only [State.tearable, State.ctx, hctxs] using h)

end Machine
end Sys2Proof
end

section
/-! Contexts (R248, R249, R291): CTXDESC, and CTXCTL's commands. -/

namespace Sys2Proof.Machine

/-! ## Objects complete (R276) -/

/-- A context without its objects. -/
def Ctx.sansObjs (c : Ctx) : Ctx := { c with objs := [] }

theorem Ctx.eq_of_sansObjs {c c' : Ctx} (h : c'.sansObjs = c.sansObjs) : c' = { c with objs := c'.objs } :=
  congrArg (fun x : Ctx => { x with objs := c'.objs }) h

theorem release_ctxs (s : State) (n id : Nat) (out : Bool) : (s.release n id out).ctxs = s.ctxs := by
  refine foldl_part_eq (fun s it => ?_) s.items s
  split_ifs
  · split
    · split_ifs <;> rfl
    · rfl
  · rfl

theorem setObj_sansObjs (s : State) (n id : Nat) (o : Obj) (m : Nat) : ((s.setObj n id o).ctx m).sansObjs = (s.ctx m).sansObjs := by
  unfold State.setObj
  by_cases hm : m = n
  · rw [hm, State.ctx_updCtx_same]
    rfl
  · rw [State.ctx_updCtx_other _ _ hm]

theorem setObj_release_sansObjs (s : State) (n id : Nat) (o : Obj) (out : Bool) (m : Nat) :
    (((s.setObj n id o).release n id out).ctx m).sansObjs = (s.ctx m).sansObjs := by
  simpa only [State.ctx, release_ctxs] using setObj_sansObjs s n id o m

/-- Completing objects changes nothing of a context but objects. -/
theorem completeObj_sansObjs (f : Nat) (s : State) (n id m : Nat) :
    ((State.completeObj f s n id).ctx m).sansObjs = (s.ctx m).sansObjs := by
  induction f generalizing s id with
  | zero => rfl
  | succ f ih =>
    unfold State.completeObj
    split
    · rfl
    · dsimp only
      split_ifs
      · rfl
      · split
        · exact setObj_release_sansObjs ..
        · split_ifs
          · exact setObj_release_sansObjs ..
          · exact (ih _ _).trans ((setObj_sansObjs ..).trans (setObj_release_sansObjs ..))

theorem Departs.completeObj {s t : State} (h : Departs s t) (f n id : Nat) : Departs s (State.completeObj f t n id) :=
  h.trans ⟨fun g => .inl (by simp only [State.core, State.completeObj_cores]),
    fun m => (congrArg Ctx.shown (completeObj_sansObjs f t n id m) :)⟩

theorem Departs.launchEnd {s t : State} (h : Departs s t) (n id : Nat) (cancelled : Bool) : Departs s (t.launchEnd n id cancelled) := by
  unfold State.launchEnd
  split
  · exact h
  · split_ifs
    · exact h
    · exact (h.setObj _ _ _).completeObj _ _ _

theorem Departs.discardItem {s t : State} (h : Departs s t) (it : Item) (cancelled : Bool) : Departs s (t.discardItem it cancelled) := by
  unfold State.discardItem
  dsimp only
  split
  · exact (h.setItems _).noteWaits
  · exact (((h.setItems _).loseArea _ _ _).launchEnd _ _ _).noteWaits

/-! ## The last strand of a context (R249) -/

/-- A context is empty when no core lists it and no record is its. -/
theorem ctxEmpty_iff {s : State} {n : Nat} :
    s.ctxEmpty n = true ↔ (∀ p ∈ s.cores, p.2.tenant ≠ some n) ∧ ∀ it ∈ s.items, it.ctx ≠ n := by
  simp only [State.ctxEmpty, Bool.and_eq_true, List.all_eq_true, decide_eq_true_eq]
  refine and_congr_left fun _ => forall₂_congr fun p _ => ?_
  cases hp : p.2.strand <;> simp [Core.tenant, hp]

theorem ctxEmpty_of_none {s : State} {n : Nat} (hcores : ∀ g u, (g, u) ∈ s.cores → ∀ r, u.strand = some r → r.ctx ≠ n)
    (hitems : ∀ it ∈ s.items, it.ctx ≠ n) : s.ctxEmpty n = true := by
  refine ctxEmpty_iff.mpr ⟨fun p hp htenant => ?_, hitems⟩
  obtain ⟨r, hr, hctx⟩ := Option.map_eq_some_iff.mp htenant
  exact hcores p.1 p.2 hp r hr hctx

theorem stopCheck_st {s : State} {n : Nat} (hst : (s.ctx n).st = .stopping ∨ (s.ctx n).st = .ready) :
    ((s.stopCheck n).ctx n).st = .stopping ∨ ((s.stopCheck n).ctx n).st = .ready := by
  unfold State.stopCheck
  split_ifs
  · exact .inr (by rw [State.ctx_updCtx_same])
  · exact hst

theorem stopCheck_err (s : State) (n : Nat) : ((s.stopCheck n).ctx n).err = (s.ctx n).err := by
  unfold State.stopCheck
  split_ifs
  · rw [State.ctx_updCtx_same]
    rfl
  · rfl

/-- A context that STOPs with nothing left is READY at once; READY, it stays so. -/
theorem stopCheck_ready {s : State} {n : Nat} (hst : (s.ctx n).st = .stopping ∧ s.ctxEmpty n = true ∨ (s.ctx n).st = .ready) :
    ((s.stopCheck n).ctx n).st = .ready := by
  unfold State.stopCheck
  obtain ⟨hstopping, hempty⟩ | hready := hst
  · rw [if_pos (by simp [hstopping, hempty]), State.ctx_updCtx_same]
  · rw [if_neg (by simp [hready]), hready]

/-- An empty context has no record that waits on its objects. -/
theorem release_empty {s : State} {n : Nat} (h : ∀ it ∈ s.items, it.ctx ≠ n) (id : Nat) (out : Bool) : s.release n id out = s := by
  unfold State.release
  generalize s.items = l at h
  induction l with
  | nil => rfl
  | cons it r ih =>
    obtain ⟨hne, hrest⟩ := List.forall_mem_cons.mp h
    rw [List.foldl_cons, if_neg hne]
    exact ih hrest

theorem completeObj_items_empty {s : State} {n : Nat} (h : ∀ it ∈ s.items, it.ctx ≠ n) (f id : Nat) :
    (State.completeObj f s n id).items = s.items := by
  have hdone (s : State) (h : ∀ it ∈ s.items, it.ctx ≠ n) (id : Nat) (o : Obj) (out : Bool) :
      (s.setObj n id o).release n id out = s.setObj n id o := release_empty (s := s.setObj n id o) h id out
  induction f generalizing s id with
  | zero => rfl
  | succ f ih =>
    unfold State.completeObj
    split
    · rfl
    · simp only [hdone s h]
      split_ifs
      · rfl
      · split
        · rfl
        · split_ifs
          · rfl
          · exact ih (s := State.setObj (s.setObj n id _) n _ _) h _

theorem completeAll_empty {s : State} {n : Nat} (h : s.ctxEmpty n = true) (ids : List Nat) :
    (ids.foldl (fun s k => State.completeObj 4 s n k) s).ctxEmpty n = true := by
  induction ids generalizing s with
  | nil => exact h
  | cons k r ih =>
    obtain ⟨hcores, hitems⟩ := ctxEmpty_iff.mp h
    refine ih (ctxEmpty_iff.mpr ⟨?_, ?_⟩)
    · rwa [State.completeObj_cores]
    · rwa [completeObj_items_empty hitems]

/-! ## The job is cancelled (R217) -/

/-- A cancelled object is marked, and a launch loses the strands that have not been generated. -/
def State.cancelMark (n : Nat) (s : State) (k : Nat) : State :=
  match (s.ctx n).obj? k with
  | none => s
  | some o =>
    if o.done then s
    else
      let left := match SMap.get? (s.ctx n).templates k with | some t => t.count - t.r.index | none => 0
      s.setObj n k { o with canc := true, out := true, count := if o.lvl = 1 then o.count - left else o.count }

/-- Cancelled objects and their launches' templates. -/
def State.cancelMarks (s : State) (n : Nat) (ids : List Nat) : State :=
  (ids.foldl (State.cancelMark n) s).updCtx n fun c => { c with templates := c.templates.filter fun t => !ids.contains t.1 }

/-- A record of a cancelled launch. -/
def Item.cancelled (n : Nat) (ids : List Nat) (it : Item) : Bool := decide (it.ctx = n) && ids.contains it.r.launch

/-- Records of cancelled launches are discarded. -/
def State.cancelItems (s : State) (n : Nat) (ids : List Nat) : State :=
  (s.items.filter (Item.cancelled n ids)).foldl (fun s it => s.discardItem it true) s

/-- A running strand of a cancelled launch is marked, and with force interrupted. -/
def Core.cancelled (n : Nat) (ids : List Nat) (force : Bool) (h : Word) (k : Core) : Core :=
  match k.strand with
  | some t =>
    if t.ctx = n && ids.contains t.r.launch then
      { k with strand := some { t with r := { t.r with cx := true }, cancel := if force then some h else t.cancel } }
    else k
  | none => k

/-- A cancel, but for the check whether its context's last strand has ended. -/
def State.cancelAll (s : State) (n : Nat) (ids : List Nat) (force : Bool) (h : Word) : State :=
  let s := (s.cancelMarks n ids).cancelItems n ids
  let s := { s with cores := SMap.mapVals s.cores fun _ k => k.cancelled n ids force h }
  ids.foldl (fun s k => State.completeObj 4 s n k) s

theorem cancelObj_cases (s : State) (n id : Nat) (force : Bool) (h : Word) : s.cancelObj n id force h = s
    ∨ ∃ ids, s.cancelObj n id force h = ((s.cancelAll n ids force h).stopCheck n).noteWaits := by
  unfold State.cancelObj
  dsimp only
  split
  · exact .inl rfl
  · split
    · exact .inl rfl
    · exact .inr ⟨_, rfl⟩

theorem cancelled_tenant (n : Nat) (ids : List Nat) (force : Bool) (h : Word) (k : Core) : (k.cancelled n ids force h).tenant = k.tenant := by
  unfold Core.cancelled
  split
  · next t ht =>
    split
    · simp only [Core.tenant, ht, Option.map_some]
    · rfl
  · rfl

section
variable {s t : State} (h : Departs s t)
include h

theorem Departs.cancelMarks (n : Nat) (ids : List Nat) : Departs s (t.cancelMarks n ids) := by
  unfold State.cancelMarks
  refine (h.foldl (fun w k hw => ?_) ids).updCtx n ?_
  · unfold State.cancelMark
    split
    · exact hw
    · split
      · exact hw
      · exact hw.setObj _ _ _
  · exact fun _ => rfl

theorem Departs.cancelAll (n : Nat) (ids : List Nat) (force : Bool) (w : Word) : Departs s (t.cancelAll n ids force w) := by
  have hitems : Departs s ((t.cancelMarks n ids).cancelItems n ids) :=
    (h.cancelMarks n ids).foldl (fun _ it hv => hv.discardItem it true) _
  exact (hitems.mapCores fun _ k => cancelled_tenant n ids force w k).foldl (fun _ k hv => hv.completeObj 4 n k) ids

end

theorem cancelMarks_tables (s : State) (n : Nat) (ids : List Nat) :
    ((s.cancelMarks n ids).cores, (s.cancelMarks n ids).items) = (s.cores, s.items) := by
  refine foldl_part_eq (part := fun s : State => (s.cores, s.items)) (fun w k => ?_) ids s
  unfold State.cancelMark
  split
  · rfl
  · split_ifs <;> rfl

/-- An empty context has nothing that a cancel discards, and stays empty. -/
theorem cancelAll_empty {s : State} {n : Nat} (hempty : s.ctxEmpty n = true) (ids : List Nat) (force : Bool) (h : Word) :
    (s.cancelAll n ids force h).ctxEmpty n = true := by
  obtain ⟨hcores, hitems⟩ := ctxEmpty_iff.mp hempty
  obtain ⟨hmarkedCores, hmarkedItems⟩ := Prod.mk.inj (cancelMarks_tables s n ids)
  have hnone : (s.cancelMarks n ids).items.filter (Item.cancelled n ids) = [] := List.filter_eq_nil_iff.mpr fun it hit => by
    simp [Item.cancelled, hitems it (hmarkedItems ▸ hit)]
  have hkept : (s.cancelMarks n ids).cancelItems n ids = s.cancelMarks n ids := by
    rw [State.cancelItems, hnone, List.foldl_nil]
  unfold State.cancelAll
  rw [hkept]
  extract_lets marked flagged
  have hflagged : flagged.ctxEmpty n = true := by
    refine ctxEmpty_iff.mpr ⟨fun p hp => ?_, fun it hit => hitems it (hmarkedItems ▸ hit)⟩
    obtain ⟨q, hq, rfl⟩ := List.mem_map.mp hp
    rw [cancelled_tenant]
    exact hcores q (hmarkedCores ▸ hq)
  exact completeAll_empty hflagged ids

/-! ## The commands (R248, R249, R291) -/

/-- A context that only its descriptor's address is left of. -/
def Ctx.freed (c : Ctx) : Ctx := { Ctx.reset with desc := c.desc }

/-- CREATE: the descriptor's image, the account block zeroed, the level table at its reset. -/
def State.created (s : State) (n : Nat) : State :=
  let d := s.readDesc (s.ctx n).desc.toNat
  ((s.updCtx n fun c => { c.freed with st := .ready, d := some d }).hwWrite (fld d.copies.acctbase 51 12 * 4096) 512 0).resetLevels n

/-- START's job, phase, graph and launch (R291). -/
def startObjs : SMap Obj := [(1, Obj.new 4 0 1), (2, Obj.new 3 1 1), (3, Obj.new 2 2 1), (4, Obj.new 1 3 1)]

def startLayer (lmask : BitVec 4) : Nat := ((List.range 4).find? fun i => lmask.toNat.testBit i).getD 0

def Ctx.started (c : Ctx) : Ctx := { c with st := .live, err := 0, objs := startObjs, templates := [], nextId := 5 }

/-- START: the objects, and the resident program's record in its ring. -/
def State.started (s : State) (n : Nat) (d : Desc) : State :=
  (s.updCtx n Ctx.started).enqueue n 0 (startLayer d.res.lmask) 0 { d.res with launch := 4, index := 0 } none

def Ctx.stopping (c : Ctx) : Ctx := { c with st := .stopping, err := 0 }

/-- STOP: the job is cancelled with force. -/
def State.stopped (s : State) (n : Nat) : State :=
  ((s.updCtx n Ctx.stopping).cancelObj n 1 true (handleWord 4 n 1)).stopCheck n

/-- DESTROY: nothing of the context is on its way, and no record is left. -/
def State.destroyed (s : State) (n : Nat) : State :=
  let t := s.notOutstanding ((s.ctx n).mboxes.flatMap fun p => p.2.ring)
  { t.updCtx n Ctx.freed with
    posts := t.posts.filter (fun p => decide (p.ctx ≠ n)), items := t.items.filter fun it => decide (it.ctx ≠ n) }

section
variable {s : State} {n : BitVec 12}

theorem exec_ctxdescWrite_free (v : Word) (hn : n ≠ 0) (hst : (s.ctx n.toNat).st = .free) :
    exec (.ctxdescWrite n v) s = .next (s.updCtx n.toNat fun c => { c with desc := v &&& 0x000FFFFFFFFFFE00#64 }) := by
  change execCtxdescWrite n v s = _
  rw [execCtxdescWrite, if_neg hn, if_pos hst]
  rfl

theorem exec_ctxdescWrite_used (v : Word) (hn : n ≠ 0) (hst : (s.ctx n.toNat).st ≠ .free) :
    exec (.ctxdescWrite n v) s = .next (s.ctxErr n.toNat 1) := by
  change execCtxdescWrite n v s = _
  rw [execCtxdescWrite, if_neg hn, if_neg hst]

variable (hn : n.toNat ≠ 0)
include hn

theorem exec_ctxCreate_used (hst : (s.ctx n.toNat).st ≠ .free) : exec (.ctxCreate n) s = .next (s.ctxErr n.toNat 1) := by
  change execCtxCreate n s = _
  simp only [execCtxCreate, if_neg hn, if_pos hst]

theorem exec_ctxCreate_invalid (hst : (s.ctx n.toNat).st = .free) (hdesc : s.descValid (s.ctx n.toNat).desc.toNat = false) :
    exec (.ctxCreate n) s = .next (s.ctxErr n.toNat 2) := by
  change execCtxCreate n s = _
  simp only [execCtxCreate, if_neg hn, hst, hdesc, ne_eq, not_true_eq_false, if_false, Bool.not_false, if_true]

theorem exec_ctxCreate_creates (hst : (s.ctx n.toNat).st = .free) (hdesc : s.descValid (s.ctx n.toNat).desc.toNat = true) :
    exec (.ctxCreate n) s = .next (s.created n.toNat) := by
  change execCtxCreate n s = _
  simp only [execCtxCreate, if_neg hn, hst, hdesc, ne_eq, not_true_eq_false, if_false, Bool.not_true, Bool.false_eq_true]
  rfl

theorem exec_ctxStart_refused (hst : (s.ctx n.toNat).st ≠ .ready) : exec (.ctxStart n) s = .next (s.ctxErr n.toNat 1) := by
  change execCtxStart n s = _
  unfold execCtxStart
  dsimp only
  split
  · next hready _ => exact absurd hready hst
  · rw [if_neg hn]

omit hn in
theorem exec_ctxStart_starts {d : Desc} (hst : (s.ctx n.toNat).st = .ready) (hd : (s.ctx n.toNat).d = some d) :
    exec (.ctxStart n) s = .next (s.started n.toNat d) := by
  change execCtxStart n s = _
  simp only [execCtxStart, hst, hd]
  rfl

omit hn in
theorem exec_ctxStop_stops (hst : (s.ctx n.toNat).st = .live) : exec (.ctxStop n) s = .next (s.stopped n.toNat) := if_pos hst

theorem exec_ctxStop_refused (hst : (s.ctx n.toNat).st ≠ .live) : exec (.ctxStop n) s = .next (s.ctxErr n.toNat 1) := by
  change execCtxStop n s = _
  rw [execCtxStop, if_neg hst, if_neg hn]

omit hn in
theorem exec_ctxDestroy_destroys (hst : (s.ctx n.toNat).st = .ready ∨ (s.ctx n.toNat).st = .dead) :
    exec (.ctxDestroy n) s = .next (s.destroyed n.toNat) := if_pos hst

theorem exec_ctxDestroy_refused (hready : (s.ctx n.toNat).st ≠ .ready) (hdead : (s.ctx n.toNat).st ≠ .dead) :
    exec (.ctxDestroy n) s = .next (s.ctxErr n.toNat 1) := by
  change execCtxDestroy n s = _
  simp only [execCtxDestroy, hready, hdead, or_self, if_false, hn]

omit hn in
theorem exec_teardownComplete_ends (hst : (s.ctx n.toNat).st = .tearing) (hempty : s.ctxEmpty n.toNat = true) :
    exec (.teardownComplete n) s = .next (s.updCtx n.toNat fun c => { c with st := .dead, err := 3, msi := true }) :=
  congrArg Host.Outcome.next (if_pos (by simp [hst, hempty]))

end

/-! ## The states that the commands leave -/

section
variable (s : State) (n : Nat)

theorem resetLevels_books {t : State} (h : Books Set.univ s t) : Books Set.univ s (t.resetLevels n) :=
  h.foldl (fun _ _ hw => hw.hwWrite _ _ _) _

theorem created_ctx :
    (s.created n).ctx n = { (s.ctx n).freed with st := .ready, d := some (s.readDesc (s.ctx n).desc.toNat) } := by
  have hbooks := resetLevels_books _ n ((books_refl Set.univ (s.updCtx n fun c =>
    { c.freed with st := .ready, d := some (s.readDesc (s.ctx n).desc.toNat) })).hwWrite
      (fld (s.readDesc (s.ctx n).desc.toNat).copies.acctbase 51 12 * 4096) 512 0)
  rw [State.created, State.ctx, hbooks.ctxs, ← State.ctx, State.ctx_updCtx_same]

theorem started_ctx (d : Desc) : (s.started n d).ctx n = (s.ctx n).started := State.ctx_updCtx_same s n Ctx.started

/-- The resident program's record is the last that entered a ring. -/
theorem started_record (d : Desc) : ∃ it, it ∈ (s.started n d).items ∧ it.rid = s.stamp ∧ it.ctx = n ∧ it.die = 0 ∧ it.place = .ring
    ∧ it.r.launch = 4 ∧ it.r.index = 0 ∧ it.r.pri = d.res.pri ∧ it.r.pc = d.res.pc ∧ it.layer = startLayer d.res.lmask :=
  ⟨_, List.mem_append_right _ (List.mem_singleton_self _), rfl, rfl, rfl, rfl, rfl, rfl, rfl, rfl, rfl⟩

/-- START's ring is that of the lowest layer that a record allows. -/
theorem startLayer_lowest : ∀ m : BitVec 4, m ≠ 0 →
    m.toNat.testBit (startLayer m) = true ∧ ∀ j, j < startLayer m → m.toNat.testBit j = false := by decide

theorem notOutstanding_ctx (l : List RqPacket) : (s.notOutstanding l).ctx n = s.ctx n :=
  foldl_part_eq (part := fun s : State => s.ctx n) (f := fun s (p : RqPacket) => s.lessOutstanding p.pkt.src) (fun _ _ => rfl) _ s

theorem destroyed_ctx : (s.destroyed n).ctx n = (s.ctx n).freed := by
  have hfreed := State.ctx_updCtx_same (s.notOutstanding ((s.ctx n).mboxes.flatMap fun p => p.2.ring)) n Ctx.freed
  rw [notOutstanding_ctx] at hfreed
  exact hfreed

theorem destroyed_items : ∀ it ∈ (s.destroyed n).items, it.ctx ≠ n := fun _ hit => of_decide_eq_true (List.mem_filter.mp hit).2

/-- A context that STOPs has no strand left, or is STOPPING while it has. -/
theorem stopped_ctx : ((s.stopped n).ctx n).err = 0 ∧ (((s.stopped n).ctx n).st = .stopping ∨ ((s.stopped n).ctx n).st = .ready)
    ∧ (s.ctxEmpty n = true → ((s.stopped n).ctx n).st = .ready) := by
  have hmarked : ((s.updCtx n Ctx.stopping).ctx n).shown = (.stopping, 0) := by
    rw [State.ctx_updCtx_same]
    rfl
  unfold State.stopped
  generalize hs : s.updCtx n Ctx.stopping = marked at hmarked ⊢
  have hcheck {w : State} (hw : Departs marked w) : ((w.stopCheck n).ctx n).err = 0
      ∧ (((w.stopCheck n).ctx n).st = .stopping ∨ ((w.stopCheck n).ctx n).st = .ready)
      ∧ (w.ctxEmpty n = true → ((w.stopCheck n).ctx n).st = .ready) := by
    obtain ⟨hst, herr⟩ := Prod.mk.inj ((hw.ctx n).trans hmarked)
    exact ⟨(stopCheck_err w n).trans herr, stopCheck_st (.inl hst), fun hempty => stopCheck_ready (.inl ⟨hst, hempty⟩)⟩
  obtain hsame | ⟨ids, hids⟩ := cancelObj_cases marked n 1 true (handleWord 4 n 1)
  · rw [hsame]
    obtain ⟨herr, hst, hready⟩ := hcheck (departs_refl marked)
    exact ⟨herr, hst, fun hempty => hready (hs ▸ hempty)⟩
  · rw [hids]
    obtain ⟨herr, hst, hready⟩ := hcheck ((departs_refl marked).cancelAll n ids true (handleWord 4 n 1))
    exact ⟨(stopCheck_err _ n).trans herr, stopCheck_st hst,
      fun hempty => stopCheck_ready (.inr (hready (cancelAll_empty (hs ▸ hempty) ids _ _)))⟩

end

/-- Where context 0 is no tenant (R247), neither LIVE nor STOPPING, every clause of `Obligations.ContextsMove` holds. -/
theorem contextsMove_of_zero_idle (s : State) (n : BitVec 12) (v : Word) (fu : FailUnit) (hn : n ≠ 0)
    (hzero : ¬ ((s.ctx 0).st = .live ∨ (s.ctx 0).st = .stopping)) :
    let k := n.toNat
    let c := s.ctx k
    let err := fun e => s.updCtx k fun c => { c with err := e }
    (c.st = .free → exec (.ctxdescWrite n v) s = .next (s.updCtx k fun c => { c with desc := v &&& 0x000FFFFFFFFFFE00#64 }))
    ∧ (c.st ≠ .free → exec (.ctxdescWrite n v) s = .next (err 1) ∧ exec (.ctxCreate n) s = .next (err 1))
    ∧ (c.st = .free → s.descValid c.desc.toNat = false → exec (.ctxCreate n) s = .next (err 2))
    ∧ (c.st = .free → s.descValid c.desc.toNat = true → ∃ t : State, exec (.ctxCreate n) s = .next t ∧ (t.ctx k).st = .ready
        ∧ (t.ctx k).err = 0 ∧ (t.ctx k).d = some (s.readDesc c.desc.toNat))
    ∧ (∀ d, c.st = .ready → c.d = some d → ∃ t : State, exec (.ctxStart n) s = .next t ∧ (t.ctx k).st = .live ∧ (t.ctx k).nextId = 5
        ∧ (t.ctx k).objs = [(1, Obj.new 4 0 1), (2, Obj.new 3 1 1), (3, Obj.new 2 2 1), (4, Obj.new 1 3 1)]
        ∧ ∃ it, it ∈ t.items ∧ it.rid = s.stamp ∧ it.ctx = k ∧ it.die = 0 ∧ it.place = .ring ∧ it.r.launch = 4 ∧ it.r.index = 0
          ∧ it.r.pri = d.res.pri ∧ it.r.pc = d.res.pc
          ∧ (d.res.lmask ≠ 0 → d.res.lmask.toNat.testBit it.layer = true ∧ ∀ j, j < it.layer → d.res.lmask.toNat.testBit j = false))
    ∧ (c.st ≠ .ready → exec (.ctxStart n) s = .next (err 1))
    ∧ (c.st = .live → (State.completeObj 4 s k 1).ctx k = { c with objs := ((State.completeObj 4 s k 1).ctx k).objs })
    ∧ (c.st = .live → ∃ t : State, exec (.ctxStop n) s = .next t ∧ (t.ctx k).err = 0 ∧ ((t.ctx k).st = .stopping ∨ (t.ctx k).st = .ready)
        ∧ ((∀ g u, (g, u) ∈ s.cores → ∀ r, u.strand = some r → r.ctx ≠ k) → (∀ it ∈ s.items, it.ctx ≠ k) → (t.ctx k).st = .ready))
    ∧ (c.st ≠ .live → exec (.ctxStop n) s = .next (err 1))
    ∧ (c.st = .ready ∨ c.st = .dead → ∃ t : State, exec (.ctxDestroy n) s = .next t ∧ (t.ctx k).st = .free ∧ (t.ctx k).desc = c.desc
        ∧ (t.ctx k).d = none ∧ ∀ it ∈ t.items, it.ctx ≠ k)
    ∧ (c.st ≠ .ready → c.st ≠ .dead → exec (.ctxDestroy n) s = .next (err 1))
    ∧ (∃ t : State, exec (.addressSpaceTeardown fu) s = .next t ∧ ∀ m, m ∈ s.tornBy fu → (s.ctx m).st = .live ∨ (s.ctx m).st = .stopping →
        (t.ctx m).st = .tearing ∧ ∀ g u, (t.core g).strand = some u → u.ctx ≠ m)
    ∧ (c.st = .tearing → s.ctxEmpty k = true → exec (.teardownComplete n) s =
        .next (s.updCtx k fun c => { c with st := .dead, err := 3, msi := true })) := by
  intro k c err
  have hk : n.toNat ≠ 0 := BitVec.toNat_ne.mp hn
  refine ⟨exec_ctxdescWrite_free v hn, fun hst => ⟨exec_ctxdescWrite_used v hn hst, exec_ctxCreate_used hk hst⟩, exec_ctxCreate_invalid hk,
    ?create, ?start, exec_ctxStart_refused hk, fun _ => Ctx.eq_of_sansObjs (completeObj_sansObjs 4 s k 1 k), ?stop, exec_ctxStop_refused hk,
    ?destroy, exec_ctxDestroy_refused hk, ?teardown, exec_teardownComplete_ends⟩
  case create =>
    intro hst hdesc
    refine ⟨_, exec_ctxCreate_creates hk hst hdesc, ?_⟩
    rw [created_ctx]
    exact ⟨rfl, rfl, rfl⟩
  case start =>
    intro d hst hd
    obtain ⟨it, hin, hrid, hctx, hdie, hplace, hlaunch, hindex, hpri, hpc, hlayer⟩ := started_record s k d
    refine ⟨_, exec_ctxStart_starts hst hd, ?_⟩
    rw [started_ctx]
    exact ⟨rfl, rfl, rfl, it, hin, hrid, hctx, hdie, hplace, hlaunch, hindex, hpri, hpc, hlayer ▸ startLayer_lowest d.res.lmask⟩
  case stop =>
    intro hst
    obtain ⟨herr, hstop, hready⟩ := stopped_ctx s k
    exact ⟨_, exec_ctxStop_stops hst, herr, hstop, fun hcores hitems => hready (ctxEmpty_of_none hcores hitems)⟩
  case destroy =>
    intro hst
    refine ⟨_, exec_ctxDestroy_destroys hst, ?_⟩
    rw [destroyed_ctx]
    exact ⟨rfl, rfl, rfl, destroyed_items s k⟩
  case teardown =>
    obtain ⟨t, hexec, htorn⟩ := addressSpaceTeardown_tears s fu
    refine ⟨t, hexec, fun m hm hst => ?_⟩
    obtain ⟨htearing, hgone⟩ := htorn m hm ⟨fun h => hzero (h ▸ hst), hst⟩
    exact ⟨htearing, fun g u hu hctx => hgone g (hctx ▸ State.tenant_of_strand hu)⟩

end Sys2Proof.Machine
end

section
/-! Contexts (R247 to R249, R262, R291, R418): the context that no tenant has. -/

namespace Sys2Proof.Machine

/-- Context 0, which R247 makes no tenant, stands in the table as LIVE: CTX_START never makes it so, and `State` does not exclude it. -/
def zeroLive : State := State.reset.updCtx 0 fun c => { c with st := .live }

/-- The loss of the host port names every LIVE context (R418). -/
theorem zeroLive_tornBy : zeroLive.tornBy .hostPort = [0] := rfl

theorem exec_addressSpaceTeardown_zeroLive : exec (.addressSpaceTeardown .hostPort) zeroLive = .next zeroLive := rfl

/-- Refutes O47: in `zeroLive` the loss of the host port names context 0, which is no tenant and stays LIVE. By
`contextsMove_of_zero_idle` nothing else of the statement fails. -/
theorem not_contextsMove : ¬ Obligations.ContextsMove := by
  intro h
  obtain ⟨-, -, -, -, -, -, -, -, -, -, -, ⟨t, hexec, htorn⟩, -⟩ := h zeroLive 1 0 .hostPort (by decide)
  obtain rfl : t = zeroLive := by simpa [hexec] using exec_addressSpaceTeardown_zeroLive
  obtain ⟨htearing, -⟩ := htorn 0 (zeroLive_tornBy ▸ List.mem_singleton_self 0) (.inl rfl)
  have hlive : (zeroLive.ctx 0).st = .live := rfl
  rw [hlive] at htearing
  cases htearing

end Sys2Proof.Machine
end

section
/-! DCTL and QMASK of a barrier domain (R311 to R314): a half that is armed, freed and described. -/

namespace Sys2Proof.Machine

/-! ## What a domain's watchdog leaves alone -/

/-- A half without its watchdog's clock. -/
def Domain.unwatched (d : Domain) : Domain := { d with started := none, counted := 0 }

section
variable (s : State) {t : State} {die n : Nat}

theorem rewatch_unwatched (h n d : Nat) : (((s.rewatch h n).die d).domain n).unwatched = ((s.die d).domain n).unwatched := by
  unfold State.rewatch
  refine domain_updDomain_part (part := Domain.unwatched) s (fun x => ?_) d
  split <;> split_ifs <;> rfl

theorem rewatch_other {h d : Nat} (hd : d ≠ h) : ((s.rewatch h n).die d).domain n = (s.die d).domain n := domain_updDomain_other s hd

/-- A half whose watchdog has not started: what a look at it finds. -/
theorem rewatch_stopped (hst : ((s.die die).domain n).st = .armed) (hstop : ((s.die die).domain n).started = none) :
    ((s.rewatch die n).die die).domain n = { (s.die die).domain n with
      started := if s.gathering die n = true ∧ s.frozen die n = false ∧ fld ((s.die die).domain n).dctl 31 0 ≠ 0 then some s.clock else none } := by
  rw [State.rewatch, domain_updDomain_same]
  simp only [hstop, isArmed, hst, decide_true, Bool.true_and, Bool.and_eq_true, Bool.not_eq_true', decide_eq_true_eq, and_assoc]
  split_ifs
  · rfl
  · rw [← hstop, ← hst]

variable {s} (hd : ∀ d, ((t.die d).domain n).unwatched = ((s.die d).domain n).unwatched)
include hd

theorem halves_unwatched : t.halves die n = s.halves die n := by
  have hpkg : ∀ d, ((t.die d).domain n).pkg = ((s.die d).domain n).pkg := fun d => (congrArg Domain.pkg (hd d) :)
  have hst : ∀ d, ((t.die d).domain n).st = ((s.die d).domain n).st := fun d => (congrArg Domain.st (hd d) :)
  simp only [State.halves, hpkg, hst]

theorem gathering_unwatched : t.gathering die n = s.gathering die n := by
  have harr : ∀ d, ((t.die d).domain n).arrived = ((s.die d).domain n).arrived := fun d => (congrArg Domain.arrived (hd d) :)
  simp only [State.gathering, halves_unwatched hd, harr]

theorem frozen_unwatched (hq : t.quads = s.quads) : t.frozen die n = s.frozen die n := by
  have hmem : ∀ d h, ((t.die d).domain n).members h = ((s.die d).domain n).members h := fun d h => (congrArg (Domain.members · h) (hd d) :)
  simp only [State.frozen, halves_unwatched hd, hmem, State.quad, hq]

end

/-! ## A half is armed (R312) -/

/-- A half with a new descriptor, before its first round. -/
def Domain.armedWith (v : Word) (d : Domain) : Domain :=
  { d with dctl := v, err := 0, st := .armed, round := 0, arrived := [], sstep := false, started := none, counted := 0 }

/-- The half is armed, the idle members of its gang charged and its step clocks stopped; its watchdog has not been looked at. -/
def State.armedHalf (s : State) (die n : Nat) (v : Word) : State :=
  ((s.idleUp ((s.updDomain die n (Domain.armedWith v)).gangOf die n)).updDomain die n (Domain.armedWith v)).stopClocks die n

/-- Both halves' watchdogs are looked at. -/
def State.rewatchHalves (s : State) (die n : Nat) : State := (s.halves die n).foldl (fun s h => s.rewatch h n) s

section
variable (s : State) {die n i : Nat} {v : Word}

theorem idleUp_doms (l : List Nat) (d : Nat) : (s.idleUp l).doms d = s.doms d := by
  refine foldl_part_eq (part := fun s => s.doms d) (fun t g => ?_) l s
  split_ifs
  · exact bringUp_doms t d g
  · rfl

theorem stopClocks_domain (h d : Nat) : ((s.stopClocks h n).die d).domain n = (s.die d).domain n := by
  rw [stopClocks_eq, State.die, restep_dies]
  rfl

theorem armedHalf_domain (die n : Nat) (v : Word) : ((s.armedHalf die n v).die die).domain n = ((s.die die).domain n).armedWith v := by
  rw [State.armedHalf, stopClocks_domain, domain_updDomain_same, die_domain_eq (idleUp_doms s _ die)]

theorem armedHalf_clock : (s.armedHalf die n v).clock = s.clock := by
  have hbooks := idleUp_books s ((s.updDomain die n (Domain.armedWith v)).gangOf die n)
  unfold State.armedHalf State.stopClocks
  dsimp only
  split_ifs <;> exact hbooks.clock

/-- Of a domain's halves, the walk looks at this one once. -/
theorem rewatchHalves_domain : ((s.rewatchHalves die n).die die).domain n = ((s.rewatch die n).die die).domain n := by
  have hne : die ≠ 1 - die := by omega
  obtain h | h := halves_cases s die n
  · simp only [State.rewatchHalves, h, List.foldl, rewatch_other _ hne]
  · simp only [State.rewatchHalves, h, List.foldl]

theorem rewatchHalves_unwatched (d : Nat) : (((s.rewatchHalves die n).die d).domain n).unwatched = ((s.die d).domain n).unwatched :=
  foldl_part_eq (part := fun s => ((s.die d).domain n).unwatched) (fun s h => rewatch_unwatched s h n d) _ s

theorem rewatchHalves_quads (die n : Nat) : (s.rewatchHalves die n).quads = s.quads :=
  foldl_part_eq (part := State.quads) (f := fun s h => s.rewatch h n) (fun _ _ => rfl) _ s

/-- The half that DOMAIN_ARM leaves: its watchdog runs from now where its round has begun (R320). -/
theorem armed_domain (die n : Nat) (v : Word) :
    let t := (s.armedHalf die n v).rewatchHalves die n
    (t.die die).domain n = { ((s.die die).domain n).armedWith v with
      started := if t.gathering die n = true ∧ t.frozen die n = false ∧ fld v 31 0 ≠ 0 then some s.clock else none } := by
  intro t
  have harmed := armedHalf_domain s die n v
  have hgathering : t.gathering die n = (s.armedHalf die n v).gathering die n := gathering_unwatched (rewatchHalves_unwatched _)
  have hfrozen : t.frozen die n = (s.armedHalf die n v).frozen die n := frozen_unwatched (rewatchHalves_unwatched _) (rewatchHalves_quads _ die n)
  rw [hgathering, hfrozen, rewatchHalves_domain, rewatch_stopped _ (by rw [harmed]; rfl) (by rw [harmed]; rfl), harmed, armedHalf_clock]
  rfl

variable {s}

theorem exec_domainArm_arms (hst : ((s.die die).domain n).st ≠ .armed) (hok : s.domainOk die n v = true) :
    exec (.domainArm die n v) s = .next ((s.armedHalf die n v).rewatchHalves die n) := by
  change execDomainArm die n v s = _
  simp only [execDomainArm, hst, hok, Bool.not_true, Bool.false_eq_true, if_false]
  rfl

theorem exec_domainArm_armed (hst : ((s.die die).domain n).st = .armed) :
    exec (.domainArm die n v) s = .next (s.updDomain die n fun d => { d with err := 1 }) := if_pos hst

theorem exec_domainArm_invalid (hst : ((s.die die).domain n).st ≠ .armed) (hok : s.domainOk die n v = false) :
    exec (.domainArm die n v) s = .next (s.updDomain die n fun d => { d with err := 2 }) := by
  change execDomainArm die n v s = _
  simp only [execDomainArm, hst, hok, Bool.not_false, if_false, if_true]

/-! ## A half is freed, and its members are named (R311, R314) -/

/-- The half's round, if it has one, has ended. -/
def State.freedHalf (s : State) (die n : Nat) : State := if ((s.die die).domain n).st = .free then s else s.endDomain die n .free

theorem freedHalf_st (s : State) (die n : Nat) : (((s.freedHalf die n).die die).domain n).st = .free := by
  unfold State.freedHalf
  split_ifs with hfree
  · exact hfree
  · exact endDomain_st s n .free die

theorem exec_qmaskWrite_taken (hst : ((s.die die).domain n).st ≠ .armed) : exec (.qmaskWrite die n i v) s =
    .next (s.updDomain die n fun d => { d with err := 0, qmask := setFld d.qmask (64 * i + 63) (64 * i) v.toNat }) := if_neg hst

theorem exec_qmaskWrite_refused (hst : ((s.die die).domain n).st = .armed) :
    exec (.qmaskWrite die n i v) s = .next (s.updDomain die n fun d => { d with err := 1 }) := if_pos hst

end

/-- Settles O41: each command by the state of its half; an armed half is read back through the look at its watchdog. -/
theorem domainControl : Obligations.DomainControl := by
  intro s die n i v
  refine ⟨fun hst hok => ⟨_, exec_domainArm_arms hst hok, armed_domain s die n v⟩, exec_domainArm_armed, exec_domainArm_invalid, ?_,
    exec_qmaskWrite_taken, exec_qmaskWrite_refused⟩
  refine ⟨(s.freedHalf die n).updDomain die n fun d => { d with dctl := v &&& 0x7F000FFFFFFFFFFF, err := 0 }, rfl, ?_⟩
  rw [domain_updDomain_same]
  exact ⟨freedHalf_st s die n, rfl, rfl⟩

end Sys2Proof.Machine
end

section
/-! Message queues (R297 to R309, R433): arrivals, drains and the host's doorbell. -/

namespace Sys2Proof.Machine

/-! ## Packets that become present -/

theorem getElem?_presentAt_same {l : List RqPacket} {i : Nat} {p : RqPacket} (h : l[i]? = some p) (clock : Nat) :
    (presentAt l i clock)[i]? = some { p with present := true, since := clock } := by
  obtain ⟨hi, hp⟩ := List.getElem?_eq_some_iff.mp h
  simp [presentAt, hi, hp]

theorem getElem?_presentAt_other (l : List RqPacket) {i j : Nat} (h : j ≠ i) (clock : Nat) : (presentAt l i clock)[j]? = l[j]? := by
  by_cases hj : j < l.length
  · simp [presentAt, hj, h]
  · simp [presentAt, hj]

section
variable (s : State) {g i n m : Nat} {p : RqPacket}

theorem core_lessOutstanding_rq (k g : Nat) : ((s.lessOutstanding k).core g).rq = (s.core g).rq := by
  refine State.core_updCore_part (part := Core.rq) (f := fun c => { c with outstanding := c.outstanding - 1 }) ?_ s k g
  exact fun _ => rfl

theorem notOutstanding_rq (l : List RqPacket) (g : Nat) : ((s.notOutstanding l).core g).rq = (s.core g).rq :=
  foldl_part_eq (part := fun s : State => (s.core g).rq) (f := fun s (p : RqPacket) => s.lessOutstanding p.pkt.src)
    (fun s p => core_lessOutstanding_rq s p.pkt.src g) _ s

theorem notOutstanding_clock (l : List RqPacket) : (s.notOutstanding l).clock = s.clock :=
  foldl_part_eq (part := State.clock) (f := fun s (p : RqPacket) => s.lessOutstanding p.pkt.src) (fun _ _ => rfl) _ s

/-- A record that a packet releases changes no context. -/
theorem releaseParked_ctx (n m k : Nat) : (s.releaseParked n m).ctx k = s.ctx k := by
  unfold State.releaseParked
  split <;> rfl

@[simp] theorem mbox_updMbox (f : Mailbox → Mailbox) : ((s.updMbox n m f).ctx n).mbox m = f ((s.ctx n).mbox m) := by
  rw [State.updMbox, State.ctx_updCtx_same]
  exact SMap.get_set_same ..

variable {s}

theorem exec_packetArrival_core (hg : g < numCores) (hp : (s.core g).rq[i]? = some p) (hcross : s.crosses (dieOf g) p = true) :
    exec (.packetArrival g i) s =
      .next ((s.notOutstanding [p]).updCore g fun c => { c with rq := presentAt c.rq i s.clock }) := by
  change execPacketArrival g i s = _
  simp only [execPacketArrival, if_pos hg, hp, hcross, Bool.not_true, Bool.false_eq_true, if_false]

theorem exec_packetArrival_mailbox (hm : m < 8) (hp : ((s.ctx n).mbox m).ring[i]? = some p) (hcross : s.crosses (s.mboxDie n) p = true) :
    exec (.packetArrival (numCores + 8 * n + m) i) s =
      .next (((s.notOutstanding [p]).updMbox n m fun b => { b with ring := presentAt b.ring i s.clock }).releaseParked n m) := by
  have hbox : ¬ numCores + 8 * n + m < numCores := by omega
  have hn : (numCores + 8 * n + m - numCores) / 8 = n := by omega
  have hm' : (numCores + 8 * n + m - numCores) % 8 = m := by omega
  change execPacketArrival _ i s = _
  simp only [execPacketArrival, if_neg hbox, hn, hm', hp, hcross, Bool.not_true, Bool.false_eq_true, if_false]

/-- Only the entry that has crossed changes in the receive queue (R433). -/
theorem packetArrival_core_rq (hp : (s.core g).rq[i]? = some p) :
    let u := (s.notOutstanding [p]).updCore g fun c => { c with rq := presentAt c.rq i s.clock }
    (u.core g).rq[i]? = some { p with present := true, since := s.clock } ∧ ∀ j, j ≠ i → (u.core g).rq[j]? = (s.core g).rq[j]? := by
  intro u
  have hu : (u.core g).rq = presentAt (s.core g).rq i s.clock := by
    rw [State.core_updCore_same, notOutstanding_rq]
  rw [hu]
  exact ⟨getElem?_presentAt_same hp s.clock, fun j hj => getElem?_presentAt_other _ hj s.clock⟩

theorem packetArrival_mailbox (p : RqPacket) :
    ((((s.notOutstanding [p]).updMbox n m fun b => { b with ring := presentAt b.ring i s.clock }).releaseParked n m).ctx n).mbox m =
      { (s.ctx n).mbox m with ring := presentAt ((s.ctx n).mbox m).ring i s.clock } := by
  rw [releaseParked_ctx, mbox_updMbox, notOutstanding_ctx]

/-! ## Claims and drains -/

/-- HEAD counts a mailbox's slots from their claim on (R306). -/
theorem claim_mbox_head (pk : Packet) (b c : Bool) (r : Nat) :
    (((s.claim n (.mbox n m) pk b c r).ctx n).mbox m).head = ((s.ctx n).mbox m).head + BitVec.ofNat 32 (Nat.max 1 pk.ents.length) := by
  change (((s.updMbox n m _).ctx n).mbox m).head = _
  rw [mbox_updMbox]
  rfl

theorem claim_core_ctx (n g : Nat) (pk : Packet) (b c : Bool) (r k : Nat) : (s.claim n (.core g) pk b c r).ctx k = s.ctx k := rfl

/-- An entry that shares its cycle with no other goes to the end (R299). -/
theorem insertRq_of_born_ne {l : List RqPacket} {e : RqPacket} (h : ∀ x ∈ l, x.born ≠ e.born) : insertRq l e = l ++ [e] := by
  have hearlier : ∀ x ∈ l, (decide (x.born = e.born) && decide (e.rank < x.rank)) = false := fun x hx => by
    rw [decide_eq_false (h x hx), Bool.false_and]
  rw [insertRq, List.filter_eq_self.mpr fun x hx => congrArg Bool.not (hearlier x hx),
    List.filter_eq_nil_iff.mpr fun x hx => Bool.eq_false_iff.mp (hearlier x hx)]

/-- What the head of a core's spill queue becomes in the receive queue. -/
def State.drained (s : State) (g n : Nat) (k : Packet) : RqPacket :=
  { pkt := k, present := true, since := s.clock, counted := false, ctx := n,
    strand := match (s.core g).strand with | some t => t.sid | none => 0, born := s.clock, rank := rankSpill }

/-- The state with that head taken into the queue. -/
def State.drainedInto (s : State) (g n : Nat) (r : List SpillEntry) (k : Packet) : State :=
  (s.updCtx n fun c => { c with spillQ := SMap.set c.spillQ g r }).claim n (.core g) k true false rankSpill

theorem drainCore_packet {e : SpillEntry} {r : List SpillEntry} {k : Packet} (hq : SMap.get (s.ctx n).spillQ [] g = e :: r)
    (hk : (s.fromCells n e).pkt = some k) (hroom : occupied (s.core g).rq + k.size ≤ 16) :
    s.drainCore g n = some (s.drainedInto g n r k) := by
  have hfits : s.hasRoom (.core g) k.size = true := decide_eq_true hroom
  unfold State.drainCore
  simp only [hq, hk, hfits, if_true]
  rfl

theorem drainedInto_spillQ (r : List SpillEntry) (k : Packet) : SMap.get ((s.drainedInto g n r k).ctx n).spillQ [] g = r := by
  rw [State.drainedInto, claim_core_ctx, State.ctx_updCtx_same]
  exact SMap.get_set_same ..

theorem drainedInto_rq (r : List SpillEntry) (k : Packet) :
    ((s.drainedInto g n r k).core g).rq = insertRq (s.core g).rq (s.drained g n k) :=
  congrArg Core.rq (State.core_updCore_same (s.updCtx n _) g _)

theorem exec_spillQueueDrain_core (hhere : s.resident g n = true) (hopen : (s.core g).rqSealed = false) :
    exec (.spillQueueDrain (.core g n)) s = .next (s.offer g) :=
  congrArg Host.Outcome.next (if_pos (by rw [hhere, hopen]; rfl))

theorem exec_spillQueueDrain_mailbox (hopen : ((s.ctx n).mbox m).sealed = false) :
    exec (.spillQueueDrain (.mailbox n m)) s = .next (s.offerMbox n m) :=
  congrArg Host.Outcome.next (if_neg (Bool.eq_false_iff.mp hopen))

/-! ## The host's doorbell (R306, R309) -/

variable {ctx : BitVec 12} {mb : BitVec 3}

theorem exec_hostDoorbell_claims (msg : BitVec 512) (hopen : ((s.ctx ctx.toNat).mbox mb.toNat).sealed = false)
    (hctx : (s.ctx ctx.toNat).isOpen = true) (hroom : occupied ((s.ctx ctx.toNat).mbox mb.toNat).ring + 1 ≤ 128)
    (hspill : ((s.ctx ctx.toNat).mbox mb.toNat).spill = []) :
    exec (.hostDoorbell ctx mb msg) s =
      .next ((s.claim ctx.toNat (.mbox ctx.toNat mb.toNat) { src := 0, host := true, tok := false, ents := [msg] } true false
        rankHost).releaseParked ctx.toNat mb.toNat) := by
  have hfits : s.hasRoom (.mbox ctx.toNat mb.toNat) 1 = true := decide_eq_true hroom
  change execHostDoorbell ctx mb msg s = _
  simp only [execHostDoorbell, hopen, hctx, hfits, hspill, List.isEmpty_nil, Bool.not_true, Bool.and_self, Bool.false_eq_true, if_false, if_true]
  rfl

theorem exec_hostDoorbell_drops (msg : BitVec 512) (hsealed : ((s.ctx ctx.toNat).mbox mb.toNat).sealed = true) :
    exec (.hostDoorbell ctx mb msg) s = .next (s.updMbox ctx.toNat mb.toNat fun b => { b with drops := b.drops + 1 }) :=
  if_pos hsealed

end

/-- Settles O46, event by event. -/
theorem queuesDeliver : Obligations.QueuesDeliver := by
  intro s g i n m p ctx mb msg
  refine ⟨fun hg hp hcross => ⟨_, exec_packetArrival_core hg hp hcross, packetArrival_core_rq hp⟩, ?arrives, claim_mbox_head,
    exec_spillQueueDrain_core, exec_spillQueueDrain_mailbox, ?drains, exec_hostDoorbell_claims msg, ?drops⟩
  case arrives =>
    intro _ hm hp hcross
    refine ⟨_, exec_packetArrival_mailbox hm hp hcross, ?_, ?_⟩ <;> rw [packetArrival_mailbox]
    exact getElem?_presentAt_same hp s.clock
  case drains =>
    intro e r k hq hk hroom
    refine ⟨_, s.drained g n k, drainCore_packet hq hk hroom, drainedInto_spillQ r k, rfl, rfl, drainedInto_rq r k, fun hborn => ?_⟩
    rw [drainedInto_rq]
    exact insertRq_of_born_ne hborn
  case drops =>
    intro hsealed
    refine ⟨_, exec_hostDoorbell_drops msg hsealed, ?_, ?_⟩ <;> rw [mbox_updMbox]

end Sys2Proof.Machine
end

section
/-! Levels (R354 to R363, R433): what RESTR and PROLG send and take, and the level table's writes. -/

namespace Sys2Proof.Machine

/-! ## What is offered to a core joins its interlayer queue behind what stands there (R298, R305) -/

/-- From s to t interlayer queues have only grown at their ends, and no clock has changed. -/
structure Feeds (s t : State) : Prop where
  queue : ∀ g, (s.core g).ilq <+: (t.core g).ilq
  dies : t.dies = s.dies
  power : t.power = s.power

theorem feeds_of_cores {s t : State} (hcores : t.cores = s.cores) (hdies : t.dies = s.dies) (hpower : t.power = s.power) : Feeds s t :=
  ⟨fun g => by simp only [State.core, hcores]; exact List.prefix_rfl, hdies, hpower⟩

theorem feeds_refl (s : State) : Feeds s s := feeds_of_cores rfl rfl rfl

theorem Feeds.trans {s t u : State} (h : Feeds s t) (h' : Feeds t u) : Feeds s u :=
  ⟨fun g => (h.queue g).trans (h'.queue g), h'.dies.trans h.dies, h'.power.trans h.power⟩

theorem Feeds.periodOf {s t : State} (h : Feeds s t) (g : Nat) : t.periodOf g = s.periodOf g := by
  obtain ⟨-, hdies, hpower⟩ := h
  simp only [State.periodOf, State.fcur, State.ladder, State.die, hdies, hpower]

theorem feeds_updCore (s : State) (g : Nat) {f : Core → Core} (hf : ∀ c, c.ilq <+: (f c).ilq) : Feeds s (s.updCore g f) := by
  refine ⟨fun k => ?_, rfl, rfl⟩
  by_cases hk : k = g
  · rw [hk, State.core_updCore_same]
    exact hf _
  · rw [State.core_updCore_other s f hk]

theorem feeds_claim (s : State) (n : Nat) (d : Dest) (p : Packet) (present counted : Bool) (rank : Nat) :
    Feeds s (s.claim n d p present counted rank) := by
  unfold State.claim
  cases d with
  | core g =>
    refine feeds_updCore s g ?_
    exact fun _ => List.prefix_rfl
  | mbox c m => exact feeds_of_cores rfl rfl rfl

theorem feeds_drainCore {s t : State} {g n : Nat} (h : s.drainCore g n = some t) : Feeds s t := by
  unfold State.drainCore at h
  split at h
  · cases h
  · rename_i e r hq
    have hpop : Feeds s (s.updCtx n fun c => { c with spillQ := SMap.set c.spillQ g r }) := feeds_of_cores rfl rfl rfl
    dsimp only at h
    split at h
    · split_ifs at h
      cases h
      exact hpop.trans (feeds_claim ..)
    · split_ifs at h
      cases h
      exact hpop.trans (feeds_updCore _ g fun _ => List.prefix_append _ _)
    · cases h
      exact hpop

theorem feeds_drainAll (f : Nat) (s : State) (g n : Nat) : Feeds s (State.drainAll f s g n) := by
  induction f generalizing s with
  | zero => exact feeds_refl s
  | succ f ih =>
    unfold State.drainAll
    cases hd : s.drainCore g n with
    | none => exact feeds_refl s
    | some t => exact (feeds_drainCore hd).trans (ih t)

theorem feeds_pushSpill (s : State) (n : Nat) (d : Dest) (e : SpillEntry) : Feeds s (s.pushSpill n d e) := by
  cases d <;> exact feeds_of_cores rfl rfl rfl

theorem feeds_postDone (s : State) (p : Post) : Feeds s (s.postDone p) := by
  unfold State.postDone
  split
  · split_ifs
    · exact feeds_updCore s _ fun _ => List.prefix_rfl
    · exact feeds_refl s
  · exact feeds_refl s

theorem feeds_deliver {s t : State} {p : Post} (h : s.deliver p = some t) : Feeds s t := by
  unfold State.deliver at h
  extract_lets away k room at h
  split_ifs at h with hsealed hcross hroom hlate
  · cases h
    exact feeds_postDone s p
  · split at h
    · cases h
      exact feeds_claim ..
    · cases h
      exact feeds_updCore s _ fun _ => List.prefix_append _ _
    · cases h
      exact feeds_refl s
  · obtain ⟨res, -, rfl⟩ := Option.map_eq_some_iff.mp h
    exact (feeds_pushSpill ..).trans (feeds_postDone _ p)

theorem feeds_foldl {α : Type} {f : State → α → State} (hf : ∀ s a, Feeds s (f s a)) (l : List α) (s : State) : Feeds s (l.foldl f s) := by
  induction l generalizing s with
  | nil => exact feeds_refl s
  | cons a r ih => exact (hf s a).trans (ih (f s a))

theorem feeds_servePosts (s : State) (f : Post → Bool) : Feeds s (s.servePosts f) := by
  unfold State.servePosts
  refine (feeds_of_cores rfl rfl rfl : Feeds s { s with posts := s.posts.filter fun p => !f p }).trans (feeds_foldl (fun t p => ?_) _ _)
  cases hdel : t.deliver p with
  | some u => exact feeds_deliver hdel
  | none => exact feeds_of_cores rfl rfl rfl

theorem feeds_offer (s : State) (g : Nat) : Feeds s (s.offer g) := by
  unfold State.offer
  refine Feeds.trans ?_ (feeds_servePosts _ _)
  cases (s.core g).strand with
  | none => exact feeds_refl s
  | some t =>
    dsimp only
    split_ifs
    · exact feeds_refl s
    · exact feeds_drainAll _ s g t.ctx

/-! ## Sending (R358, R359) -/

/-- The entry that a RESTR.up or PROLG.down of level l sends to a source. -/
def State.levelEntry (s : State) (l : Nat) (v : BitVec 4096) (port : Nat) : IlEntry :=
  { port := port, tag := l, shape := s.me.arch.vshape, data := v, src := s.cur, tok := false, present := false, since := 0,
    ctx := s.me.ctxNum, strand := 0 }

/-- The bundle at work has begun to wait for its SPILLTO. -/
def State.sinceNow (s : State) : State := s.updWait fun w => { w with since := w.since <|> some s.clock }

/-- A transfer that holds the C slot longer: folded, or the crown's to the core itself (R357). -/
def foldedCycles (g : Nat) (p : LvPath) (dests : List (Nat × Nat)) : Nat :=
  if p = .folded ∨ (p = .crown ∧ ∃ d ∈ dests, d.1 = g) then 8 else 0

/-- A transfer that has served all its destinations. -/
def State.sentLevel (s : State) (g n : Nat) : State :=
  let w := s.updWait fun w => { w with told := 0 }
  w.pay g cMSG n w.me.arch.pc

section
variable {s t u : State} {lv a : Reg} {q : QReg} {mask : BitVec 4} {p : LvPath} {dests : List (Nat × Nat)} {slots : List Nat}
  {v : BitVec 4096} {l : Nat}

theorem me_updWait (s : State) (f : WaitSt → WaitSt) : (s.updWait f).me = { s.me with arch := { s.me.arch with wait := f s.me.arch.wait } } := by
  rw [State.updWait, State.updArch, State.me_updMe]
  rfl

theorem levelIssued_told (s : State) (n l : Nat) : (s.levelIssued n l).me.arch.wait.told = s.me.arch.wait.told := by
  rw [State.levelIssued, me_updWait]

theorem foldedCycles_eq (g : Nat) (p : LvPath) (dests : List (Nat × Nat)) :
    (if (decide (p = .folded) || (decide (p = .crown) && dests.any fun d => decide (d.1 = g))) = true then 8 else 0) = foldedCycles g p dests :=
  if_congr (by simp) rfl rfl

section
variable (hsealed : s.sealedDest dests = none) (htake : s.takeV a.toNat = (t, .ok v)) (hsb : s.me.sb = []) (hvmem : s.me.vmemDone = true)
include hsealed htake hsb hvmem

theorem sendLevel_eq : s.sendLevel l a.toNat p dests =
    if (t.sendAll s.me.ctxNum dests (s.levelEntry l v) (s.sinceNow.sendExpired s.cur)).2 = 2 ^ dests.length - 1 then
      .next ((t.sendAll s.me.ctxNum dests (s.levelEntry l v) (s.sinceNow.sendExpired s.cur)).1.sentLevel s.cur (foldedCycles s.cur p dests))
    else
      let u := s.sinceNow.sendAll s.me.ctxNum dests (s.levelEntry l v) (s.sinceNow.sendExpired s.cur)
      ((u.1.updWait fun w => { w with told := u.2 }).levelIssued s.me.ctxNum l).hold cMSG := by
  have hshape : s.sinceNow.me.arch.vshape = s.me.arch.vshape := by rw [State.sinceNow, me_updWait]
  unfold State.sendLevel
  simp only [hsealed, htake, hsb, hvmem, List.isEmpty_nil, Bool.not_true, Bool.or_self, Bool.false_eq_true, if_false, ← State.sinceNow.eq_1,
    hshape, foldedCycles_eq]
  rfl

theorem sendLevel_done (hall : (t.sendAll s.me.ctxNum dests (s.levelEntry l v) (s.sinceNow.sendExpired s.cur)).2 = 2 ^ dests.length - 1) :
    s.sendLevel l a.toNat p dests =
      .next ((t.sendAll s.me.ctxNum dests (s.levelEntry l v) (s.sinceNow.sendExpired s.cur)).1.sentLevel s.cur (foldedCycles s.cur p dests)) :=
  (sendLevel_eq hsealed htake hsb hvmem).trans (if_pos hall)

theorem sendLevel_waits (hmore : (t.sendAll s.me.ctxNum dests (s.levelEntry l v) (s.sinceNow.sendExpired s.cur)).2 ≠ 2 ^ dests.length - 1) :
    ∃ w : State, s.sendLevel l a.toNat p dests = .next w ∧ w.me.flow = .held cMSG
      ∧ w.me.arch.wait.told = (s.sinceNow.sendAll s.me.ctxNum dests (s.levelEntry l v) (s.sinceNow.sendExpired s.cur)).2 := by
  refine ⟨_, (sendLevel_eq hsealed htake hsb hvmem).trans (if_neg hmore), ?_, ?_⟩
  · rw [State.me_updMe]
  · rw [State.me_updMe]
    refine (levelIssued_told _ _ _).trans ?_
    rw [me_updWait]

end

variable (hshape : vBytes s.me.arch.vshape = 4)
include hshape

theorem exec_restrUp_sends (hpath : s.levelPath s.me.ctxNum lv.toNat true = .ok p) :
    exec (.restrUp lv a) s = s.sendLevel lv.toNat a.toNat p [upDest s.cur p] := by
  have hwords : s.levelShape = true := decide_eq_true hshape
  change execRestrUp lv a s = _
  simp only [execRestrUp, hwords, hpath, Bool.not_true, Bool.false_eq_true, if_false]

theorem exec_prolgDown_sends (hpath : s.levelPath s.me.ctxNum lv.toNat false = .ok p) (hslots : maskSlots p mask.toNat = some slots) :
    exec (.prolgDown lv a mask) s = s.sendLevel lv.toNat a.toNat p (slots.map (downDest s.cur p)) := by
  have hwords : s.levelShape = true := decide_eq_true hshape
  change execProlgDown lv a mask s = _
  simp only [execProlgDown, hwords, hpath, hslots, Bool.not_true, Bool.false_eq_true, if_false]

section
variable (hbound : s.me.bound a.toNat = false)
include hbound

theorem exec_restrTake_takes (hpath : s.levelPath s.me.ctxNum lv.toNat false = .ok p) (hslots : maskSlots p mask.toNat = some slots) :
    exec (.restrTake lv a q mask) s = s.takeLevel lv.toNat a q true lv.toNat (lv.toNat - 1) (slots.map fun i => (upSource p i, i)) := by
  have hwords : s.levelShape = true := decide_eq_true hshape
  change execRestrTake lv a q mask s = _
  simp only [execRestrTake, hwords, hbound, hpath, hslots, Bool.not_true, Bool.or_self, Bool.false_eq_true, if_false]

theorem exec_prolgTake_takes (hpath : s.levelPath s.me.ctxNum lv.toNat true = .ok p) :
    exec (.prolgTake lv a q) s = s.takeLevel lv.toNat a q false (lv.toNat + 1) (lv.toNat + 1) [downSource s.cur p] := by
  have hwords : s.levelShape = true := decide_eq_true hshape
  change execProlgTake lv a q s = _
  simp only [execProlgTake, hwords, hbound, hpath, Bool.not_true, Bool.or_self, Bool.false_eq_true, if_false]

end

end

/-! ## Taking (R360) -/

/-- The heads of sources that all have one, with their slots. -/
theorem heads_eq_zip (c : Core) {srcs : List (Nat × Nat)} {hs : List IlEntry} (h : srcs.map (fun x => c.ilHead x.1) = hs.map some) :
    (srcs.filterMap fun p => (c.ilHead p.1).map fun e => (e, p.2)) = hs.zip (srcs.map Prod.snd) := by
  induction srcs generalizing hs with
  | nil =>
    rw [List.map_nil] at h
    rw [List.map_eq_nil_iff.mp h.symm]
    rfl
  | cons p r ih =>
    cases hs with
    | nil => cases h
    | cons e hs =>
      obtain ⟨hhead, hrest⟩ := List.cons.inj h
      simp only [List.filterMap_cons, hhead, Option.map_some, List.map_cons, List.zip_cons_cons, ih hrest]

/-- The state in which the sources' heads have left and what is ready has entered. -/
def State.ilTaken (s : State) (srcs : List (Nat × Nat)) : State :=
  (s.updMe fun c => { c with ilq := srcs.foldl (fun l p => ilPop p.1 l) c.ilq }).offer s.cur

/-- A take's results are on their way. -/
def State.takeDone (s : State) (d : Reg) (q : QReg) (v : BitVec 4096 × FpFlags) : State :=
  ((s.updArch fun a => a.wv d.toNat v.1).raise s.cur v.2).flyTake d.toNat q.toNat 12 true

section
variable {s : State} {srcs : List (Nat × Nat)} {hs : List IlEntry} {d : Reg} {q : QReg}

theorem takeLevel_takes {l entry tag : Nat} {up : Bool} (hheads : srcs.map (fun x => s.me.ilHead x.1) = hs.map some)
    (hall : ∀ e ∈ hs, e.tok = false ∧ e.tag = tag) : s.takeLevel l d q up entry tag srcs =
      .next ((s.ilTaken srcs).takeDone d q (levelValue (s.weight s.me.ctxNum entry (if up then 0x40 else 0x90)) (s.levelRep s.me.ctxNum entry)
        up (hs.zip (srcs.map Prod.snd)) s.me.arch.vshape)) := by
  have hlen : hs.length = srcs.length := by simpa using (congrArg List.length hheads).symm
  have hin : ∀ x ∈ hs.zip (srcs.map Prod.snd), x.1 ∈ hs := fun x hx => (List.of_mem_zip hx).1
  have htok : ((hs.zip (srcs.map Prod.snd)).find? fun p => p.1.tok) = none :=
    List.find?_eq_none.mpr fun x hx => by rw [(hall _ (hin x hx)).1]; exact Bool.false_ne_true
  have htag : ((hs.zip (srcs.map Prod.snd)).any fun p => decide (p.1.tag ≠ tag)) = false :=
    List.any_eq_false.mpr fun x hx => by simp [(hall _ (hin x hx)).2]
  have hzip : (hs.zip (srcs.map Prod.snd)).length = srcs.length := by simp [hlen]
  unfold State.takeLevel
  simp only [heads_eq_zip s.me hheads, htok, htag, hzip, ne_eq, not_true_eq_false, Bool.false_eq_true, if_false]
  rfl

theorem ilTaken_quiet (s : State) (srcs : List (Nat × Nat)) : (s.ilTaken srcs).cur = s.cur ∧ (s.ilTaken srcs).clock = s.clock
    ∧ (s.ilTaken srcs).me.arch = s.me.arch := by
  obtain ⟨hquiet, -⟩ := offer_quiet (s.updMe fun c => { c with ilq := srcs.foldl (fun l p => ilPop p.1 l) c.ilq }) s.cur
  refine ⟨hquiet.cur, hquiet.clock, ?_⟩
  rw [State.me, State.ilTaken, hquiet.cur]
  exact (hquiet.arch s.cur).trans (by rw [State.core_updMe_same])

/-- Behind the entries that stay comes what entered (R298). -/
theorem ilTaken_ilq (s : State) (srcs : List (Nat × Nat)) :
    ∃ more, (s.ilTaken srcs).me.ilq = srcs.foldl (fun l x => ilPop x.1 l) s.me.ilq ++ more := by
  obtain ⟨more, hmore⟩ := (feeds_offer (s.updMe fun c => { c with ilq := srcs.foldl (fun l p => ilPop p.1 l) c.ilq }) s.cur).queue s.cur
  refine ⟨more, ?_⟩
  rw [State.me.eq_1 (s.ilTaken srcs), (ilTaken_quiet s srcs).1]
  exact hmore.symm.trans (by rw [State.core_updMe_same])

theorem ilTaken_periodOf (s : State) (srcs : List (Nat × Nat)) (g : Nat) : (s.ilTaken srcs).periodOf g = s.periodOf g :=
  (feeds_offer (s.updMe fun c => { c with ilq := srcs.foldl (fun l p => ilPop p.1 l) c.ilq }) s.cur).periodOf g

theorem Arch.rq_wq_true (a : Arch) (q : QReg) : (a.wq q.toNat true).rq q.toNat = true := by
  by_cases h : q.toNat = 0
  · rw [h, Arch.rq_zero]
  · simp [Arch.rq, Arch.wq, h, bitAt_setBit a.q q.isLt]

/-- A predicate's write leaves the other registers. -/
theorem Arch.wq_others (a : Arch) (n : Nat) (b : Bool) : (a.wq n b).v = a.v ∧ (a.wq n b).fpst = a.fpst := by
  unfold Arch.wq
  split_ifs <;> exact ⟨rfl, rfl⟩

/-- What the core reads once a take is done. -/
theorem takeDone_me (s : State) (d : Reg) (q : QReg) (v : BitVec 4096 × FpFlags) : (s.takeDone d q v).me =
    { s.me with
      pend := s.me.pend.filter fun p => decide (p.dst ≠ .q q.toNat)
      arch := { ({ s.me.arch.wv d.toNat v.1 with fpst := s.me.arch.fpst ||| v.2 }).wq q.toNat true with
        vfly := s.me.arch.vfly ++ [{ regs := [.v d.toNat, .q q.toNat], flags := true, land := s.clock + 12 * s.periodOf s.cur }] } } := by
  have hraised : ((s.updArch fun a => a.wv d.toNat v.1).raise s.cur v.2).me =
      { s.me with arch := { s.me.arch.wv d.toNat v.1 with fpst := s.me.arch.fpst ||| v.2 } } := by
    refine (State.me_updMe (s.updArch fun a => a.wv d.toNat v.1) _).trans ?_
    rw [State.updArch, State.me_updMe]
    rfl
  rw [State.takeDone, State.flyTake, State.me_updMe, hraised]
  rfl

end

/-! ## The level table (R361, R362) and arrivals (R433) -/

section
variable {s u : State} {lv : Reg} {m : MemOp} {bs : List Byte} {pa g i : Nat}

theorem exec_wload_writes {rep : Bool} (haligned : (MemOp.ea s.me 64 m).toNat % 64 = 0)
    (hread : s.coreRead s.cur (MemOp.ea s.me 64 m) 160 .read .align = (u, .ok (bs, pa))) (hdone : u.pkgDone u.cur = true) :
    exec (.wload lv rep m) s = .next ((u.putWeights u.me.ctxNum lv.toNat bs rep).extraCycles
      ((pagesOf (MemOp.ea s.me 64 m).toNat 160).length - 1)) := by
  change execWload lv rep m s = _
  simp only [execWload, haligned, hread, hdone, Got.step, ne_eq, not_true_eq_false, Bool.not_true, Bool.false_eq_true, if_false]

theorem exec_cyc_writes (b : Bind) (hdone : s.pkgDone s.cur = true) : exec (.cyc lv b) s =
    .next (s.hwWrite (s.levelAt s.me.ctxNum lv.toNat) 8 (s.hwLe (s.levelAt s.me.ctxNum lv.toNat) 8 / 8 % 2 * 8 + Bind.bits b)) := by
  change execCyc lv b s = _
  simp only [execCyc, hdone, Bool.not_true, Bool.false_eq_true, if_false]

/-- Entry i of an interlayer queue made present. -/
def ilPresentAt (l : List IlEntry) (i clock : Nat) : List IlEntry :=
  ((List.range l.length).zip l).map fun p => if p.1 = i then { p.2 with present := true, since := clock } else p.2

theorem length_ilPresentAt (l : List IlEntry) (i clock : Nat) : (ilPresentAt l i clock).length = l.length := by simp [ilPresentAt]

theorem getElem?_ilPresentAt {l : List IlEntry} {j : Nat} {e : IlEntry} (h : l[j]? = some e) (i clock : Nat) :
    (ilPresentAt l i clock)[j]? = some (if j = i then { e with present := true, since := clock } else e) := by
  obtain ⟨hj, he⟩ := List.getElem?_eq_some_iff.mp h
  simp [ilPresentAt, hj, he]

theorem exec_interlayerEntryArrival_crosses {e : IlEntry} (he : (s.core g).ilq[i]? = some e) (hclaimed : e.present = false)
    (hcarries : s.crossWaits (dieOf e.src) (dieOf g) = false) : exec (.interlayerEntryArrival g i) s =
      .next (s.updCore g fun c => { c with ilq := ilPresentAt c.ilq i s.clock }) := by
  change execInterlayerEntryArrival g i s = _
  simp only [execInterlayerEntryArrival, he, hclaimed, hcarries, Bool.or_self, Bool.false_eq_true, if_false]
  rfl

end

/-- Settles O39, instruction by instruction. -/
theorem levelsMove : Obligations.LevelsMove := by
  intro s t u lv a q mask rep m b p slots bs v pa g i l ctx ent z late sends takes
  have hsends {ins : Instr} {dests : List (Nat × Nat)} (hexec : exec ins s = s.sendLevel l a.toNat p dests) : sends ins dests := by
    intro hsealed htake hsb hvmem r n
    exact ⟨fun hall => hexec.trans (sendLevel_done hsealed htake hsb hvmem hall),
      fun hmore => hexec ▸ sendLevel_waits hsealed htake hsb hvmem hmore⟩
  have htakes {ins : Instr} {up : Bool} {entry tag : Nat} {srcs : List (Nat × Nat)}
      (hexec : exec ins s = s.takeLevel l a q up entry tag srcs) (hs : List IlEntry) : takes ins up entry tag srcs hs := by
    intro hheads hall v
    obtain ⟨hcur, hclock, harch⟩ := ilTaken_quiet s srcs
    obtain ⟨more, hmore⟩ := ilTaken_ilq s srcs
    have hme := takeDone_me (s.ilTaken srcs) a q v
    rw [hcur, harch, hclock, ilTaken_periodOf] at hme
    refine ⟨_, more, hexec.trans (takeLevel_takes hheads hall), hcur, ?_⟩
    rw [hme]
    obtain ⟨hv, hfpst⟩ := Arch.wq_others { s.me.arch.wv a.toNat v.1 with fpst := s.me.arch.fpst ||| v.2 } q.toNat true
    refine ⟨?_, Arch.rq_wq_true _ q, hfpst, hmore, _, List.mem_append_right _ (List.mem_singleton_self _), by simp, by simp, rfl⟩
    exact (congrArg (SMap.get · 0 a.toNat) hv).trans (Arch.rv_wv_same s.me.arch a.toNat v.1)
  refine ⟨fun hshape => ⟨fun hpath => hsends (exec_restrUp_sends hshape hpath),
      fun hpath hslots => hsends (exec_prolgDown_sends hshape hpath hslots),
      fun hbound hpath hslots => htakes (exec_restrTake_takes hshape hbound hpath hslots),
      fun hbound hpath => htakes (exec_prolgTake_takes hshape hbound hpath)⟩,
    exec_wload_writes, fun hdone => (exec_cyc_writes b hdone).trans ?bits, ?arrival⟩
  case bits =>
    cases b <;> rfl
  case arrival =>
    intro e he hclaimed hcarries
    refine ⟨_, exec_interlayerEntryArrival_crosses he hclaimed hcarries, ?_⟩
    rw [State.core_updCore_same]
    exact ⟨length_ilPresentAt _ _ _, fun j e hj => getElem?_ilPresentAt hj i s.clock⟩

end Sys2Proof.Machine
end

section
/-! The Percolator (R366 to R376): its images, cells, runs and base steps. -/

namespace Sys2Proof.Machine

/-! ## Cells (R373) -/

/-- Cells f, f + 1 and so on, n of them, each changed as its place in the range says. -/
def Perc.changeCells (f n : Nat) (change : Nat → Cell → Cell) (p : Perc) : Perc :=
  (List.range n).foldl (fun p e => p.setCell (f + e) (change e (p.cell (f + e)))) p

/-- What PSET makes of a cell for its element e. -/
def psetCell (v : BitVec 4096) (w : Bool) (e : Nat) (c : Cell) : Cell :=
  if w then { c with w := elemAt v 32 e } else { c with y := sextNat 32 (elemAt v 32 e) }

@[simp] theorem Perc.cell_setCell_same (p : Perc) (k : Nat) (c : Cell) : (p.setCell k c).cell k = c := SMap.get_set_same ..

theorem Perc.cell_setCell_other (p : Perc) {j k : Nat} (c : Cell) (h : j ≠ k) : (p.setCell k c).cell j = p.cell j := SMap.get_set_other _ _ _ h

theorem Perc.cell_changeCells (p : Perc) (f n : Nat) (change : Nat → Cell → Cell) (k : Nat) :
    (p.changeCells f n change).cell k = if f ≤ k ∧ k < f + n then change (k - f) (p.cell k) else p.cell k := by
  induction n with
  | zero => exact (if_neg (by omega)).symm
  | succ n ih =>
    rw [Perc.changeCells, List.range_succ, List.foldl_concat, ← Perc.changeCells]
    by_cases hk : k = f + n
    · subst hk
      rw [Perc.cell_setCell_same, ih, if_neg (by omega), if_pos (by omega), Nat.add_sub_cancel_left]
    · rw [Perc.cell_setCell_other _ _ hk, ih]
      exact if_congr (by omega) rfl rfl

/-! ## The Percolator of the core at work -/

section
variable {s u z : State} {d a b : Reg} {m : MemOp} {bs : List Byte} {pa k : Nat} {v : BitVec 4096}

theorem me_updArch (s : State) (f : Arch → Arch) : (s.updArch f).me.arch = f s.me.arch := by
  rw [State.updArch, State.me_updMe]
  rfl

theorem perc_updPerc (s : State) (f : Perc → Perc) : (s.updPerc f).me.arch.perc = f s.me.arch.perc :=
  congrArg Arch.perc (me_updArch s _)

/-- A strip that is taken changes nothing but the core's streams. -/
theorem takeV_ok {r : Nat} (h : s.takeV r = (z, .ok v)) : OnlyMe s z ∧ z.me.arch.perc = s.me.arch.perc := by
  unfold State.takeV at h
  dsimp only at h
  split_ifs at h
  · cases h
  · cases h
  · split at h
    · cases h
    · obtain ⟨rfl, -⟩ := Prod.mk.inj h
      exact ⟨onlyMe_updMe s _, (congrArg Arch.perc (me_updArch s fun x => x.popStream r) :)⟩
  · obtain ⟨rfl, -⟩ := Prod.mk.inj h
    exact ⟨onlyMe_refl s, rfl⟩

theorem percRange_ok (hwords : fld s.me.arch.vshape 1 0 = 2) (hrange : (s.me.x b).toNat + vElems s.me.arch.vshape ≤ 256) :
    s.percRange b = .ok ((s.me.x b).toNat, vElems s.me.arch.vshape) := by
  unfold State.percRange
  simp only [hwords, ne_eq, not_true_eq_false, if_false, if_neg (Nat.not_lt.mpr hrange)]

/-! ## Images (R367, R372, R376) -/

/-- No doubleword fails a check that all of them pass. -/
theorem find?_numbered_none {ws : List Word} {ok : Nat → Word → Bool} (h : ∀ p ∈ numbered ws, ok p.1 p.2 = true) :
    ((numbered ws).find? fun p => !ok p.1 p.2) = none :=
  List.find?_eq_none.mpr fun p hp => by rw [h p hp]; exact Bool.false_ne_true

variable (hidle : s.percBusy = false)
include hidle

/-- An image that can be read and passes its checks is taken over. -/
theorem percImage_loads {ea : Word} {n w : Nat} {ok : Nat → Word → Bool} (f : List Word → Perc → Perc) (hn : n / 8 = w)
    (haligned : ea.toNat % 64 = 0) (hread : s.coreRead s.cur ea n .read .align = (u, .ok (bs, pa)))
    (hok : ∀ p ∈ numbered (dwordsOf w bs), ok p.1 p.2 = true) :
    s.percImage ea n ok f = .next ((u.extraCycles ((pagesOf ea.toNat n).length - 1)).updPerc (f (dwordsOf w bs))) := by
  simp only [State.percImage, haligned, hidle, hread, hn, Got.step, find?_numbered_none hok, ne_eq, not_true_eq_false, Bool.false_eq_true, if_false]

theorem exec_ppatch_loads (haligned : (MemOp.ea s.me 64 m).toNat % 64 = 0)
    (hread : s.coreRead s.cur (MemOp.ea s.me 64 m) 2112 .read .align = (u, .ok (bs, pa)))
    (hok : ∀ p ∈ numbered (dwordsOf 264 bs), patchImageOk p.1 p.2 = true) :
    exec (.ppatch m) s = .next ((u.extraCycles ((pagesOf (MemOp.ea s.me 64 m).toNat 2112).length - 1)).updPerc
      fun p => p.load (dwordsOf 264 bs)) :=
  percImage_loads hidle (fun ws p => p.load ws) (by norm_num) haligned hread hok

theorem exec_prest_restores (haligned : (MemOp.ea s.me 64 m).toNat % 64 = 0)
    (hread : s.coreRead s.cur (MemOp.ea s.me 64 m) 8192 .read .align = (u, .ok (bs, pa)))
    (hok : ∀ p ∈ numbered (dwordsOf 1024 bs), restOk p.1 p.2 = true) :
    exec (.prest m) s = .next ((u.extraCycles ((pagesOf (MemOp.ea s.me 64 m).toNat 8192).length - 1)).updPerc
      fun _ => Perc.restore (dwordsOf 1024 bs)) :=
  by
  change s.percImage (MemOp.ea s.me 64 m) 8192 restOk (fun ws _ => Perc.restore ws) = _
  rw [percImage_loads hidle (fun ws _ => Perc.restore ws) (by norm_num) haligned hread hok]

section
variable (haligned : (MemOp.ea s.me 64 m).toNat % 64 = 0)
  (hwrites : s.coreWriteWords s.cur (MemOp.ea s.me 64 m) ((List.range 1024).map s.me.arch.perc.imageWord) s.me.arch.wait.sent = (u, .ok k))
include haligned hwrites

theorem exec_psave_stores : exec (.psave m) s =
    if k < 1024 then .next ((u.updMe fun c => { c with arch := { c.arch with wait := { c.arch.wait with sent := k } } }).holding cMEM)
    else .next (u.extraCycles ((pagesOf (MemOp.ea s.me 64 m).toNat 8192).length - 1)) := by
  change execPsave m s = _
  simp only [execPsave, haligned, hidle, hwrites, Got.step, ne_eq, not_true_eq_false, Bool.false_eq_true, if_false]
  rfl

theorem exec_psave_completes (hlast : 1024 ≤ k) :
    exec (.psave m) s = .next (u.extraCycles ((pagesOf (MemOp.ea s.me 64 m).toNat 8192).length - 1)) :=
  (exec_psave_stores hidle haligned hwrites).trans (if_neg (Nat.not_lt.mpr hlast))

theorem exec_psave_waits (hmore : k < 1024) : exec (.psave m) s =
    .next ((u.updMe fun c => { c with arch := { c.arch with wait := { c.arch.wait with sent := k } } }).holding cMEM) :=
  (exec_psave_stores hidle haligned hwrites).trans (if_pos hmore)

end

/-! ## PSET and PGET (R373) -/

section
variable (hwords : fld s.me.arch.vshape 1 0 = 2) (hrange : (s.me.x b).toNat + vElems s.me.arch.vshape ≤ 256)
include hwords hrange

theorem exec_pset_writes (w : Bool) (htake : s.takeV a.toNat = (z, .ok v)) : exec (.pset a b w) s =
    .next (z.updPerc (Perc.changeCells (s.me.x b).toNat (vElems s.me.arch.vshape) (psetCell v w))) := by
  change execPset a b w s = _
  simp only [execPset, percRange_ok hwords hrange, htake, hidle, Got.step, Bool.false_eq_true, if_false]
  rfl

/-- What PGET delivers. -/
def State.pgetValue (s : State) (b : Reg) (sel : PercSel) : BitVec 4096 :=
  packElems 4096 32 ((List.range (vElems s.me.arch.vshape)).map fun e => (s.me.arch.perc.cell ((s.me.x b).toNat + e)).pick sel)

/-- The state in which a PGET that does not wait leaves the core. -/
def State.pgot (s : State) (d b : Reg) (sel : PercSel) : State :=
  ((s.updArch fun a => a.wv d.toNat (s.pgetValue b sel)).flyV d.toNat 2).printEntry s.cur false (.pget d b sel)

theorem exec_pget_reads (sel : PercSel) (hfree : s.me.bound d.toNat = false) : exec (.pget d b sel) s = .next (s.pgot d b sel) := by
  change execPget d b sel s = _
  simp only [execPget, percRange_ok hwords hrange, hfree, hidle, Bool.false_eq_true, if_false]
  rfl

end

/-! ## PSTEP (R370, R374, R375) -/

theorem exec_pstep_starts (d a b : Reg) :
    exec (.pstep d a b false) s = .next ((s.updPerc fun p => p.start 0 (s.me.x a)).pushXI d s.me.arch.perc.prem) := by
  change execPstep d a b false s = _
  simp only [execPstep, hidle, Bool.false_eq_true, if_false]

theorem exec_pstep_startsLanes (htake : s.takeV b.toNat = (z, .ok v)) (hlanes : badLane v = none) :
    exec (.pstep d a b true) s = .next ((z.updPerc fun p => p.start v (s.me.x a)).pushXI d s.me.arch.perc.prem) := by
  obtain ⟨-, hperc⟩ := takeV_ok htake
  have hidle' : z.percBusy = false := (congrArg Perc.running hperc).trans hidle
  change execPstep d a b true s = _
  simp only [execPstep, htake, hlanes, hidle, hidle', hperc, if_true, Option.isSome_none, Bool.or_self, Bool.false_eq_true, if_false]

end

section
variable {s z : State} {v : BitVec 4096} {d a b : Reg} {g k : Nat}

theorem exec_pstep_waits (hbusy : s.percBusy = true) : exec (.pstep d a b false) s = .next (s.holding cDEP) := by
  change execPstep d a b false s = _
  simp only [execPstep, hbusy, Bool.false_eq_true, if_false, if_true]
  rfl

theorem exec_percBaseStep_steps (hrun : (s.core g).arch.perc.running = true) (hdbg : (s.quad (quadOf g)).dbg = false)
    (hstrand : ∀ t, (s.core g).strand = some t → t.spilling = false) : exec (.percBaseStep g) s =
      .next (s.updCore g fun c => { c with arch := { c.arch with perc := { c.arch.perc.step with fltAt := s.clock } } }) := by
  change execPercBaseStep g s = _
  cases ht : (s.core g).strand with
  | none => simp [execPercBaseStep, ht, hrun, hdbg, Core.updArch]
  | some t => simp [execPercBaseStep, ht, hrun, hdbg, hstrand t ht, Core.updArch]

/-! ## What the core reads afterwards -/

theorem pset_cell (htake : s.takeV a.toNat = (z, .ok v)) (f n : Nat) (w : Bool) :
    (z.updPerc (Perc.changeCells f n (psetCell v w))).me.arch.perc.cell k =
      if f ≤ k ∧ k < f + n then psetCell v w (k - f) (s.me.arch.perc.cell k) else s.me.arch.perc.cell k := by
  obtain ⟨-, hperc⟩ := takeV_ok htake
  rw [perc_updPerc, hperc, Perc.cell_changeCells]

theorem onlyMe_printEntry (s : State) (trap : Bool) (i : Instr) : OnlyMe s (s.printEntry s.cur trap i) := by
  unfold State.printEntry State.foldLate
  split_ifs
  · exact onlyMe_updMe s _
  · exact onlyMe_refl s

theorem onlyMe_pgot (s : State) (d b : Reg) (sel : PercSel) : OnlyMe s (s.pgot d b sel) :=
  ((onlyMe_updMe s _).trans (onlyMe_updMe _ _)).trans (onlyMe_printEntry _ _ _)

theorem me_printEntry_arch (s : State) (trap : Bool) (i : Instr) : (s.printEntry s.cur trap i).me.arch = s.me.arch := by
  rw [State.me, (onlyMe_printEntry s trap i).1, core_printEntry_arch]
  rfl

theorem me_flyV_rv (s : State) (d n k : Nat) : (s.flyV d n).me.arch.rv k = s.me.arch.rv k := by
  rw [State.flyV, State.me_updMe]
  rfl

theorem pgot_value (s : State) (d b : Reg) (sel : PercSel) : (s.pgot d b sel).me.arch.rv d.toNat = s.pgetValue b sel := by
  have hwritten : (s.pgot d b sel).me.arch = ((s.updArch fun a => a.wv d.toNat (s.pgetValue b sel)).flyV d.toNat 2).me.arch :=
    me_printEntry_arch _ false (.pget d b sel)
  rw [hwritten, me_flyV_rv, me_updArch, Arch.rv_wv_same]

theorem elemAt_pgetValue (sel : PercSel) (hfits : vElems s.me.arch.vshape ≤ 128) (hk : k < vElems s.me.arch.vshape) :
    elemAt (s.pgetValue b sel) 32 k = (s.me.arch.perc.cell ((s.me.x b).toNat + k)).pick sel % 2 ^ 32 := by
  rw [State.pgetValue, elemAt_packElems (by simpa using Nat.mul_le_mul_right 32 hfits) (by simpa using hk)]
  simp

end

/-- Settles O45, instruction by instruction. -/
theorem percolatorWorks : Obligations.PercolatorWorks := by
  intro s u d a b w sel m bs pa g ea f n
  refine ⟨fun haligned hidle => ⟨exec_ppatch_loads hidle haligned, exec_prest_restores hidle haligned⟩,
    fun haligned hidle k hwrites => ⟨exec_psave_completes hidle haligned hwrites, exec_psave_waits hidle haligned hwrites⟩, ?cells,
    fun hidle => ⟨exec_pstep_starts hidle d a b, fun z v => exec_pstep_startsLanes hidle⟩, exec_pstep_waits, exec_percBaseStep_steps⟩
  case cells =>
    intro hidle hwords hrange
    constructor
    · intro z v htake
      refine ⟨_, exec_pset_writes hidle hwords hrange w htake, (takeV_ok htake).1.trans (onlyMe_updMe z _), fun k _ => ?_⟩
      exact pset_cell htake f n w
    · intro hfree hfits
      refine ⟨_, exec_pget_reads hidle hwords hrange sel hfree, onlyMe_pgot s d b sel, fun k hk => ?_⟩
      rw [pgot_value]
      exact elemAt_pgetValue sel hfits hk

end Sys2Proof.Machine
end

section
/-! Divided memories: scrubbing, slice ways and the quad's SRAM (R345 to R351). -/

namespace Sys2Proof

theorem SMap.get?_del_same {α : Type} (m : SMap α) (n : Nat) : SMap.get? (SMap.del m n) n = none := by
  induction m with
  | nil => rfl
  | cons p r ih =>
    obtain ⟨k, v⟩ := p
    simp only [SMap.del, List.filter_cons] at ih ⊢
    by_cases hk : k = n
    · simpa [hk] using ih
    · simpa [hk, SMap.get?] using ih

namespace Machine

/-- A byte whose key a filter drops reads as one that nothing has written. -/
theorem Memory.rd_filter_dropped (m : Memory) {f : Nat → Bool} {k : Nat} (h : f k = false) : Memory.rd (m.filter fun c => f c.1) k = 0 := by
  rw [Memory.rd, SMap.get_filter_key m unwritten f k, h]
  rfl

/-! ## Scrubbing (R345) -/

/-- A scrub has ended with a result. -/
def State.scrubbed (s : State) (die res : Nat) : State := s.updDie die fun d => { d with scrubBusy := false, scrubRes := res }

/-- One more of a die's media blocks is retired. -/
def State.retireBlock (s : State) (die : Nat) : State := { s with gen := { s.gen with retired := SMap.upd s.gen.retired 0 die (· + 1) } }

section
variable (s : State) {die b : Nat} {v : Word} {good : Bool}

theorem scrubbed_die (die res : Nat) : ((s.scrubbed die res).die die).scrubRes = res ∧ ((s.scrubbed die res).die die).scrubBusy = false := by
  rw [State.scrubbed, State.die_updDie_same]
  exact ⟨rfl, rfl⟩

theorem touchBlock_retired (exempt : Bool) (m : Memory) (p : SMap PoisonMask) (g : Gen) (b : Nat) :
    (touchBlock exempt m p g b).retired = g.retired := by
  unfold touchBlock
  split
  · rfl
  · split
    · rfl
    · split <;> rfl
    · rfl

theorem putCode_retired (b c : Nat) : (s.putCode b c).gen.retired = s.gen.retired := by
  unfold State.putCode State.putBytes State.homeWrite
  exact List.foldlRecOn (motive := fun g : Gen => g.retired = s.gen.retired) _ _ rfl
    fun g hg b _ => (touchBlock_retired _ s.mem s.poison g b).trans hg

theorem zeroBlock_retired (b : Nat) : (s.zeroBlock b).gen.retired = s.gen.retired := by
  unfold State.zeroBlock
  dsimp only
  split
  · split_ifs
    · exact putCode_retired s b 2
    · rfl
  · rfl

theorem zeroBlock_block (b : Nat) : SMap.get? (s.zeroBlock b).gen.blocks b = none := SMap.get?_del_same _ b

theorem zeroBlock_rd (b : Nat) {i : Nat} (hi : i < 4096) : (s.zeroBlock b).mem.rd (4096 * b + i) = 0 := by
  have hblock : (4096 * b + i) / 4096 = b := by omega
  exact Memory.rd_filter_dropped _ (f := fun k => decide (k / 4096 ≠ b)) (by simp [hblock])

variable {s}

theorem exec_scrubStart_starts (hidle : (s.die die).scrubBusy = false) :
    exec (.scrubStart die v) s = .next (s.updDie die fun d => { d with scrubBusy := true, scrubPa := pageField v }) :=
  congrArg Host.Outcome.next (if_neg (by simp [hidle]))

theorem exec_scrubStart_busy (hbusy : (s.die die).scrubBusy = true) : exec (.scrubStart die v) s = .next s :=
  congrArg Host.Outcome.next (if_pos hbusy)

section
variable (hbusy : (s.die die).scrubBusy = true)
include hbusy

theorem exec_scrubComplete_stray (h : blockOf (unalias (s.die die).scrubPa.toNat) = none
      ∨ blockIs s (unalias (s.die die).scrubPa.toNat) .quarantined = false) :
    exec (.scrubComplete die good) s = .next (s.scrubbed die 3) := by
  change execScrubComplete die good s = _
  simp only [execScrubComplete, hbusy, Bool.not_true, Bool.false_eq_true, if_false]
  obtain h | h := h
  · simp only [h]
    rfl
  · simp only [h, Bool.not_false, Bool.or_true, if_true]
    split <;> rfl

variable (hblock : blockOf (unalias (s.die die).scrubPa.toNat) = some b)
  (hquar : blockIs s (unalias (s.die die).scrubPa.toNat) .quarantined = true) (hdie : b / 2 ^ 24 = die)
include hblock hquar hdie

/-- What a scrub of a quarantined block of its die comes to. -/
theorem exec_scrubComplete_block : exec (.scrubComplete die good) s = .next
    (if good then (s.zeroBlock b).scrubbed die 1
     else if 0 < s.gen.free die then ((s.zeroBlock b).retireBlock die).scrubbed die 2
     else s.scrubbed die 4) := by
  have hon : onDie die b = true := decide_eq_true hdie
  change execScrubComplete die good s = _
  simp only [execScrubComplete, hbusy, hblock, hquar, hon, Bool.not_true, Bool.or_self, Bool.false_eq_true, if_false]
  split_ifs <;> rfl

theorem exec_scrubComplete_good : exec (.scrubComplete die true) s = .next ((s.zeroBlock b).scrubbed die 1) :=
  exec_scrubComplete_block hbusy hblock hquar hdie

theorem exec_scrubComplete_bad (hfree : 0 < s.gen.free die) :
    exec (.scrubComplete die false) s = .next (((s.zeroBlock b).retireBlock die).scrubbed die 2) :=
  (exec_scrubComplete_block hbusy hblock hquar hdie).trans (congrArg Host.Outcome.next (if_pos hfree))

theorem exec_scrubComplete_noReserve (hfree : s.gen.free die = 0) : exec (.scrubComplete die false) s = .next (s.scrubbed die 4) :=
  (exec_scrubComplete_block hbusy hblock hquar hdie).trans (congrArg Host.Outcome.next (if_neg hfree.not_gt))

end
end

/-! ## Slice ways (R349 to R351) -/

section
variable {s : State} {die sl : Nat} {v : Word}

theorem slice_updSlice (s : State) (die sl : Nat) (f : Slice → Slice) :
    ((s.updSlice die sl f).die die).slice sl = f ((s.die die).slice sl) := by
  rw [State.updSlice, State.die_updDie_same]
  exact SMap.get_set_same _ _ _ _

theorem zeroWindow_rd (s : State) (die sl : Nat) {lo hi i : Nat} (hlo : lo * 2 ^ 20 ≤ i) (hhi : i < hi * 2 ^ 20) :
    (s.zeroWindow die sl lo hi).mem.rd (apertureBase die sl + i) = 0 := by
  refine Memory.rd_filter_dropped s.mem (f := fun k =>
    decide (k < apertureBase die sl + lo * 2 ^ 20) || decide (apertureBase die sl + hi * 2 ^ 20 ≤ k)) ?_
  simp only [Bool.or_eq_false_iff, decide_eq_false_iff_not, not_lt, not_le]
  omega

theorem exec_waypartWrite_large (hlarge : 8 < fld v 3 0) :
    exec (.waypartWrite die sl v) s = .next (s.updSlice die sl fun x => { x with err := 2 }) := if_pos hlarge

section
variable (hways : fld v 3 0 ≤ 8)
include hways

theorem exec_waypartWrite_moving (hst : ((s.die die).slice sl).st ≠ 0) :
    exec (.waypartWrite die sl v) s = .next (s.updSlice die sl fun x => { x with err := 1 }) := (if_neg hways.not_gt).trans (if_pos hst)

variable (hst : ((s.die die).slice sl).st = 0)
include hst

theorem exec_waypartWrite_same (hcur : fld v 3 0 = ((s.die die).slice sl).cur) :
    exec (.waypartWrite die sl v) s = .next (s.updSlice die sl fun x => { x with err := 0, sw := fld v 3 0 }) :=
  (if_neg hways.not_gt).trans ((if_neg (not_not.mpr hst)).trans (if_pos hcur))

theorem exec_waypartWrite_fewer (hcur : fld v 3 0 < ((s.die die).slice sl).cur) : exec (.waypartWrite die sl v) s =
    .next (s.updSlice die sl fun x => { x with err := 0, sw := fld v 3 0, cur := fld v 3 0, st := 2 }) :=
  (if_neg hways.not_gt).trans ((if_neg (not_not.mpr hst)).trans ((if_neg hcur.ne).trans (if_neg hcur.not_gt)))

theorem exec_waypartWrite_more (hcur : ((s.die die).slice sl).cur < fld v 3 0) : exec (.waypartWrite die sl v) s =
    .next ((s.zeroWindow die sl ((s.die die).slice sl).cur (fld v 3 0)).updSlice die sl fun x => { x with err := 0, sw := fld v 3 0, st := 1 }) :=
  (if_neg hways.not_gt).trans ((if_neg (not_not.mpr hst)).trans ((if_neg hcur.ne').trans (if_pos hcur)))

end

theorem exec_surrenderComplete_ends (hst : ((s.die die).slice sl).st = 1) :
    exec (.surrenderComplete die sl) s = .next (s.updSlice die sl fun x => { x with st := 0, cur := x.sw }) :=
  congrArg Host.Outcome.next (if_pos hst)

theorem exec_surrenderComplete_none (hst : ((s.die die).slice sl).st ≠ 1) : exec (.surrenderComplete die sl) s = .next s :=
  congrArg Host.Outcome.next (if_neg hst)

theorem exec_reclaimComplete_ends (hst : ((s.die die).slice sl).st = 2) (hidle : s.windowBusy die sl = false) :
    exec (.reclaimComplete die sl) s =
      .next ((s.zeroWindow die sl ((s.die die).slice sl).cur 8).updSlice die sl fun x => { x with st := 0 }) :=
  congrArg Host.Outcome.next (if_pos ⟨hst, hidle⟩)

theorem exec_reclaimComplete_none (h : ((s.die die).slice sl).st ≠ 2 ∨ s.windowBusy die sl = true) :
    exec (.reclaimComplete die sl) s = .next s := by
  refine congrArg Host.Outcome.next (if_neg ?_)
  rintro ⟨hst, hidle⟩
  obtain h | h := h
  · exact h hst
  · exact Bool.noConfusion (hidle.symm.trans h)

end

/-! ## The quad's SRAM (R346 to R348) -/

section
variable {s : State} {q : Nat} {v : Word}

theorem stashImage_fits (hsize : fld v 9 0 ≤ sramUnits (quadLayer q)) (hlow : s.journalLow q = none) :
    ((s.stashImage q v).quad q).stash = fld v 9 0 ∧ ((s.stashImage q v).quad q).spad = sramUnits (quadLayer q) - fld v 9 0
      ∧ ((s.stashImage q v).quad q).stashErr = 0 := by
  obtain ⟨u, hput, hstash, hspad⟩ := putStash_ok (s := s) hsize fun lo h => nomatch hlow.symm.trans h
  simp only [State.stashImage, hput, State.quad_updQuad_same]
  exact ⟨hstash, hspad, trivial⟩

theorem stashImage_large (hsize : sramUnits (quadLayer q) < fld v 9 0) : s.stashImage q v = s.updQuad q fun q => { q with stashErr := 1 } := by
  have hput : s.putStash q v = (1, s) := if_pos hsize
  rw [State.stashImage, hput]

end

/-- Settles O50, event by event. -/
theorem memoriesAreDivided : Obligations.MemoriesAreDivided := by
  refine ⟨fun s die v => ⟨exec_scrubStart_starts, exec_scrubStart_busy⟩, ?scrub, ?waypart, ?moves, ?stash⟩
  case scrub =>
    intro s die good hbusy k
    refine ⟨exec_scrubComplete_stray hbusy, fun b hblock hquar hdie => ⟨?good, ?bad, ?none⟩⟩
    case good =>
      rintro rfl
      exact ⟨_, exec_scrubComplete_good hbusy hblock hquar hdie, zeroBlock_block s b, fun i => zeroBlock_rd s b, scrubbed_die _ die 1⟩
    case bad =>
      rintro rfl hfree
      refine ⟨_, exec_scrubComplete_bad hbusy hblock hquar hdie hfree, zeroBlock_block s b, ?_, scrubbed_die _ die 2⟩
      have hretired : SMap.get ((s.zeroBlock b).retireBlock die).gen.retired 0 die = SMap.get (s.zeroBlock b).gen.retired 0 die + 1 :=
        SMap.get_upd_same _ _ _ _ _
      exact hretired.trans (by rw [zeroBlock_retired])
    case none =>
      rintro rfl hfree
      exact exec_scrubComplete_noReserve hbusy hblock hquar hdie hfree
  case waypart =>
    intro s die sl v x put
    refine ⟨exec_waypartWrite_large, exec_waypartWrite_moving, fun hways hst =>
      ⟨exec_waypartWrite_same hways hst, exec_waypartWrite_fewer hways hst, fun hcur => ?_⟩⟩
    exact ⟨_, exec_waypartWrite_more hways hst hcur, slice_updSlice _ die sl _, fun i => zeroWindow_rd s die sl⟩
  case moves =>
    intro s die sl x
    exact ⟨exec_surrenderComplete_ends, exec_surrenderComplete_none,
      fun hst hidle => ⟨_, exec_reclaimComplete_ends hst hidle, slice_updSlice _ die sl _⟩, exec_reclaimComplete_none⟩
  case stash =>
    intro s q v
    exact ⟨fun hsize hlow => ⟨_, rfl, stashImage_fits hsize hlow⟩, fun hsize => congrArg Host.Outcome.next (stashImage_large hsize)⟩

end Machine
end Sys2Proof
end

section
/-! Charged cycles and the hardware's own writes move memory, media and cores: what any other part of the state keeps through them. -/

namespace Sys2Proof.Machine

/-- A part of the state that the clock, cores, memory, the counts of context 0 and the errors met in media leave alone. -/
structure OffBooks {β : Type} (part : State → β) : Prop where
  clock : ∀ (s : State) (c : Nat), part { s with clock := c } = part s
  acct0 : ∀ (s : State) (l : SMap Nat), part { s with acct0 := l } = part s
  cores : ∀ (s : State) (l : SMap Core), part { s with cores := l } = part s
  media : ∀ (s : State) (m : Memory) (p : SMap PoisonMask) (g : Gen), part { s with mem := m, poison := p, gen := g } = part s
  sector : ∀ (s : State) (die : Nat) (direct : Bool) (k : Nat), part (s.fireSector die direct k).1 = part s

section
variable {β : Type} {part : State → β} (h : OffBooks part) (s : State)
include h

theorem OffBooks.updCore (g : Nat) (f : Core → Core) : part (s.updCore g f) = part s := h.cores s _

theorem OffBooks.setPoison (k : Nat) : part (s.setPoison k) = part s := h.media s _ _ _

theorem OffBooks.homeWrite (e : Bool) (cs : List Host.Cell) (ws : List Nat) : part (s.homeWrite e cs ws) = part s := h.media s _ _ _

theorem OffBooks.putCode (b c : Nat) : part (s.putCode b c) = part s := h.homeWrite s _ _ _

theorem OffBooks.thaw (b : Nat) : part (s.thaw b) = part s := by
  unfold State.thaw
  split
  · rfl
  · exact h.media s _ _ _

theorem OffBooks.fireKeys (die : Nat) (direct : Bool) (ks : List Nat) : part (s.fireKeys die direct ks).1 = part s := by
  unfold State.fireKeys
  generalize (ks.map (· / 32)).eraseDups = l
  generalize false = b
  induction l generalizing s b with
  | nil => rfl
  | cons k l ih => exact (ih _ _).trans (h.sector s die direct k)

theorem OffBooks.drainBlock (b : Nat) : part (s.drainBlock b) = part s := by
  unfold State.drainBlock
  split
  · rfl
  · dsimp only
    refine (h.thaw _ b).trans ((h.media _ _ _ _).trans ((h.putCode _ b 1).trans ?_))
    refine (foldl_part_eq (fun t i => h.setPoison t _) _ _).trans ((h.homeWrite _ _ _ _).trans ?_)
    split_ifs
    · rfl
    · exact h.fireKeys s _ _ _

theorem OffBooks.ownWrite (cs : List Host.Cell) (ws : List Nat) : part (s.ownWrite cs ws) = part s := by
  refine foldl_part_eq (fun s b => (h.homeWrite _ _ _ _).trans ?_) _ s
  split_ifs
  · exact h.drainBlock s b
  · rfl

theorem OffBooks.hwWrite (pa n v : Nat) : part (s.hwWrite pa n v) = part s := by
  unfold State.hwWrite
  dsimp only
  split_ifs
  · exact h.ownWrite s _ _
  · rfl

theorem OffBooks.ringPut (c : Core) (r : Nat) : part (s.ringPut c r) = part s := by
  unfold State.ringPut
  rw [h.hwWrite, h.hwWrite]

theorem OffBooks.putOverflow (g : Nat) : part (s.putOverflow g) = part s := by
  unfold State.putOverflow
  dsimp only
  split_ifs
  · rfl
  · split
    · rfl
    · exact (h.updCore _ g _).trans (h.ringPut s _ _)

theorem OffBooks.endRun (g k : Nat) : part (s.endRun g k) = part s := by
  have hover : part ((List.range 32).foldl (fun s _ => s.putOverflow g) s) = part s := foldl_part_eq (fun s _ => h.putOverflow s g) _ s
  unfold State.endRun
  dsimp only
  split
  · rfl
  · refine (h.updCore _ g _).trans ?_
    split_ifs
    · rfl
    · exact (h.updCore _ g _).trans hover
    · exact (h.ringPut _ _ _).trans hover

theorem OffBooks.endRuns (g : Nat) : part (s.endRuns g) = part s := (h.endRun _ g 1).trans (h.endRun s g 0)

theorem OffBooks.flushAcct (g : Nat) : part (s.flushAcct g) = part s := by
  rw [State.flushAcct_eq]
  refine (h.updCore _ g _).trans (foldl_part_eq (fun t p => ?_) _ s)
  split_ifs
  · exact h.acct0 t _
  · exact h.hwWrite t _ _ _

theorem OffBooks.extendRun (f g k x c n : Nat) (pc : Word) : part (State.extendRun f s g k x c n pc) = part s := by
  induction f generalizing s n with
  | zero => rfl
  | succ f ih =>
    unfold State.extendRun
    extract_lets run t old m r u
    have ht : part t = part s := by
      unfold t
      cases run with
      | none => rfl
      | some r =>
        dsimp only
        split_ifs
        · rfl
        · exact h.endRun s g k
    split_ifs
    · exact (h.updCore t g _).trans ht
    · exact (ih u _).trans ((h.updCore t g _).trans ht)

theorem OffBooks.chargeSlot (g k x c n : Nat) (pc : Word) : part (s.chargeSlot g k x c n pc) = part s :=
  (h.updCore _ g _).trans (h.extendRun s _ g k x c n pc)

theorem OffBooks.charge (g c a n : Nat) (pc : Word) : part (s.charge g c a n pc) = part s := by
  unfold State.charge
  dsimp only
  split_ifs <;> simp only [h.chargeSlot]

theorem OffBooks.spend (g n : Nat) : part (s.spend g n) = part s := by
  unfold State.spend
  dsimp only
  split_ifs <;> simp only [h.updCore]

theorem OffBooks.pay (g c n : Nat) (pc : Word) : part (s.pay g c n pc) = part s := (h.spend _ g n).trans (h.charge s g c c n pc)

theorem OffBooks.bringUp (g : Nat) : part (s.bringUp g) = part s := by
  unfold State.bringUp State.chargeIdle State.haltedTurn State.catchUp State.bill
  dsimp only
  generalize (if s.dual (g / 2 * 2) = true then g / 2 * 2 else g) = e
  split_ifs <;> simp only [h.spend, h.charge, h.pay, h.updCore, h.clock, foldl_part_eq fun s _ => h.charge s _ _ _ _ _]

theorem OffBooks.idleUp (l : List Nat) : part (s.idleUp l) = part s := by
  refine foldl_part_eq (fun t g => ?_) l s
  split_ifs
  · exact h.bringUp t g
  · rfl

end

/-- Errors that are met are counted at their dies. -/
def Die.unerred (d : Die) : Die := { d with errcntUe := 0, errcntCe := 0, erraddr := 0 }

section
variable {β : Type} (s : State) {part : Die → β}

/-- An update of one die keeps a part that it keeps of its own. -/
theorem die_updDie_part {f : Die → Die} (hf : ∀ x, part (f x) = part x) (h d : Nat) : part ((s.updDie h f).die d) = part (s.die d) := by
  by_cases hd : d = h
  · rw [hd, State.die_updDie_same, hf]
  · rw [State.die_updDie_other s f hd]

theorem setPoison_die (k d : Nat) : (s.setPoison k).die d = s.die d := rfl

theorem offBooks_die (d : Nat) : OffBooks fun s : State => (s.die d).unerred where
  clock _ _ := rfl
  acct0 _ _ := rfl
  cores _ _ := rfl
  media _ _ _ _ := rfl
  sector s die direct k := by
    unfold State.fireSector
    dsimp only
    split_ifs
    · rfl
    · rfl
    · refine (congrArg Die.unerred (setPoison_die _ k d)).trans ?_
      refine die_updDie_part _ (part := Die.unerred) (fun _ => ?_) die d
      rfl
    · refine die_updDie_part _ (part := Die.unerred) (fun _ => ?_) _ d
      rfl

theorem offBooks_power : OffBooks State.power where
  clock _ _ := rfl
  acct0 _ _ := rfl
  cores _ _ := rfl
  media _ _ _ _ := rfl
  sector s die direct k := by
    unfold State.fireSector
    dsimp only
    split_ifs <;> rfl

end

end Sys2Proof.Machine
end

section
/-! The budget arbiter and the slew limiter (R395 to R407): a division, the arbiter's registers, and a slew step. -/

namespace Sys2Proof

/-! ## Fields of a word -/

section
variable {n : Nat} (w : BitVec n)

theorem testBit_fld (hi lo i : Nat) : (fld w hi lo).testBit i = (decide (i < hi - lo + 1) && bitAt w (lo + i)) := by
  rw [fld, Nat.testBit_mod_two_pow, Nat.testBit_shiftRight]
  rfl

variable {hi lo : Nat} (hlo : lo ≤ hi)
include hlo

/-- A field that holds what is written in another word's. -/
theorem fld_setFld_fld (v : BitVec n) (hhi : hi < n) : fld (setFld w hi lo (fld v hi lo)) hi lo = fld v hi lo := by
  refine Nat.eq_of_testBit_eq fun i => ?_
  rw [testBit_fld, testBit_fld]
  by_cases hi' : i < hi - lo + 1
  · rw [bitAt_setFld w (by omega) _ hlo, if_pos (by omega), Nat.add_sub_cancel_left, testBit_fld, decide_eq_true hi', Bool.true_and, Bool.true_and]
  · rw [decide_eq_false hi', Bool.false_and, Bool.false_and]

theorem fld_setFld_other {hi' lo' : Nat} (v : Nat) (hlo' : lo' ≤ hi') (hhi : hi' < n) (h : hi' < lo ∨ hi < lo') :
    fld (setFld w hi lo v) hi' lo' = fld w hi' lo' := by
  refine Nat.eq_of_testBit_eq fun i => ?_
  rw [testBit_fld, testBit_fld]
  by_cases hi' : i < hi' - lo' + 1
  · rw [bitAt_setFld w (by omega) _ hlo, if_neg (by omega)]
  · rw [decide_eq_false hi', Bool.false_and, Bool.false_and]

end

namespace Machine

/-! ## Dies that differ in their error counts alone -/

/-- Die d's regions after a sample, before its gangs are levelled (R401). Irreducible, so that a comparison of dies does not evaluate it. -/
@[irreducible] def sampledRegions (inp : DivInput) (now d : Nat) (tctl regmax : Word) (rs : SMap Region) : SMap Region :=
  (List.range numRegions).foldl (fun rs r =>
    let y := (SMap.get rs Region.reset r).samples tctl (DivInput.temperature inp d r) now
    SMap.set rs r { y with level := regionLevel (fld regmax 15 0) (DivInput.region inp d r) y }) rs

def Die.sampled (inp : DivInput) (now d : Nat) (x : Die) : Die :=
  { x with regions := sampledRegions inp now d x.tctl x.regmax x.regions }

/-- A die with the level of region r set. -/
def Die.levelled (l r : Nat) (x : Die) : Die := { x with regions := SMap.set x.regions r { x.region r with level := l } }

theorem sampleRegions_eq (s : State) (inp : DivInput) (now : Nat) :
    s.sampleRegions inp now = ([0, 1].foldl (fun s d => s.updDie d (Die.sampled inp now d)) s).levelGangs := by
  unfold Die.sampled sampledRegions
  rfl

theorem sampled_unerred (inp : DivInput) (now d : Nat) (x : Die) : (x.sampled inp now d).unerred = x.unerred.sampled inp now d := rfl

/-- Two states whose dies differ in their error counts alone. -/
def SameDies (s t : State) : Prop := ∀ d, (t.die d).unerred = (s.die d).unerred

theorem ladder_of_unerred {x y : Die} (h : x.unerred = y.unerred) : x.ladder = y.ladder := (congrArg Die.ladder h :)

section
variable {s t : State} (h : SameDies s t)
include h

theorem SameDies.domain (d n : Nat) : (t.die d).domain n = (s.die d).domain n := (congrArg (Die.domain · n) (h d) :)
theorem SameDies.levelOf (p : Nat × Nat) : t.levelOf p = s.levelOf p := (congrArg (fun d : Die => (d.region p.2).level) (h p.1) :)
theorem SameDies.crit (d : Nat) : (t.die d).crit = (s.die d).crit := (congrArg Die.crit (h d) :)
theorem SameDies.ladder (d : Nat) : (t.die d).ladder = (s.die d).ladder := ladder_of_unerred (h d)

theorem SameDies.updDie {f : Die → Die} (hf : ∀ x, (f x).unerred = f x.unerred) (d : Nat) : SameDies (s.updDie d f) (t.updDie d f) := by
  intro e
  by_cases he : e = d
  · rw [he, State.die_updDie_same, State.die_updDie_same, hf, hf, h d]
  · rw [State.die_updDie_other s f he, State.die_updDie_other t f he, h e]

theorem SameDies.setLevel (l : Nat) (p : Nat × Nat) : SameDies (s.setLevel l p) (t.setLevel l p) :=
  h.updDie (f := Die.levelled l p.2) (fun _ => rfl) p.1

theorem SameDies.foldl {α : Type} {f : State → α → State} (hf : ∀ s t a, SameDies s t → SameDies (f s a) (f t a)) (l : List α) :
    SameDies (l.foldl f s) (l.foldl f t) := by
  induction l generalizing s t with
  | nil => exact h
  | cons a r ih => exact ih (hf s t a h)

theorem SameDies.gangs : t.gangs = s.gangs := by
  simp only [State.gangs, State.gangRegions, State.halves, h.domain]

theorem SameDies.gangLevels (rs : List (Nat × Nat)) : SameDies (s.gangLevels rs) (t.gangLevels rs) := by
  have hlevels : rs.map t.levelOf = rs.map s.levelOf := List.map_congr_left fun p _ => h.levelOf p
  rw [State.gangLevels, State.gangLevels, hlevels]
  exact h.foldl (fun s t p hst => hst.setLevel _ p) rs

theorem SameDies.sampleRegions (inp : DivInput) (now : Nat) : SameDies (s.sampleRegions inp now) (t.sampleRegions inp now) := by
  have hregions := h.foldl (fun s t d hst => hst.updDie (sampled_unerred inp now d) d) [0, 1]
  rw [sampleRegions_eq, sampleRegions_eq, State.levelGangs, State.levelGangs, hregions.gangs]
  exact hregions.foldl (fun s t _ hst => hst.foldl (fun s t rs hst => hst.gangLevels rs) _) _

end

/-- A part of the state that levels of regions leave alone is left alone by levelled gangs. -/
theorem levelGangs_part {β : Type} {part : State → β} (h : ∀ s l p, part (State.setLevel s l p) = part s) (s : State) :
    part s.levelGangs = part s :=
  foldl_part_eq (fun s _ => foldl_part_eq (fun s rs => foldl_part_eq (fun s p => h s _ p) rs s) _ s) _ s

theorem setLevel_ladder (s : State) (l : Nat) (p : Nat × Nat) (d : Nat) : ((s.setLevel l p).die d).ladder = (s.die d).ladder :=
  die_updDie_part s (part := Die.ladder) (f := Die.levelled l p.2) (fun _ => rfl) p.1 d

theorem sampleRegions_ladder (s : State) (inp : DivInput) (now d : Nat) : ((s.sampleRegions inp now).die d).ladder = (s.die d).ladder := by
  rw [sampleRegions_eq]
  refine (levelGangs_part (part := fun s => (s.die d).ladder) (fun s l p => setLevel_ladder s l p d) _).trans ?_
  exact foldl_part_eq (part := fun s => (s.die d).ladder) (fun s e => die_updDie_part s (part := Die.ladder) (f := Die.sampled inp now e)
    (fun _ => rfl) e d) [0, 1] s

theorem sampleRegions_power (s : State) (inp : DivInput) (now : Nat) : (s.sampleRegions inp now).power = s.power := by
  rw [sampleRegions_eq]
  exact levelGangs_part (part := State.power) (fun _ _ _ => rfl) _

/-! ## The ladder (R399) -/

/-- Both dies, each changed in its own way. -/
theorem die_updBoth (f : Nat → Die → Die) (s : State) {d : Nat} (hd : d < 2) :
    ((s.updDie 0 (f 0)).updDie 1 (f 1)).die d = f d (s.die d) := by
  obtain rfl | rfl : d = 0 ∨ d = 1 := by omega
  · rw [State.die_updDie_other _ _ (by decide), State.die_updDie_same]
  · rw [State.die_updDie_same, State.die_updDie_other _ _ (by decide)]

/-- A die back at the top of its ladder. -/
def Die.ladderTop (x : Die) : Die := { x with ladder := 0 }

/-- A die whose ladder has taken its step. -/
def Die.stepped (p : Power) (inp : DivInput) (d : Nat) (x : Die) : Die :=
  { x with ladder := ladderNext p.mode x.ladder (shareEnergy p.plim (DivInput.dieEnergy inp (1 - d))) (DivInput.dieEnergy inp d) x.crit }

section
variable {s : State} (inp : DivInput)

theorem ladderStep_of_moded (hmoded : s.power.moded = true) : s.ladderStep inp =
    (({ s with power := { s.power with mode := s.power.nextMode, moded := false } } : State).updDie 0 Die.ladderTop).updDie 1 Die.ladderTop :=
  if_pos hmoded

theorem ladderStep_of_unmoded (hmoded : s.power.moded = false) :
    s.ladderStep inp = (s.updDie 0 (Die.stepped s.power inp 0)).updDie 1 (Die.stepped s.power inp 1) :=
  if_neg (Bool.eq_false_iff.mp hmoded)

theorem ladderStep_moded (hmoded : s.power.moded = true) :
    (s.ladderStep inp).power = { s.power with mode := s.power.nextMode, moded := false }
      ∧ ∀ d, d < 2 → ((s.ladderStep inp).die d).ladder = 0 := by
  rw [ladderStep_of_moded inp hmoded]
  exact ⟨rfl, fun d hd => congrArg Die.ladder (die_updBoth (fun _ => Die.ladderTop) _ hd)⟩

theorem ladderStep_steps (hmoded : s.power.moded = false) :
    (s.ladderStep inp).power = s.power ∧ ∀ d, d < 2 → ((s.ladderStep inp).die d).ladder = ((s.die d).stepped s.power inp d).ladder := by
  rw [ladderStep_of_unmoded inp hmoded]
  exact ⟨rfl, fun d hd => congrArg Die.ladder (die_updBoth (Die.stepped s.power inp) s hd)⟩

end

/-! ## BUDGET_DIVISION -/

section
variable (s : State) (inp : DivInput)

/-- The clock of the next division. -/
def State.divisionClock (s : State) : Nat := 10000 * (s.power.divisions + 1) * unitsPerNs

/-- The idle cores whose regions' restrictions change have been charged. -/
def State.beforeDivision (s : State) (inp : DivInput) : State := s.idleUp (s.turned (s.sampleRegions inp s.divisionClock))

/-- Regions sampled, the ladders' steps taken, and the division counted. -/
def State.laddered (s : State) (inp : DivInput) : State :=
  let t := ((s.beforeDivision inp).sampleRegions inp s.divisionClock).ladderStep inp
  { t with power := { t.power with divisions := s.power.divisions + 1 } }

/-- A die with its latest sample. -/
def Die.reported (inp : DivInput) (time d : Nat) (x : Die) : Die := { x with sample := DivInput.latest inp time d }

/-- The division has taken effect, and each die's latest sample stands. -/
def State.divided (s : State) (inp : DivInput) : State :=
  [0, 1].foldl (fun t d => t.updDie d (Die.reported inp (10000 * (s.power.divisions + 1)) d)) ((s.beforeDivision inp).takeEffect (s.laddered inp))

/-- The state that a division leaves: its samples have gone to the contexts' rings, and an image of the arbiter that waits takes over. -/
def State.afterDivision (s : State) (inp : DivInput) : State :=
  { (s.divided inp).telemetry inp (10000 * (s.power.divisions + 1)) (s.power.divisions + 1) with firm := (s.divided inp).firm.install 1 }

theorem exec_budgetDivision_early (h : s.clock / 11088 < 10000 * (s.power.divisions + 1)) : exec (.budgetDivision inp) s = .next s := if_pos h

theorem exec_budgetDivision_divides (h : 10000 * (s.power.divisions + 1) ≤ s.clock / 11088) :
    exec (.budgetDivision inp) s = .next (s.afterDivision inp) := if_neg h.not_gt

section
variable {β : Type} {part : State → β} (h : OffBooks part)
include h

theorem OffBooks.writeSamples (l : List Nat) (tel : Word) : part (s.writeSamples l tel) = part s := by
  unfold State.writeSamples
  dsimp only
  split_ifs
  · rfl
  · exact h.hwWrite s _ _ _
  · exact foldl_part_eq (fun s p => (h.hwWrite _ _ _ _).trans (h.hwWrite s _ _ _)) _ s

theorem OffBooks.telemetry (time seq : Nat) : part (s.telemetry inp time seq) = part s := by
  refine foldl_part_eq (fun s c => ?_) _ s
  split_ifs
  · exact h.writeSamples s _ _
  · rfl

end

theorem beforeDivision_sameDies : SameDies s (s.beforeDivision inp) := fun d => (offBooks_die d).idleUp s _

theorem beforeDivision_power : (s.beforeDivision inp).power = s.power := offBooks_power.idleUp s _

theorem takeEffect_dies (s t : State) : (s.takeEffect t).dies = t.dies ∧ (s.takeEffect t).power = t.power := by
  unfold State.takeEffect
  dsimp only
  split_ifs <;> exact ⟨rfl, rfl⟩

theorem divided_power : (s.divided inp).power = (s.laddered inp).power := by
  simp only [State.divided, List.foldl, State.updDie_power]
  exact (takeEffect_dies _ _).2

theorem divided_ladder (d : Nat) : ((s.divided inp).die d).ladder = ((s.laddered inp).die d).ladder := by
  refine (foldl_part_eq (part := fun s => (s.die d).ladder) (fun t e => ?_) [0, 1] _).trans ?_
  · exact die_updDie_part t (part := Die.ladder) (f := Die.reported inp (10000 * (s.power.divisions + 1)) e) (fun _ => rfl) e d
  · rw [State.die, (takeEffect_dies _ (s.laddered inp)).1]
    rfl

theorem setFirm_power (s : State) (f : Firm) : ({ s with firm := f } : State).power = s.power := rfl

theorem setFirm_die (s : State) (f : Firm) (d : Nat) : ({ s with firm := f } : State).die d = s.die d := rfl

/-! The arbiter and the ladders that a division leaves are those that its ladder step gave. -/

theorem afterDivision_power : (s.afterDivision inp).power = (s.laddered inp).power := by
  rw [State.afterDivision, setFirm_power, offBooks_power.telemetry, divided_power]

theorem afterDivision_ladder (d : Nat) : ((s.afterDivision inp).die d).ladder = ((s.laddered inp).die d).ladder := by
  rw [State.afterDivision, setFirm_die, ← divided_ladder]
  exact ladder_of_unerred ((offBooks_die d).telemetry (s.divided inp) inp _ _)

/-- What the ladder step of a division starts from: the dies' positions, and which of them count as CRIT. -/
theorem sampled_power : ((s.beforeDivision inp).sampleRegions inp s.divisionClock).power = s.power :=
  (sampleRegions_power _ _ _).trans (beforeDivision_power s inp)

theorem sampled_ladder (d : Nat) : (((s.beforeDivision inp).sampleRegions inp s.divisionClock).die d).ladder = (s.die d).ladder :=
  (sampleRegions_ladder _ _ _ d).trans ((beforeDivision_sameDies s inp).ladder d)

theorem sampled_crit (d : Nat) : (((s.beforeDivision inp).sampleRegions inp s.divisionClock).die d).crit
    = ((s.sampleRegions inp s.divisionClock).die d).crit := ((beforeDivision_sameDies s inp).sampleRegions inp _).crit d

variable {s}

theorem laddered_moded (hmoded : s.power.moded = true) :
    (s.laddered inp).power = { s.power with mode := s.power.nextMode, moded := false, divisions := s.power.divisions + 1 }
      ∧ ∀ d, d < 2 → ((s.laddered inp).die d).ladder = 0 := by
  obtain ⟨hpower, hladder⟩ := ladderStep_moded inp (s := (s.beforeDivision inp).sampleRegions inp s.divisionClock)
    (by rw [sampled_power]; exact hmoded)
  rw [sampled_power] at hpower
  exact ⟨congrArg (fun p : Power => { p with divisions := s.power.divisions + 1 }) hpower, hladder⟩

theorem laddered_steps (hmoded : s.power.moded = false) :
    (s.laddered inp).power = { s.power with divisions := s.power.divisions + 1 } ∧ ∀ d, d < 2 → ((s.laddered inp).die d).ladder =
      ladderNext s.power.mode (s.die d).ladder (shareEnergy s.power.plim (DivInput.dieEnergy inp (1 - d))) (DivInput.dieEnergy inp d)
        ((s.sampleRegions inp s.divisionClock).die d).crit := by
  obtain ⟨hpower, hladder⟩ := ladderStep_steps inp (s := (s.beforeDivision inp).sampleRegions inp s.divisionClock)
    (by rw [sampled_power]; exact hmoded)
  rw [sampled_power] at hpower hladder
  refine ⟨congrArg (fun p : Power => { p with divisions := s.power.divisions + 1 }) hpower, fun d hd => (hladder d hd).trans ?_⟩
  rw [Die.stepped, sampled_ladder, sampled_crit]

end

/-! ## The arbiter's registers (R397, R405) -/

section
variable {s : State} {v : Word} {die : Nat}

theorem exec_pwrctlWrite_outside (h : fld v 11 0 < 1500 ∨ 3000 < fld v 11 0) :
    exec (.pwrctlWrite v) s = .next { s with power := { s.power with err := 1 } } := congrArg Host.Outcome.next (if_pos h)

theorem exec_pwrctlWrite_takes (hlo : 1500 ≤ fld v 11 0) (hhi : fld v 11 0 ≤ 3000) : exec (.pwrctlWrite v) s =
    .next { s with power := { s.power with err := 0, plim := fld v 11 0, nextMode := fld v 41 40, moded := true } } := by
  refine (congrArg Host.Outcome.next (if_neg (by omega))).trans ?_
  simp only [if_true, Bool.or_true]

theorem exec_tctlWrite_ignored (h : fld v 31 16 < fld v 15 0 + 128) : exec (.tctlWrite die v) s = .next s := if_pos h

theorem exec_tctlWrite_takes (h : fld v 15 0 + 128 ≤ fld v 31 16) :
    exec (.tctlWrite die v) s = .next (s.updDie die fun d => { d with tctl := v &&& 0xFFFFFFFF#64 }) := if_neg h.not_gt

end

/-- RAMPTBL with the fields of layer k written: QPS, and SLEN where it is not 0. -/
def rampWrite (v t : Word) (k : Nat) : Word :=
  let t := setFld t (16 * k + 3) (16 * k) (fld v (16 * k + 3) (16 * k))
  let n := fld v (16 * k + 11) (16 * k + 8)
  if n = 0 then t else setFld t (16 * k + 11) (16 * k + 8) n

/-- QPS and SLEN of layer k. -/
def rampFields (t : Word) (k : Nat) : Nat × Nat := (fld t (16 * k + 3) (16 * k), fld t (16 * k + 11) (16 * k + 8))

section
variable (v t : Word) {k : Nat} (hk : k < 4)
include hk

theorem rampWrite_same : rampFields (rampWrite v t k) k =
    (fld v (16 * k + 3) (16 * k),
      if fld v (16 * k + 11) (16 * k + 8) = 0 then fld t (16 * k + 11) (16 * k + 8) else fld v (16 * k + 11) (16 * k + 8)) := by
  unfold rampWrite rampFields
  dsimp only
  split_ifs
  · rw [fld_setFld_fld _ (by omega) v (by omega), fld_setFld_other _ (by omega) _ (by omega) (by omega) (by omega)]
  · rw [fld_setFld_other _ (by omega) _ (by omega) (by omega) (by omega), fld_setFld_fld _ (by omega) v (by omega),
      fld_setFld_fld _ (by omega) v (by omega)]

theorem rampWrite_other {j : Nat} (hne : j ≠ k) : rampFields (rampWrite v t j) k = rampFields t k := by
  have hfield : ∀ hi lo, lo ≤ hi → hi < 64 → hi < 16 * j ∨ 16 * j + 11 < lo → fld (rampWrite v t j) hi lo = fld t hi lo := by
    intro hi lo hlo hhi hout
    unfold rampWrite
    dsimp only
    split_ifs
    · rw [fld_setFld_other _ (by omega) _ hlo hhi (by omega)]
    · rw [fld_setFld_other _ (by omega) _ hlo hhi (by omega), fld_setFld_other _ (by omega) _ hlo hhi (by omega)]
  exact Prod.ext (hfield _ _ (by omega) (by omega) (by omega)) (hfield _ _ (by omega) (by omega) (by omega))

end

/-- Writes of other layers leave a layer's fields. -/
theorem rampWrites_other (v : Word) {k : Nat} (hk : k < 4) (l : List Nat) (hl : ∀ j ∈ l, j ≠ k) (t : Word) :
    rampFields (l.foldl (rampWrite v) t) k = rampFields t k := by
  induction l generalizing t with
  | nil => rfl
  | cons j l ih =>
    have hne := hl j (List.mem_cons_self ..)
    exact (ih (fun i hi => hl i (List.mem_cons_of_mem _ hi)) _).trans (rampWrite_other v t hk hne)

theorem rampWrites_fields (v t : Word) {k : Nat} (hk : k < 4) : rampFields ((List.range 4).foldl (rampWrite v) t) k =
    (fld v (16 * k + 3) (16 * k),
      if fld v (16 * k + 11) (16 * k + 8) = 0 then fld t (16 * k + 11) (16 * k + 8) else fld v (16 * k + 11) (16 * k + 8)) := by
  have hsplit : List.range 4 = List.range k ++ k :: (List.range (3 - k)).map (k + 1 + ·) := by interval_cases k <;> rfl
  have hbefore := rampWrites_other v hk (List.range k) (fun j hj => by have := List.mem_range.mp hj; omega) t
  rw [hsplit, List.foldl_append, List.foldl_cons, rampWrites_other v hk, rampWrite_same v _ hk]
  · rw [(Prod.mk.inj hbefore).2]
  · intro j hj
    obtain ⟨i, hi, rfl⟩ := List.mem_map.mp hj
    have := List.mem_range.mp hi
    omega

/-! ## SLEW_STEP (R403) -/

section
variable {s : State} {dom : Nat}

/-- The domain's MXUs after one step within their caps. -/
def State.slewed (s : State) (dom : Nat) : Slew :=
  (SMap.get s.slews Slew.reset dom).step (s.slewCaps dom) (s.qps (dom / 22) (slewLayer dom))

theorem exec_slewStep_none (h : 44 ≤ dom ∨ s.slewDue dom = false) : exec (.slewStep dom) s = .next s := congrArg Host.Outcome.next (if_pos h)

section
variable (hdom : dom < 44) (hdue : s.slewDue dom = true)
include hdom hdue

theorem slewNow_quiescent (hq : (s.slewed dom).quiescent = true) : (s.slewNow dom).slews = SMap.del s.slews dom := by
  have hno : ¬ (44 ≤ dom ∨ s.slewDue dom = false) := by simp [hdue, hdom]
  rw [State.slewed] at hq
  rw [State.slewNow, if_neg hno]
  simp only [hq, if_true]
  exact if_pos (by decide)

theorem slewNow_working (hq : (s.slewed dom).quiescent = false) : (s.slewNow dom).slews = SMap.set s.slews dom
    { s.slewed dom with since := some s.clock, slen := fld (s.die (dom / 22)).ramptbl (16 * slewLayer dom + 11) (16 * slewLayer dom + 8) } := by
  have hno : ¬ (44 ≤ dom ∨ s.slewDue dom = false) := by simp [hdue, hdom]
  rw [State.slewNow, if_neg hno]
  have hq' := hq
  rw [State.slewed] at hq'
  simp only [hq', Bool.false_eq_true, if_false]
  exact if_neg (Bool.eq_false_iff.mp hq)

end
end

/-- Settles O51: the division's state is that of its ladder step, seen through the charges before it and the samples after it. -/
theorem powerIsDivided : Obligations.PowerIsDivided := by
  refine ⟨?division, fun s v => ⟨exec_pwrctlWrite_outside, exec_pwrctlWrite_takes⟩, ?tables, ?slew⟩
  case division =>
    intro s inp seq
    refine ⟨exec_budgetDivision_early s inp, fun hdue => ?_⟩
    refine ⟨_, exec_budgetDivision_divides s inp hdue, congrArg Power.divisions (afterDivision_power s inp), fun hmoded => ?_, fun hmoded => ?_⟩
    · obtain ⟨hp, hl⟩ := laddered_moded inp hmoded
      rw [afterDivision_power, hp, afterDivision_ladder, afterDivision_ladder]
      exact ⟨rfl, rfl, hl 0 (by decide), hl 1 (by decide)⟩
    · obtain ⟨hp, hl⟩ := laddered_steps inp hmoded
      rw [afterDivision_power, hp]
      exact ⟨rfl, fun i hi => (afterDivision_ladder s inp i).trans (hl i hi)⟩
  case tables =>
    intro s die v
    refine ⟨exec_tctlWrite_ignored, exec_tctlWrite_takes, _, rfl, fun k hk => ?_⟩
    rw [State.die_updDie_same]
    exact Prod.mk.inj (rampWrites_fields v (s.die die).ramptbl hk)
  case slew =>
    intro s dom x
    refine ⟨exec_slewStep_none, fun hdom hdue => ⟨_, rfl, fun hq => ?_, fun hq => ?_⟩⟩
    · rw [slewNow_quiescent hdom hdue hq]
      exact SMap.get?_del_same _ _
    · rw [slewNow_working hdom hdue hq]
      exact SMap.get?_set_same _ _ _

end Machine
end Sys2Proof
end

section
/-! Containment, self-test, retirement, debug halt, firmware and attestation (R411 to R428). -/

namespace Sys2Proof

section
variable {bs : List Byte}

theorem leValue_eq_zero : leValue bs = 0 ↔ ∀ b ∈ bs, b = 0 := by
  induction bs with
  | nil => simp [leValue]
  | cons b bs ih =>
    have hb : b.toNat = 0 ↔ b = 0 := by rw [← BitVec.toNat_inj]; rfl
    simp only [leValue, List.forall_mem_cons, ← ih, ← hb]
    omega

end

namespace Machine

/-! ## Containment and self-test (R413, R417) -/

section
variable {s : State} {g pa : Nat} {pass : Bool}

section
variable (hg : g < numCores) (hfree : (s.core g).contained = false)
include hg hfree

theorem in_service : ¬ (numCores ≤ g ∨ (s.core g).contained = true) := by simp [hg, hfree]

theorem exec_coreContainment_uncorrectable :
    exec (.coreContainment g .uncorrectable pa) s = .next ((s.countUe (dieOf g) pa).contain g 1 0 pa) := if_neg (in_service hg hfree)

theorem exec_coreContainment_selfTest : exec (.coreContainment g .selfTest pa) s = .next (s.contain g 4 0 pa) := if_neg (in_service hg hfree)

end

theorem restore_contained (s : State) (g : Nat) : ((s.restore g).core g).contained = false := by
  unfold State.restore
  split_ifs with hc
  · rw [State.core_updCore_same]
  · exact Bool.eq_false_iff.mpr hc

section
variable (hc : (s.core g).contained = true)
include hc

theorem exec_selfTestComplete_returns (hpass : pass = true) (hthird : (s.core g).thirdFailure = false) :
    exec (.selfTestComplete g pass) s = .next (s.restore g) := by
  change execSelfTestComplete g pass s = _
  simp only [execSelfTestComplete, hc, hpass, hthird, Bool.true_eq_false, Bool.not_false, Bool.and_self, if_false, if_true]

theorem exec_selfTestComplete_retires (h : pass = false ∨ (s.core g).thirdFailure = true) :
    exec (.selfTestComplete g pass) s = exec (.quadRetire (quadOf g)) s := by
  have hfails : (pass && !(s.core g).thirdFailure) = false := by
    obtain h | h := h <;> simp [h]
  change execSelfTestComplete g pass s = .next (s.retire (quadOf g))
  simp only [execSelfTestComplete, hc, hfails, Bool.true_eq_false, Bool.false_eq_true, if_false]

end
end

/-! ## Retirement (R426) -/

section
variable (s : State) {q : Nat}

theorem quad_eq {s t : State} (h : t.quads = s.quads) (q : Nat) : t.quad q = s.quad q := congrArg (SMap.get · (Quad.reset q) q) h

theorem preemptQuad_quads (q : Nat) : (s.preemptQuad q).quads = s.quads := by
  refine foldl_part_eq (part := State.quads) (fun s c => ?_) (List.range 4) s
  rfl

theorem restore_quads (g : Nat) : (s.restore g).quads = s.quads := by
  unfold State.restore
  split_ifs
  · exact ((books_refl Set.univ s).chargeIdle g).quads
  · rfl

theorem retire_kept (h : (s.quad q).retSt ≠ 0) : s.retire q = s := if_pos h

theorem retire_retSt (h : (s.quad q).retSt = 0) : ((s.retire q).quad q).retSt =
    if sparesIn (quadLayer q) ≤ s.sparesUsed (quadDie q) (quadLayer q) then 3 else 1 := by
  have hidle : (s.idleUp ((List.range 4).map (4 * q + ·))).quads = s.quads := (idleUp_books s _).quads
  have hspares : ∀ d k, (s.idleUp ((List.range 4).map (4 * q + ·))).sparesUsed d k = s.sparesUsed d k := fun d k => by
    rw [State.sparesUsed, hidle]
    rfl
  rw [State.retire, if_neg (not_not.mpr h)]
  dsimp only
  rw [hspares]
  split_ifs
  · rw [State.quad_updQuad_same]
  · rw [quad_eq (preemptQuad_quads _ q), State.quad_updQuad_same]

/-- A quad on a spare, its old physical number noted. -/
def Quad.moved (spare old : Nat) (x : Quad) : Quad := { x with retSt := 0, phys := some spare, oldPhys := x.oldPhys ++ [old] }

/-- A core of the new quad: in service, with no failures. -/
def State.renewed (q : Nat) (s : State) (c : Nat) : State :=
  (s.restore (4 * q + c)).updCore (4 * q + c) fun x => { x with failures := [] }

theorem takeSpare_eq (q : Nat) : ∃ spare, s.takeSpare q = (List.range 4).foldl (State.renewed q)
    ((s.idleUp ((List.range 4).map (4 * q + ·))).updQuad q (Quad.moved spare (s.physOf q))) := by
  unfold State.takeSpare State.renewed Quad.moved
  exact ⟨_, rfl⟩

theorem takeSpare_quad (q : Nat) :
    ((s.takeSpare q).quad q).retSt = 0 ∧ ((s.takeSpare q).quad q).oldPhys = (s.quad q).oldPhys ++ [s.physOf q] := by
  obtain ⟨spare, hspare⟩ := takeSpare_eq s q
  have hrenewed : ∀ (s : State) (c : Nat), (State.renewed q s c).quads = s.quads := fun s c => restore_quads s (4 * q + c)
  rw [hspare, quad_eq (foldl_part_eq (part := State.quads) hrenewed _ _), State.quad_updQuad_same, quad_eq (idleUp_books s _).quads]
  exact ⟨rfl, rfl⟩

variable {s}

theorem exec_retirementComplete_ends (hst : (s.quad q).retSt = 1) (hempty : ∀ c, c < 4 → (s.core (4 * q + c)).strand = none) :
    exec (.retirementComplete q) s = .next (s.takeSpare q) := by
  refine (if_neg (not_not.mpr hst)).trans (if_neg ?_)
  simp only [List.any_eq_true, List.mem_range, not_exists, not_and]
  intro c hc
  simp [hempty c hc]

end

/-! ## Debug halt (R423) -/

section
variable (s : State) {q : Nat}

theorem rewatchAll_quads : s.rewatchAll.quads = s.quads := by
  refine foldl_part_eq (part := State.quads) (fun s d => ?_) _ s
  exact foldl_part_eq (part := State.quads) (f := fun s n => s.rewatch d n) (fun _ _ => rfl) _ s

variable {s}

theorem exec_debugHalt_halted (h : (s.quad q).dbg = true) : exec (.debugHalt q) s = .next s := if_pos h

theorem exec_debugResume_running (h : (s.quad q).dbg = false) : exec (.debugResume q) s = .next s := if_pos (by simp [h])

theorem exec_debugHalt_halts (h : (s.quad q).dbg = false) : ∃ t, exec (.debugHalt q) s = .next t ∧ (t.quad q).dbg = true := by
  refine ⟨_, if_neg (Bool.eq_false_iff.mp h), ?_⟩
  rw [quad_eq (rewatchAll_quads _), State.quad_updQuad_same]

theorem exec_debugResume_resumes (h : (s.quad q).dbg = true) : ∃ t, exec (.debugResume q) s = .next t ∧ (t.quad q).dbg = false := by
  refine ⟨_, if_neg (by simp [h]), ?_⟩
  rw [quad_eq (rewatchAll_quads _), State.quad_updQuad_same]

end

/-! ## Firmware (R427) -/

section
variable (s : State)

theorem bytesAt_slice {pa n o k : Nat} (h : o + k ≤ n) : ((s.bytesAt pa n).drop o).take k = s.bytesAt (pa + o) k := by
  refine List.ext_getElem (by simp [State.bytesAt]; omega) fun i hi hi' => ?_
  simp [State.bytesAt, Nat.add_assoc]

/-- Byte o and the n after it of the image to verify, as a number. -/
def State.imageField (s : State) (o n : Nat) : Nat := leValue (s.bytesAt (s.firm.pa.toNat + o) n)

/-- The image's header and signature are good. -/
def State.ImageGood (s : State) : Prop :=
  s.imageField 4 4 % 64 = 0 ∧ s.imageField 8 2 = s.firm.unit ∧ s.imageField 10 54 = 0
    ∧ signatureOk (s.bytesAt s.firm.pa.toNat (64 + s.imageField 4 4 + 96)) = true

/-- The header's bytes as FW_VERIFY_COMPLETE cuts them out, one by one. -/
theorem header_version : leValue ((s.bytesAt s.firm.pa.toNat 64).take 4) = s.imageField 0 4 :=
  congrArg leValue (bytesAt_slice s (o := 0) (by decide))

theorem header_len : leValue (((s.bytesAt s.firm.pa.toNat 64).drop 4).take 4) = s.imageField 4 4 :=
  congrArg leValue (bytesAt_slice s (by decide))

theorem header_unit : leValue (((s.bytesAt s.firm.pa.toNat 64).drop 8).take 2) = s.imageField 8 2 :=
  congrArg leValue (bytesAt_slice s (by decide))

theorem header_zeros : ((s.bytesAt s.firm.pa.toNat 64).drop 10).all (fun b => decide (b = 0)) = decide (s.imageField 10 54 = 0) := by
  have hdrop : (s.bytesAt s.firm.pa.toNat 64).drop 10 = s.bytesAt (s.firm.pa.toNat + 10) 54 := by
    rw [← bytesAt_slice s (show 10 + 54 ≤ 64 by decide), List.take_of_length_le (by simp [State.bytesAt])]
  rw [hdrop, Bool.eq_iff_iff, List.all_eq_true, decide_eq_true_iff, State.imageField, leValue_eq_zero]
  simp only [decide_eq_true_eq]

/-- An image of a unit is good and its version is not below the floor: what it waits as, once verified. -/
def State.verified (s : State) : Firm :=
  { s.firm with res := 1, unit := 0, pending := s.firm.pending.filter (fun p => decide (p.1 ≠ s.firm.unit))
      ++ [(s.firm.unit, s.imageField 0 4, sha384 (s.bytesAt s.firm.pa.toNat (64 + s.imageField 4 4)))] }

variable {s}

section
variable (hunit : s.firm.unit ≠ 0)
include hunit

theorem exec_fwVerifyComplete_bad (hbad : ¬ s.ImageGood) : exec .fwVerifyComplete s = .next { s with firm := { s.firm with res := 2, unit := 0 } } := by
  change execFwVerifyComplete s = _
  have hbad' : (decide (s.imageField 4 4 % 64 = 0) && decide (s.imageField 8 2 = s.firm.unit) && decide (s.imageField 10 54 = 0)
      && signatureOk (s.bytesAt s.firm.pa.toNat (64 + s.imageField 4 4 + 96))) = false := by
    simpa [State.ImageGood, and_assoc] using hbad
  simp only [execFwVerifyComplete, header_len, header_unit, header_zeros, hbad', hunit, Bool.not_false, if_false, if_true]

variable (hgood : s.ImageGood)
include hgood

theorem exec_fwVerifyComplete_good : exec .fwVerifyComplete s =
    if s.imageField 0 4 < s.firm.floor s.firm.unit then .next { s with firm := { s.firm with res := 3, unit := 0 } }
    else .next { s with firm := s.verified } := by
  change execFwVerifyComplete s = _
  obtain ⟨hlen, hu, hzeros, hsig⟩ := hgood
  simp only [execFwVerifyComplete, header_version, header_len, header_unit, header_zeros, hlen, hu, hzeros, hsig, hunit, decide_true, Bool.and_self,
    Bool.not_true, Bool.false_eq_true, if_false]
  rfl

theorem exec_fwVerifyComplete_old (hold : s.imageField 0 4 < s.firm.floor s.firm.unit) :
    exec .fwVerifyComplete s = .next { s with firm := { s.firm with res := 3, unit := 0 } } :=
  (exec_fwVerifyComplete_good hunit hgood).trans (if_pos hold)

theorem exec_fwVerifyComplete_verifies (hnew : s.firm.floor s.firm.unit ≤ s.imageField 0 4) :
    exec .fwVerifyComplete s = .next { s with firm := s.verified } := (exec_fwVerifyComplete_good hunit hgood).trans (if_neg hnew.not_gt)

end

theorem verified_pending (s : State) :
    (s.firm.unit, s.imageField 0 4, sha384 (s.bytesAt s.firm.pa.toNat (64 + s.imageField 4 4))) ∈ s.verified.pending :=
  List.mem_append_right _ (List.mem_singleton_self _)

end

/-! ## Attestation (R428) -/

theorem length_claims (f : Firm) : f.claims.length = 208 := by
  simp [Firm.claims, beBytes, length_leBytes]

/-- A report is the claims and their signature. -/
theorem exec_attestReportComplete_completes {s : State} (h : s.firm.asked = true) : ∃ t, exec .attestReportComplete s = .next t
    ∧ t.firm.complete = true ∧ t.firm.asked = false ∧ t.firm.report.take 208 = s.firm.claims :=
  ⟨_, if_neg (by simp [h]), rfl, rfl, List.take_left' (length_claims s.firm)⟩

/-- Settles O52, event by event. -/
theorem serviceEvents : Obligations.ServiceEvents := by
  refine ⟨?contain, fun s g pass hc => ⟨fun hpass hthird => ?_, exec_selfTestComplete_retires hc⟩, ?quads, fun s pa => ⟨rfl, rfl, rfl⟩, ?verify,
    fun s n => ⟨rfl, exec_attestReportComplete_completes⟩⟩
  case contain =>
    intro s g pa hg hfree
    have hstops := fun (s : State) reason => (State.contain_stops s g reason 0 pa).symm
    exact ⟨⟨_, exec_coreContainment_uncorrectable hg hfree, hstops _ 1⟩, _, exec_coreContainment_selfTest hg hfree, hstops s 4⟩
  · exact ⟨_, exec_selfTestComplete_returns hc hpass hthird, restore_contained s g⟩
  case quads =>
    intro s q
    exact ⟨fun h => congrArg Host.Outcome.next (retire_kept s h), fun h => ⟨_, rfl, retire_retSt s h⟩,
      fun hst hempty => ⟨_, exec_retirementComplete_ends hst hempty, takeSpare_quad s q⟩,
      fun h => ⟨exec_debugHalt_halts h, exec_debugResume_running h⟩, fun h => ⟨exec_debugResume_resumes h, exec_debugHalt_halted h⟩⟩
  case verify =>
    intro s f at' good
    exact ⟨exec_fwVerifyComplete_bad, exec_fwVerifyComplete_old,
      fun hunit hgood hnew => ⟨_, exec_fwVerifyComplete_verifies hunit hgood hnew, rfl, rfl, verified_pending s⟩, rfl⟩

end Machine
end Sys2Proof
end

section
/-! What a teardown and a failing link leave of the dies: links, launch logs and every register, but not what passes through. -/

namespace Sys2Proof.Machine

/-- A die without what passes through it: stores on their way, barrier rounds, collectives, replay caches and error counts. -/
def Die.lasting (d : Die) : Die :=
  { d with past := [], doms := [], graphs := [], replay := [], errcntUe := 0, errcntCe := 0, erraddr := 0 }

theorem offBooks_lasting (d : Nat) : OffBooks fun s : State => (s.die d).lasting where
  clock _ _ := rfl
  acct0 _ _ := rfl
  cores _ _ := rfl
  media _ _ _ _ := rfl
  sector s die direct k := (congrArg Die.lasting ((offBooks_die d).sector s die direct k) :)

/-- From s to t the dies have kept all that lasts of them. -/
def KeepsDies (s t : State) : Prop := ∀ d, (t.die d).lasting = (s.die d).lasting

theorem keepsDies_refl (s : State) : KeepsDies s s := fun _ => rfl

section
variable {s t : State} (h : KeepsDies s t)
include h

theorem KeepsDies.trans {u : State} (h' : KeepsDies t u) : KeepsDies s u := fun d => (h' d).trans (h d)

/-- A change of other parts of the package. -/
theorem KeepsDies.elsewhere {u : State} (hdies : u.dies = t.dies) : KeepsDies s u :=
  h.trans fun d => by simp only [State.die, hdies]

/-- Charged cycles and the hardware's own writes. -/
theorem KeepsDies.books {u : State} (hu : ∀ {β : Type} {part : State → β}, OffBooks part → part u = part t) : KeepsDies s u :=
  h.trans fun d => hu (offBooks_lasting d)

theorem KeepsDies.updDie (d : Nat) {f : Die → Die} (hf : ∀ x, (f x).lasting = x.lasting) : KeepsDies s (t.updDie d f) :=
  h.trans fun e => die_updDie_part t (part := Die.lasting) hf d e

theorem KeepsDies.foldl {α : Type} {f : State → α → State} (hf : ∀ t a, KeepsDies s t → KeepsDies s (f t a)) (l : List α) :
    KeepsDies s (l.foldl f t) := by
  induction l generalizing t with
  | nil => exact h
  | cons a r ih => exact ih (hf t a h)

theorem KeepsDies.updCore (g : Nat) (f : Core → Core) : KeepsDies s (t.updCore g f) := h.elsewhere rfl

theorem KeepsDies.updCtx (n : Nat) (f : Ctx → Ctx) : KeepsDies s (t.updCtx n f) := h.elsewhere rfl

theorem KeepsDies.countUe (die pa : Nat) : KeepsDies s (t.countUe die pa) := by
  unfold State.countUe
  refine h.updDie die ?_
  exact fun _ => rfl

/-! ## Queues are filed and sealed (R301 to R309) -/

theorem KeepsDies.notOutstanding (l : List RqPacket) : KeepsDies s (t.notOutstanding l) := h.foldl (fun _ _ ht => ht.updCore _ _) _

theorem KeepsDies.claim (n : Nat) (d : Dest) (p : Packet) (present counted : Bool) (rank : Nat) :
    KeepsDies s (t.claim n d p present counted rank) := by
  cases d <;> exact h.elsewhere rfl

theorem KeepsDies.pushSpill (n : Nat) (d : Dest) (e : SpillEntry) : KeepsDies s (t.pushSpill n d e) := by
  cases d <;> exact h.elsewhere rfl

theorem KeepsDies.postDone (p : Post) : KeepsDies s (t.postDone p) := by
  unfold State.postDone
  split
  · split_ifs
    · exact h.updCore _ _
    · exact h
  · exact h

theorem KeepsDies.deliver {u : State} {p : Post} (hdel : t.deliver p = some u) : KeepsDies s u := by
  unfold State.deliver at hdel
  extract_lets away k room at hdel
  split_ifs at hdel with hsealed hcross hroom hlate
  · cases hdel
    exact h.postDone p
  · split at hdel
    · cases hdel
      exact h.claim _ _ _ _ _ _
    · cases hdel
      exact h.updCore _ _
    · cases hdel
      exact h
  · obtain ⟨res, -, rfl⟩ := Option.map_eq_some_iff.mp hdel
    exact (h.pushSpill _ _ _).postDone p

theorem KeepsDies.post (p : Post) : KeepsDies s (t.post p) := by
  unfold State.post
  cases hdel : t.deliver p with
  | some u => exact h.deliver hdel
  | none => exact h.elsewhere rfl

theorem KeepsDies.servePosts (f : Post → Bool) : KeepsDies s (t.servePosts f) :=
  (h.elsewhere rfl (u := { t with posts := t.posts.filter fun p => !f p })).foldl (fun _ p ht => ht.post p) _

theorem KeepsDies.emptyQueues (g : Nat) : KeepsDies s (t.emptyQueues g) := (h.notOutstanding _).elsewhere rfl

theorem KeepsDies.sealMboxes (n : Nat) : KeepsDies s (t.sealMboxes n) := (h.notOutstanding _).elsewhere rfl

/-! ## Exchanges, domains, graphs and spill areas -/

theorem KeepsDies.xchgMeet (quad mask : Nat) : KeepsDies s (t.xchgMeet quad mask) := by
  unfold State.xchgMeet
  extract_lets l met rest filed
  split
  · refine (h.elsewhere rfl (u := filed)).foldl (fun w e hw => ?_) _
    split_ifs
    · exact hw
    · exact hw.elsewhere rfl
  · exact h

theorem KeepsDies.xchgTokens (code g : Nat) : KeepsDies s (t.xchgTokens code g) := by
  unfold State.xchgTokens
  exact h.foldl (fun w m hw => (hw.elsewhere rfl (u := w.updQuad _ _)).xchgMeet _ m) _

theorem KeepsDies.updDomain (die n : Nat) (f : Domain → Domain) : KeepsDies s (t.updDomain die n f) := by
  unfold State.updDomain
  refine h.updDie die ?_
  exact fun _ => rfl

theorem KeepsDies.endHalf (n : Nat) (to' : DomState) (die : Nat) : KeepsDies s (State.endHalf n to' t die) :=
  (h.elsewhere (u := t.stopClocks die n) (restep_dies t false 0 n die)).updDomain die n _

theorem KeepsDies.endDomain (die n : Nat) (to' : DomState) : KeepsDies s (t.endDomain die n to') := by
  rw [endDomain_eq]
  exact ((h.books fun k => k.idleUp t _).elsewhere (u := (t.idleUp _).meetAll _ n false none) rfl).foldl (fun _ d hw => hw.endHalf n to' d) _

theorem KeepsDies.killGraphs (n : Nat) : KeepsDies s (t.killGraphs n) := by
  refine h.trans fun d => ?_
  unfold State.killGraphs State.die
  dsimp only
  refine SMap.get_mapVals_part (part := Die.lasting) (fun _ _ => ?_) t.dies Die.reset d
  rfl

theorem KeepsDies.dropArea (n slot idx : Nat) : KeepsDies s (t.dropArea n slot idx) := by
  unfold State.dropArea
  split_ifs
  · exact h
  · split
    · exact (h.books fun k => k.hwWrite t _ _ _).updCtx n _
    · exact h.books fun k => k.hwWrite t _ _ _

theorem KeepsDies.loseArea (n slot idx : Nat) : KeepsDies s (t.loseArea n slot idx) := by
  unfold State.loseArea
  split
  · exact h.dropArea n slot idx
  · exact (h.elsewhere rfl (u := t.releaseEntries _)).dropArea n slot idx

/-! ## A strand is killed and a context torn down (R262) -/

theorem KeepsDies.freeCore (g : Nat) : KeepsDies s (t.freeCore g) := by
  unfold State.freeCore
  extract_lets flushed
  have hflushed : KeepsDies s flushed := (h.books fun k => (k.flushAcct _ g).trans (k.endRuns t g)).elsewhere rfl
  rw [State.offer_no_strand (by rw [State.core_updCore_same])]
  exact (hflushed.updCore g _).servePosts _

theorem KeepsDies.releaseLines (g : Nat) : KeepsDies s (t.releaseLines g) := h.elsewhere rfl

theorem KeepsDies.dropSfu (g : Nat) : KeepsDies s (t.dropSfu g) := h.elsewhere rfl

theorem KeepsDies.alone (e : Nat) : KeepsDies s ((t.zeroJournal e).alike e) := h.elsewhere rfl

theorem KeepsDies.unclaim (g : Nat) : KeepsDies s (t.unclaim g) :=
  ((h.books fun k => (k.bringUp _ _).trans (k.bringUp t _)).updCore _ _).updCore _ _

theorem KeepsDies.separate (g : Nat) : KeepsDies s (t.separate g) := by
  unfold State.separate
  extract_lets e alone flushed
  have halone : KeepsDies s alone := h.alone e
  have hflushed : KeepsDies s flushed := halone.books fun k => (k.flushAcct _ _).trans (k.endRuns alone _)
  exact (hflushed.updCore _ _).updCore _ _

theorem KeepsDies.setItems (l : List Item) : KeepsDies s { t with items := l } := h.elsewhere rfl

theorem KeepsDies.noteWaits : KeepsDies s t.noteWaits := h.elsewhere rfl

theorem KeepsDies.killOn (n g : Nat) : KeepsDies s (t.killOn n g) := by
  unfold State.killOn
  extract_lets paid single told released dropped emptied parted
  have hpaid : KeepsDies s paid := h.books fun k => (k.pay _ _ _ _ _).trans (k.bringUp t g)
  have hsingle : KeepsDies s single := by
    unfold single
    split_ifs
    · exact hpaid.unclaim g
    · exact hpaid
  have htold : KeepsDies s told := by
    refine hsingle.foldl (fun w k hw => ?_) _
    dsimp only
    split_ifs
    · exact hw
    · exact hw.post _
  have hdropped : KeepsDies s dropped := ((htold.xchgTokens 3 g).releaseLines g).dropSfu g
  have hparted : KeepsDies s parted := by
    unfold parted
    split_ifs
    · exact (hdropped.emptyQueues g).separate g
    · exact hdropped.emptyQueues g
  exact (hparted.freeCore g).updCore g _

theorem KeepsDies.tear (n : Nat) : KeepsDies s (t.tear n) := by
  unfold State.tear
  split_ifs
  · exact h
  · exact h.updCtx n _
  · extract_lets marked killed ended sealed' bare lost
    have hkilled : KeepsDies s killed := (h.updCtx n _).foldl (fun _ g hw => hw.killOn n g) _
    have hended : KeepsDies s ended := by
      refine hkilled.foldl (fun w d hw => hw.foldl (fun v k hv => ?_) _) _
      dsimp only
      split_ifs
      · exact hv.endDomain d k .free
      · exact hv
    have hbare : KeepsDies s bare := ((hended.killGraphs n).sealMboxes n).setItems _
    have hlost : KeepsDies s lost := hbare.foldl (fun w p hw => hw.loseArea n p.1 p.2.idx) _
    exact (hlost.updCtx n _).noteWaits

theorem KeepsDies.tearAll (l : List Nat) : KeepsDies s (l.foldl State.tear t) := h.foldl (fun _ n hw => hw.tear n) l

/-! ## A drain fails (R341) -/

theorem KeepsDies.finalHeader (st : Nat) : KeepsDies s (t.finalHeader st) := by
  unfold State.finalHeader
  exact h.books fun k => (k.homeWrite _ _ _ _).trans ((k.homeWrite _ _ _ _).trans (k.homeWrite t _ _ _))

theorem KeepsDies.setGen (gen : Gen) : KeepsDies s { t with gen := gen } := h.elsewhere rfl

theorem KeepsDies.checkImage : KeepsDies s t.checkImage := by
  unfold State.checkImage
  split_ifs
  · unfold State.failDrain
    extract_lets thawed done
    have hthawed : KeepsDies s thawed := by
      refine h.foldl (fun w b hw => ?_) _
      split_ifs
      · exact hw.books fun k => k.thaw w b
      · exact hw
    have hdone : KeepsDies s done := by
      unfold done
      split_ifs
      · exact hthawed.finalHeader 2
      · exact hthawed
    exact hdone.setGen _
  · exact h

/-! ## Traffic is lost with its link (R382) -/

theorem KeepsDies.record (die port g : Nat) (e : Replay) : KeepsDies s (t.record die port g e) := by
  unfold State.record
  refine h.updDie die ?_
  exact fun _ => rfl

theorem KeepsDies.reach (g : Nat) (exempt : Bool) (r : AmoReq) : KeepsDies s (t.reach g exempt r).1 := by
  have hperformed : KeepsDies s (t.performAmo exempt r).1 := h.elsewhere rfl
  unfold State.reach
  split
  · split
    · exact h
    · exact hperformed.record _ _ _ _
  · exact hperformed

theorem KeepsDies.loseAmo (g i : Nat) : KeepsDies s (t.loseAmo g i) := by
  unfold State.loseAmo
  split
  · exact h
  · split
    · exact h
    · split
      · rename_i r _
        have hfresh : KeepsDies s t.fresh.2 := h.elsewhere rfl
        have hreached := hfresh.reach g (t.fresh.2.amoExempt g r) r
        refine KeepsDies.updCore ?_ g _
        split_ifs
        · exact hreached
        · exact hfresh
      · exact h.updCore g _

theorem KeepsDies.loseAmos (ends : List (Nat × Nat)) : KeepsDies s (t.loseAmos ends) := by
  refine h.foldl (fun w g hw => hw.foldl (fun v i hv => ?_) _) _
  split
  · split_ifs
    · exact hv.loseAmo g i
    · exact hv
  · exact hv

theorem KeepsDies.setPoison (k : Nat) : KeepsDies s (t.setPoison k) := h.elsewhere rfl

theorem KeepsDies.loseCxl (die port : Nat) : KeepsDies s (t.loseCxl die port) := by
  unfold State.loseCxl
  extract_lets hit sectors counted
  have hcounted : KeepsDies s counted := h.foldl (fun w i hw => (hw.setPoison i).countUe die (32 * i)) _
  refine hcounted.foldl (fun w d hw => hw.updDie d ?_) [0, 1]
  exact fun _ => rfl

theorem KeepsDies.loseHost : KeepsDies s t.loseHost := by
  unfold State.loseHost
  refine (h.foldl (fun w d hw => hw.updDie d ?_) [0, 1]).tearAll _
  exact fun _ => rfl

theorem KeepsDies.loseGraphs (die port : Nat) : KeepsDies s (t.loseGraphs die port) := by
  unfold State.loseGraphs
  refine KeepsDies.updDie (h.elsewhere (u := { t with stamp := t.stamp + 128 }) rfl) die ?_
  exact fun _ => rfl

theorem KeepsDies.loseTraffic (die port : Nat) : KeepsDies s (t.loseTraffic die port) := by
  unfold State.loseTraffic
  split_ifs
  · exact h.loseAmos _
  · exact (h.loseAmos _).loseHost
  · exact (h.loseAmos _).loseCxl die port
  · exact h.loseGraphs die port

theorem KeepsDies.linkOf (die port : Nat) : t.linkOf die port = s.linkOf die port := (congrArg (Die.link · port) (h die) :)

end

end Sys2Proof.Machine
end

section
/-! Ports: link states (R379 to R382), atomics given up (R149), and peer launch packets (R293 to R295, R392). -/

namespace Sys2Proof.Machine

/-! ## One link -/

theorem link_up {l : Link} (h : l.st = .up ∨ l.st = .degraded) : l.up = true := by
  obtain h | h := h <;> simp [Link.up, h]

section
variable (s : State) {die port : Nat} {f : Link → Link}

theorem linkOf_updLink (die port : Nat) (f : Link → Link) : (s.updLink die port f).linkOf die port = f (s.linkOf die port) := by
  rw [State.linkOf, State.updLink, State.die_updDie_same]
  exact SMap.get_set_same _ _ _ _

/-- A link is DOWN once its traffic is lost; the teardowns that follow leave it so. -/
theorem linkDown_linkOf (die port : Nat) :
    ((s.linkDown die port).linkOf die port).st = .down ∧ ((s.linkDown die port).linkOf die port).lact = 0 := by
  have hkept : KeepsDies ((s.loseTraffic die port).updLink die port fun l => { l with st := .down, lact := 0 }) (s.linkDown die port) := by
    unfold State.linkDown
    dsimp only
    split_ifs
    · exact (keepsDies_refl _).checkImage.tearAll _
    · exact (keepsDies_refl _).checkImage
  rw [hkept.linkOf, linkOf_updLink]
  exact ⟨rfl, rfl⟩

theorem replays_linkOf (die port : Nat) : ∃ retry, (s.replays die port).linkOf die port = { s.linkOf die port with retry := retry } :=
  ⟨_, linkOf_updLink _ die port _⟩

variable {s} (hport : portExists die port = true)
include hport

theorem exec_linkEnable_trains (hst : (s.linkOf die port).st = .down) :
    exec (.linkEnable die port) s = .next (s.updLink die port fun l => { l with st := .training, since := s.clock }) :=
  congrArg Host.Outcome.next (if_pos (by simp [hport, hst]))

theorem exec_linkDisable_ends (hst : (s.linkOf die port).st ≠ .down) : exec (.linkDisable die port) s = .next (s.linkDown die port) :=
  congrArg Host.Outcome.next (if_pos (by simp [hport, hst]))

/-! ## Training (R381) -/

/-- The lanes that pass a training within its time. -/
def State.trained (s : State) (die port pass : Nat) : BitVec 32 :=
  if s.clock - (s.linkOf die port).since < 10000000 * 11088 then BitVec.ofNat 32 pass &&& allLanes port else 0

section
variable {pass : Nat} (hst : (s.linkOf die port).st = .training)
include hst

theorem exec_linkTrainingDone : exec (.linkTrainingDone die port pass) s = .next
    (if s.trained die port pass = allLanes port then
       (s.updLink die port fun l => { l with st := .up, lact := s.trained die port pass }).servePosts fun _ => true
     else if lmax port / 2 ≤ popcount (s.trained die port pass) then
       (s.updLink die port fun l => { l with st := .degraded, lact := s.trained die port pass }).servePosts fun _ => true
     else s.linkDown die port) := congrArg Host.Outcome.next (if_neg (by simp [hport, hst]))

theorem exec_linkTrainingDone_up (hall : s.trained die port pass = allLanes port) : exec (.linkTrainingDone die port pass) s =
    .next ((s.updLink die port fun l => { l with st := .up, lact := s.trained die port pass }).servePosts fun _ => true) :=
  (exec_linkTrainingDone hport hst).trans (congrArg Host.Outcome.next (if_pos hall))

section
variable (hsome : s.trained die port pass ≠ allLanes port)
include hsome

theorem exec_linkTrainingDone_degraded (hhalf : lmax port / 2 ≤ popcount (s.trained die port pass)) :
    exec (.linkTrainingDone die port pass) s =
      .next ((s.updLink die port fun l => { l with st := .degraded, lact := s.trained die port pass }).servePosts fun _ => true) :=
  (exec_linkTrainingDone hport hst).trans (congrArg Host.Outcome.next ((if_neg hsome).trans (if_pos hhalf)))

theorem exec_linkTrainingDone_down (hfew : popcount (s.trained die port pass) < lmax port / 2) :
    exec (.linkTrainingDone die port pass) s = .next (s.linkDown die port) :=
  (exec_linkTrainingDone hport hst).trans (congrArg Host.Outcome.next ((if_neg hsome).trans (if_neg hfew.not_ge)))

end

theorem exec_linkTrainingTimeout_down : exec (.linkTrainingTimeout die port) s = .next (s.linkDown die port) :=
  congrArg Host.Outcome.next (if_pos (by simp [hport, hst]))

end

/-! ## Lanes (R381) -/

section
variable (hup : (s.linkOf die port).st = .up ∨ (s.linkOf die port).st = .degraded)
include hup

theorem exec_linkRetireLanes_retires
    (hhalf : lmax port / 2 ≤ popcount ((s.linkOf die port).lact &&& ~~~(s.linkOf die port).lsel)) :
    exec (.linkRetireLanes die port) s = .next (s.updLink die port fun l => { l with st := .degraded, lact := l.lact &&& ~~~l.lsel }) :=
  congrArg Host.Outcome.next (if_pos (by simp [hport, link_up hup, hhalf]))

omit hport hup in
theorem exec_linkRetireLanes_ignored
    (hfew : popcount ((s.linkOf die port).lact &&& ~~~(s.linkOf die port).lsel) < lmax port / 2) :
    exec (.linkRetireLanes die port) s = .next s := congrArg Host.Outcome.next (if_neg (by simp [hfew]))

/-- EPOCH counts the loss, whatever became of the traffic, and training starts. -/
theorem exec_linkLost_trains : ∃ t : State, exec (.linkLost die port) s = .next t ∧ (t.linkOf die port).st = .training
    ∧ (t.linkOf die port).lact = 0 ∧ (t.linkOf die port).epoch = (s.linkOf die port).epoch + 1 := by
  refine ⟨_, congrArg Host.Outcome.next (if_pos (by simp [hport, link_up hup])), ?_⟩
  obtain ⟨retry, hretry⟩ := replays_linkOf (s.loseTraffic die port) die port
  rw [(keepsDies_refl _).checkImage.linkOf, linkOf_updLink, hretry, ((keepsDies_refl s).loseTraffic die port).linkOf]
  exact ⟨rfl, rfl, rfl⟩

end

theorem exec_linkRestoreLanes_restores {pass : Nat} (hst : (s.linkOf die port).st = .degraded) :
    ∃ t : State, exec (.linkRestoreLanes die port pass) s = .next t
      ∧ (t.linkOf die port).lact = (s.linkOf die port).lact ||| ((s.linkOf die port).lsel &&& (BitVec.ofNat 32 pass &&& allLanes port))
      ∧ (t.linkOf die port).st = if (s.linkOf die port).lact ||| ((s.linkOf die port).lsel &&& (BitVec.ofNat 32 pass &&& allLanes port))
          = allLanes port then .up else .degraded := by
  refine ⟨_, congrArg Host.Outcome.next (if_pos (by simp [hport, hst])), ?_⟩
  rw [linkOf_updLink, BitVec.and_assoc]
  exact ⟨rfl, rfl⟩

theorem exec_laneErrorLimit_retires {lane : Nat} (hst : (s.linkOf die port).st = .up) (hlane : lane < lmax port) :
    ∃ t : State, exec (.laneErrorLimit die port lane) s = .next t ∧ (t.linkOf die port).st = .degraded
      ∧ (t.linkOf die port).lact = setBit (s.linkOf die port).lact lane false := by
  refine ⟨_, congrArg Host.Outcome.next (if_pos (by simp [hport, hst, hlane])), ?_⟩
  obtain ⟨retry, hretry⟩ := replays_linkOf
    (s.updLink die port fun l => { l with st := .degraded, lact := setBit l.lact lane false }) die port
  rw [hretry, linkOf_updLink]
  exact ⟨rfl, rfl⟩

end

/-! ## REMOTE_RESPONSE_TIMEOUT (R149) -/

theorem exec_remoteResponseTimeout_gives_up {s : State} {g i : Nat} {l : LoadP} (hl : (s.core g).loads[i]? = some l) (hheld : l.held ≠ none)
    (hlate : fld (s.die (dieOf g)).linkcfg 31 0 * 1000 * 11088 ≤ s.clock - l.since) :
    exec (.remoteResponseTimeout g i) s = .next (s.loseAmo g i) := by
  have hexpired : (l.held.isSome && decide (fld (s.die (dieOf g)).linkcfg 31 0 * 1000 * unitsPerNs ≤ s.clock - l.since)) = true := by
    rw [Option.isSome_iff_ne_none.mpr hheld, Bool.true_and]
    exact decide_eq_true hlate
  change execRemoteResponseTimeout g i s = _
  simp only [execRemoteResponseTimeout, hl, hexpired, if_true]

/-! ## Peer launch packets (R293 to R295, R392) -/

/-- The header of a packet as the port stamps it, and the SEQ and statuses that the port's log holds of its peer. -/
def State.headAt (s : State) (die port : Nat) (pkt : BitVec 640) : LaunchHead := launchHead pkt (s.linkOf die port).peer.toNat

def State.peerLog (s : State) (die port : Nat) (h : LaunchHead) : List (Nat × Nat) := SMap.get (s.die die).launchLog [] (port * 65536 + h.peer)

/-- The launch of an accepted packet waits for its object's entry (R278). -/
def State.launchWaits (s : State) (h : LaunchHead) : Bool := (s.newObj (fld h.graph 55 40) (Obj.new 1 0 1)).isNone

/-- What a new packet with a status leaves, before its port answers. -/
def State.launched (s : State) (h : LaunchHead) (r : Rec) : State := if s.launchStatus h r = 0 then s.acceptLaunch h r else s

/-- The port has answered a new packet, and its log holds it. -/
def State.logged (s : State) (die port : Nat) (h : LaunchHead) (r : Rec) : State :=
  ((s.launched h r).answer die port h.peer h.seq (s.launchStatus h r)).updDie die fun d =>
    { d with launchLog := SMap.set d.launchLog (port * 65536 + h.peer) (((h.seq, s.launchStatus h r) :: s.peerLog die port h).take 256) }

section
variable {s : State} {die port : Nat} {pkt : BitVec 640}

theorem acceptLaunch_dies (s : State) (h : LaunchHead) (r : Rec) : (s.acceptLaunch h r).dies = s.dies := by
  unfold State.acceptLaunch
  dsimp only
  cases hnew : s.newObj (fld h.graph 55 40) (Obj.new 1 (fld h.graph 39 0) 1) with
  | none => rfl
  | some p =>
    obtain ⟨id, u⟩ := p
    have hu : u.dies = s.dies := by
      unfold State.newObj at hnew
      dsimp only at hnew
      split_ifs at hnew
      cases hnew
      rfl
    dsimp only
    split
    · exact hu
    · exact hu

theorem launched_dies (s : State) (h : LaunchHead) (r : Rec) : (s.launched h r).dies = s.dies := by
  unfold State.launched
  split_ifs
  · exact acceptLaunch_dies s h r
  · rfl

theorem launched_of_refused {h : LaunchHead} {r : Rec} (hst : s.launchStatus h r ≠ 0) : s.launched h r = s := if_neg hst

theorem logged_tables {h : LaunchHead} {r : Rec} (hst : s.launchStatus h r ≠ 0) :
    (s.logged die port h r).items = s.items ∧ (s.logged die port h r).ctxs = s.ctxs := by
  rw [State.logged, launched_of_refused hst]
  exact ⟨rfl, rfl⟩

theorem logged_die (s : State) (die port : Nat) (h : LaunchHead) (r : Rec) :
    SMap.get ((s.logged die port h r).die die).launchLog [] (port * 65536 + h.peer)
        = ((h.seq, s.launchStatus h r) :: s.peerLog die port h).take 256
      ∧ ((s.logged die port h r).die die).completions = (s.die die).completions ++ [(port, h.peer, h.seq, s.launchStatus h r)] := by
  have hdie : (s.launched h r).die die = s.die die := congrArg (SMap.get · Die.reset die) (launched_dies s h r)
  rw [State.logged, State.die_updDie_same, State.answer, State.die_updDie_same, hdie]
  exact ⟨SMap.get_set_same _ _ _ _, rfl⟩

theorem exec_peerLaunchPacket_crosses (hcross : s.crossWaits die (s.headAt die port pkt).die = true) :
    exec (.peerLaunchPacket die port pkt) s = .next s := by
  refine if_neg ?_
  rintro ⟨-, -, -, -, hopen⟩
  exact Bool.noConfusion (hcross.symm.trans hopen)

section
variable (hdie : die < 2) (hlo : 4 ≤ port) (hhi : port ≤ 7) (hup : (s.linkOf die port).up = true)
  (hopen : s.crossWaits die (s.headAt die port pkt).die = false)
include hdie hlo hhi hup hopen

theorem exec_peerLaunchPacket_arrives : exec (.peerLaunchPacket die port pkt) s =
    match (s.peerLog die port (s.headAt die port pkt)).find? fun e => decide (e.1 = (s.headAt die port pkt).seq) with
    | some e => .next (s.answer die port (s.headAt die port pkt).peer (s.headAt die port pkt).seq e.2)
    | none =>
      if s.launchStatus (s.headAt die port pkt) (launchRec pkt) = 0 && s.launchWaits (s.headAt die port pkt) then .next s
      else .next (s.logged die port (s.headAt die port pkt) (launchRec pkt)) := if_pos ⟨hdie, hlo, hhi, hup, hopen⟩

theorem exec_peerLaunchPacket_repeated {e : Nat × Nat}
    (hfind : (s.peerLog die port (s.headAt die port pkt)).find? (fun e => decide (e.1 = (s.headAt die port pkt).seq)) = some e) :
    exec (.peerLaunchPacket die port pkt) s = .next (s.answer die port (s.headAt die port pkt).peer (s.headAt die port pkt).seq e.2) := by
  rw [exec_peerLaunchPacket_arrives hdie hlo hhi hup hopen, hfind]

variable (hnew : ∀ e ∈ s.peerLog die port (s.headAt die port pkt), e.1 ≠ (s.headAt die port pkt).seq)
include hnew

theorem exec_peerLaunchPacket_new : exec (.peerLaunchPacket die port pkt) s =
    if s.launchStatus (s.headAt die port pkt) (launchRec pkt) = 0 && s.launchWaits (s.headAt die port pkt) then .next s
    else .next (s.logged die port (s.headAt die port pkt) (launchRec pkt)) := by
  have hfind : (s.peerLog die port (s.headAt die port pkt)).find? (fun e => decide (e.1 = (s.headAt die port pkt).seq)) = none :=
    List.find?_eq_none.mpr fun e he => by simpa using hnew e he
  rw [exec_peerLaunchPacket_arrives hdie hlo hhi hup hopen, hfind]

theorem exec_peerLaunchPacket_waits (hst : s.launchStatus (s.headAt die port pkt) (launchRec pkt) = 0)
    (hbusy : s.launchWaits (s.headAt die port pkt) = true) : exec (.peerLaunchPacket die port pkt) s = .next s :=
  (exec_peerLaunchPacket_new hdie hlo hhi hup hopen hnew).trans (if_pos (by simp [hst, hbusy]))

theorem exec_peerLaunchPacket_logs
    (hfree : s.launchStatus (s.headAt die port pkt) (launchRec pkt) = 0 → s.launchWaits (s.headAt die port pkt) = false) :
    exec (.peerLaunchPacket die port pkt) s = .next (s.logged die port (s.headAt die port pkt) (launchRec pkt)) := by
  refine (exec_peerLaunchPacket_new hdie hlo hhi hup hopen hnew).trans (if_neg ?_)
  rw [Bool.and_eq_true, decide_eq_true_iff]
  rintro ⟨hst, hbusy⟩
  exact Bool.noConfusion (hbusy.symm.trans (hfree hst))

end
end

/-- Settles O53, event by event. -/
theorem linksChange : Obligations.LinksChange := by
  refine ⟨?link, fun s g i l => exec_remoteResponseTimeout_gives_up, ?launch⟩
  case link =>
    intro s die port lane pass hport l put good ok
    refine ⟨exec_linkEnable_trains hport, fun hst => ⟨_, exec_linkDisable_ends hport hst, linkDown_linkOf s die port⟩,
      fun hst => ⟨exec_linkTrainingDone_up hport hst, exec_linkTrainingDone_degraded hport hst, fun hsome hfew => ?_, ?_⟩,
      fun hup => ⟨exec_linkRetireLanes_retires hport hup, exec_linkRetireLanes_ignored, exec_linkLost_trains hport hup⟩,
      exec_linkRestoreLanes_restores hport, exec_laneErrorLimit_retires hport⟩
    · exact ⟨_, exec_linkTrainingDone_down hport hst hsome hfew, (linkDown_linkOf s die port).1⟩
    · exact ⟨_, exec_linkTrainingTimeout_down hport hst, (linkDown_linkOf s die port).1⟩
  case launch =>
    intro s die port pkt hdie hlo hhi hup h key log st
    refine ⟨exec_peerLaunchPacket_crosses, fun hopen e => exec_peerLaunchPacket_repeated hdie hlo hhi hup hopen,
      fun hopen hnew => ⟨exec_peerLaunchPacket_waits hdie hlo hhi hup hopen hnew, fun hfree => ?_⟩⟩
    obtain ⟨hlog, hcompletions⟩ := logged_die s die port h (launchRec pkt)
    exact ⟨_, exec_peerLaunchPacket_logs hdie hlo hhi hup hopen hnew hfree, hlog, hcompletions, fun hst => logged_tables hst⟩

end Sys2Proof.Machine
end

section
/-! Fabric graphs (R384 to R388): slots, the start of a collective, tokens, commits and the end. -/

namespace Sys2Proof.Machine

section
variable (s : State) {die port slot : Nat}

/-- The graph of a slot. -/
def State.graphOf (s : State) (die port slot : Nat) : Graph := (s.die die).graph port slot

theorem graph_updGraph (die port slot : Nat) (f : Graph → Graph) :
    ((s.updGraph die port slot f).die die).graph port slot = f (s.graphOf die port slot) := by
  rw [State.updGraph, State.die_updDie_same]
  exact SMap.get_set_same _ _ _ _

variable {s} (hport : graphPort die port slot = true)
include hport

/-! ## Slots (R384, R385) -/

theorem exec_graphHeaderWrite_keeps (v : Word) : exec (.graphHeaderWrite die port slot v) s = .next (s.updGraph die port slot fun x =>
    { x with header := if bitAt v 63 && !graphOk v x.nodes then setBit (headerKeep v) 63 false else headerKeep v }) :=
  congrArg Host.Outcome.next (if_pos hport)

theorem exec_graphNodeWrite_writes {node : Nat} (hnode : node < 16) (v : Word) : exec (.graphNodeWrite die port slot node v) s =
    .next (s.updGraph die port slot fun x => { x with nodes := SMap.set x.nodes node v, header := setBit x.header 63 false }) :=
  congrArg Host.Outcome.next (if_pos (by simp [hport, hnode]))

/-! ## A collective starts (R387) -/

theorem exec_collectiveStart_rings (a : Reg) : exec (.collectiveStart die port slot a) s =
    s.ring die port slot (BitVec.ofNat 64 (doorbellPa die port slot)) (s.me.x a) := if_pos hport

omit hport in
theorem doorbellPa_eq (die port slot : Nat) :
    doorbellPa die port slot = 0xF000000000000 + die * 2 ^ 44 + 4 * 2 ^ 40 + 0x10000 * port + 0x900 + 8 * slot := by
  rw [doorbellPa, Nat.shiftLeft_eq, Nat.shiftLeft_eq]

theorem exec_collectiveStart_foreign {a : Reg}
    (h : bitAt (s.graphOf die port slot).header 63 = false ∨ fld (s.graphOf die port slot).header 59 48 ≠ s.me.ctxNum) :
    exec (.collectiveStart die port slot a) s = .next (s.trap 0x06 (BitVec.ofNat 64 (doorbellPa die port slot))) := by
  have hforeign : (!bitAt (s.graphOf die port slot).header 63 || decide (fld (s.graphOf die port slot).header 59 48 ≠ s.me.ctxNum)) = true := by
    obtain h | h := h <;> simp [h]
  exact (exec_collectiveStart_rings hport a).trans (if_pos hforeign)

omit hport in
/-- The collective that a doorbell asks for with its command block at an address, before the block has been read. -/
def State.rung (s : State) (die port slot : Nat) (cb : Word) : GraphRun :=
  { header := (s.graphOf die port slot).header, nodes := (s.graphOf die port slot).nodes, src := 0, dst := 0, ntok := 0, block := cb, core := s.cur,
    copies := s.me.arch.copies, pl := s.me.arch.pl, tab := s.me.arch.tab, next := 0, flg := 0, stopped := [], lost := none }

omit hport in
/-- A collective as its command block says. -/
def GraphRun.commanded (r : GraphRun) (bs : List Byte) : GraphRun :=
  { r with src := BitVec.ofNat 64 (leValue (bs.take 8)), dst := BitVec.ofNat 64 (leValue ((bs.drop 8).take 8)),
           ntok := leValue ((bs.drop 16).take 4) }

omit hport in
/-- The collective runs, and owns the lines that it writes. -/
def State.collects (s : State) (die port slot : Nat) (r : GraphRun) : State :=
  ((s.recordBiases ((r.dstPages s).map fun p => (p.1, p.2.1))).takeLines (Eng.graph die port slot) (r.dstKeys s)).updGraph die port slot
    fun x => { x with run := some r }

section
variable {a : Reg} (hvalid : bitAt (s.graphOf die port slot).header 63 = true)
  (hctx : fld (s.graphOf die port slot).header 59 48 = s.me.ctxNum) (hidle : (s.graphOf die port slot).run = none)
  (hdone : s.accessesDone s.cur = true) (haligned : (s.me.x a).toNat % 64 = 0)
include hvalid hctx hidle hdone haligned

theorem exec_collectiveStart_starts {u : State} {bs : List Byte}
    (hread : (s.rung die port slot (s.me.x a)).read s (dieOf s.cur) (Eng.graph die port slot) (s.me.x a).toNat 64 = some (u, .ok bs))
    (htokens : leValue ((bs.drop 16).take 4) ≠ 0) (hzeros : leValue ((bs.drop 20).take 36) = 0)
    (hown : u.ownWait u.cur none (((s.rung die port slot (s.me.x a)).commanded bs).dstKeys u) = none)
    (hstill : (((s.rung die port slot (s.me.x a)).commanded bs).dstKeys u).any u.moving = false)
    (hpast0 : u.inPast 0 (((s.rung die port slot (s.me.x a)).commanded bs).dstKeys u) = false)
    (hpast1 : u.inPast 1 (((s.rung die port slot (s.me.x a)).commanded bs).dstKeys u) = false) :
    exec (.collectiveStart die port slot a) s = .next (u.collects die port slot ((s.rung die port slot (s.me.x a)).commanded bs)) := by
  have hours : ¬ (!bitAt (s.graphOf die port slot).header 63 || decide (fld (s.graphOf die port slot).header 59 48 ≠ s.me.ctxNum)) = true := by
    simp [hvalid, hctx]
  have hfree : ¬ ((s.graphOf die port slot).run.isSome || !s.accessesDone s.cur) = true := by simp [hidle, hdone]
  have hblock : ¬ (((s.rung die port slot (s.me.x a)).commanded bs).ntok = 0 ∨ leValue ((bs.drop 20).take 36) ≠ 0) := by
    rintro (h | h)
    · exact htokens h
    · exact h hzeros
  have hlines : ¬ ((u.ownWait u.cur none (((s.rung die port slot (s.me.x a)).commanded bs).dstKeys u)).isSome
      || (((s.rung die port slot (s.me.x a)).commanded bs).dstKeys u).any u.moving
      || u.inPast 0 (((s.rung die port slot (s.me.x a)).commanded bs).dstKeys u)
      || u.inPast 1 (((s.rung die port slot (s.me.x a)).commanded bs).dstKeys u)) = true := by
    simp [hown, hstill, hpast0, hpast1]
  refine (exec_collectiveStart_rings hport a).trans ((if_neg hours).trans ((if_neg hfree).trans ((if_neg (not_not.mpr haligned)).trans ?_)))
  have hread' := hread
  unfold State.rung State.graphOf at hread'
  simp only [hread']
  exact (if_neg hblock).trans (if_neg hlines)

end

/-! ## Tokens (R386) -/

theorem exec_graphTokenArrival_holds {tk : Token} (hup : (s.linkOf die port).up = true) (hroom : (s.graphOf die port slot).held.length < 256)
    (hnew : ∀ y ∈ (s.graphOf die port slot).held, ¬ (y.1 = (s.linkOf die port).peer.toNat ∧ y.2.seq = tk.seq))
    (hpeer : bitAt (s.graphOf die port slot).header 63 = true → fld (s.graphOf die port slot).header 47 32 = (s.linkOf die port).peer.toNat) :
    exec (.graphTokenArrival die port slot tk) s =
      .next (s.updGraph die port slot fun x => { x with held := x.held ++ [((s.linkOf die port).peer.toNat, tk)] }) := by
  have hseq : ((s.graphOf die port slot).held.any fun u => decide (u.1 = (s.linkOf die port).peer.toNat) && decide (u.2.seq = tk.seq)) = false := by
    rw [List.any_eq_false]
    intro y hy
    simpa only [Bool.and_eq_true, decide_eq_true_eq] using hnew y hy
  have hsender : (!bitAt (s.graphOf die port slot).header 63
      || decide (fld (s.graphOf die port slot).header 47 32 = (s.linkOf die port).peer.toNat)) = true := by
    cases hv : bitAt (s.graphOf die port slot).header 63 with
    | false => rfl
    | true => simp [hpeer hv]
  rw [State.graphOf] at hroom hseq hsender
  change execGraphTokenArrival die port slot tk s = _
  simp only [execGraphTokenArrival, hport, hup, hroom, hseq, hsender, decide_true, Bool.not_false, Bool.and_self, if_true]

omit hport

section
variable {r : GraphRun} (hrun : (s.graphOf die port slot).run = some r)
include hrun

theorem exec_graphTokenCommit_commits {r' : GraphRun} {u : State} (hgoes : r.over = false)
    (hall : r.commitAll (r.outputs { s with stamp := s.stamp + 512 } die port slot s.stamp).1 die port slot
      (r.outputs { s with stamp := s.stamp + 512 } die port slot s.stamp).2 = some (u, r')) :
    exec (.graphTokenCommit die port slot) s = .next (u.updGraph die port slot fun x =>
      { x with run := some { r' with next := r'.next + 1 }, held := x.held.filter fun t => !r'.takes t || decide (t.2.seq ≠ r'.next) }) := by
  rw [State.graphOf] at hrun
  change execGraphTokenCommit die port slot s = _
  simp only [execGraphTokenCommit, hrun, hgoes, hall, Bool.false_eq_true, if_false]

/-! ## The end (R388) -/

omit hrun in
/-- STATUS of a collective that is over. -/
def GraphRun.finalStatus (r : GraphRun) : Nat :=
  match r.firstFault with
  | some e => statusWord true e.2 r.flg e.1
  | none => statusWord false 0 r.flg r.ntok

theorem exec_collectiveEnd_ends {u : State} (hover : r.over = true)
    (hput : r.putStatus (s.dropAll (Eng.graph die port slot)) (Eng.graph die port slot) r.finalStatus = some u) :
    exec (.collectiveEnd die port slot) s = .next (u.updGraph die port slot fun x =>
      { x with run := none, held := x.held.filter fun t => !r.takes t || decide (r.ntok ≤ t.2.seq) }) := by
  rw [State.graphOf] at hrun
  change execCollectiveEnd die port slot s = _
  unfold GraphRun.finalStatus at hput
  unfold execCollectiveEnd
  simp only [hrun, hover, Bool.not_true, Bool.false_eq_true, if_false]
  cases hfault : r.firstFault with
  | none =>
    rw [hfault] at hput
    simp only [hput]
  | some e =>
    rw [hfault] at hput
    simp only [hput]

end
end

/-- Settles O54, event by event. -/
theorem graphsRun : Obligations.GraphsRun := by
  intro s die port slot node a v tk hport x me kept
  refine ⟨exec_graphHeaderWrite_keeps hport v, fun hnode => exec_graphNodeWrite_writes hport hnode v,
    fun h => (exec_collectiveStart_foreign hport h).trans (by rw [doorbellPa_eq]), ?start, exec_graphTokenArrival_holds hport, ?commit, ?stop⟩
  case start =>
    rintro u bs ntok hvalid hctx hidle hdone haligned r hread rfl htokens hzeros go ks hown hstill hpast0 hpast1
    refine ⟨_, exec_collectiveStart_starts hport hvalid hctx hidle hdone haligned hread htokens hzeros hown hstill hpast0 hpast1, ?_⟩
    rw [State.collects, graph_updGraph]
    rfl
  case commit =>
    intro r r' u hrun hgoes hall
    refine ⟨_, exec_graphTokenCommit_commits hrun hgoes hall, ?_⟩
    rw [graph_updGraph]
  case stop =>
    intro r u hrun hover hput
    refine ⟨_, exec_collectiveEnd_ends hrun hover hput, ?_, rfl⟩
    rw [graph_updGraph]

end Sys2Proof.Machine
end
